-- ==== Sys2Proof/Word.lean ====
section
/-! DEFINITION. The word types of the model and the sparse map every large store of the machine is held in. -/

namespace Sys2Proof

/-- One byte of a store. -/
abbrev Byte := BitVec 8

/-- A 32-bit register value (R71). -/
abbrev Word := BitVec 32

/-- A 64-bit register, address or set-up register value (R10, R72). -/
abbrev DWord := BitVec 64

/-- A mask over the 32 lanes of a thread group (bit l is lane l). -/
abbrev LaneMask := BitVec 32

/-- A sparse store: key and value pairs with strictly rising keys. What a missing key reads as is said by
the operation that reads the store. -/
abbrev NMap (α : Type) := List (Nat × α)

end Sys2Proof
end

