-- ==== Sys2Proof/Types.lean ====
section
/-! DEFINITION. The data types that commands and state share: where a group issues, the fields of an instruction
word, address modes, access requesters, wide words and relay messages, and the operands of the module's events. -/

namespace Sys2Proof

/-- A group place of a logical core (R16, R51). -/
structure Site where
  core  : Nat
  place : Nat
  deriving DecidableEq, Repr, Inhabited

/-- The fields of an instruction word other than MAJOR, which the row gives (R113). `imm` of R115 is SRCC followed by MOD.
`other` is a MAJOR that R121 lists for no instruction: a word that holds one has no row of its own, and its issue is a
command of any row with `other` set (log 4). -/
structure Enc where
  neg  : Bool := false
  pred : BitVec 3 := 0
  type : BitVec 4 := 0
  dst  : BitVec 8 := 0
  srcA : BitVec 8 := 0
  srcB : BitVec 8 := 0
  srcC : BitVec 8 := 0
  mods : BitVec 16 := 0
  other : Option (BitVec 8) := none
  deriving DecidableEq, Repr, Inhabited

/-- The three address modes of R80 and R121. -/
inductive AddrMode where
  | uniform | indexed | thread
  deriving DecidableEq, Repr, Inhabited

/-- Which port an access to the set-up window comes through (R538, R543). -/
inductive WinPort where
  | control | host
  deriving DecidableEq, Repr, Inhabited

/-- The privilege mode the H-die marks a mirror access with (R542). -/
inductive HartMode where
  | m | hs | u | vs | vu
  deriving DecidableEq, Repr, Inhabited

/-- The requester of a set-up window access. -/
structure Requester where
  port : WinPort := .control
  mode : HartMode := .m
  deriving DecidableEq, Repr, Inhabited

/-- One wide word of an accumulator set (R182): the 320-bit X and its five status bits. -/
structure WideWord where
  x      : BitVec 320 := 0
  sticky : Bool := false
  pinf   : Bool := false
  ninf   : Bool := false
  qnan   : Bool := false
  inv    : Bool := false
  deriving DecidableEq, Repr, Inhabited

/-- A relay message (R208): the header and the 1,024 entries, an absent entry being the zero word. -/
structure RelayMsg where
  anchor : Int := 0
  unset  : Bool := false
  fast   : Bool := false
  dir    : Bool := false
  stat   : Bool := false
  shape  : BitVec 3 := 0
  tile   : Nat := 0
  seq    : Nat := 0
  core   : Nat := 0
  modOrd : Nat := 0
  lnum   : Nat := 0
  origin : Nat := 0
  words  : NMap WideWord := []
  deriving DecidableEq, Repr, Inhabited

/-- A ring the front end serves: the admin ring (R405) or ring r of a context (R373). -/
inductive RingId where
  | admin
  | ring (ctx r : Nat)
  deriving DecidableEq, Repr, Inhabited

/-- The page memory type of a leaf (R264): PMA is cacheable, NC and IO are uncached. -/
inductive Pbmt where
  | pma | nc | io
  deriving DecidableEq, Repr, Inhabited

/-- One leaf of the IOMMU's translation for device 0x100 (R262, R263), both stages composed: the guest-physical address
that the first stage gives is `gpa`, and the A and D bits are the first stage's. -/
structure Leaf where
  pasid : Nat
  va    : Nat
  pa    : Nat
  size  : Nat
  r     : Bool := true
  w     : Bool := true
  x     : Bool := false
  pbmt  : Pbmt := .pma
  gpa   : Nat := 0
  acc   : Bool := false
  dirty : Bool := false
  deriving DecidableEq, Repr, Inhabited

/-- The device context of device ID 0x100 (R262, R263): levels of the device directory, whether the entry is valid, and
whether its second stage is Sv57x4 rather than Bare. -/
structure DevCtx where
  levels : Nat := 1
  valid  : Bool := false
  second : Bool := false
  deriving DecidableEq, Repr, Inhabited

/-- An address as an IOMMU sees it, the accelerator side's or that of a root port (R263, R414). -/
structure IoAddr where
  port : Option Nat := none
  addr : Nat
  deriving DecidableEq, Repr, Inhabited

/-- An address as a device behind a root port names it: its requester ID and the address (R414). -/
structure DmaAddr where
  rid : Nat
  va  : Nat
  deriving DecidableEq, Repr, Inhabited

/-- What training gives a port: the mask of good lanes and the link latency measured, in nanoseconds (R45, R431). -/
structure LinkTraining where
  lanes   : Nat
  latency : Nat
  deriving DecidableEq, Repr, Inhabited

/-- Whom an LR or SC of a peer is for: the lane as the message names it, and whether the memory is cacheable (R294, R312). -/
structure PeerLane where
  who       : Nat
  cacheable : Bool
  deriving DecidableEq, Repr, Inhabited

/-- What the host changed in its tables before an invalidation (R263, R265): leaves taken away, leaves put in, process
contexts made valid or invalid, and the device context. -/
structure PtUpdate where
  removed  : List Leaf := []
  added    : List Leaf := []
  validOn  : List Nat := []
  validOff : List Nat := []
  device   : Option DevCtx := none
  deriving DecidableEq, Repr, Inhabited

/-- What an agent asks a line's home for (R300); `claim` is ownership for a full-line write, which needs no data (R268). -/
inductive CohKind where
  | read | own | upgrade | claim
  deriving DecidableEq, Repr, Inhabited

/-- What the ECC of an LPDDR5X read finds (R282). -/
inductive EccError where
  | none | corrected | uncorrectable
  deriving DecidableEq, Repr, Inhabited

/-- Which tumbler unit an operation takes effect in: B0's (R321) or a core's own (R327). -/
inductive TumUnit where
  | global
  | core (c : Nat)
  deriving DecidableEq, Repr, Inhabited

/-- The write a memory controller is about to accept: the oldest sent write to a line, or a write-back of a dirty
line that a coherent agent makes of its own accord (R271, R297). -/
inductive WriteSel where
  | sent (line : Nat)
  | writeback (stop line : Nat)
  deriving DecidableEq, Repr, Inhabited

/-- Causes of a hinge-loss reset other than HG.HOSTRST and the acknowledge timeout (R420). -/
inductive HingeCause where
  | adminRequest | hdieError
  deriving DecidableEq, Repr, Inhabited

/-- Triggers of a control-port reset (R530). -/
inductive CpCause where
  | perst | hotReset | linkDown | flr
  deriving DecidableEq, Repr, Inhabited

/-- The atomic operations of R97 and R131. -/
inductive AtomOp where
  | add | and | or | xor | min | max | exch | cas
  deriving DecidableEq, Repr, Inhabited

/-- The kind of a host core's memory access (R410, R416). -/
inductive HostKind where
  | load | fetch | atomic | store
  deriving DecidableEq, Repr, Inhabited

/-- A host core's access (R318, R320, R410): of bytes, an atomic operation with its operands, or LR and SC. -/
inductive HostAcc where
  | load (pa len : Nat)
  | fetch (pa len : Nat)
  | store (pa : Nat) (bytes : List Byte)
  | atomic (pa width : Nat) (op : AtomOp) (signed : Bool) (b c : DWord)
  | lr (pa width : Nat)
  | sc (pa : Nat) (bytes : List Byte)
  deriving DecidableEq, Repr, Inhabited

/-- What a root port reports (R413, R414): an error or containment event, its link trained to a width of 1 to 16 lanes or
down (0), or a change of an INTx pin. -/
inductive RpEvent where
  | aer | dpc | link (width : Nat) | int (pin : Nat)
  deriving DecidableEq, Repr, Inhabited

/-- The message header of an Amixis message (R438) and the port it came in on. -/
structure MsgHdr where
  port  : Nat := 0
  dst   : Nat := 0
  src   : Nat := 0
  txid  : Nat := 0
  epoch : BitVec 32 := 0
  ward  : Nat := 0
  deriving DecidableEq, Repr, Inhabited

/-- The five interface levels of R12 and R545, each encoded under R11. -/
structure Levels where
  ring     : BitVec 8 := 0
  amixis   : BitVec 8 := 0
  spans    : BitVec 8 := 0
  tumblers : BitVec 8 := 0
  trace    : BitVec 8 := 0
  deriving DecidableEq, Repr, Inhabited

/-- What a module tells the others about itself while a span forms (R441). -/
structure ModInfo where
  moduleId : DWord := 0
  master   : Bool := false
  replace  : Bool := false
  ord      : Nat := 0
  levels   : Levels := {}
  /-- identities of its partners, one for each working link: the master computes the routes of R446 from them -/
  links    : List DWord := []
  deriving DecidableEq, Repr, Inhabited

/-- One line of a ROSTER (R441, R446): a member, its identity, whether it has the master role, the neighbour that the
receiver's route to it goes through and its length, and the member's working links by ordinal. -/
structure RosterEntry where
  ord      : Nat := 0
  moduleId : DWord := 0
  role     : Bool := false
  via      : Nat := 0
  hops     : Nat := 0
  levels   : Levels := {}
  links    : List Nat := []
  deriving DecidableEq, Repr, Inhabited

/-- Why a master refuses a JOIN (R443, R463). -/
inductive JoinReason where
  | full | level
  deriving DecidableEq, Repr, Inhabited

/-- The LAUNCH fields that PLACE carries to a member (R456). -/
structure LaunchFields where
  spanRec : DWord := 0
  pc      : DWord := 0
  args    : DWord := 0
  gx      : Nat := 0
  gy      : Nat := 0
  gz      : Nat := 0
  nthread : Nat := 0
  regs    : Nat := 0
  oldest  : Bool := false
  matrix  : Bool := false
  extv    : Bool := false
  budget  : Nat := 0
  ext     : DWord := 0
  done    : Bool := false
  lnum    : Nat := 0
  deriving DecidableEq, Repr, Inhabited

/-- Outcome counts a member reports for tiles it ran (R457). -/
structure BatchReport where
  ended     : Nat := 0
  failed    : Nat := 0
  fencedDie : Nat := 0
  flags     : BitVec 5 := 0
  deriving DecidableEq, Repr, Inhabited

/-- A tumbler operation as a message carries it (R329, R333); `mark` sets M alone (R326, R339, log 24). -/
inductive TumOp where
  | arrive (n : Nat)
  | depart (n : Nat)
  | wait (v : Nat)
  | test (v : Nat)
  | mark
  deriving DecidableEq, Repr, Inhabited

/-- The three status words of a temperature reading set (R569): sensors 0 to 14 in degrees Celsius. -/
abbrev Temps := List Int

end Sys2Proof
end

