-- ==== Sys2Proof/Config.lean ====
section
/-! DEFINITION. What an implementation fixes, and the free values: constants with no body, so nothing can be proved
about a value of theirs. Each is named in the assumption log. -/

namespace Sys2Proof

/-- Contents of a chuck, stationary-store, scale-store, accumulator or scratch-share byte that the tile has not
written (R109), and of LPDDR5X after the interleave changed (R550): nonce of the undefined period, then address. -/
opaque Config.undefByte : Nat → Nat → BitVec 8

/-- Bytes of a verified host boot image (R411): the image, the offset in the boot region. -/
opaque Config.bootByte : Nat → Nat → BitVec 8

/-- The next value of the core's random generator for stochastic rounding (R197): draw number. -/
opaque Config.randomBits : Nat → BitVec 16

/-- A fresh nonce of SC.NONCE (R496) or of the counter read (R484): draw number. -/
opaque Config.freshNonce : Nat → BitVec 64

/-- A choice the manual leaves open between two outcomes: draw number. -/
opaque Config.freeBool : Nat → Bool

/-- Whether a member of a module span takes part in a hasp line that the master has no tile of, which no message tells
the master (R349): draw number, ordinal. -/
opaque Config.takesPart : Nat → Nat → Bool

/-- A number the manual leaves open: draw number. -/
opaque Config.freeNat : Nat → Nat

/-- The pattern a special-function result takes within its accuracy bound (R91): function code, input, mode. -/
opaque Config.sfuPattern : Nat → BitVec 32 → Nat → BitVec 32

/-- The flags a special function raises for an input whose result the manual does not state: code, input, mode. -/
opaque Config.sfuFlags : Nat → BitVec 32 → Nat → BitVec 5

/-- Whether a fused multiply-add of 0 × ∞ and a quiet NaN is invalid, which IEEE 754 leaves to the implementation. -/
opaque Config.fmaInvalid : Bool

/-- What decides the length in flits of an Amixis message, whose operands the manual does not lay out (R438): the
operation, and the bytes or entries it carries. -/
opaque Config.msgFlits : Nat → Nat → Nat

/-- A 32-bit value the manual leaves open: draw number. -/
opaque Config.freeWord : Nat → BitVec 32

/-- SHA-384 (FIPS 180-4) of a byte string (R481). -/
opaque Config.sha384 : List (BitVec 8) → BitVec 384

/-- SHA-384 of the body of the configuration record with a sequence number, whose layout the manual does not give
(R490, R493). -/
opaque Config.cfgDigest : Nat → BitVec 384

/-- Whether an Ed25519 signature (RFC 8032) verifies: key, message, signature (R481). -/
opaque Config.ed25519 : List (BitVec 8) → List (BitVec 8) → List (BitVec 8) → Bool

/-- Whether an ML-DSA-65 signature (FIPS 204) verifies: key, message, signature (R481). -/
opaque Config.mldsa65 : List (BitVec 8) → List (BitVec 8) → List (BitVec 8) → Bool

/-- The SHA-384 hash of root key set n in the mask ROM (R482). -/
opaque Config.rootKeyHash : Nat → BitVec 384

/-- Bytes of the certificate chain of a slot (R492): measurement digest of the alias key, slot, offset. -/
opaque Config.certByte : BitVec 384 → Nat → Nat → BitVec 8

/-- Length in bytes of the certificate chain of a slot (R492): measurement digest, slot. -/
opaque Config.certLength : BitVec 384 → Nat → Nat

/-- An SPDM transcript hash, whose messages SPDM 1.3 lays out (R492): draw number. -/
opaque Config.transcriptHash : Nat → BitVec 384

/-- The four bytes of measurement 7, whose layout the manual does not give (R493): active tokens, union of rights. -/
opaque Config.debugState : Nat → Nat → BitVec 32

/-- The alias keys' Ed25519 signature over a transcript hash (R492): measurement digest, transcript. -/
opaque Config.aliasEdSign : BitVec 384 → BitVec 384 → BitVec 512

/-- The alias keys' ML-DSA-65 signature over a transcript hash (R492), as bytes. -/
opaque Config.aliasMlSign : BitVec 384 → BitVec 384 → List (BitVec 8)

/-- Number of host harts of the H-die (R408, R411). -/
abbrev Config.harts : Nat := 72

/-- LPDDR5X base address (R410). -/
abbrev Config.lpBase : Nat := 0x10000000000

/-- Input power in watts that the module would draw over 1 ms at a setpoint of VCOMP; the first operand tells draws apart
(R472). -/
opaque Config.powerAt : Nat → Nat → Nat

/-- Whether a die of another member of the span is fenced, as a LAUNCH finds it: launch number, ordinal, die (R31, log 112). -/
opaque Config.farFenced : Nat → Nat → Nat → Bool

/-- The address at which a hart starts when it leaves reset, by boot image and hart; hart 0's is the image's entry point (R411). -/
opaque Config.hartEntry : Nat → Nat → BitVec 64

/-- Host boot region's size, 64 MiB from the LPDDR5X base (R411). -/
abbrev Config.bootBytes : Nat := 0x4000000

/-- First span-window address and one past the last (R451). -/
abbrev Config.winBase : Nat := 0x8000000000000
abbrev Config.winEnd : Nat := 0x10000000000000

/-- The residue modulus p = 2^31 - 1 (R213). -/
abbrev Config.resP : Nat := 2147483647

end Sys2Proof
end

