-- ==== Sys2Proof/Syntax.lean ====
section
/-! DEFINITION. The commands of the module: one constructor per row of the table of operations and events. -/

namespace Sys2Proof

/-- A command. The Syram rows name the group that issues and carry the fields of its instruction word (R113); a row
of a set-up register carries the requester and the value; an event carries what its surroundings decide. -/
inductive Instr where
  /-- ADD (R85): integer add on active lanes with a true guard, wrapping modulo the operand width. -/
  | add (site : Site) (e : Enc)
  /-- SUB (R85): integer subtract, wrapping. -/
  | sub (site : Site) (e : Enc)
  /-- MUL (R126): 32-bit multiply returning the low or high half, as SUB selects. -/
  | mul (site : Site) (e : Enc)
  /-- MULADD (R126): exact 64-bit A times B plus C, returning the low or high 32 bits. -/
  | muladd (site : Site) (e : Enc)
  /-- AND (R85): bitwise and. -/
  | and (site : Site) (e : Enc)
  /-- OR (R85): bitwise or. -/
  | or (site : Site) (e : Enc)
  /-- XOR (R85): bitwise xor. -/
  | xor (site : Site) (e : Enc)
  /-- NOT (R85): bitwise not. -/
  | not (site : Site) (e : Enc)
  /-- SHIFTL (R85): shift left by an amount taken modulo the width. -/
  | shiftl (site : Site) (e : Enc)
  /-- SHIFTR (R123): shift right, arithmetic for s32 and logical for u32. -/
  | shiftr (site : Site) (e : Enc)
  /-- MIN (R85): signed or unsigned minimum. -/
  | min (site : Site) (e : Enc)
  /-- MAX (R85): signed or unsigned maximum. -/
  | max (site : Site) (e : Enc)
  /-- CMP (R125): integer compare that writes the destination predicate. -/
  | cmp (site : Site) (e : Enc)
  /-- BITCNT (R85): bit count. -/
  | bitcnt (site : Site) (e : Enc)
  /-- LEADZ (R85): leading-zero count. -/
  | leadz (site : Site) (e : Enc)
  /-- BITREV (R85): bit reverse. -/
  | bitrev (site : Site) (e : Enc)
  /-- BYTESEL (R126): forms each result byte from a selector nibble over two sources. -/
  | bytesel (site : Site) (e : Enc)
  /-- MOV (R85): register move, 32-bit or on register pairs. -/
  | mov (site : Site) (e : Enc)
  /-- PICK (R126): lane-wise choice between two sources by a predicate. -/
  | pick (site : Site) (e : Enc)
  /-- ADD_I (R128): add with a sign-extended immediate. -/
  | addI (site : Site) (e : Enc)
  /-- AND_I (R128): bitwise and with an immediate. -/
  | andI (site : Site) (e : Enc)
  /-- OR_I (R128): bitwise or with an immediate. -/
  | orI (site : Site) (e : Enc)
  /-- XOR_I (R128): bitwise xor with an immediate. -/
  | xorI (site : Site) (e : Enc)
  /-- SHIFTL_I (R128): shift left by an immediate amount. -/
  | shiftlI (site : Site) (e : Enc)
  /-- SHIFTR_I (R128): shift right by an immediate amount. -/
  | shiftrI (site : Site) (e : Enc)
  /-- CMP_I (R128): compare against a sign-extended immediate into a predicate. -/
  | cmpI (site : Site) (e : Enc)
  /-- MOV_I (R126): moves an immediate, or sets the top byte of the destination. -/
  | movI (site : Site) (e : Enc)
  /-- FADD (R87): iEEE FP32 or FP64 add, setting flags. -/
  | fadd (site : Site) (e : Enc)
  /-- FSUB (R87): iEEE subtract. -/
  | fsub (site : Site) (e : Enc)
  /-- FMUL (R87): iEEE multiply. -/
  | fmul (site : Site) (e : Enc)
  /-- FMA (R87): fused multiply-add with one rounding. -/
  | fma (site : Site) (e : Enc)
  /-- FMIN (R87): minimumNumber. -/
  | fmin (site : Site) (e : Enc)
  /-- FMAX (R87): maximumNumber. -/
  | fmax (site : Site) (e : Enc)
  /-- FCMP (R125): floating compare into a predicate, with the unordered and NV rules. -/
  | fcmp (site : Site) (e : Enc)
  /-- FABS (R87): clears the sign bit, setting no flag. -/
  | fabs (site : Site) (e : Enc)
  /-- FNEG (R87): flips the sign bit, setting no flag. -/
  | fneg (site : Site) (e : Enc)
  /-- FCPYS (R87): copies the sign, setting no flag. -/
  | fcpys (site : Site) (e : Enc)
  /-- FSFU (R91): fP32 transcendental or reciprocal function on the special-function pipe. -/
  | fsfu (site : Site) (e : Enc)
  /-- CVT (R94): format conversion with rounding, saturation and element placement. -/
  | cvt (site : Site) (e : Enc)
  /-- LXCH (R86): lane exchange in from, rot, bfly or bcast form. -/
  | lxch (site : Site) (e : Enc)
  /-- LQUERY (R86): combines a predicate over the active lanes: some, every, mask or count. -/
  | lquery (site : Site) (e : Enc)
  /-- LD (R96): load under one of three address modes and a cache policy. -/
  | ld (site : Site) (mode : AddrMode) (e : Enc)
  /-- ST (R96): store into the group's store buffer. -/
  | st (site : Site) (mode : AddrMode) (e : Enc)
  /-- ZLINE (R268): writes a zeroed 128-byte line without reading it. -/
  | zline (site : Site) (mode : AddrMode) (e : Enc)
  /-- ATOM (R304): atomic read-modify-write, with the lanes that name one address combined into one request. -/
  | atom (site : Site) (e : Enc)
  /-- LR (R312): load that places a reservation on a 128-byte granule. -/
  | lr (site : Site) (e : Enc)
  /-- SC (R314): conditional store that succeeds only while the lane's reservation holds. -/
  | sc (site : Site) (e : Enc)
  /-- MOPEN (R150): opens a matrix region with the pending shape and the chosen dataflow. -/
  | mopen (site : Site) (e : Enc)
  /-- MCLOSE (R154): closes the region and discards the accumulators. -/
  | mclose (site : Site) (e : Enc)
  /-- MSHAPE (R149): sets the group's pending shape. -/
  | mshape (site : Site) (e : Enc)
  /-- MLOAD (R162): copies a panel from memory into the chuck. -/
  | mload (site : Site) (e : Enc)
  /-- MSTAT (R169): copies stationary operand planes into the cells' stores and checksum stores. -/
  | mstat (site : Site) (e : Enc)
  /-- MMA (R164): streamed or stationary multiply-accumulate into an accumulator set. -/
  | mma (site : Site) (e : Enc)
  /-- MDRAIN (R174): checks, rounds and writes a set's results to memory or to the chuck. -/
  | mdrain (site : Site) (e : Enc)
  /-- MRELAY (R205): sends, receives or receives-and-sends a set along the span's relay chain. -/
  | mrelay (site : Site) (e : Enc)
  /-- MCHK (R223): makes a set's checksum comparisons and writes whether every output is checked. -/
  | mchk (site : Site) (e : Enc)
  /-- TARRIVE (R329): posted add to, or subtract from, a local or global tumbler. -/
  | tarrive (site : Site) (e : Enc)
  /-- TWAIT (R331): waits until a tumbler count reaches a value, with an optional timeout. -/
  | twait (site : Site) (e : Enc)
  /-- TTEST (R329): tests whether a tumbler count is at least a value. -/
  | ttest (site : Site) (e : Enc)
  /-- HASP (R345): arrival at the current generation of a hasp line. -/
  | hasp (site : Site) (e : Enc)
  /-- FENCE_ORD (R310): orders later accesses after earlier ones at the named scope, invalidating the L1 for die scope or wider. -/
  | fenceOrd (site : Site) (e : Enc)
  /-- FENCE_DONE (R311): also waits for earlier stores and atomics to reach their final endpoints. -/
  | fenceDone (site : Site) (e : Enc)
  /-- BRA (R60): pC-relative branch, pushing the reconvergence stack when it diverges. -/
  | bra (site : Site) (e : Enc)
  /-- BRX (R60): indirect branch to per-lane targets. -/
  | brx (site : Site) (e : Enc)
  /-- CALL (R100): writes the return address into a u register and branches. -/
  | call (site : Site) (e : Enc)
  /-- RET (R100): branches to the address held in a u register. -/
  | ret (site : Site) (e : Enc)
  /-- EXIT (R54): retires the threads of the lanes with a true guard. -/
  | exit (site : Site) (e : Enc)
  /-- REPACK (R64): repack point: completes as a no-op, merges with a parked group, or parks. -/
  | repack (site : Site) (e : Enc)
  /-- NOP (R100): does nothing. -/
  | nop (site : Site) (e : Enc)
  /-- UOP (R140): 64-bit arithmetic on u registers. -/
  | uop (site : Site) (e : Enc)
  /-- UOP_I (R140): uniform arithmetic with an immediate. -/
  | uopI (site : Site) (e : Enc)
  /-- UCMP (R140): uniform compare into a predicate. -/
  | ucmp (site : Site) (e : Enc)
  /-- UCMP_I (R140): uniform compare with an immediate. -/
  | ucmpI (site : Site) (e : Enc)
  /-- SREAD (R75): reads a special value. -/
  | sread (site : Site) (e : Enc)
  /-- SWRITE (R75): writes sr.fflags or sr.frm. -/
  | swrite (site : Site) (e : Enc)
  /-- BRK (R101): debug stop when a debugger holds rights over the ward, otherwise a no-op. -/
  | brk (site : Site) (e : Enc)
  /-- REPACK_WAIT_EXPIRY (R64): a parked group's wait limit runs out, and REPACK completes as a no-op. -/
  | repackWaitExpiry (site : Site)
  /-- MERGE_COMPLETE (R66): after the merge beats, both groups continue and any pending fault takes effect. -/
  | mergeComplete (site : Site)
  /-- INSTRUCTION_FETCH_FILL (R574): a missed instruction-cache line arrives, and the group becomes ready. -/
  | instructionFetchFill (site : Site)
  /-- LOAD_PERFORM (R307): a load's data returns and binds to its registers. -/
  | loadPerform (site : Site)
  /-- STORE_VISIBLE (R307): a store is accepted at its endpoint of visibility and leaves the store buffer. -/
  | storeVisible (site : Site) (idx : Nat)
  /-- ATOMIC_RESPONSE (R304): an atomic's old values return to its lanes. -/
  | atomicResponse (site : Site)
  /-- FENCE_COMPLETE (R311): a fence's waits are satisfied, and the group continues. -/
  | fenceComplete (site : Site)
  /-- PAGE_REQUEST_RESPONSE (R84): the host answers a page request: the access is retried, or it faults. -/
  | pageRequestResponse (pasid va : Nat) (answer : Option Leaf)
  /-- TWAIT_TIMEOUT (R138): a TWAIT's timeout elapses, and it writes false. -/
  | twaitTimeout (site : Site)
  /-- ARRAY_START (R152): the array starts the next queued region instruction once its conditions hold. -/
  | arrayStart (core : Nat)
  /-- MLOAD_POISON (R162): poisoned MLOAD data reaches the core, and the tile is stopped with an imprecise memory fault. -/
  | mloadPoison (core : Nat)
  /-- RELAY_SEND_RESUME (R208): a held send proceeds once the target's incoming queue has space. -/
  | relaySendResume (core : Nat)
  /-- BUDGET_OVERRUN (R366): a tile reaches its budget, and an overrun entry is posted. -/
  | budgetOverrun (core tile : Nat)
  /-- BUDGET_STOP (R366): a tile reaches four times its budget and is stopped with a budget-stop fault. -/
  | budgetStop (core tile : Nat)
  /-- TUMBLER_OPERATION (R332): a tumbler operation takes effect at the tumbler and releases the waiters whose condition holds. -/
  | tumblerOperation (unit : TumUnit) (idx : Nat)
  /-- FENCE_WAIT_REREAD (R340): on a firing, the front end rereads a fence VALUE and completes or re-arms ring WAITs. -/
  | fenceWaitReread (ring : RingId)
  /-- SPINDLE_BUFFER_TAKE (R249): a spindle's EMPTT wait is satisfied, and it starts a new chuck-ring buffer. -/
  | spindleBufferTake (core n : Nat)
  /-- SPINDLE_READ_DATA (R245): read data for a spindle arrives, is converted and is written to its destination. -/
  | spindleReadData (core n : Nat)
  /-- SPINDLE_FULLT_RAISE (R249): an ended buffer's writes become readable, and FULLT is raised. -/
  | spindleFulltRaise (core n : Nat)
  /-- SPINDLE_FINISH (R249): the final EMPTT wait is met, and the spindle writes its status block and finishes. -/
  | spindleFinish (core n : Nat)
  /-- REPLAY_PLACE (R228): a tile stopped by a mismatch is placed again for replay. -/
  | replayPlace (launch core : Nat)
  /-- RETIREMENT (R232): once the last resident tile has ended, the keeper moves the logical position onto a spare. -/
  | retirement (core : Nat)
  /-- RETIREMENT_RECORD (R233): the keeper writes the changed spare map into the configuration record. -/
  | retirementRecord (die : Nat)
  /-- DIE_FENCE (R234): a die is fenced: its tiles are stopped, its LLC is written back, its shares move and its spans shrink. -/
  | dieFence (die : Nat)
  /-- COHERENT_REQUEST (R300): a home receives a request, then opens a transaction or refuses it with a retry. -/
  | coherentRequest (stop line : Nat) (kind : CohKind) (way : Nat)
  /-- SNOOP (R300): a ring stop receives a snoop and answers. -/
  | snoop (stop line : Nat)
  /-- SNOOP_RESPONSE (R300): the home receives a snoop answer and updates the filter and the data source. -/
  | snoopResponse (stop line : Nat)
  /-- LINE_GRANT (R300): the requester installs the line, performs its access and sends done. -/
  | lineGrant (stop line : Nat)
  /-- DONE (R302): the home closes the transaction, sets the presence bit and sends proceed to the oldest waiter. -/
  | done (line : Nat)
  /-- PROCEED (R302): a refused requester receives proceed and resends its request. -/
  | proceed (line : Nat)
  /-- BACK_INVALIDATION (R298): a stop invalidates every line it holds of a region whose filter entry is reclaimed. -/
  | backInvalidation (stop region : Nat)
  /-- VICTIM_ACCEPT (R271): a dirty victim's acceptance reaches the LLC, the way is freed and the fill read leaves. -/
  | victimAccept (die line : Nat)
  /-- HOME_ATOMIC (R303): an atomic request executes at its endpoint's atomic unit. -/
  | homeAtomic (site : Site) (idx : Nat)
  /-- WRITE_ACCEPT (R418): a memory controller accepts a write, or drops it by epoch tag. -/
  | writeAccept (sel : WriteSel)
  /-- PATROL_SCRUB (R283): daily patrol scrub of an LPDDR5X device. -/
  | patrolScrub (device : Nat) (corrected bad : List Nat)
  /-- SRAM_SCRUB (R292): background scrub of a die's bonded SRAM every 8 s. -/
  | sramScrub (die corrected : Nat) (bad : List Nat)
  /-- DOORBELL_CHANGE (R380): the front end sees a doorbell line change, checks it and fetches the pending descriptors. -/
  | doorbellChange (ring : RingId)
  /-- DESCRIPTOR_REREAD (R380): a 250 ns re-read of a descriptor with a stale stamp, setting WAITDB after eight tries. -/
  | descriptorReread (ring : RingId)
  /-- NOP_COMMAND (R392): ring NOP, which completes OK. -/
  | nopCommand (ring : RingId)
  /-- LAUNCH (R393): checks a grid of tiles over a span and starts placing them. -/
  | launch (ring : RingId)
  /-- COPY (R398): copies between handles in spindle tiles. -/
  | copy (ring : RingId)
  /-- CONVERT (R398): converts elements between handles in spindle tiles. -/
  | convert (ring : RingId)
  /-- FILL (R398): fills a destination with a 64-bit pattern. -/
  | fill (ring : RingId)
  /-- SIGNAL (R401): signals a fence record or arrives on a tumbler. -/
  | signal (ring : RingId)
  /-- WAIT (R401): waits on a fence or tumbler, holding later commands of its ring. -/
  | wait (ring : RingId)
  /-- WAIT_TIMEOUT (R401): a ring WAIT's timeout elapses, and it completes with TIMEOUT. -/
  | waitTimeout (ring : RingId)
  /-- SHARE (R402): adds share runs to the list and places them if the context is resident. -/
  | share (ring : RingId)
  /-- SHARE_RELEASE (R402): sHARE with REL set releases runs from residency and clears their list entries. -/
  | shareRelease (ring : RingId)
  /-- BIND (R403): binds a free handle-table index and returns the handle. -/
  | bind (ring : RingId)
  /-- UNBIND (R403): sets a handle entry to freeing. -/
  | unbind (ring : RingId)
  /-- QUERY (R404): writes the context's usage record. -/
  | query (ring : RingId)
  /-- PARTITION (R405): admin command that writes partition plans. -/
  | partition (ring : RingId)
  /-- SNAPSHOT (R519): admin command that freezes the module for a hang snapshot. -/
  | snapshot (ring : RingId)
  /-- SNAPSHOT_CAPTURE (R519): after issued matrix work completes, the state is captured, written to DEST and the module resumes. -/
  | snapshotCapture
  /-- COMMAND_COMPLETION (R386): once the command's writes are visible, the front end writes its completion entry and sends the MSI. -/
  | commandCompletion (ring : RingId) (count : Nat)
  /-- TILE_PLACE (R365): the front end places a ready tile on a core that has room. -/
  | tilePlace (core : Nat)
  /-- MAKE_RESIDENT (R361): a context needing a slot takes a free slot or evicts a victim, then starts loading. -/
  | makeResident (ctx : Nat)
  /-- EVICTION_DONE (R364): the context's tiles have ended, its shares depart, and the slot empties. -/
  | evictionDone (ctx : Nat)
  /-- RESIDENCY_COMPLETE (R362): share copies and zeroing finish, and the context becomes resident. -/
  | residencyComplete (ctx : Nat)
  /-- FRONT_END_TAKEOVER (R406): the B1 mirror takes over a failed front end and reissues unconfirmed completions. -/
  | frontEndTakeover
  /-- COUNTER_TABLE_WRITE (R517): periodic 1 ms write of a context's counter entry. -/
  | counterTableWrite (ctx : Nat)
  /-- COUNTER_SAMPLE (R514): per-millisecond counter-sample trace records. -/
  | counterSample
  /-- FE_CTL_EN (R547): setting EN checks the admin ring entry, and clearing EN stops ring service. -/
  | feCtlEn (req : Requester) (v : DWord)
  /-- FE_CTXON (R358): activates, or restarts, a context. -/
  | feCtxon (req : Requester) (v : DWord)
  /-- FE_CTXOFF (R359): deactivates a context. -/
  | feCtxoff (req : Requester) (v : DWord)
  /-- TM_RESET (R323): rESET of the selected global tumbler. -/
  | tmReset (req : Requester) (v : DWord)
  /-- SP_WININV (R451): invalidates a window aperture entry. -/
  | spWininv (req : Requester) (v : DWord)
  /-- SP_SPANCTL_RELEASE (R553): the master frees a reserved ordinal. -/
  | spSpanctlRelease (req : Requester) (v : DWord)
  /-- SP_SPANCTL_LOWER (R553): the master commits a lower interface level. -/
  | spSpanctlLower (req : Requester) (v : DWord)
  /-- SPANCFG_EN_SET (R441): setting EN forms or joins a module span. -/
  | spancfgEnSet (req : Requester) (v : DWord)
  /-- SPANCFG_EN_CLEAR (R527): clearing EN in a member starts a graceful leave. -/
  | spancfgEnClear (req : Requester) (v : DWord)
  /-- LEAVE_DRAINED (R527): tiles and window stores are done, so the leaving module sends LEAVE. -/
  | leaveDrained
  /-- SC_NONCE (R496): a read returns a fresh nonce and invalidates the previous one. -/
  | scNonce (req : Requester)
  /-- SC_TOKADDR (R496): starts the keeper's check of a debug token. -/
  | scTokaddr (req : Requester) (v : DWord)
  /-- TOKEN_CHECK_DONE (R496): the keeper accepts or refuses the token and reports RESULT. -/
  | tokenCheckDone
  /-- SC_TOKREVOKE (R497): ends an active token. -/
  | scTokrevoke (req : Requester) (v : DWord)
  /-- TOKEN_EXPIRY (R497): a token's lifetime ends on the keeper oscillator, releasing its halts and breakpoints. -/
  | tokenExpiry (idx : Nat)
  /-- SC_COLDRST (R530): writing 0xC01D starts a cold reset. -/
  | scColdrst (req : Requester) (v : DWord)
  /-- SC_UPDCTL_START (R535): starts a firmware update into the bank that did not boot. -/
  | scUpdctlStart (req : Requester) (v : DWord)
  /-- UPDATE_WRITE_DONE (R535): the flash write and header finish, and the status becomes TRIAL or an error. -/
  | updateWriteDone (ok : Bool)
  /-- SC_UPDCTL_COMMIT (R537): commits the trial bank and raises COUNTER. -/
  | scUpdctlCommit (req : Requester) (v : DWord)
  /-- SC_BOOTSTAT_GO (R487): verifies and runs the keeper image in the recovery buffer. -/
  | scBootstatGo (req : Requester) (v : DWord)
  /-- HG_HOSTRST (R420): writing 0x4057 starts a hinge-loss reset. -/
  | hgHostrst (req : Requester) (v : DWord)
  /-- HG_EPOCHOPEN (R424): opens the new host epoch and resumes the kept rings. -/
  | hgEpochopen (req : Requester) (v : DWord)
  /-- HG_HARTRUN (R559): releases harts from reset. -/
  | hgHartrun (req : Requester) (hi : Bool) (v : DWord)
  /-- DB_GCTL_HALT (R502): halts the selected group or tile. -/
  | dbGctlHalt (req : Requester) (v : DWord)
  /-- DB_GCTL_RESUME (R505): resumes a halted group, letting a pending fault proceed unless the PC was written. -/
  | dbGctlResume (req : Requester) (v : DWord)
  /-- DB_GCTL_STEP (R504): runs the group for exactly one instruction. -/
  | dbGctlStep (req : Requester) (v : DWord)
  /-- DB_HOFSET (R505): arms halt on fault for a ward. -/
  | dbHofset (req : Requester) (v : DWord)
  /-- DB_HOFCLR (R505): disarms halt on fault for a ward. -/
  | dbHofclr (req : Requester) (v : DWord)
  /-- DB_RDATA (R507): reads or writes the item of a halted group that DB.RSEL selects. -/
  | dbRdata (req : Requester) (wr : Option DWord)
  /-- DB_TRWARD (R557): enables or disables trace of a ward. -/
  | dbTrward (req : Requester) (v : DWord)
  /-- DB_TRCTL (R511): starts or stops tracing and sets the wrap and sample modes. -/
  | dbTrctl (req : Requester) (v : DWord)
  /-- MP_SHAREWAYS (R549): the keeper applies share-way counts die by die, or drops the write. -/
  | mpShareways (req : Requester) (v : DWord)
  /-- MP_HOSTPLAN (R549): binds the host to a valid plan. -/
  | mpHostplan (req : Requester) (v : DWord)
  /-- PW_CTL (R471): sets the power cap, operating point and host tolerance, or drops out-of-range values. -/
  | pwCtl (req : Requester) (v : DWord)
  /-- REGISTER_WRITE (R543): a write to a set-up register with no row of its own, including access-error reporting. -/
  | registerWrite (req : Requester) (offset width : Nat) (v : DWord)
  /-- PWR_EN_RISE (R523): power-on: a cold start powers the rails, releases B0 and runs the mask ROM. -/
  | pwrEnRise
  /-- KEEPER_START (R486): the verified keeper starts and verifies the remaining images and records. -/
  | keeperStart
  /-- MEMINIT_DONE (R523): memory is initialised, the host is released and ID.STAGE reads READY. -/
  | meminitDone
  /-- POWER_DOWN (R529): pWR_EN falls or input is lost, and every rail goes down. -/
  | powerDown
  /-- CONTROL_PORT_RESET (R530): pERST_N, a hot reset, a link-down or an FLR resets the control-port endpoint. -/
  | controlPortReset (cause : CpCause)
  /-- CONFIG_REQUEST (R525): a control-port configuration request, answered with retry status before the port is ready. -/
  | configRequest
  /-- TB_PPS_EDGE (R42): loads an armed timebase value or starts slewing toward a whole second. -/
  | tbPpsEdge
  /-- TB_REF_LOST (R43): tB_REF is absent for 2 µs, so the timebase switches to the internal oscillator. -/
  | tbRefLost
  /-- SUPPLY_WARN (R472): sUPPLY_WARN_N changes, and the keeper applies or lifts the 1,000 W cap. -/
  | supplyWarn (low : Bool)
  /-- VCOMP_CONTROL (R472): the keeper's 10 µs choice of the VCOMP setpoint. -/
  | vcompControl (power vin : Nat) (temps : Temps)
  /-- EXCURSION_OPEN (R474): a rail falls below its warning threshold, and an excursion opens. -/
  | excursionOpen (rail mv : Nat)
  /-- EXCURSION_CLOSE (R475): after 10 µs above warning, the header is written, an event raised and a fast scrub scheduled. -/
  | excursionClose
  /-- RAIL_RESET_THRESHOLD (R476): a rail falls below its reset threshold, which causes a cold reset. -/
  | railResetThreshold (rail mv : Nat)
  /-- WATCHDOG_EXPIRY (R530): the keeper watchdog expires, which causes a cold reset. -/
  | watchdogExpiry
  /-- THERMAL_ALERT (R570): a temperature limit is crossed or cleared, updating the alert causes and ALERT_N. -/
  | thermalAlert (temps : Temps)
  /-- THERMAL_TRIP (R570): a trip takes the rails down and latches TRIP. -/
  | thermalTrip (temps : Temps)
  /-- DOMAIN_ENTRY (R467): after 10 µs of its conditions, a domain enters a deeper state. -/
  | domainEntry (domain : Nat)
  /-- WAKE_COMPLETE (R469): a waking domain reaches handshake idle, and the waiters proceed. -/
  | wakeComplete (domain : Nat)
  /-- CABLE_PRESENT (R565): a CBLPRS_N change seats or removes a cable and allows a port to train. -/
  | cablePresent (port : Nat) (seated : Bool)
  /-- I3C_READ (R571): management read of a keeper index. -/
  | i3cRead (index : Nat)
  /-- I3C_WRITE (R571): management write, clearing TRIP by W1C. -/
  | i3cWrite (index : Nat) (v : Byte)
  /-- SETDASA (R571): i3C dynamic address assignment. -/
  | setdasa (static dynamic : BitVec 7)
  /-- GET_VERSION (R491): sPDM version request. -/
  | getVersion
  /-- GET_CAPABILITIES (R491): sPDM capabilities request. -/
  | getCapabilities
  /-- NEGOTIATE_ALGORITHMS (R491): sPDM algorithm negotiation. -/
  | negotiateAlgorithms (hash384 ed25519 : Bool)
  /-- GET_DIGESTS (R491): sPDM certificate-chain digests. -/
  | getDigests
  /-- GET_CERTIFICATE (R492): returns a certificate chain from slot 0 or 1. -/
  | getCertificate (slot offset len : Nat)
  /-- CHALLENGE (R492): signed challenge response, carrying a second ML-DSA signature. -/
  | challenge (slot : Nat) (nonce : BitVec 256)
  /-- GET_MEASUREMENTS (R493): returns the measurement blocks, signed. -/
  | getMeasurements (index : Nat) (slot : Nat) (nonce : BitVec 256)
  /-- HINGE_LOSS_RESET (R421): an H-die error or keeper request closes the epoch and quiesces the host side. -/
  | hingeLossReset (cause : HingeCause)
  /-- HINGE_ACK_TIMEOUT (R420): stop 10 acknowledges nothing for 100 µs, which triggers a hinge-loss reset. -/
  | hingeAckTimeout
  /-- HINGE_TILE_STOP (R421): at 1 ms, tiles still running are stopped without replay. -/
  | hingeTileStop
  /-- HINGE_QUIESCED (R421): tagged writes are settled, WAITEPOCH is set, and any armed interleave is applied. -/
  | hingeQuiesced
  /-- HINGE_RETRAIN (R419): the hinge retrains its wires, stalling stop 10. -/
  | hingeRetrain
  /-- HINGE_RETRAIN_DONE (R419): traffic resumes, and APLIC source 13 is raised. -/
  | hingeRetrainDone
  /-- DMA_WRITE (R415): inbound root-port write, tagged with the host epoch. -/
  | dmaWrite (port : Nat) (dst : DmaAddr) (bytes : List Byte)
  /-- DMA_READ (R415): inbound root-port read, with EP set on poison. -/
  | dmaRead (port : Nat) (src : DmaAddr) (len : Nat)
  /-- IOTINVAL_VMA (R265): invalidates translations, and departs shares whose backing is covered. -/
  | iotinvalVma (pasid : Option Nat) (va : IoAddr) (size : Nat) (upd : PtUpdate)
  /-- IOFENCE_C (R265): completes once accesses using invalidated translations are done. -/
  | iofenceC
  /-- PORT_TRAINED (R431): an Amixis port completes training and the initial credit grant. -/
  | portTrained (port : Nat) (link : LinkTraining)
  /-- HELLO_TIMEOUT (R431): no HELLO within 20 ms, so the port carries control messages only. -/
  | helloTimeout (port : Nat)
  /-- LANE_FAILURE (R432): a lane fails, and the port narrows or goes down. -/
  | laneFailure (port lane : Nat)
  /-- RETRY_REQUEST (R434): the sender resends from the flit after the ACK, or takes the port down after 8 tries. -/
  | retryRequest (port : Nat) (ack : BitVec 16)
  /-- PORT_DOWN_TIMEOUT (R435): 100 µs without lock or valid flits takes the port down. -/
  | portDownTimeout (port : Nat)
  /-- HELLO (R431): partner identity and levels exchanged at training. -/
  | hello (port : Nat) (spanId : BitVec 32) (info : ModInfo)
  /-- ANNOUNCE (R441): span-formation announcement, recorded and forwarded. -/
  | announce (hdr : MsgHdr) (known : List ModInfo)
  /-- MASTER_SELECT (R442): 10 ms after the last new announcement, each module picks the master. -/
  | masterSelect
  /-- JOIN (R443): the master admits a joining module and assigns its ordinal, or refuses it. -/
  | join (hdr : MsgHdr) (info : ModInfo)
  /-- ROSTER (R441): members adopt ordinals, routes, epoch and levels. -/
  | roster (hdr : MsgHdr) (members : List RosterEntry) (levels : Levels)
  /-- LEAVE (R527): the master removes a leaving member and raises the epoch. -/
  | leave (hdr : MsgHdr)
  /-- LOST (R449): members act on a member's loss: undeliverable stores, poisoned loads, stopped tiles. -/
  | lost (hdr : MsgHdr) (member : Nat)
  /-- LINKDOWN (R446): the master recomputes routes around a down port. -/
  | linkdown (hdr : MsgHdr) (a b : Nat)
  /-- HEARTBEAT (R447): a heartbeat received from a member or the master. -/
  | heartbeat (hdr : MsgHdr) (levels : Levels)
  /-- HEARTBEAT_SEND (R447): periodic 250 µs heartbeat transmission. -/
  | heartbeatSend
  /-- MEMBER_LOSS_TIMEOUT (R447): after 1.5 ms without heartbeats, the master declares a member lost. -/
  | memberLossTimeout (member : Nat)
  /-- MASTER_LOSS_TIMEOUT (R447): after 2 ms without master heartbeats, a member declares the master lost. -/
  | masterLossTimeout
  /-- LEVEL_COMMIT_START (R462): every member reports a higher level, so the master sends LEVELPREP. -/
  | levelCommitStart
  /-- LEVELPREP (R462): a member stops injecting, drains and replies. -/
  | levelprep (hdr : MsgHdr) (levels : Levels)
  /-- LEVELCOMMIT (R462): a member adopts the new epoch and level and resumes. -/
  | levelcommit (hdr : MsgHdr) (levels : Levels)
  /-- PLACE (R456): a member makes the serving context resident for a LAUNCH, or refuses. -/
  | place (hdr : MsgHdr) (scid : Nat) (fields : LaunchFields)
  /-- PULL (R456): the origin answers with the next batch of tile indices; `answer` is that batch as the member gets it. -/
  | pull (hdr : MsgHdr) (lnum : Nat) (answer : Option (List Nat))
  /-- TILEDONE (R457): the origin records a batch's counts and flags. -/
  | tiledone (hdr : MsgHdr) (lnum : Nat) (report : BatchReport) (faulted : Bool)
  /-- HASPARR (R349): the master records a member's arrival at a hasp generation. -/
  | hasparr (hdr : MsgHdr) (line gen : Nat)
  /-- HASPREL (R349): a member releases a hasp generation. -/
  | hasprel (hdr : MsgHdr) (line gen : Nat)
  /-- TARRIVE_MESSAGE (R333): remote tumbler arrival applied on the peer. -/
  | tarriveMessage (hdr : MsgHdr) (tumbler scid : Nat) (op : TumOp)
  /-- TWAKE (R337): remote tumbler update that releases waiters. -/
  | twake (hdr : MsgHdr) (outcome : Bool)
  /-- TMAPCHK (R325): peer check of a REMOTE tumbler map entry. -/
  | tmapchk (hdr : MsgHdr) (tumbler scid : Nat) (shared : Bool)
  /-- TBSYNC (R45): timebase alignment to the master. -/
  | tbsync (hdr : MsgHdr) (time : DWord) (before : Nat)
  /-- READ (R453): window read served at the peer after the ward check. -/
  | read (hdr : MsgHdr) (pa len : Nat) (cacheable : Bool)
  /-- WRITE (R453): window write served at the peer after the ward check. -/
  | write (hdr : MsgHdr) (pa : Nat) (bytes : List Byte) (cacheable wantDone : Bool)
  /-- ATOMIC (R453): window atomic served at the peer. -/
  | atomic (hdr : MsgHdr) (pa width : Nat) (op : AtomOp) (signed : Bool) (operands : List (DWord × DWord)) (cacheable : Bool)
  /-- LR_MESSAGE (R453): window LR served at the peer. -/
  | lrMessage (hdr : MsgHdr) (pa width : Nat) (lane : PeerLane)
  /-- SC_MESSAGE (R453): window SC served at the peer. -/
  | scMessage (hdr : MsgHdr) (pa : Nat) (bytes : List Byte) (lane : PeerLane)
  /-- DATA (R439): read data response to a window request. -/
  | data (hdr : MsgHdr) (bytes : List Byte) (poison : Bool)
  /-- VISACK (R439): a window write reached the peer's endpoint of visibility. -/
  | visack (hdr : MsgHdr)
  /-- DONEACK (R439): a window write reached the peer's final endpoint. -/
  | doneack (hdr : MsgHdr)
  /-- DENY (R453): a denied window request completes as undeliverable or poisoned. -/
  | deny (hdr : MsgHdr)
  /-- RELAY (R208): a relay message arrives at a core's incoming queue, discarding resends under the SEQ rule. -/
  | relay (hdr : MsgHdr) (msg : RelayMsg)
  /-- BULKWRITE (R436): full-line bulk write data on VC 5. -/
  | bulkwrite (hdr : MsgHdr) (pa : Nat) (bytes : List Byte) (cacheable wantDone : Bool)
  /-- BULKDATA (R436): bulk read data on VC 5. -/
  | bulkdata (hdr : MsgHdr) (bytes : List Byte) (poison : Bool)
  /-- TB_REF_RETURN (R43): tB_REF comes back after a loss, and the timebase runs from the reference again while REFLOST stays set. -/
  | tbRefReturn
  /-- MATRIX_INSTRUCTION_FINISH (R152): a running MMA, MDRAIN, MCHK, MRELAY, MSTAT, MLOAD or MCLOSE finishes: drain writes reach the store buffer, flags are ORed into sr.fflags, and the gates of R152 and R153 release. -/
  | matrixInstructionFinish (core : Nat)
  /-- SNOOP_ANSWER_DELAY_EXPIRY (R314): the up-to-64 ns delay that the reservation holder puts on its answer to a snoop or request for the granule runs out, and the answer is sent. -/
  | snoopAnswerDelayExpiry (stop line : Nat)
  /-- MEMORY_READ_RETURN (R300): memory read data reaches the home, which sends the line to the requester unless dirty snoop data replaces it. -/
  | memoryReadReturn (line : Nat) (ecc : EccError)
  /-- UNCORRECTABLE_CODEWORD (R434): an Amixis receiver finds an uncorrectable codeword, drops its flits and those that follow, and sends a retry request. -/
  | uncorrectableCodeword (port : Nat)
  /-- IDLE_FLIT (R433): an idle flit arrives carrying ACK and credits, which free retry-buffer entries and send credits. -/
  | idleFlit (port : Nat) (ack : BitVec 16) (cvc ccnt : Nat)
  /-- RESERVED_OP_MESSAGE (R439): a message with a reserved OP arrives and is discarded and counted in module counter slot 10. -/
  | reservedOpMessage (hdr : MsgHdr) (op : Byte)
  /-- LEVELPREP_REPLY (R462): the master receives a member's VC 0 reply to LEVELPREP and, once every member has replied, sends LEVELCOMMIT. -/
  | levelprepReply (hdr : MsgHdr)
  /-- PLACE_REFUSAL (R458): the origin receives a member's refusal of PLACE, gives that member no tiles and completes the LAUNCH with PEERLOST. -/
  | placeRefusal (hdr : MsgHdr) (lnum : Nat)
  /-- JOIN_REFUSAL (R443): a joining module receives the master's refusal and sets SP.SPANSTAT to refused with reason full or level. -/
  | joinRefusal (hdr : MsgHdr) (reason : JoinReason)
  /-- PERST_N_RELEASE (R525): pERST_N rises, and the control-port endpoint leaves reset and trains its link. -/
  | perstNRelease
  /-- IOTINVAL_GVMA (R265): an IOTINVAL.GVMA command invalidates second-stage translations, and shares whose backing it covers depart. -/
  | iotinvalGvma (gpa : IoAddr) (size : Nat) (upd : PtUpdate)
  /-- REGISTER_READ (R543): a set-up window read that is misaligned, reserved, unprivileged or to a block not yet responding returns zero and is counted and latched as an access error. -/
  | registerRead (req : Requester) (offset width : Nat)
  /-- HOST_MEMORY_ACCESS (R416): a host core load, fetch or atomic reaches a reserved address or consumes poisoned data, raising an access fault, latching HG.POISON and raising APLIC source 2. -/
  | hostMemoryAccess (hart : Nat) (acc : HostAcc) (uncached : Bool)
  /-- ROOT_PORT_LINK_EVENT (R413): a root port reports an AER, DPC, link or INTx event, raising the matching APLIC source. -/
  | rootPortLinkEvent (port : Nat) (ev : RpEvent)
  deriving DecidableEq, Repr

end Sys2Proof
end

