-- ==== Sys2Proof/WellFormed.lean ====
section
/-! DEFINITION. Well-formed commands: every number an operand carries names a thing the module has. -/

namespace Sys2Proof

/-- A group place: one of 768 logical cores, one of 48 places (R16, R51). -/
def siteOk (g : Site) : Bool := decide (g.core < 768) && decide (g.place < 48)

/-- The major opcodes of R121: first value and how many follow on from it. -/
def majors : List (Nat × Nat) :=
  [(0x01, 19), (0x18, 8), (0x20, 11), (0x30, 3), (0x40, 3), (0x44, 3), (0x48, 3), (0x50, 3), (0x60, 9), (0x70, 6),
   (0x80, 7), (0x88, 4), (0x90, 3)]

/-- Whether a MAJOR is an instruction's (R121). -/
def majorKnown (m : BitVec 8) : Bool := majors.any (fun r => decide (r.1 ≤ m.toNat) && decide (m.toNat < r.1 + r.2))

/-- The fields of a word: a MAJOR beside the row's own is a reserved one. -/
def encOk (e : Enc) : Bool :=
  match e.other with
  | none => true
  | some m => !majorKnown m

/-- A logical core (R16). -/
def coreOk (c : Nat) : Bool := decide (c < 768)

/-- A tile key of a core: a group place, or 48 for a spindle tile (R399). -/
def tileOk (k : Nat) : Bool := decide (k ≤ 48)

/-- A spindle of a core. -/
def spindleOk (n : Nat) : Bool := decide (n < 4)

/-- An Amixis port (R430). -/
def portOk (p : Nat) : Bool := decide (p < 16)

/-- A lane of a port (R430). -/
def portLaneOk (l : Nat) : Bool := decide (l < 4)

/-- A C-die (R14). -/
def dieOk (d : Nat) : Bool := decide (d < 8)

/-- An LPDDR5X device (R14). -/
def deviceOk (d : Nat) : Bool := decide (d < 24)

/-- A 128-byte line's address. -/
def lineOk (a : Nat) : Bool := decide (a % 128 = 0)

/-- A host hart (R408). -/
def hartOk (h : Nat) : Bool := decide (h < Config.harts)

/-- A host root port (R414). -/
def rootPortOk (p : Nat) : Bool := decide (p < 2)

/-- A host access of 1 to 128 bytes; an atomic, LR or SC of 4 or 8, aligned. -/
def hostAccOk : HostAcc → Bool
  | .load _ len => decide (0 < len) && decide (len ≤ 128)
  | .fetch _ len => decide (0 < len) && decide (len ≤ 128)
  | .store _ bytes => decide (0 < bytes.length) && decide (bytes.length ≤ 128)
  | .atomic pa width _ _ _ _ => (width == 4 || width == 8) && pa % width == 0
  | .lr pa width => (width == 4 || width == 8) && pa % width == 0
  | .sc pa bytes => (bytes.length == 4 || bytes.length == 8) && pa % bytes.length == 0

/-- A stop of the package ring (R20). -/
def stopOk (n : Nat) : Bool := decide (n ≤ 10)

/-- A way of a die's LLC (R269). -/
def wayOk (w : Nat) : Bool := decide (w < 16)

/-- A context number (R356). -/
def ctxOk (n : Nat) : Bool := decide (n < 16384)

/-- A ring: the admin ring or one of eight rings of a context (R373, R405). -/
def ringOk : RingId → Bool
  | .admin => true
  | .ring c r => ctxOk c && decide (r < 8)

/-- An ordinal of a module span (R441). -/
def memberOk (n : Nat) : Bool := decide (n < 4096)

/-- A message header (R438). -/
def hdrOk (h : MsgHdr) : Bool :=
  portOk h.port && memberOk h.dst && memberOk h.src && decide (h.txid < 65536) && decide (h.ward < 1024)

/-- A global tumbler (R321). -/
def tumblerOk (n : Nat) : Bool := decide (n < 65536)

/-- A span context identifier (R455). -/
def scidOk (n : Nat) : Bool := decide (n < 65536)

/-- A hasp line (R343). -/
def haspOk (n : Nat) : Bool := decide (n < 16)

/-- A power domain (R465). -/
def domainOk (d : Nat) : Bool := decide (d < 32)

/-- A rail (R567). -/
def railOk (r : Nat) : Bool := decide (r < 11)

/-- A certificate slot (R492). -/
def slotOk (n : Nat) : Bool := decide (n < 8)

/-- The width in bytes of an access to the set-up window. -/
def widthOk (w : Nat) : Bool := w == 1 || w == 2 || w == 4 || w == 8

/-- The data of a message of VC 2, 3 or 5. -/
def bytesOk (bs : List Byte) : Bool := decide (0 < bs.length) && decide (bs.length ≤ 128)

/-- A tumbler unit: B0's or a core's own. -/
def unitOk : TumUnit → Bool
  | .global => true
  | .core c => coreOk c

/-- A well-formed command. -/
def Instr.wf : Instr → Bool
  | .add site e => siteOk site && encOk e
  | .sub site e => siteOk site && encOk e
  | .mul site e => siteOk site && encOk e
  | .muladd site e => siteOk site && encOk e
  | .and site e => siteOk site && encOk e
  | .or site e => siteOk site && encOk e
  | .xor site e => siteOk site && encOk e
  | .not site e => siteOk site && encOk e
  | .shiftl site e => siteOk site && encOk e
  | .shiftr site e => siteOk site && encOk e
  | .min site e => siteOk site && encOk e
  | .max site e => siteOk site && encOk e
  | .cmp site e => siteOk site && encOk e
  | .bitcnt site e => siteOk site && encOk e
  | .leadz site e => siteOk site && encOk e
  | .bitrev site e => siteOk site && encOk e
  | .bytesel site e => siteOk site && encOk e
  | .mov site e => siteOk site && encOk e
  | .pick site e => siteOk site && encOk e
  | .addI site e => siteOk site && encOk e
  | .andI site e => siteOk site && encOk e
  | .orI site e => siteOk site && encOk e
  | .xorI site e => siteOk site && encOk e
  | .shiftlI site e => siteOk site && encOk e
  | .shiftrI site e => siteOk site && encOk e
  | .cmpI site e => siteOk site && encOk e
  | .movI site e => siteOk site && encOk e
  | .fadd site e => siteOk site && encOk e
  | .fsub site e => siteOk site && encOk e
  | .fmul site e => siteOk site && encOk e
  | .fma site e => siteOk site && encOk e
  | .fmin site e => siteOk site && encOk e
  | .fmax site e => siteOk site && encOk e
  | .fcmp site e => siteOk site && encOk e
  | .fabs site e => siteOk site && encOk e
  | .fneg site e => siteOk site && encOk e
  | .fcpys site e => siteOk site && encOk e
  | .fsfu site e => siteOk site && encOk e
  | .cvt site e => siteOk site && encOk e
  | .lxch site e => siteOk site && encOk e
  | .lquery site e => siteOk site && encOk e
  | .ld site _ e => siteOk site && encOk e
  | .st site _ e => siteOk site && encOk e
  | .zline site _ e => siteOk site && encOk e
  | .atom site e => siteOk site && encOk e
  | .lr site e => siteOk site && encOk e
  | .sc site e => siteOk site && encOk e
  | .mopen site e => siteOk site && encOk e
  | .mclose site e => siteOk site && encOk e
  | .mshape site e => siteOk site && encOk e
  | .mload site e => siteOk site && encOk e
  | .mstat site e => siteOk site && encOk e
  | .mma site e => siteOk site && encOk e
  | .mdrain site e => siteOk site && encOk e
  | .mrelay site e => siteOk site && encOk e
  | .mchk site e => siteOk site && encOk e
  | .tarrive site e => siteOk site && encOk e
  | .twait site e => siteOk site && encOk e
  | .ttest site e => siteOk site && encOk e
  | .hasp site e => siteOk site && encOk e
  | .fenceOrd site e => siteOk site && encOk e
  | .fenceDone site e => siteOk site && encOk e
  | .bra site e => siteOk site && encOk e
  | .brx site e => siteOk site && encOk e
  | .call site e => siteOk site && encOk e
  | .ret site e => siteOk site && encOk e
  | .exit site e => siteOk site && encOk e
  | .repack site e => siteOk site && encOk e
  | .nop site e => siteOk site && encOk e
  | .uop site e => siteOk site && encOk e
  | .uopI site e => siteOk site && encOk e
  | .ucmp site e => siteOk site && encOk e
  | .ucmpI site e => siteOk site && encOk e
  | .sread site e => siteOk site && encOk e
  | .swrite site e => siteOk site && encOk e
  | .brk site e => siteOk site && encOk e
  | .repackWaitExpiry site => siteOk site
  | .mergeComplete site => siteOk site
  | .instructionFetchFill site => siteOk site
  | .loadPerform site => siteOk site
  | .storeVisible site _ => siteOk site
  | .atomicResponse site => siteOk site
  | .fenceComplete site => siteOk site
  | .pageRequestResponse _ _ _ => true
  | .twaitTimeout site => siteOk site
  | .arrayStart core => coreOk core
  | .mloadPoison core => coreOk core
  | .relaySendResume core => coreOk core
  | .budgetOverrun core tile => coreOk core && tileOk tile
  | .budgetStop core tile => coreOk core && tileOk tile
  | .tumblerOperation unit _ => unitOk unit
  | .fenceWaitReread ring => ringOk ring
  | .spindleBufferTake core n => coreOk core && spindleOk n
  | .spindleReadData core n => coreOk core && spindleOk n
  | .spindleFulltRaise core n => coreOk core && spindleOk n
  | .spindleFinish core n => coreOk core && spindleOk n
  | .replayPlace _ core => coreOk core
  | .retirement core => coreOk core
  | .retirementRecord die => dieOk die
  | .dieFence die => dieOk die
  | .coherentRequest stop line _ way => stopOk stop && lineOk line && wayOk way
  | .snoop stop line => stopOk stop && lineOk line
  | .snoopResponse stop line => stopOk stop && lineOk line
  | .lineGrant stop line => decide (stop < 11) && lineOk line
  | .done line => lineOk line
  | .proceed line => lineOk line
  | .backInvalidation stop _ => stopOk stop
  | .victimAccept die line => dieOk die && lineOk line
  | .homeAtomic site _ => siteOk site
  | .writeAccept _ => true
  | .patrolScrub device _ _ => deviceOk device
  | .sramScrub die _ _ => dieOk die
  | .doorbellChange ring => ringOk ring
  | .descriptorReread ring => ringOk ring
  | .nopCommand ring => ringOk ring
  | .launch ring => ringOk ring
  | .copy ring => ringOk ring
  | .convert ring => ringOk ring
  | .fill ring => ringOk ring
  | .signal ring => ringOk ring
  | .wait ring => ringOk ring
  | .waitTimeout ring => ringOk ring
  | .share ring => ringOk ring
  | .shareRelease ring => ringOk ring
  | .bind ring => ringOk ring
  | .unbind ring => ringOk ring
  | .query ring => ringOk ring
  | .partition ring => ringOk ring
  | .snapshot ring => ringOk ring
  | .snapshotCapture => true
  | .commandCompletion ring _ => ringOk ring
  | .tilePlace core => coreOk core
  | .makeResident ctx => ctxOk ctx
  | .evictionDone ctx => ctxOk ctx
  | .residencyComplete ctx => ctxOk ctx
  | .frontEndTakeover => true
  | .counterTableWrite ctx => ctxOk ctx
  | .counterSample => true
  | .feCtlEn _ _ => true
  | .feCtxon _ _ => true
  | .feCtxoff _ _ => true
  | .tmReset _ _ => true
  | .spWininv _ _ => true
  | .spSpanctlRelease _ _ => true
  | .spSpanctlLower _ _ => true
  | .spancfgEnSet _ _ => true
  | .spancfgEnClear _ _ => true
  | .leaveDrained => true
  | .scNonce _ => true
  | .scTokaddr _ _ => true
  | .tokenCheckDone => true
  | .scTokrevoke _ _ => true
  | .tokenExpiry _ => true
  | .scColdrst _ _ => true
  | .scUpdctlStart _ _ => true
  | .updateWriteDone _ => true
  | .scUpdctlCommit _ _ => true
  | .scBootstatGo _ _ => true
  | .hgHostrst _ _ => true
  | .hgEpochopen _ _ => true
  | .hgHartrun _ _ _ => true
  | .dbGctlHalt _ _ => true
  | .dbGctlResume _ _ => true
  | .dbGctlStep _ _ => true
  | .dbHofset _ _ => true
  | .dbHofclr _ _ => true
  | .dbRdata _ _ => true
  | .dbTrward _ _ => true
  | .dbTrctl _ _ => true
  | .mpShareways _ _ => true
  | .mpHostplan _ _ => true
  | .pwCtl _ _ => true
  | .registerWrite _ _ width _ => widthOk width
  | .pwrEnRise => true
  | .keeperStart => true
  | .meminitDone => true
  | .powerDown => true
  | .controlPortReset _ => true
  | .configRequest => true
  | .tbPpsEdge => true
  | .tbRefLost => true
  | .supplyWarn _ => true
  | .vcompControl _ _ _ => true
  | .excursionOpen rail _ => railOk rail
  | .excursionClose => true
  | .railResetThreshold rail _ => railOk rail
  | .watchdogExpiry => true
  | .thermalAlert _ => true
  | .thermalTrip _ => true
  | .domainEntry domain => domainOk domain
  | .wakeComplete domain => domainOk domain
  | .cablePresent port _ => portOk port
  | .i3cRead _ => true
  | .i3cWrite _ _ => true
  | .setdasa _ _ => true
  | .getVersion => true
  | .getCapabilities => true
  | .negotiateAlgorithms _ _ => true
  | .getDigests => true
  | .getCertificate slot _ _ => slotOk slot
  | .challenge slot _ => slotOk slot
  | .getMeasurements _ slot _ => slotOk slot
  | .hingeLossReset _ => true
  | .hingeAckTimeout => true
  | .hingeTileStop => true
  | .hingeQuiesced => true
  | .hingeRetrain => true
  | .hingeRetrainDone => true
  | .dmaWrite port dst _ => rootPortOk port && decide (dst.rid < 65536)
  | .dmaRead port src _ => rootPortOk port && decide (src.rid < 65536)
  | .iotinvalVma _ va _ _ => va.port.all rootPortOk
  | .iofenceC => true
  | .portTrained port _ => portOk port
  | .helloTimeout port => portOk port
  | .laneFailure port lane => portOk port && portLaneOk lane
  | .retryRequest port _ => portOk port
  | .portDownTimeout port => portOk port
  | .hello port _ _ => portOk port
  | .announce hdr _ => hdrOk hdr
  | .masterSelect => true
  | .join hdr _ => hdrOk hdr
  | .roster hdr _ _ => hdrOk hdr
  | .leave hdr => hdrOk hdr
  | .lost hdr member => hdrOk hdr && memberOk member
  | .linkdown hdr _ _ => hdrOk hdr
  | .heartbeat hdr _ => hdrOk hdr
  | .heartbeatSend => true
  | .memberLossTimeout member => memberOk member
  | .masterLossTimeout => true
  | .levelCommitStart => true
  | .levelprep hdr _ => hdrOk hdr
  | .levelcommit hdr _ => hdrOk hdr
  | .place hdr scid _ => hdrOk hdr && scidOk scid
  | .pull hdr _ _ => hdrOk hdr
  | .tiledone hdr _ _ _ => hdrOk hdr
  | .hasparr hdr line _ => hdrOk hdr && haspOk line
  | .hasprel hdr line _ => hdrOk hdr && haspOk line
  | .tarriveMessage hdr tumbler scid _ => hdrOk hdr && tumblerOk tumbler && scidOk scid
  | .twake hdr _ => hdrOk hdr
  | .tmapchk hdr tumbler scid _ => hdrOk hdr && tumblerOk tumbler && scidOk scid
  | .tbsync hdr _ _ => hdrOk hdr
  | .read hdr _ _ _ => hdrOk hdr
  | .write hdr _ bytes _ _ => hdrOk hdr && bytesOk bytes
  | .atomic hdr _ _ _ _ _ _ => hdrOk hdr
  | .lrMessage hdr _ _ _ => hdrOk hdr
  | .scMessage hdr _ _ _ => hdrOk hdr
  | .data hdr bytes _ => hdrOk hdr && bytesOk bytes
  | .visack hdr => hdrOk hdr
  | .doneack hdr => hdrOk hdr
  | .deny hdr => hdrOk hdr
  | .relay hdr _ => hdrOk hdr
  | .bulkwrite hdr _ bytes _ _ => hdrOk hdr && bytesOk bytes
  | .bulkdata hdr bytes _ => hdrOk hdr && bytesOk bytes
  | .tbRefReturn => true
  | .matrixInstructionFinish core => coreOk core
  | .snoopAnswerDelayExpiry stop line => stopOk stop && lineOk line
  | .memoryReadReturn line _ => lineOk line
  | .uncorrectableCodeword port => portOk port
  | .idleFlit port _ _ _ => portOk port
  | .reservedOpMessage hdr _ => hdrOk hdr
  | .levelprepReply hdr => hdrOk hdr
  | .placeRefusal hdr _ => hdrOk hdr
  | .joinRefusal hdr _ => hdrOk hdr
  | .perstNRelease => true
  | .iotinvalGvma gpa _ _ => gpa.port.all rootPortOk
  | .registerRead _ _ width => widthOk width
  | .hostMemoryAccess hart acc _ => hartOk hart && hostAccOk acc
  | .rootPortLinkEvent port _ => rootPortOk port

end Sys2Proof
end

