-- ==== Sys2Proof/Decode.lean ====
section
/-! DEFINITION. Words. Syram instruction words: where each field stands and which row each MAJOR picks (R113, R114, R115,
R121). Commands as words: the table of operations and events gives no row any bits, so no word spells a command. -/

namespace Sys2Proof

/-! ### Syram instruction words -/

/-- The fields of an instruction word other than MAJOR (R113). -/
def Enc.ofWord (w : BitVec 64) : Enc :=
  { neg := w.getLsbD 63, pred := w.extractLsb' 60 3, type := w.extractLsb' 48 4, dst := w.extractLsb' 40 8
    srcA := w.extractLsb' 32 8, srcB := w.extractLsb' 24 8, srcC := w.extractLsb' 16 8, mods := w.extractLsb' 0 16 }

/-- MAJOR of an instruction word (R113). -/
def majorOf (w : BitVec 64) : BitVec 8 := w.extractLsb' 52 8

/-- The instruction word of a MAJOR and the other fields (R113). -/
def Enc.toWord (major : BitVec 8) (e : Enc) : BitVec 64 :=
  (BitVec.ofBool e.neg).setWidth 64 <<< 63 ||| e.pred.setWidth 64 <<< 60 ||| major.setWidth 64 <<< 52 |||
    e.type.setWidth 64 <<< 48 ||| e.dst.setWidth 64 <<< 40 ||| e.srcA.setWidth 64 <<< 32 ||| e.srcB.setWidth 64 <<< 24 |||
    e.srcC.setWidth 64 <<< 16 ||| e.mods.setWidth 64

/-- The word at an address, from its eight bytes, the lowest address first (R114). -/
def wordOfBytes (bs : Vector (BitVec 8) 8) : BitVec 64 :=
  bs[7] ++ bs[6] ++ bs[5] ++ bs[4] ++ bs[3] ++ bs[2] ++ bs[1] ++ bs[0]

/-- The instruction that a group issues on a word: the row its MAJOR picks, with the fields; a MAJOR that no row has is
carried as it is and faults at issue (R121, R142). -/
def syramInstr (site : Site) (w : BitVec 64) : Instr :=
  let e := Enc.ofWord w
  match (majorOf w).toNat with
  | 0x01 => .add site e
  | 0x02 => .sub site e
  | 0x03 => .mul site e
  | 0x04 => .muladd site e
  | 0x05 => .and site e
  | 0x06 => .or site e
  | 0x07 => .xor site e
  | 0x08 => .not site e
  | 0x09 => .shiftl site e
  | 0x0a => .shiftr site e
  | 0x0b => .min site e
  | 0x0c => .max site e
  | 0x0d => .cmp site e
  | 0x0e => .bitcnt site e
  | 0x0f => .leadz site e
  | 0x10 => .bitrev site e
  | 0x11 => .bytesel site e
  | 0x12 => .mov site e
  | 0x13 => .pick site e
  | 0x18 => .addI site e
  | 0x19 => .andI site e
  | 0x1a => .orI site e
  | 0x1b => .xorI site e
  | 0x1c => .shiftlI site e
  | 0x1d => .shiftrI site e
  | 0x1e => .cmpI site e
  | 0x1f => .movI site e
  | 0x20 => .fadd site e
  | 0x21 => .fsub site e
  | 0x22 => .fmul site e
  | 0x23 => .fma site e
  | 0x24 => .fmin site e
  | 0x25 => .fmax site e
  | 0x26 => .fcmp site e
  | 0x27 => .fabs site e
  | 0x28 => .fneg site e
  | 0x29 => .fcpys site e
  | 0x2a => .fsfu site e
  | 0x30 => .cvt site e
  | 0x31 => .lxch site e
  | 0x32 => .lquery site e
  | 0x40 => .ld site .uniform e
  | 0x41 => .ld site .indexed e
  | 0x42 => .ld site .thread e
  | 0x44 => .st site .uniform e
  | 0x45 => .st site .indexed e
  | 0x46 => .st site .thread e
  | 0x48 => .zline site .uniform e
  | 0x49 => .zline site .indexed e
  | 0x4a => .zline site .thread e
  | 0x50 => .atom site e
  | 0x51 => .lr site e
  | 0x52 => .sc site e
  | 0x60 => .mopen site e
  | 0x61 => .mclose site e
  | 0x62 => .mshape site e
  | 0x63 => .mload site e
  | 0x64 => .mstat site e
  | 0x65 => .mma site e
  | 0x66 => .mdrain site e
  | 0x67 => .mrelay site e
  | 0x68 => .mchk site e
  | 0x70 => .tarrive site e
  | 0x71 => .twait site e
  | 0x72 => .ttest site e
  | 0x73 => .hasp site e
  | 0x74 => .fenceOrd site e
  | 0x75 => .fenceDone site e
  | 0x80 => .bra site e
  | 0x81 => .brx site e
  | 0x82 => .call site e
  | 0x83 => .ret site e
  | 0x84 => .exit site e
  | 0x85 => .repack site e
  | 0x86 => .nop site e
  | 0x88 => .uop site e
  | 0x89 => .uopI site e
  | 0x8a => .ucmp site e
  | 0x8b => .ucmpI site e
  | 0x90 => .sread site e
  | 0x91 => .swrite site e
  | 0x92 => .brk site e
  | _ => .nop site { e with other := some (majorOf w) }

/-- The MAJOR and the fields of a command that issues an instruction, none for any other command (R121). -/
def Instr.syram : Instr → Option (Nat × Enc)
  | .add _ e => some (0x01, e)
  | .sub _ e => some (0x02, e)
  | .mul _ e => some (0x03, e)
  | .muladd _ e => some (0x04, e)
  | .and _ e => some (0x05, e)
  | .or _ e => some (0x06, e)
  | .xor _ e => some (0x07, e)
  | .not _ e => some (0x08, e)
  | .shiftl _ e => some (0x09, e)
  | .shiftr _ e => some (0x0a, e)
  | .min _ e => some (0x0b, e)
  | .max _ e => some (0x0c, e)
  | .cmp _ e => some (0x0d, e)
  | .bitcnt _ e => some (0x0e, e)
  | .leadz _ e => some (0x0f, e)
  | .bitrev _ e => some (0x10, e)
  | .bytesel _ e => some (0x11, e)
  | .mov _ e => some (0x12, e)
  | .pick _ e => some (0x13, e)
  | .addI _ e => some (0x18, e)
  | .andI _ e => some (0x19, e)
  | .orI _ e => some (0x1a, e)
  | .xorI _ e => some (0x1b, e)
  | .shiftlI _ e => some (0x1c, e)
  | .shiftrI _ e => some (0x1d, e)
  | .cmpI _ e => some (0x1e, e)
  | .movI _ e => some (0x1f, e)
  | .fadd _ e => some (0x20, e)
  | .fsub _ e => some (0x21, e)
  | .fmul _ e => some (0x22, e)
  | .fma _ e => some (0x23, e)
  | .fmin _ e => some (0x24, e)
  | .fmax _ e => some (0x25, e)
  | .fcmp _ e => some (0x26, e)
  | .fabs _ e => some (0x27, e)
  | .fneg _ e => some (0x28, e)
  | .fcpys _ e => some (0x29, e)
  | .fsfu _ e => some (0x2a, e)
  | .cvt _ e => some (0x30, e)
  | .lxch _ e => some (0x31, e)
  | .lquery _ e => some (0x32, e)
  | .ld _ .uniform e => some (0x40, e)
  | .ld _ .indexed e => some (0x41, e)
  | .ld _ .thread e => some (0x42, e)
  | .st _ .uniform e => some (0x44, e)
  | .st _ .indexed e => some (0x45, e)
  | .st _ .thread e => some (0x46, e)
  | .zline _ .uniform e => some (0x48, e)
  | .zline _ .indexed e => some (0x49, e)
  | .zline _ .thread e => some (0x4a, e)
  | .atom _ e => some (0x50, e)
  | .lr _ e => some (0x51, e)
  | .sc _ e => some (0x52, e)
  | .mopen _ e => some (0x60, e)
  | .mclose _ e => some (0x61, e)
  | .mshape _ e => some (0x62, e)
  | .mload _ e => some (0x63, e)
  | .mstat _ e => some (0x64, e)
  | .mma _ e => some (0x65, e)
  | .mdrain _ e => some (0x66, e)
  | .mrelay _ e => some (0x67, e)
  | .mchk _ e => some (0x68, e)
  | .tarrive _ e => some (0x70, e)
  | .twait _ e => some (0x71, e)
  | .ttest _ e => some (0x72, e)
  | .hasp _ e => some (0x73, e)
  | .fenceOrd _ e => some (0x74, e)
  | .fenceDone _ e => some (0x75, e)
  | .bra _ e => some (0x80, e)
  | .brx _ e => some (0x81, e)
  | .call _ e => some (0x82, e)
  | .ret _ e => some (0x83, e)
  | .exit _ e => some (0x84, e)
  | .repack _ e => some (0x85, e)
  | .nop _ e => some (0x86, e)
  | .uop _ e => some (0x88, e)
  | .uopI _ e => some (0x89, e)
  | .ucmp _ e => some (0x8a, e)
  | .ucmpI _ e => some (0x8b, e)
  | .sread _ e => some (0x90, e)
  | .swrite _ e => some (0x91, e)
  | .brk _ e => some (0x92, e)
  | _ => none

/-- The instruction word of a command that issues an instruction. -/
def Instr.toWord (i : Instr) : Option (BitVec 64) :=
  i.syram.map (fun me => me.2.toWord (me.2.other.getD (BitVec.ofNat 8 me.1)))

/-! ### Commands as words -/

/-- The command a word spells by the table's bits: none, since no row has bits. -/
def decodeTableWord (_nbits _w : Nat) : Option Instr := none

end Sys2Proof
end

