-- ==== Sys2Proof/Machine/Bits.lean ====
section
/-! DEFINITION. Bit fields, sign extension, byte order and lane masks (R6, R9, R115). -/

namespace Sys2Proof.Machine

/-- Bits [hi:lo] of a word as a number. -/
def field {n : Nat} (w : BitVec n) (hi lo : Nat) : Nat := (w.toNat >>> lo) % 2 ^ (hi + 1 - lo)

/-- Bit `i` of a word. -/
def bitAt {n : Nat} (w : BitVec n) (i : Nat) : Bool := w.getLsbD i

/-- Bits [hi:lo] of a number. -/
def nfield (w hi lo : Nat) : Nat := (w >>> lo) % 2 ^ (hi + 1 - lo)

/-- A Bool as the number its bit holds. -/
def b2n (b : Bool) : Nat := if b then 1 else 0

/-- The signed value of the low `n` bits of `v`. -/
def signedOf (n v : Nat) : Int :=
  let m := v % 2 ^ n
  if n = 0 then 0 else if m < 2 ^ (n - 1) then (m : Int) else (m : Int) - (2 ^ n : Nat)

/-- The low `n` bits of an integer, as two's complement. -/
def wrapInt (n : Nat) (i : Int) : Nat := (i % ((2 ^ n : Nat) : Int)).toNat

/-- The number that bytes spell, byte 0 lowest (R6). -/
def bytesNat : List Byte → Nat
  | [] => 0
  | b :: bs => b.toNat + 256 * bytesNat bs

/-- The `n` bytes of a number, byte 0 lowest (R6). -/
def natBytes : Nat → Nat → List Byte
  | 0, _ => []
  | n + 1, v => BitVec.ofNat 8 v :: natBytes n (v / 256)

/-- The lanes of a mask, rising. -/
def lanesOf (m : LaneMask) : List Nat := (List.range 32).filter (fun l => m.getLsbD l)

/-- The mask of a list of lanes. -/
def maskOf : List Nat → LaneMask
  | [] => 0
  | l :: ls => (BitVec.ofNat 32 (1 <<< l)) ||| maskOf ls

/-- The lowest lane of a mask, zero where it has none. -/
def lowestLane (m : LaneMask) : Nat := (lanesOf m).headD 0

/-- A mask that holds the lanes where `p` is true. -/
def maskWhere (p : Nat → Bool) : LaneMask := maskOf ((List.range 32).filter p)

/-- Number of lanes in a mask. -/
def popcount (m : LaneMask) : Nat := (lanesOf m).length

/-- ⌈a / b⌉. -/
def ceilDiv (a b : Nat) : Nat := (a + b - 1) / b

/-- A saturating count of `width` bits, `n` added (R8). -/
def satAdd (width n : Nat) (c : Nat) (sat : Bool) : Nat × Bool :=
  let top := 2 ^ width - 1
  if c + n ≥ top then (top, true) else (c + n, sat)

/-- Whether number `a` is newer than `b` modulo 2^32 (R444). -/
def newer (a b : BitVec 32) : Bool :=
  let d := (a - b).toNat
  decide (1 ≤ d) && decide (d ≤ 2 ^ 31 - 1)

/-- Whether interface level `a` is higher than `b` (R11). -/
def levelHigher (a b : BitVec 8) : Bool := decide (a.toNat > b.toNat)

/-- The common level of two parties (R11). -/
def commonLevel (a b : BitVec 8) : BitVec 8 := if levelHigher a b then b else a

/-- The first element that satisfies `p`, with its index. -/
def findIdx {α : Type} (p : α → Bool) : Nat → List α → Option (Nat × α)
  | _, [] => none
  | i, x :: xs => if p x then some (i, x) else findIdx p (i + 1) xs

/-- A list with the element at index `i` taken out. -/
def dropAt {α : Type} : Nat → List α → List α
  | _, [] => []
  | 0, _ :: xs => xs
  | i + 1, x :: xs => x :: dropAt i xs

/-- A list with `f` applied at index `i`. -/
def modAt {α : Type} (f : α → α) : Nat → List α → List α
  | _, [] => []
  | 0, x :: xs => f x :: xs
  | i + 1, x :: xs => x :: modAt f i xs

/-- A list with `x` put in at the end unless it is there. -/
def addNew {α : Type} [DecidableEq α] (x : α) (xs : List α) : List α := if x ∈ xs then xs else xs ++ [x]

end Sys2Proof.Machine
end

