-- ==== Sys2Proof/Machine/Map.lean ====
section
/-! DEFINITION. Operations on the sparse maps of the state: keys rise strictly, a missing key reads as the default
the caller names. -/

namespace Sys2Proof

/-- The value held at key `k`. -/
def NMap.find {α : Type} (k : Nat) : NMap α → Option α
  | [] => none
  | (j, v) :: m => if j = k then some v else NMap.find k m

/-- The value at key `k`, or `d` where the map holds none. -/
def NMap.findD {α : Type} (d : α) (k : Nat) (m : NMap α) : α := (NMap.find k m).getD d

/-- The map with `v` at key `k`, keys kept in rising order. -/
def NMap.ins {α : Type} (k : Nat) (v : α) : NMap α → NMap α
  | [] => [(k, v)]
  | (j, w) :: m =>
    if k < j then (k, v) :: (j, w) :: m
    else if k = j then (k, v) :: m
    else (j, w) :: NMap.ins k v m

/-- The map without key `k`. -/
def NMap.del {α : Type} (k : Nat) : NMap α → NMap α
  | [] => []
  | (j, w) :: m => if j = k then NMap.del k m else (j, w) :: NMap.del k m

/-- The map that reads `v` at key `k`, where a missing key reads as `d`: no entry equal to `d` is kept. -/
def NMap.put {α : Type} [DecidableEq α] (d : α) (k : Nat) (v : α) (m : NMap α) : NMap α :=
  if v = d then NMap.del k m else NMap.ins k v m

/-- The map with `f` applied to the value at key `k`; unchanged where the map holds none. -/
def NMap.modify {α : Type} (k : Nat) (f : α → α) (m : NMap α) : NMap α :=
  match NMap.find k m with
  | some v => NMap.ins k (f v) m
  | none => m

/-- The map with `f` applied to the value at key `k`, a missing value standing for `d`. -/
def NMap.upd {α : Type} (d : α) (k : Nat) (f : α → α) (m : NMap α) : NMap α :=
  NMap.ins k (f (NMap.findD d k m)) m

/-- The keys held, rising. -/
def NMap.keys {α : Type} (m : NMap α) : List Nat := m.map (·.1)

/-- The values held, in key order. -/
def NMap.vals {α : Type} (m : NMap α) : List α := m.map (·.2)

/-- Whether key `k` is held. -/
def NMap.has {α : Type} (k : Nat) (m : NMap α) : Bool := (NMap.find k m).isSome

/-- Every value replaced by `f` of its key and itself. -/
def NMap.mapVals {α β : Type} (f : Nat → α → β) (m : NMap α) : NMap β := m.map (fun kv => (kv.1, f kv.1 kv.2))

/-- The entries whose key and value satisfy `p`. -/
def NMap.keep {α : Type} (p : Nat → α → Bool) (m : NMap α) : NMap α := m.filter (fun kv => p kv.1 kv.2)

/-- Whether the keys rise strictly from above `lo`. -/
def NMap.risesFrom {α : Type} (lo : Nat) : NMap α → Bool
  | [] => true
  | (j, _) :: m => decide (lo ≤ j) && NMap.risesFrom (j + 1) m

/-- The canonical form: keys rise strictly. -/
def NMap.wf {α : Type} (m : NMap α) : Bool := NMap.risesFrom 0 m

/-- The lowest key below `n` that the map does not hold, counting from `i` for `fuel` keys. -/
def NMap.freeFrom {α : Type} (i : Nat) (fuel : Nat) (m : NMap α) : Option Nat :=
  match fuel with
  | 0 => none
  | fuel + 1 => if NMap.has i m then NMap.freeFrom (i + 1) fuel m else some i

end Sys2Proof
end

