-- ==== Sys2Proof/Machine/State.lean ====
section
/-! DEFINITION. The state of the module as plain data, the reasons a step can stop, and the state after reset. -/

namespace Sys2Proof.Machine

/-- Reasons the machine stops with a fault. No command of the manual stops the module: an instruction's fault is an
effect on the context (R106), so no arm answers with this. -/
inductive Fault where
  /-- Raised by no command: the manual names no event that halts the module. Safe, for the same reason. -/
  | moduleHalted
  deriving DecidableEq, Repr

/-- Reasons the model refuses a command. -/
inductive Refusal where
  /-- Raised only by an arm of exec whose row has no meaning yet, with the row's mnemonic. Safe: nothing is claimed. -/
  | notModelled (mnemonic : String)
  deriving DecidableEq, Repr

/-! ### Addresses and accesses -/

/-- Where a translated access goes (R264, R274, R294, R451). -/
inductive Target where
  /-- cacheable LPDDR5X at a physical address -/
  | cache (pa : Nat)
  /-- uncached LPDDR5X at a physical address -/
  | uncached (pa : Nat)
  /-- a placed share granule: die, byte of its bonded SRAM, and the backing physical address of a backed share -/
  | share (die addr : Nat) (backing : Option Nat)
  /-- a span window: peer ordinal, the peer's physical address, and the cacheability of the page -/
  | window (peer pa : Nat) (cacheable : Bool)
  /-- a device range of the host map -/
  | mmio (pa : Nat)
  deriving DecidableEq, Repr, Inhabited

/-- One lane's part of an access. `reply` is what a peer answered a window request with, or what the die's LLC gave when
the line was granted for it (R300 event 7): bytes, those of the group's own earlier stores among them (R308), and poison. -/
structure LaneAcc where
  lane  : Nat
  va    : Nat
  tgt   : Target
  txid  : Option Nat := none
  reply : Option (List Byte × Bool) := none
  deriving DecidableEq, Repr, Inhabited

/-- A load, or an LR, that has issued and not bound its data (R307). -/
structure PendLoad where
  order : Nat
  pc    : DWord
  ca    : Bool
  width : Nat
  sext  : Bool
  dst   : Nat
  lr    : Bool
  lanes : List LaneAcc
  deriving DecidableEq, Repr, Inhabited

/-- One entry of a group's store buffer: the stores of one instruction to one 128-byte line (R306). -/
structure SbEntry where
  order : Nat
  va    : Nat
  tgt   : Target
  bytes : NMap Byte
  /-- ZLINE to the LLC invalidates the L1 copy, ZLINE to the L1 leaves the line valid there (R268) -/
  zline : Option Bool := none
  drain : Bool := false
  /-- written through the home without caching, by a spindle of COPY or CONVERT (R293) -/
  nocache : Bool := false
  tag   : Nat := 0
  /-- a window entry: its WRITEs have been sent, and the transaction numbers not yet acknowledged -/
  sent  : Bool := false
  txids : List Nat := []
  deriving DecidableEq, Repr, Inhabited

/-- One request of an ATOM, or of an SC to a span window: the lanes that name one address (R304). -/
structure AtomReq where
  order  : Nat
  pc     : DWord
  op     : Option AtomOp
  width  : Nat
  signed : Bool
  dst    : Nat
  tgt    : Target
  va     : Nat
  lanes  : List (Nat × DWord × DWord)
  txid   : Option Nat := none
  result : Option (List (Nat × DWord)) := none
  poison : Bool := false
  tag    : Nat := 0
  /-- the ticket under which its line's home knows a request that has to wait (R301 to R303), zero for none -/
  asked  : Nat := 0
  deriving DecidableEq, Repr, Inhabited

/-- A fence that holds the group's later accesses (R310, R311). Scopes are those of R136. -/
structure FenceWait where
  done  : Bool
  scope : Nat
  order : Nat
  lane  : Nat := 0
  deriving DecidableEq, Repr, Inhabited

/-- A reservation of a lane (R98, R312): the granule it lies on, by the place that holds it. -/
inductive Granule where
  | line (pa : Nat)
  | raw (pa : Nat)
  | share (die addr : Nat)
  | window (peer pa : Nat)
  deriving DecidableEq, Repr, Inhabited

/-! ### Thread groups and tiles -/

/-- An entry of the reconvergence stack (R60). -/
structure StackEntry where
  pc   : DWord
  rpc  : Option DWord
  mask : LaneMask
  deriving DecidableEq, Repr, Inhabited

/-- What a group waits for (R55). -/
inductive Wait where
  | none
  /-- TWAIT: local or global, identifier, tumbler (65,536 + transaction number for a peer's), value, destination
  predicate, deadline on the timebase (R138) -/
  | twait (loc : Bool) (id tumbler v pdst : Nat) (deadline : Option Nat)
  /-- TTEST until its result is written (R333) -/
  | ttest (loc : Bool) (id tumbler v pdst : Nat)
  /-- HASP at a generation of a line (R345) -/
  | hasp (line gen : Nat)
  /-- FENCE.DONE (R311) -/
  | fenceDone
  /-- a page request for an address, and the lane the access reports (R84); `fetch` for an instruction fetch -/
  | page (va lane : Nat) (fetch : Bool)
  /-- parked at a REPACK (R64) -/
  | parked
  /-- merging with the group of another place (R66) -/
  | merging (other : Nat) (receives : Bool)
  deriving DecidableEq, Repr, Inhabited

/-- A fault that has been raised and not yet taken (R106, R107): class, detail, lane, address. -/
structure FaultInfo where
  cls    : Nat
  detail : Nat
  lane   : Nat
  addr   : Nat
  pc     : DWord
  deriving DecidableEq, Repr, Inhabited

/-- A fault of a tile that waits for a merge of two of its groups (R107): the fault, the index of its group, and the
spindle whose own fault it is. -/
structure LateFault where
  info  : FaultInfo
  group : Nat := 0
  but   : Option Nat := none
  deriving DecidableEq, Repr, Inhabited

/-- A halt that waits for the group's matrix instructions in flight (R70, R502): causes, number, lane, BRK code,
address. -/
structure HaltReq where
  causes : Nat
  n      : Nat
  lane   : Nat
  brk    : Nat
  addr   : Nat
  deriving DecidableEq, Repr, Inhabited

/-- What a group's registers were when a load or an atomic issued, by the access's order: where its data come back
poisoned, the group is found as it was there (R102). -/
structure GroupRegs where
  order  : Nat
  pc     : DWord
  crpc   : Option DWord
  stack  : List StackEntry
  active : LaneMask
  t      : NMap Word
  u      : NMap DWord
  p      : NMap LaneMask
  fflags : BitVec 5
  frm    : BitVec 2
  shape  : BitVec 3
  deriving DecidableEq, Repr, Inhabited

/-- A resident thread group. Registers are sparse: t by lane × 256 + number, u by number, predicates by number as a
mask over the lanes; a missing entry reads zero (R74). -/
structure Group where
  tile    : Nat
  index   : Nat
  alloc   : Nat
  pc      : DWord
  crpc    : Option DWord := .none
  stack   : List StackEntry := []
  active  : LaneMask
  threads : LaneMask
  tids    : NMap Nat := []
  t       : NMap Word := []
  u       : NMap DWord := []
  p       : NMap LaneMask := []
  fflags  : BitVec 5 := 0
  frm     : BitVec 2 := 0
  shape   : BitVec 3 := 0
  wait    : Wait := .none
  order   : Nat := 0
  loads   : List PendLoad := []
  sb      : List SbEntry := []
  atoms   : List AtomReq := []
  /-- the registers as each pending load, and a pending atomic, found them (R102) -/
  snaps   : List GroupRegs := []
  fence   : Option FenceWait := .none
  /-- lines this group's stores left in the LLC and whose final endpoint a FENCE.DONE must reach (R311) -/
  dirtied : List Nat := []
  /-- window stores visible at the peer and not at its final endpoint: transaction number, order and address -/
  winDone : List (Nat × Nat × Nat) := []
  /-- order and address of the earliest undeliverable store (R316) -/
  undeliv : Option (Nat × Nat) := .none
  /-- reservations by lane (R98) -/
  resv    : NMap Granule := []
  halted  : Bool := false
  stepping : Bool := false
  haltReq : Option HaltReq := .none
  pending : Option FaultInfo := .none
  /-- the debugger has written the PC since the halt (R505) -/
  pcWritten : Bool := false
  /-- halted while parked: REPACK completes as a no-op when the group resumes (R67) -/
  repackHeld : Bool := false
  /-- the instruction at which the group halted does not match its breakpoint again (R509) -/
  bpSkip  : Bool := false
  deriving DecidableEq, Repr, Inhabited

/-- A local tumbler (R327). -/
structure LTumbler where
  count : Nat := 0
  s     : Bool := false
  u     : Bool := false
  deriving DecidableEq, Repr, Inhabited

/-- A partition plan (R285). -/
structure Plan where
  regions : BitVec 16 := 0
  ways    : BitVec 16 := 0
  valid   : Bool := false
  deriving DecidableEq, Repr, Inhabited

/-- A resident tile, kept at the group place its group 0 was placed in (R327), or at 48 for a spindle tile (R399). -/
structure Tile where
  ctx      : Nat
  launch   : Nat
  index    : Nat
  /-- mismatches the tile has raised so far (R228) -/
  mism     : Nat := 0
  committed : Bool := false
  coreBound : Bool := false
  /-- the logical core and physical position of its last mismatch (R232) -/
  lastAt   : Option (Nat × Nat) := none
  /-- a group ended while its region was open (R155) -/
  openMark : Bool := false
  oldest   : Bool := false
  matrix   : Bool := false
  nthread  : Nat := 0
  /-- nonce of what the tile finds undefined at its start (R109) -/
  nonce    : Nat := 0
  /-- its ward's plan as it stood when the tile started (R290) -/
  plan     : Plan := {}
  start    : Nat := 0
  /-- nanoseconds during which the budget did not advance (R503, R519) -/
  paused   : Nat := 0
  haltedAt : Option Nat := none
  budget   : Nat := 0
  overrun  : Bool := false
  lt       : NMap LTumbler := []
  /-- sends of the tile per direction, forward then backward (R208) -/
  sendSeq0 : Nat := 0
  sendSeq1 : Nat := 0
  /-- relay receives served from the retained messages, per direction (R230) -/
  served0  : Nat := 0
  served1  : Nat := 0
  drained  : Bool := false
  unchecked : Bool := false
  /-- faults raised while two groups merge (R107) -/
  late     : List LateFault := []
  deriving DecidableEq, Repr, Inhabited

/-! ### Matrix array -/

/-- The set state of R183 with the words, the residues of R214 (a missing word is the zero word, a missing residue
zero). -/
structure AccSet where
  anchor : Int := 0
  valid  : Bool := false
  unset  : Bool := false
  fast   : Bool := false
  raises : Nat := 0
  raisesat : Bool := false
  words  : NMap WideWord := []
  cc     : NMap Nat := []
  cr     : NMap Nat := []
  tot    : Nat := 0
  deriving DecidableEq, Repr, Inhabited

/-- An open matrix region (R150) and the lanes it records (R69). -/
structure Region where
  place : Nat
  shape : BitVec 3
  stat  : Bool
  lanes : LaneMask
  depth : Nat
  /-- MCLOSE has issued and not finished -/
  closing : Bool := false
  deriving DecidableEq, Repr, Inhabited

/-- A matrix instruction with its operands read at issue (R132, R162, R165, R169, R174, R205). -/
inductive MInstr where
  | mload (panelB : Bool) (fmt va coff k pitch : Nat) (pages : List (Nat × Target))
  | mstat (fmt coff scoff soff kcb : Nat) (mx : Bool)
  | mma (fmt bfmt acc : Nat) (add mx fast : Bool) (aoff boff k asoff bsoff soff : Nat)
  | mdrain (fmt acc rm va coff pitch : Nat) (toChuck : Bool) (pages : List (Nat × Target))
  | mrelay (acc : Nat) (role : BitVec 2) (dir : Bool)
  | mchk (acc pdst : Nat) (mask : LaneMask)
  | mclose
  deriving DecidableEq, Repr, Inhabited

/-- A queued or running matrix instruction. `outs` holds a memory drain's rows until it finishes, `flags` its flags,
`held` that a relay send waits for space or a receive for its message, `poison` the address of the first poisoned line
an MLOAD read. -/
structure MEntry where
  place : Nat
  order : Nat
  pc    : DWord
  lane  : Nat := 0
  instr : MInstr
  outs  : List (Nat × List Byte) := []
  flags : BitVec 5 := 0
  held  : Bool := false
  /-- a relay receive has added its message and what is left is to send; of an MCHK, every output is checked -/
  added : Bool := false
  poison : Option Nat := none
  deriving DecidableEq, Repr, Inhabited

/-- What names a relay message for the resend rule (R210). -/
structure RelayKey where
  origin : Nat
  lnum   : Nat
  tile   : Nat
  seq    : Nat
  deriving DecidableEq, Repr, Inhabited

/-- A relay message kept for the tile that accepted it, by launch and linear index (R230). -/
structure Retained where
  launch : Nat
  index  : Nat
  msg    : RelayMsg
  deriving DecidableEq, Repr, Inhabited

/-- One direction of a core's relay path: incoming queue, retained messages, last message accepted (R208 to R230). -/
structure RelayDir where
  inq      : List RelayMsg := []
  retained : List Retained := []
  last     : Option RelayKey := none
  deriving DecidableEq, Repr, Inhabited

/-! ### Spindles -/

/-- The header of a stream program (R238). -/
structure SpHdr where
  status : Nat := 0
  tsx    : Int := 0
  tsy    : Int := 0
  tsz    : Int := 0
  ndesc  : Nat := 0
  fullt  : Nat := 0
  emptt  : Nat := 0
  nbuf   : Nat := 0
  cbase  : Nat := 0
  bufsz  : Nat := 0
  deriving DecidableEq, Repr, Inhabited

/-- A descriptor of a stream program (R240). -/
structure SpDesc where
  base   : Nat := 0
  count  : List Nat := []
  stride : List Int := []
  ibase  : Nat := 0
  gather : Bool := false
  panel  : Bool := false
  dest   : Nat := 0
  bufend : Nat := 0
  sat    : Bool := false
  sfmt   : BitVec 4 := 0
  dfmt   : BitVec 4 := 0
  op     : Nat := 0
  rm     : BitVec 3 := 0
  doff   : Nat := 0
  sdoff  : Nat := 0
  deriving DecidableEq, Repr, Inhabited

/-- What a spindle runs: nothing, a stream program (R237), or its part of a COPY, CONVERT or FILL tile (R399). -/
inductive SpProg where
  | none
  | stream (addr : Nat)
  | move (src dst elems : Nat) (sfmt dfmt : BitVec 4) (rm : BitVec 3) (sat : Bool)
  | fill (dst bytes : Nat) (pattern : DWord)
  deriving DecidableEq, Repr, Inhabited

/-- How far a spindle has come (R249). -/
inductive SpPhase where
  | idle
  /-- before the header has been read and the status block checked (R257) -/
  | start
  /-- walking the elements of a descriptor -/
  | run
  /-- waiting on EMPTT before the next buffer -/
  | waitEmpt
  /-- every descriptor done, raising FULLT and waiting for the last buffers -/
  | final
  | finished
  | faulted
  deriving DecidableEq, Repr, Inhabited

/-- One of a core's four stream engines. -/
structure Spindle where
  prog    : SpProg := .none
  phase   : SpPhase := .idle
  hdr     : SpHdr := {}
  desc    : SpDesc := {}
  /-- descriptor index, and elements of the descriptor done -/
  di      : Nat := 0
  pos     : Nat := 0
  /-- half-bytes of output of the descriptor so far (stores, scale stores), and write pointer in half-bytes -/
  outPos  : Nat := 0
  wp      : Nat := 0
  /-- whether the current chuck-ring buffer has been started, and its index in the ring -/
  bufOpen : Bool := false
  buf     : Nat := 0
  /-- MX blocks written into the current buffer (panel number, R248) -/
  panelNo : Nat := 0
  started : Nat := 0
  ended   : Nat := 0
  raised  : Nat := 0
  flags   : BitVec 5 := 0
  fills   : Nat := 0
  fillsat : Bool := false
  elems   : Nat := 0
  elemsat : Bool := false
  loss    : Nat := 0
  losssat : Bool := false
  pageWait : Option Nat := none
  /-- the condition of the EMPTT wait under way has held since it started (R331) -/
  met     : Bool := false
  deriving DecidableEq, Repr, Inhabited

/-! ### Cores -/

/-- A breakpoint (R508). -/
structure Breakpoint where
  addr : DWord := 0
  ctl  : DWord := 0
  deriving DecidableEq, Repr, Inhabited

/-- A group's tumbler operation on its way to the core's own unit, in arrival order (R328). -/
structure LocalOp where
  tile    : Nat
  id      : Nat
  op      : TumOp
  place   : Nat
  deriving DecidableEq, Repr, Inhabited

/-- A store or an atomic issued by a group that has ended or been stopped (R106): it still completes. -/
structure Orphan where
  ctx    : Nat
  launch : Nat
  store  : Option SbEntry := none
  atom   : Option AtomReq := none
  /-- WAYS of the plan its tile ran under (R290) -/
  ways   : BitVec 16 := 0
  deriving DecidableEq, Repr, Inhabited

/-- A read of a peer's line that a spindle (owner 0 to 3), the array's MLOAD (owner 4) or the instruction fetch of a group
(owner 5 + place) has asked for (R453). -/
structure WinRead where
  owner : Nat
  peer  : Nat
  line  : Nat
  txid  : Nat
  reply : Option (List Byte × Bool) := none
  deriving DecidableEq, Repr, Inhabited

/-- A line read of a spindle, an MLOAD or an instruction fetch (owners as in `WinRead`) that the die's LLC serves (R270,
R574): WAYS of the tile's plan, and the data with its poison mark once the LLC has given them. -/
structure LineRead where
  owner : Nat
  ways  : BitVec 16
  line  : Nat
  reply : Option (List Byte × Bool) := none
  deriving DecidableEq, Repr, Inhabited

/-- A tile that a fault of its own has stopped in this beat: what its spindles and its budget were, so that a second
fault of the same beat still counts in MORE (R260, R366). -/
structure GoneTile where
  key      : Nat
  time     : Nat
  tag      : Nat
  tile     : Tile
  spindles : NMap Spindle
  deriving DecidableEq, Repr, Inhabited

/-- A logical core. -/
structure Core where
  groups   : NMap Group := []
  tiles    : NMap Tile := []
  /-- round-robin pointer of paired mode (R57) -/
  rr       : Nat := 0
  /-- for each context with a tile here, since when (R371) -/
  since    : NMap Nat := []
  lastWard : Option Nat := none
  lastLaunch : Option Nat := none
  /-- L1 data cache: line key to its 128 bytes (R266); key of a cacheable line is its address -/
  l1       : NMap (List Byte) := []
  /-- instruction-cache lines by physical address (R574) -/
  icache   : List Nat := []
  chuck    : NMap Byte := []
  stores   : NMap Byte := []
  scales   : NMap Byte := []
  /-- recorded formats of the granules, cell × 32 + granule (R168) -/
  fmts     : NMap (BitVec 4) := []
  /-- checksum stores, row × 512 + entry, and 16,384 further on the same with the elements' MX scales (R217) -/
  ckstore  : NMap Nat := []
  /-- nonce of the tile whose writes the stores above hold (R109) -/
  undef    : Nat := 0
  region   : Option Region := none
  queue    : List MEntry := []
  running  : List MEntry := []
  acc      : NMap AccSet := []
  fwd      : RelayDir := {}
  bwd      : RelayDir := {}
  spindles : NMap Spindle := []
  ltq      : List LocalOp := []
  orphans  : List Orphan := []
  winreads : List WinRead := []
  lineReads : List LineRead := []
  /-- the last tile that a fault of its own stopped here (R260, R366) -/
  gone     : Option GoneTile := none
  /-- a second consecutive mismatch or a third in 10 s has been found: no new tile (R232) -/
  retiring : Bool := false
  mismAt   : List Nat := []
  bps      : NMap Breakpoint := []
  wps      : NMap Breakpoint := []
  deriving DecidableEq, Repr, Inhabited

/-! ### Tumblers, hasp lines -/

/-- A global tumbler (R321). -/
structure Tumbler where
  count : Nat := 0
  s     : Bool := false
  u     : Bool := false
  m     : Bool := false
  armed : Bool := false
  armNext : Bool := false
  owner : Nat := 0
  ward  : Nat := 0
  armV  : Nat := 0
  deriving DecidableEq, Repr, Inhabited

/-- Who made a tumbler operation or waits for one. -/
inductive TumSrc where
  | group (site : Site)
  | ring (r : RingId)
  | fence (r : RingId)
  | peer (ordinal txid : Nat)
  deriving DecidableEq, Repr, Inhabited

/-- An operation on its way to the tumbler unit (R332). -/
structure TumReq where
  src     : TumSrc
  tumbler : Nat
  op      : TumOp
  deriving DecidableEq, Repr, Inhabited

/-- A wait held at the tumbler unit. -/
structure TumWaiter where
  src     : TumSrc
  tumbler : Nat
  v       : Nat
  deriving DecidableEq, Repr, Inhabited

/-- A hasp line in use (R343 to R345): its LAUNCH, the cores of its bound span in the launch's terms, its generation,
the tiles (by linear index) arrived, and the groups arrived of each tile. -/
structure Hasp where
  launch  : Nat
  cores   : List (Nat × Nat)
  gen     : Nat := 0
  /-- (tile index, group index) pairs that have arrived at the current generation -/
  arrived : List (Nat × Nat) := []
  /-- tiles of this module that have ended or been stopped without replay (R348) -/
  gone    : List Nat := []
  /-- members whose HASPARR for the current generation the master holds (R349) -/
  members : List Nat := []
  /-- the local part has resolved and its arrival has been sent -/
  sent    : Bool := false
  deriving DecidableEq, Repr, Inhabited

/-! ### Contexts, rings, launches -/

/-- A share run of a context (R273) and where its granules lie: granule number of the run to (die, granule). -/
structure ShareRun where
  vbase  : Nat
  lbase  : Nat
  ngran  : Nat
  scratch : Bool
  rdonly : Bool
  die    : Nat
  anydie : Bool
  resident : Bool := false
  /-- copies and zeroing are done; before that, accesses are served from LBASE (R470) -/
  filled : Bool := false
  placed : NMap Nat := []
  /-- the translation of the LBASE range as it stood when the run became resident (R274): page of the run to physical
  page; a page that was not mapped readable and writable is missing -/
  backs  : NMap Nat := []
  slot   : Nat := 0
  deriving DecidableEq, Repr, Inhabited

/-- A decoded entry of a tumbler map (R324), with the foreign mark of R325. -/
structure TmapEntry where
  index   : Nat
  peer    : Nat
  remote  : Bool
  shared  : Bool
  foreign : Bool
  deriving DecidableEq, Repr, Inhabited

/-- A saturating count and its flag (R8). -/
structure SatCount where
  n   : Nat := 0
  sat : Bool := false
  deriving DecidableEq, Repr, Inhabited

/-- The usage counts of R371. -/
structure Usage where
  tiles    : SatCount := {}
  corens   : SatCount := {}
  mbeats   : SatCount := {}
  resns    : SatCount := {}
  overruns : SatCount := {}
  deriving DecidableEq, Repr, Inhabited

/-- How far a fetched command has come. -/
inductive CmdState where
  | fetched
  | started
  /-- a WAIT that holds the ring: fence or tumbler wait in progress (R401) -/
  | waiting
  /-- ended: status, detail, info and flags of its completion entry (R389) -/
  | ended (status detail : Nat) (info : DWord) (flags : BitVec 5)
  deriving DecidableEq, Repr, Inhabited

/-- A command fetched and not completed (R376, R382). -/
structure Cmd where
  count  : Nat
  desc   : BitVec 512
  tag    : Nat := 0
  state  : CmdState := .fetched
  /-- handle-table indexes the command pins, one for each time it names the entry (R369) -/
  pins   : List Nat := []
  start  : Nat := 0
  /-- value a fence WAIT last read -/
  seen   : DWord := 0
  /-- the launch of a command that places tiles (R384) -/
  launch : Option Nat := none
  /-- a check of a tumbler asked of a peer: its transaction number, and the answer (R325) -/
  ask    : Option Nat := none
  answer : Option Bool := none
  /-- the tumbler a fence WAIT is bound to: the peer that holds it, or none for this module, and its number (R340) -/
  bound  : Option (Option Nat × Nat) := none
  deriving DecidableEq, Repr, Inhabited

/-- A ring and the front end's place in it (R373 to R382). -/
structure Ring where
  rbase   : Nat := 0
  rlog2   : Nat := 6
  clog2   : Nat := 6
  ovirq   : Bool := false
  dbell   : Nat := 0
  cbase   : Nat := 0
  msiaddr : Nat := 0
  msidata : Nat := 0
  head    : Nat := 0
  tail    : Nat := 0
  ctail   : Nat := 0
  chead   : Nat := 0
  waitdb  : Bool := false
  dberr   : Bool := false
  tries   : Nat := 0
  reread  : Bool := false
  lost    : Bool := false
  cmds    : List Cmd := []
  pageWait : Option Nat := none
  /-- the doorbell line is still to be read: a page it lies in was missing, or the admin ring came first (R380, R405, R576) -/
  dbOwed  : Bool := false
  /-- overrun entries that wait for a page: command and tile (R388, R576) -/
  owed    : List (Cmd × Nat) := []
  deriving DecidableEq, Repr, Inhabited

/-- The states of a context (R357). -/
inductive CtxState where
  | off | idle | loading | resident | evicting | faulted | invalid
  deriving DecidableEq, Repr, Inhabited

/-- What the front end holds of a context: its descriptor (R356), state, rings, shares and counts. -/
structure Ctx where
  ward    : Nat := 0
  pasid   : Nat := 0
  nring   : Nat := 0
  prio    : Nat := 0
  prqdis  : Bool := false
  pinned  : Bool := false
  budget  : Nat := 0
  waketol : Nat := 0
  ringtab : Nat := 0
  faultrec : Nat := 0
  tmap    : Nat := 0
  htab    : Nat := 0
  hlog2   : Nat := 0
  slist   : Nat := 0
  /-- from the ward entry (R354): plan, slot limit, granule limit in units of 8, highest priority -/
  plan    : Nat := 0
  wslots  : Nat := 0
  gran8   : Nat := 0
  /-- the descriptor's own priority, which PRIOMAX of the ward bounds (R354, R356) -/
  ownPrio : Nat := 0
  state   : CtxState := .off
  cause   : Nat := 0
  slot    : Nat := 0
  rings   : NMap Ring := []
  map     : NMap TmapEntry := []
  /-- the map has been read for the residency under way; checks asked of peers, by transaction number and identifier
  (R325, R362) -/
  mapRead : Bool := false
  mapAsk  : List (Nat × Nat) := []
  shares  : List ShareRun := []
  usage   : Usage := {}
  counters : NMap SatCount := []
  lastEnd : Nat := 0
  /-- the activation waits for a page of the ring table (R358, R576) -/
  activating : Bool := false
  /-- deactivation asked for by FE.CTXOFF and not finished (R359) -/
  leaving : Bool := false
  /-- counter and slot of the last ring the front end took a tile from (R385) -/
  lastRing : Nat := 0
  /-- changes of PINS that wait for a page: entry, and whether it rises; fault records that do: tag and record (R108, R369,
  R576) -/
  owedPins : List (Nat × Bool) := []
  owedFaults : List (Nat × Nat) := []
  deriving DecidableEq, Repr, Inhabited

/-- A slot entry (R360). -/
structure Slot where
  ctx    : Nat := 0
  state  : Nat := 0
  ward   : Nat := 0
  since  : Nat := 0
  rtiles : Nat := 0
  grans  : Nat := 0
  /-- the context that the eviction under way is for (R361) -/
  want   : Option Nat := none
  deriving DecidableEq, Repr, Inhabited

/-- What kind of tiles a tile-placing command is cut into (R384). -/
inductive LaunchKind where
  | launch
  | copy (src dst len : Nat) (sfmt dfmt : BitVec 4) (rm : BitVec 3) (sat : Bool)
  | fill (dst len : Nat) (pattern : DWord)
  deriving DecidableEq, Repr, Inhabited

/-- A tile waiting to be placed again (R228, R234). -/
structure Replay where
  index : Nat
  mism  : Nat
  /-- the core it must run on, or none for any other core of the span -/
  on    : Option Nat
  notOn : Option Nat := none
  /-- the tile is bound to its core (R228) -/
  bound : Bool := false
  /-- a run of the tile has issued MRELAY or read sr.core, sr.die or sr.spanrank (R228) -/
  coreBound : Bool := false
  /-- the logical core and physical position of its last mismatch (R232) -/
  lastAt : Option (Nat × Nat) := none
  deriving DecidableEq, Repr, Inhabited

/-- A command that places tiles, from its start to its completion (R385, R393, R399, R456). -/
structure Launch where
  ctx     : Nat
  ring    : Nat
  count   : Nat
  kind    : LaunchKind := .launch
  /-- the command has started (R383) -/
  go      : Bool := false
  fields  : LaunchFields := {}
  /-- the ordinal of the origin module when this module only serves the LAUNCH -/
  origin  : Option Nat := none
  scid    : Nat := 0
  /-- the cores of the span in relay-chain order, as (module ordinal, logical core) (R30) -/
  chain   : List (Nat × Nat) := []
  /-- the chain as it stood when the launch was checked: whose core each tile's is (R344) -/
  homes   : List (Nat × Nat) := []
  hasps   : NMap (List (Nat × Nat)) := []
  sprogs  : List Nat := []
  total   : Nat := 0
  next    : Nat := 0
  /-- indexes handed to this module and not yet placed (R456) -/
  pool    : List Nat := []
  placedAll : Bool := false
  ended   : Nat := 0
  failed  : Nat := 0
  fenced  : Nat := 0
  stopped : Nat := 0
  replays : List Replay := []
  flags   : BitVec 5 := 0
  faulted : Bool := false
  hostReset : Bool := false
  cancelled : Bool := false
  peerLost : Option Nat := none
  /-- members that have refused PLACE (R458) -/
  refused : List Nat := []
  /-- a member of the span was lost: no tile is placed any more (R449) -/
  spanLost : Bool := false
  /-- at a member: a PULL is out, the origin has no more indexes, batches given and not reported (R456, R457) -/
  pulled   : Bool := false
  noMore   : Bool := false
  batches  : List (Nat × List Nat) := []
  /-- at a member: handle-table indexes the served LAUNCH pins (R369) -/
  pins     : List Nat := []
  memFault : Option (Nat × Nat) := none
  /-- tile indexes of each member still out, for the origin -/
  out     : NMap Nat := []
  tag     : Nat := 0
  /-- lines the launch's stores left in an LLC, and window stores visible and not at their final endpoint (R386) -/
  dirtied : List Nat := []
  winDone : List Nat := []
  deriving DecidableEq, Repr, Inhabited

/-- The front end (R372 to R407) and the FE, WD and CT base registers (R546). -/
structure FrontEnd where
  en       : Bool := false
  mirror   : Bool := false
  badring  : Bool := false
  ctxbase  : Nat := 0
  slotbase : Nat := 0
  ringbase : Nat := 0
  wardbase : Nat := 0
  ctbase   : Nat := 0
  admin    : Ring := {}
  ctxs     : NMap Ctx := []
  slots    : NMap Slot := []
  launches : NMap Launch := []
  nextKey  : Nat := 0
  lnum     : Nat := 0
  plans    : NMap Plan := []
  lastCtx  : Nat := 0
  /-- a SNAPSHOT in progress: the time it froze the module, and whether the capture is taken (R519) -/
  frozen   : Option Nat := none
  /-- the last MSI sent for each ring, address and data: ring 0 is the admin ring, 8 × context + ring + 1 the others
  (R407) -/
  lastMsi  : NMap (Nat × Nat) := []
  deriving DecidableEq, Repr, Inhabited

/-! ### Memory and coherence -/

/-- LPDDR5X contents: bytes by physical address, what an unlisted byte reads as given by `gen` (0: zero, R523;
otherwise undefined, R550) and, in the host boot region, by `boot` (0: nothing loaded; otherwise the image that the keeper
copied there, R411), and the poisoned lines (R282). -/
structure Mem where
  gen    : Nat := 0
  boot   : Nat := 0
  cells  : List Host.Cell := []
  poison : List Nat := []
  deriving DecidableEq, Repr, Inhabited

/-- The states of a line in a coherent agent (R293); invalid lines are not listed. -/
inductive Mesi where
  | m | e | s
  deriving DecidableEq, Repr, Inhabited

/-- A line a coherent agent holds. `transient` marks a line granted to a requester that may not allocate (R288). -/
structure CLine where
  st     : Mesi
  bytes  : List Byte
  poison : Bool := false
  tag    : Nat := 0
  way    : Nat := 0
  transient : Bool := false
  /-- an LR holds the answer to a snoop of this line (R314) -/
  hold   : Bool := false
  deriving DecidableEq, Repr, Inhabited

/-- A line's bytes on their way, with the poison mark and the epoch tag of the last writer (R282, R417). -/
structure LineData where
  bytes  : List Byte
  poison : Bool := false
  tag    : Nat := 0
  deriving DecidableEq, Repr, Inhabited

/-- A stop's answer to a snoop (R300 event 5): region-empty flag, clean copy kept shared, dirty data. -/
structure SnoopAnswer where
  stop   : Nat
  /-- when it was sent (R299) -/
  seq    : Nat := 0
  empty  : Bool := false
  kept   : Bool := false
  dirty  : Option LineData := none
  deriving DecidableEq, Repr, Inhabited

/-- An open transaction of a home (R300): the requester's stop, what it asked for, and the way of its LLC that waits for
the line, 16 where its ward may allocate none (R288). -/
structure Txn where
  stop    : Nat
  kind    : CohKind
  way     : Nat := 0
  /-- stops that have not received the snoop, and stops whose answer has not arrived -/
  toSnoop : List Nat := []
  toAnswer : List Nat := []
  /-- answers under way -/
  answers : List SnoopAnswer := []
  dirty   : Option LineData := none
  memData : Option LineData := none
  shared  : Bool := false
  granted : Bool := false
  /-- the atomic the home's own atomic unit opened it for (R303), zero for a coherent request -/
  ticket  : Nat := 0
  /-- when its snoops were sent, and its done (R299) -/
  seq     : Nat := 0
  doneSeq : Nat := 0
  deriving DecidableEq, Repr, Inhabited

/-- A refused request held in a home's retry table (R301); `called` once proceed has been sent (R302). -/
structure Retry where
  stop : Nat
  line : Nat
  kind : CohKind
  way  : Nat
  called : Bool := false
  /-- when proceed was sent (R299) -/
  calledAt : Nat := 0
  /-- the atomic that waits (R303), zero for a coherent request -/
  ticket : Nat := 0
  deriving DecidableEq, Repr, Inhabited

/-- A write on its way to a memory controller (R271, R418). -/
structure MemWrite where
  line  : Nat
  bytes : NMap Byte
  poison : Bool := false
  tag   : Nat := 0
  /-- the stop or, from 32, the home that sent it (R299) -/
  src   : Nat := 0
  /-- the die whose victim this is and the line its miss waits for (R271) -/
  victim : Option (Nat × Nat) := none
  deriving DecidableEq, Repr, Inhabited

/-- A die LLC miss that waits for its dirty victim's acceptance (R271). -/
structure Miss where
  stop : Nat
  line : Nat
  kind : CohKind
  way  : Nat
  accepted : Bool := false
  deriving DecidableEq, Repr, Inhabited

/-- A filter entry being reclaimed: the region and the stops that have not answered (R298). -/
structure BackInv where
  region : Nat
  stops  : List Nat
  /-- when it was sent (R299) -/
  seq    : Nat := 0
  deriving DecidableEq, Repr, Inhabited

/-- The coherent agents and home agents (R293 to R303), and writes under way. -/
structure Coherence where
  caches  : NMap (NMap CLine) := []
  txns    : NMap Txn := []
  retries : List Retry := []
  misses  : List Miss := []
  /-- presence filters: region to its 11 bits, most recently used region last (R297) -/
  filter  : List (Nat × BitVec 11) := []
  backInv : List BackInv := []
  /-- lines in the homes' atomic buffers, least recently used first (R303) -/
  atomBuf : List Nat := []
  sent    : List MemWrite := []
  /-- reservations held here for peers' LRs: the peer's ordinal, its lane as the message names it, the granule (R294) -/
  peerResv : List (Nat × Nat × Granule) := []
  /-- granules at a memory or SRAM controller that an LR holds: other stores and atomics to them wait (R314) -/
  holds   : List Granule := []
  /-- the last ticket of an atomic, and the number of messages sent (R299, R303); both the model's own -/
  ticket  : Nat := 0
  seq     : Nat := 0
  deriving DecidableEq, Repr, Inhabited

/-- A record of the IOMMU's fault queue (R262): process, address, DETAIL of the fault. -/
structure IoFault where
  pasid  : Nat
  va     : Nat
  detail : Nat
  deriving DecidableEq, Repr, Inhabited

/-- The IOMMU of the accelerator side (R261 to R265). -/
structure Iommu where
  dev    : DevCtx := {}
  faultq : List IoFault := []
  leaves : List Leaf := []
  /-- leaves the tables no longer hold and a translation cache may (R265) -/
  stale  : List Leaf := []
  valid  : List Nat := []
  /-- page requests sent and not answered: process, address (R84) -/
  requests : List (Nat × Nat) := []
  /-- pages whose request the host answered with failure, until the requester has seen it -/
  failed   : List (Nat × Nat) := []
  /-- leaves an IOTINVAL has invalidated and no IOFENCE.C has completed for -/
  invalidated : List Leaf := []
  deriving DecidableEq, Repr, Inhabited

/-- Memory set-up: share ways, plans, regions and the bonded SRAM (R269, R284, R548). -/
structure MemSys where
  mem       : Mem := {}
  /-- bonded SRAM bytes of the shares by die × 6 GiB + byte; a missing byte reads zero, or undefined by scratch rule -/
  sram      : NMap Byte := []
  sramPoison : List Nat := []
  /-- for the bytes of scratch shares that a tile has written, the draw counter at the write (R109) -/
  stamps    : NMap Nat := []
  shareways : NMap Nat := []
  hostplan  : Nat := 0
  arm       : Bool := false
  dropped   : Bool := false
  staged    : NMap (BitVec 24) := []
  inForce   : NMap (BitVec 24) := []
  /-- the physical addresses of ECC errors that the controllers logged, and whether each was uncorrectable (R282) -/
  eccLog    : List (Nat × Bool) := []
  /-- the clock-domain FIFOs of the LPDDR5X controllers, by controller: half lines on their way to and from the devices
  (R39) -/
  lpOut     : NMap (List (BitVec 512)) := []
  lpIn      : NMap (List (BitVec 512)) := []
  /-- TM.SEL (R548) -/
  tmSel     : Nat := 0
  /-- device and die positions where a paused scrub resumes; devices and dies with a pass asked for (R475) -/
  fastScrub : List Nat := []
  deriving DecidableEq, Repr, Inhabited

/-! ### Host, hinge, retention -/

/-- The architectural state of a host hart (R408, R409): program counter, integer, floating and 256-bit vector registers,
CSRs, privilege mode and V bit, the 8 triggers of Sdtrig, the line it has reserved by LR (R320), and its cycle counter of
issue beats. No command of the table executes a host instruction, so most of it rests at its reset value (log 135). -/
structure Hart where
  running  : Bool := false
  pc       : DWord := 0
  xregs    : NMap DWord := []
  fregs    : NMap DWord := []
  vregs    : NMap (BitVec 256) := []
  csrs     : NMap DWord := []
  priv     : BitVec 2 := 3
  virt     : Bool := false
  triggers : NMap (DWord × DWord) := []
  resv     : Option Nat := none
  cycles   : DWord := 0
  deriving DecidableEq, Repr, Inhabited

/-- A host access to cacheable memory that waits for its lines: hart, access, the pieces of it that lie in one line each and
are not performed, and the bytes read so far. -/
structure HostReq where
  hart : Nat
  acc  : HostAcc
  rest : List (Nat × Nat)
  got  : List Byte := []
  deriving DecidableEq, Repr, Inhabited

/-- A host root port (R39, R414): lanes the link has trained to, zero while it is down, its IOMMU keyed by requester ID,
whether that IOMMU is in its Bare mode, and the clock-domain FIFOs in and out. -/
structure RootPort where
  width : Nat := 0
  bare  : Bool := true
  io    : Iommu := {}
  inq   : List (BitVec 512) := []
  outq  : List (BitVec 512) := []
  deriving DecidableEq, Repr, Inhabited

/-- The registers of an IMSIC interrupt file that a hart reaches through its own CSRs (R408, R412): delivery, threshold and
the identities enabled. -/
structure ImsicFile where
  delivery  : Nat := 0
  threshold : Nat := 0
  enabled   : List Nat := []
  deriving DecidableEq, Repr, Inhabited

/-- The host side: harts, pending interrupts, poison register, epoch and retention table (R408 to R429, R558). -/
structure Hinge where
  epoch    : BitVec 32 := 1
  up       : Bool := true
  retrain  : Bool := false
  quiescing : Bool := false
  waitEpoch : Bool := false
  retrains : SatCount := {}
  hartrun  : DWord := 1
  hartrunHi : BitVec 8 := 0
  poisonAddr : Nat := 0
  poisonMore : Bool := false
  poisonValid : Bool := false
  /-- APLIC sources pending (R413), by source number -/
  aplic    : List Nat := []
  /-- registers of the APLIC's two domains, by domain × 32,768 + offset (R413) -/
  aplicRegs : NMap Nat := []
  /-- compare values of the MTIMER, by hart (R410) -/
  mtimecmp : NMap DWord := []
  harts    : NMap Hart := []
  rports   : NMap RootPort := []
  /-- host accesses that wait for a line -/
  hostq    : List HostReq := []
  /-- IMSIC interrupts pending: file address and identity (R391) -/
  imsic    : List (Nat × Nat) := []
  imsicFiles : NMap ImsicFile := []
  /-- the last host access answered: data, or an access fault of the kind (R410, R416) -/
  hostData : List Byte := []
  hostFault : Option HostKind := none
  /-- the last inbound DMA answered: data, EP bit, unsupported request (R415, R416) -/
  dmaData  : List Byte := []
  dmaEp    : Bool := false
  dmaUr    : Bool := false
  /-- writes the hinge has passed on to devices: address, byte list (R294) -/
  mmioOut  : List (Nat × List Byte) := []
  rtBase   : NMap DWord := []
  rtLimit  : NMap DWord := []
  hostInReset : Bool := false
  /-- the trigger time of a hinge-loss reset in progress -/
  since    : Nat := 0
  tilesStopped : Bool := false
  deriving DecidableEq, Repr, Inhabited

/-! ### Amixis and spans -/

/-- An Amixis port (R430 to R436). -/
structure Port where
  seated   : Bool := false
  trained  : Bool := false
  foreign  : Bool := false
  /-- lanes in use, and lanes taken out of use by a failure -/
  lanes    : List Nat := []
  failed   : List Nat := []
  up       : Bool := false
  /-- what the partner's HELLO told: its SPANID and itself (R431), and the common Amixis level (R461) -/
  partnerSpan : BitVec 32 := 0
  partner  : Option ModInfo := none
  level    : BitVec 8 := 0
  txSeq    : BitVec 16 := 0
  rxSeq    : BitVec 16 := 0
  /-- sequence numbers sent and not acknowledged, oldest first (R434) -/
  unacked  : List (BitVec 16) := []
  /-- the flit last retried and how often (R434), and flits that are being sent again -/
  retryAt  : Option (BitVec 16) := none
  retries  : Nat := 0
  resend   : Nat := 0
  /-- the receiver drops flits until the retransmission arrives -/
  dropping : Bool := false
  /-- credits held and flits waiting to be sent, by virtual channel (R436) -/
  credits  : NMap Nat := []
  waiting  : NMap Nat := []
  /-- link latency in ns, measured at training (R45) -/
  latency  : Nat := 0
  /-- the clock-domain FIFOs to and from the PHY, of one flit an entry (R39) -/
  txFifo   : List (BitVec 1024) := []
  rxFifo   : List (BitVec 1024) := []
  deriving DecidableEq, Repr, Inhabited

/-- The operands of a message this module sends (R439). -/
inductive MsgBody where
  | hello (spanId : BitVec 32) (info : ModInfo)
  | announce (known : List ModInfo)
  | join (info : ModInfo)
  | roster (members : List RosterEntry) (levels : Levels)
  | leave
  | lost (member : Nat)
  | linkdown (a b : Nat)
  | heartbeat (levels : Levels)
  | levelprep (levels : Levels)
  | levelcommit (levels : Levels)
  | levelprepReply
  | place (scid : Nat) (fields : LaunchFields)
  | placeRefusal (lnum : Nat)
  | joinRefusal (reason : JoinReason)
  | pull (lnum : Nat)
  | batch (lnum : Nat) (tiles : List Nat)
  | tiledone (lnum : Nat) (report : BatchReport) (faulted : Bool)
  | hasparr (line gen : Nat)
  | hasprel (line gen : Nat)
  | tarrive (tumbler ctx : Nat) (op : TumOp)
  | twake (outcome : Bool)
  | tmapchk (tumbler ctx : Nat) (shared : Bool)
  | tbsync (time : DWord)
  | read (pa len : Nat) (cacheable : Bool)
  | write (pa : Nat) (bytes : List Byte) (cacheable wantDone : Bool)
  | atomic (pa width : Nat) (op : AtomOp) (signed : Bool) (operands : List (DWord × DWord)) (cacheable : Bool)
  | lr (pa width who : Nat) (cacheable : Bool)
  | sc (pa : Nat) (bytes : List Byte) (who : Nat) (cacheable : Bool)
  | data (bytes : List Byte) (poison : Bool)
  | visack
  | doneack
  | deny
  | relay (msg : RelayMsg)
  | bulkwrite (pa : Nat) (bytes : List Byte) (cacheable wantDone : Bool)
  | bulkdata (bytes : List Byte) (poison : Bool)
  | retryRequest (ack : BitVec 16)
  deriving DecidableEq, Repr, Inhabited

/-- A message sent: destination ordinal (or port for link-level and pre-span messages), header fields, operands. A
message passed on for another member keeps its source (R446). -/
structure OutMsg where
  dst   : Nat
  port  : Option Nat := none
  src   : Option Nat := none
  txid  : Nat := 0
  epoch : BitVec 32 := 0
  ward  : Nat := 0
  body  : MsgBody
  deriving DecidableEq, Repr, Inhabited

/-- The states of SP.SPANSTAT (R552). -/
inductive SpanState where
  | off | forming | member | refused | isolated | leaving | left
  deriving DecidableEq, Repr, Inhabited

/-- A hasp message of a newer epoch, held until it is adopted (R445). -/
structure HeldHasp where
  line  : Nat
  rel   : Bool
  src   : Nat
  gen   : Nat
  epoch : BitVec 32
  deriving DecidableEq, Repr, Inhabited

/-- What the master knows of a hasp line that it takes no part in: the generation, the free draw that says which members
take part, and the members that have arrived (R349). -/
structure FarHasp where
  gen     : Nat := 0
  nonce   : Nat := 0
  members : List Nat := []
  deriving DecidableEq, Repr, Inhabited

/-- The module's part in a module span (R440 to R464, R551 to R553). -/
structure Span where
  en       : Bool := false
  cfgMaster : Bool := false
  replace  : Bool := false
  cfgOrd   : Nat := 0
  cfgSpanId : BitVec 32 := 0
  /-- the SPANID of the span formed or joined: a write of SP.SPANCFG takes effect at the next join (R440) -/
  spanId   : BitVec 32 := 0
  state    : SpanState := .off
  master   : Bool := false
  reason   : Nat := 0
  ord      : Nat := 0
  epoch    : BitVec 32 := 0
  levels   : Levels := {}
  known    : List ModInfo := []
  lastNews : Nat := 0
  masterOrd : Nat := 0
  roster   : List RosterEntry := []
  reserved : List Nat := []
  /-- last heartbeat heard of each member (at the master), and of the master -/
  heard    : NMap Nat := []
  memLevels : NMap Levels := []
  masterHeard : Nat := 0
  lastBeat : Nat := 0
  /-- a level commit in progress: the levels and the members that have replied (R462) -/
  prep     : Option (Levels × List Nat) := none
  /-- this member has stopped injecting for a LEVELPREP, and owes the reply until its messages are answered -/
  stalled  : Bool := false
  replyOwed : Bool := false
  /-- levels to be lowered by SP.SPANCTL while a commit is in progress: interface and level (R463) -/
  lowers   : List (Nat × BitVec 8) := []
  held     : List HeldHasp := []
  /-- hasp arrivals at the master for lines it does not itself take part in -/
  haspAll  : NMap FarHasp := []
  wintab   : Nat := 0
  sctab    : Nat := 0
  /-- requests sent and not answered: transaction number and the peer -/
  txids    : List (Nat × Nat) := []
  nextTx   : Nat := 0
  /-- LEAVE has been sent (R527 event 4) -/
  leaveSent : Bool := false
  /-- apertures of SP.WININV writes that are not complete (R451) -/
  invs     : List Nat := []
  deriving DecidableEq, Repr, Inhabited

/-! ### Power, thermal, bring-up, security, debug -/

/-- The four states of a power domain (R466). -/
inductive DomState where
  | idle | clamped | logicOff | off
  deriving DecidableEq, Repr, Inhabited

/-- A record of a supply excursion being written (R477): its address, the tiles in flight by core and key that have not
ended, how many there are in all, the entries written, and whether the excursion has closed. -/
structure ExcRec where
  addr   : Nat := 0
  left   : List (Nat × Nat) := []
  tiles  : Nat := 0
  nent   : Nat := 0
  closed : Bool := false
  deriving DecidableEq, Repr, Inhabited

/-- Power control (R465 to R478, R551). -/
structure Power where
  domains  : NMap DomState := []
  waking   : List Nat := []
  cap      : Nat := 2800
  op       : BitVec 2 := 1
  vset     : Nat := 0
  hosttol  : Nat := 0
  vnow     : Nat := 34
  /-- VCOMP itself on its way to the setpoint, in the setpoint's steps, and the nanoseconds since its last step (R36) -/
  vcomp    : Nat := 34
  vphase   : Nat := 0
  caplim   : Bool := false
  therm    : Bool := false
  swarn    : Bool := false
  exc      : Bool := false
  excno    : BitVec 32 := 0
  energy   : SatCount := {}
  excbase  : Nat := 0
  /-- the open excursion: the rail that crossed first, its lowest mV, the time it opened -/
  excRail  : Nat := 0
  excMin   : Nat := 0
  excStart : Nat := 0
  /-- records being written: the open excursion's last, and those whose tiles have not all ended (R477) -/
  recs     : List ExcRec := []
  /-- rail voltages in mV (R567), temperatures in degrees C (R569) -/
  rails    : NMap Nat := []
  temps    : Temps := []
  hot      : Bool := false
  /-- COOL: the outlet limit, and the limit of the difference -/
  coolOut  : Bool := false
  coolDiff : Bool := false
  tripBefore : Bool := false
  tripLatch : Bool := false
  pin      : Nat := 0
  vin      : Nat := 0
  on       : Bool := true
  pwrEn    : Bool := true
  /-- nanoseconds since PWR_EN fell, up to 100 ms, and a rise that waits for them (R563) -/
  sinceFall : Nat := 100000000
  riseOwed : Bool := false
  deriving DecidableEq, Repr, Inhabited

/-- ID.STAGE (R524). -/
inductive Stage where
  | rom | keeper | training | meminit | ready | failed
  deriving DecidableEq, Repr, Inhabited

/-- A firmware object of a flash bank (R479, R480): kind, SECVER, whether it is valid under R481, the digest of its
manifest. -/
structure FwObj where
  kind   : Nat
  secver : BitVec 32
  valid  : Bool
  digest : BitVec 384 := 0
  deriving DecidableEq, Repr, Inhabited

/-- A spare map (R235). -/
structure SpareMap where
  map      : NMap Nat := []
  retired  : BitVec 100 := 0
  spares   : Nat := 4
  fenced   : Bool := false
  retires  : SatCount := {}
  deriving DecidableEq, Repr, Inhabited

/-- A copy of the configuration record (R490). -/
structure CfgRecord where
  seq   : BitVec 32 := 0
  valid : Bool := true
  maps  : NMap SpareMap := []
  ownerHash : BitVec 384 := 0
  deriving DecidableEq, Repr, Inhabited

/-- A flash bank (R533): header, signed objects, record copies. -/
structure Bank where
  seq    : BitVec 32 := 0
  state  : BitVec 2 := 2
  tries  : Nat := 0
  objs   : List FwObj := []
  ident  : Bool := true
  cfgs   : List CfgRecord := []
  deriving DecidableEq, Repr, Inhabited

/-- A die entry of the identity record (R488). -/
structure DieEntry where
  lot   : BitVec 48 := 0
  wafer : BitVec 5 := 1
  x     : Byte := 0
  y     : Byte := 0
  site  : Byte := 0
  deriving DecidableEq, Repr, Inhabited

/-- The identity record (R488). -/
structure Identity where
  moduleId : DWord := 0
  small    : Bool := false
  dies     : NMap DieEntry := []
  devKeyHash : BitVec 384 := 0
  /-- the derived device keys match DEVKEYHASH (R486) -/
  keysMatch : Bool := true
  deriving DecidableEq, Repr, Inhabited

/-- An active debug token (R495). -/
structure Token where
  wfirst : Nat
  wlast  : Nat
  rights : BitVec 4
  expiry : Nat
  deriving DecidableEq, Repr, Inhabited

/-- An SPDM response (R491 to R493). -/
inductive SpdmResp where
  | none
  | version (major minor : Nat)
  | capabilities (cert chal meas measSig : Bool)
  | algorithms (hash384 ed25519 : Bool)
  | digests (slots : List (BitVec 384))
  | certificate (slot : Nat) (bytes : List Byte) (remainder : Nat)
  | challengeAuth (slot : Nat) (transcript : BitVec 384) (ed : BitVec 512) (ml : List Byte)
  | measurements (blocks : List (Nat × List Byte)) (transcript : BitVec 384) (ed : BitVec 512) (ml : List Byte)
  | error
  deriving DecidableEq, Repr, Inhabited

/-- How far an SPDM connection has come (R491). -/
inductive SpdmStage where
  | start | version | caps | algs
  deriving DecidableEq, Repr, Inhabited

/-- Security: flash, counter, identity, tokens, SPDM (R479 to R499, R554). -/
structure Security where
  ident     : Identity := {}
  bankA     : Bank := {}
  bankB     : Bank := {}
  bootedB   : Bool := false
  booted    : Bool := false
  fromBuffer : Bool := false
  counter   : BitVec 32 := 0
  counterOk : Bool := true
  bootCause : Nat := 0
  bootLen   : BitVec 32 := 0
  recovery  : NMap Byte := []
  nonce     : Option DWord := none
  nonces    : Nat := 0
  result    : Nat := 0
  lastToken : Nat := 0
  tokens    : NMap Token := []
  tokAddr   : Nat := 0
  updaddr   : Nat := 0
  updlen    : BitVec 32 := 0
  updstat   : Nat := 0
  /-- the objects of an update under way, and why their check failed: the status it will end with, or zero -/
  updObjs   : List FwObj := []
  updFail   : Nat := 0
  /-- measurement digests 1 to 5 by index (R493) -/
  measures  : NMap (BitVec 384) := []
  fwKeeper  : BitVec 32 := 0
  fwFront   : BitVec 32 := 0
  spdm      : SpdmStage := .start
  resp      : SpdmResp := .none
  /-- the configuration record in force, and whether a change is not yet recorded (R233) -/
  cfg       : CfgRecord := {}
  unrecorded : List Nat := []
  /-- the keeper's always-on oscillator, in nanoseconds (R497) -/
  keeperNs : Nat := 0
  deriving DecidableEq, Repr, Inhabited

/-- Debug, trace and the event log (R500 to R516, R556). -/
structure Debug where
  denied   : Bool := false
  nothalted : Bool := false
  badsel   : Bool := false
  selCore  : Nat := 0
  selPlace : Nat := 0
  rsel     : DWord := 0
  csel     : Nat := 0
  trbase   : Nat := 0
  trsize   : Nat := 0
  tren     : Bool := false
  wrap     : Bool := false
  sample   : Bool := false
  wards    : List Nat := []
  full     : Bool := false
  /-- the open block: index, records, header stamp, blocks opened, records lost since the previous block -/
  blockOpen : Bool := false
  block    : Nat := 0
  nrec     : Nat := 0
  stamp    : DWord := 0
  bseq     : BitVec 32 := 0
  lost     : SatCount := {}
  elbase   : Nat := 0
  elcount  : BitVec 32 := 0
  /-- wards with halt on fault armed (R505) -/
  hof      : List Nat := []
  /-- misuses of this module's tumblers by peers' operations, as reported to the keeper: ordinal and tumbler (R333) -/
  misuse   : List (Nat × Nat) := []
  deriving DecidableEq, Repr, Inhabited

/-- An instruction of the JTAG TAP (R498): the boundary-scan ones, and any other by its code. -/
inductive TapInstr where
  | bypass | idcode | samplePreload | extest
  | other (code : Nat)
  deriving DecidableEq, Repr, Inhabited

/-- Pins, control port, TAP and the I3C target (R39, R42, R498, R523, R562, R571). -/
structure Pins where
  perst    : Bool := false
  cpReady  : Bool := false
  cpTrained : Bool := false
  cpRetry  : Bool := false
  alert    : Bool := false
  /-- the instruction that the TAP's instruction register holds -/
  tap      : TapInstr := .idcode
  /-- the control port's clock-domain FIFOs -/
  cpOut    : List (BitVec 512) := []
  cpIn     : List (BitVec 512) := []
  i3cAddr  : BitVec 7 := 0x50
  i3cStatic : BitVec 7 := 0x50
  i3cData  : Byte := 0
  ibi      : Nat := 0
  /-- the last value a set-up window read returned -/
  rdata    : DWord := 0
  deriving DecidableEq, Repr, Inhabited

/-- The latched access error (R543). -/
structure AccErr where
  offset : Nat := 0
  kind   : Nat := 0
  write  : Bool := false
  host   : Bool := false
  valid  : Bool := false
  deriving DecidableEq, Repr, Inhabited

/-- The timebase (R41 to R45). -/
structure TimeBase where
  now      : DWord := 0
  load     : DWord := 0
  arm      : Bool := false
  reflost  : Bool := false
  refOk    : Bool := true
  /-- nanoseconds still to be inserted (positive) or omitted (negative), and the phase within 1 µs -/
  slew     : Int := 0
  phase    : Nat := 0
  /-- the last value that each stop's copy gave, since the last load (R44) -/
  copies   : NMap Nat := []
  /-- the timebase FIFO of each ring stop, of one entry (R39, R44) -/
  fifos    : NMap (List DWord) := []
  deriving DecidableEq, Repr, Inhabited

/-- The state of the module. `free` counts the draws of free values (the model's own field); `pending` is the queue of
commands that wait. -/
structure State where
  pending : List Instr
  free    : Nat := 0
  time    : TimeBase := {}
  stage   : Stage := .rom
  accerr  : AccErr := {}
  cores   : NMap Core := []
  tums    : NMap Tumbler := []
  tumq    : List TumReq := []
  waiters : List TumWaiter := []
  hasps   : NMap Hasp := []
  fe      : FrontEnd := {}
  io      : Iommu := {}
  ms      : MemSys := {}
  coh     : Coherence := {}
  hinge   : Hinge := {}
  ports   : NMap Port := []
  span    : Span := {}
  outbox  : List OutMsg := []
  power   : Power := {}
  sec     : Security := {}
  dbg     : Debug := {}
  pins    : Pins := {}
  /-- module counters CT.MCOUNT0 to 31 (R518) -/
  mcount  : NMap SatCount := []
  deriving DecidableEq, Repr

/-- The plan table after reset: plan 0 holds every region and way (R285). -/
def resetPlans : NMap Plan := [(0, { regions := 0xFFFF, ways := 0xFFFF, valid := true })]

/-- The firmware objects of a bank as delivered: one valid object of each kind (log 5). -/
def deliveredObjs : List FwObj :=
  [{ kind := 1, secver := 0, valid := true }, { kind := 2, secver := 0, valid := true },
   { kind := 3, secver := 0, valid := true }, { kind := 4, secver := 0, valid := true }]

/-- The identity spare map: logical position n on physical position n, four spares unused (log 5). -/
def deliveredMap : SpareMap := { map := (List.range 96).map (fun n => (n, n)) }

/-- The configuration record as delivered. -/
def deliveredCfg : CfgRecord := { maps := (List.range 8).map (fun d => (d, deliveredMap)) }

/-- A flash bank as delivered: committed, never tried. -/
def deliveredBank : Bank :=
  { seq := 0, state := 2, tries := 0, objs := deliveredObjs, cfgs := [deliveredCfg, deliveredCfg] }

/-- The module right after reset: B0 has left reset with every rail up, nothing has been verified (R523 event 3), and
no command waits. -/
def State.reset : State :=
  { pending := []
    fe := { plans := resetPlans }
    ms := { staged := [(0, 0xFFFFFF)], inForce := [(0, 0xFFFFFF)] }
    sec := { bankA := deliveredBank, bankB := deliveredBank, cfg := deliveredCfg } }

end Sys2Proof.Machine
end

