-- ==== Sys2Proof/Machine/Ops.lean ====
section
/-! DEFINITION. The named reads and updates of the state, LPDDR5X contents, saturating counters and epochs. -/

namespace Sys2Proof.Machine

/-! ### Outcomes -/

/-- A command's effect as an outcome: the next state. -/
abbrev okay (s : State) : Host.Outcome State Fault Refusal := .next s

/-! ### Parts of the state -/

/-- Logical core `c`; a core the map does not list is empty. -/
def State.core (s : State) (c : Nat) : Core := NMap.findD {} c s.cores

/-- The state with core `c` replaced. -/
def State.setCore (s : State) (c : Nat) (k : Core) : State := { s with cores := NMap.ins c k s.cores }

/-- The state with `f` applied to core `c`. -/
def State.updCore (s : State) (c : Nat) (f : Core → Core) : State := s.setCore c (f (s.core c))

/-- The group at a place. -/
def State.group? (s : State) (g : Site) : Option Group := NMap.find g.place (s.core g.core).groups

/-- The state with the group at a place replaced. -/
def State.setGroup (s : State) (g : Site) (x : Group) : State :=
  s.updCore g.core (fun k => { k with groups := NMap.ins g.place x k.groups })

/-- The state with `f` applied to the group at a place, where there is one. -/
def State.updGroup (s : State) (g : Site) (f : Group → Group) : State :=
  match s.group? g with
  | some x => s.setGroup g (f x)
  | none => s

/-- The line reads of an owner given back (see `WinRead` for the owners). -/
def Core.endReads (k : Core) (owner : Nat) : Core :=
  { k with winreads := k.winreads.filter (fun w => w.owner != owner)
           lineReads := k.lineReads.filter (fun r => r.owner != owner) }

/-- The state with no group at a place. -/
def State.delGroup (s : State) (g : Site) : State :=
  s.updCore g.core (fun k => { k.endReads (5 + g.place) with groups := NMap.del g.place k.groups })

/-- The tile a core keeps under a key. -/
def State.tile? (s : State) (c key : Nat) : Option Tile := NMap.find key (s.core c).tiles

/-- The state with `f` applied to a tile, where there is one. -/
def State.updTile (s : State) (c key : Nat) (f : Tile → Tile) : State :=
  s.updCore c (fun k => { k with tiles := NMap.modify key f k.tiles })

/-- The groups of a core that belong to a tile, with their places. -/
def Core.groupsOf (k : Core) (key : Nat) : List (Nat × Group) := k.groups.filter (fun pg => pg.2.tile == key)

/-- What the front end holds of a context; one it does not list is off. -/
def State.ctx (s : State) (n : Nat) : Ctx := NMap.findD {} n s.fe.ctxs

/-- The state with `f` applied to a context. -/
def State.updCtx (s : State) (n : Nat) (f : Ctx → Ctx) : State :=
  { s with fe := { s.fe with ctxs := NMap.ins n (f (s.ctx n)) s.fe.ctxs } }

/-- A running command that places tiles. -/
def State.launch? (s : State) (k : Nat) : Option Launch := NMap.find k s.fe.launches

/-- The state with `f` applied to a running launch, where there is one. -/
def State.updLaunch (s : State) (k : Nat) (f : Launch → Launch) : State :=
  { s with fe := { s.fe with launches := NMap.modify k f s.fe.launches } }

/-- A ring the front end serves. -/
def State.ring? (s : State) : RingId → Option Ring
  | .admin => if s.fe.en then some s.fe.admin else none
  | .ring c r => NMap.find r (s.ctx c).rings

/-- The state with `f` applied to a ring. -/
def State.updRing (s : State) (id : RingId) (f : Ring → Ring) : State :=
  match id with
  | .admin => { s with fe := { s.fe with admin := f s.fe.admin } }
  | .ring c r => s.updCtx c (fun x => { x with rings := NMap.modify r f x.rings })

/-- Global tumbler `n` (R321). -/
def State.tum (s : State) (n : Nat) : Tumbler := NMap.findD {} n s.tums

/-- The state with global tumbler `n` replaced. -/
def State.setTum (s : State) (n : Nat) (t : Tumbler) : State := { s with tums := NMap.put {} n t s.tums }

/-- A free draw: its number, and the state with the next number. -/
def State.draw (s : State) : Nat × State := (s.free, { s with free := s.free + 1 })

/-- The timebase of B0 as a number (R41). -/
def State.nowN (s : State) : Nat := s.time.now.toNat

/-- A stop's line cache (R293). -/
def State.cacheOf (s : State) (stop : Nat) : NMap CLine := NMap.findD [] stop s.coh.caches

/-- The state with a stop's line cache replaced. -/
def State.setCache (s : State) (stop : Nat) (m : NMap CLine) : State :=
  { s with coh := { s.coh with caches := NMap.ins stop m s.coh.caches } }

/-- An Amixis port (R430). -/
def State.port (s : State) (p : Nat) : Port := NMap.findD {} p s.ports

/-- The state with `f` applied to a port. -/
def State.updPort (s : State) (p : Nat) (f : Port → Port) : State :=
  { s with ports := NMap.ins p (f (s.port p)) s.ports }

/-! ### Amixis messages on their way out (R433 to R439) -/

/-- The virtual channel of a message (R436, R439). -/
def MsgBody.vc : MsgBody → Nat
  | .hasparr _ _ => 1
  | .hasprel _ _ => 1
  | .tarrive _ _ _ => 1
  | .twake _ => 1
  | .tmapchk _ _ _ => 1
  | .tbsync _ => 1
  | .read _ _ _ => 2
  | .write _ _ _ _ => 2
  | .atomic _ _ _ _ _ _ => 2
  | .lr _ _ _ _ => 2
  | .sc _ _ _ _ => 2
  | .data _ _ => 3
  | .visack => 3
  | .doneack => 3
  | .deny => 3
  | .relay _ => 4
  | .bulkwrite _ _ _ _ => 5
  | .bulkdata _ _ => 5
  | _ => 0

/-- Bytes or entries that a message carries beside its fixed operands. -/
def MsgBody.size : MsgBody → Nat
  | .announce k => k.length
  | .roster ms _ => ms.length
  | .batch _ ts => ts.length
  | .write _ bs _ _ => bs.length
  | .atomic _ _ _ _ os _ => os.length
  | .sc _ bs _ _ => bs.length
  | .data bs _ => bs.length
  | .bulkwrite _ bs _ _ => bs.length
  | .bulkdata bs _ => bs.length
  | _ => 0

/-- Length of a message in flits, 1 to 512 (R438). A relay message of 49,408 bytes (R208) and its header fill the
120-byte payloads of 412 flits; the operands of the others are not laid out. -/
def MsgBody.flits (b : MsgBody) : Nat :=
  match b with
  | .relay _ => 412
  | b => Config.msgFlits b.vc b.size % 512 + 1

/-- Receive buffer of a virtual channel in flits (R436). -/
def vcBuffer : Nat → Nat
  | 0 => 32
  | 1 => 64
  | 2 => 256
  | 3 => 256
  | 4 => 512
  | 5 => 512
  | _ => 0

/-- `n` sequence numbers from the one after `q`. -/
def seqsFrom (q : BitVec 16) (n : Nat) : List (BitVec 16) := (List.range n).map (fun i => q + BitVec.ofNat 16 (i + 1))

/-- Entries put in a clock-domain FIFO of `cap` entries; those beyond its depth have passed through to the other side in the
meantime, in their order (R40). -/
def fifoPush {w : Nat} (cap : Nat) (q new : List (BitVec w)) : List (BitVec w) :=
  (q ++ new).drop ((q ++ new).length - cap)

/-- Flits of one channel sent: as many as wait, as it has credits for, as the retry buffer of 1,024 flits holds and as the
FIFO to the PHY has room for (R39, R40, R434, R436). -/
def Port.pumpVc (p : Port) (vc : Nat) : Port :=
  let n := Nat.min (Nat.min (NMap.findD 0 vc p.waiting) (NMap.findD 0 vc p.credits))
    (Nat.min (1024 - p.unacked.length) (64 - p.txFifo.length))
  { p with txSeq := p.txSeq + BitVec.ofNat 16 n, unacked := p.unacked ++ seqsFrom p.txSeq n
           credits := NMap.ins vc (NMap.findD 0 vc p.credits - n) p.credits
           waiting := NMap.ins vc (NMap.findD 0 vc p.waiting - n) p.waiting
           txFifo := p.txFifo ++ (seqsFrom p.txSeq n).map (fun q => q.setWidth 1024) }

/-- Flits sent in the order of the link's arbitration (R436). -/
def Port.pump (p : Port) : Port := [1, 0, 3, 2, 4, 5].foldl Port.pumpVc p

/-- A message's flits taken by the link layer. -/
def Port.load (p : Port) (b : MsgBody) : Port :=
  ({ p with waiting := NMap.ins b.vc (NMap.findD 0 b.vc p.waiting + b.flits) p.waiting } : Port).pump

/-- The lowest working port to the module of an identity. -/
def State.portOfModule (s : State) (id : DWord) : Option Nat :=
  (List.range 16).find? (fun p =>
    let x := s.port p
    x.up && !x.foreign && (match x.partner with
      | some i => i.moduleId == id
      | none => false))

/-- The port by which messages to a member leave: to the neighbour that the route names (R446). -/
def State.routePort (s : State) (dst : Nat) : Option Nat :=
  match s.span.roster.find? (fun r => r.ord == dst) with
  | none => none
  | some r =>
    match s.span.roster.find? (fun n => n.ord == r.via) with
    | none => none
    | some n => s.portOfModule n.moduleId

/-- The state with a message appended to those sent, its flits with the link layer of the port it leaves by. -/
def State.send (s : State) (m : OutMsg) : State :=
  let s1 : State := { s with outbox := s.outbox ++ [m] }
  match (match m.port with
    | some p => some p
    | none => s.routePort m.dst) with
  | some p => if (s.port p).up then s1.updPort p (fun x => x.load m.body) else s1
  | none => s1

/-- A message to a member of the span, with the sender's epoch (R438). -/
def State.sendTo (s : State) (dst : Nat) (body : MsgBody) (txid : Nat := 0) (ward : Nat := 0) : State :=
  s.send { dst := dst, txid := txid, epoch := s.span.epoch, ward := ward, body := body }

/-- A fresh transaction number for a request to a peer, recorded as outstanding (R438). -/
def State.newTx (s : State) (peer : Nat) : Nat × State :=
  let used (i : Nat) : Bool := s.span.txids.any (fun t => t.1 == i)
  let id := ((List.range (s.span.txids.length + 1)).map (fun k => (s.span.nextTx + k) % 65536)).find? (fun i => !used i)
  let id := id.getD (s.span.nextTx % 65536)
  (id, { s with span := { s.span with nextTx := id + 1, txids := s.span.txids ++ [(id, peer)] } })

/-- An outstanding transaction to a peer answered for good. -/
def State.endTx (s : State) (txid peer : Nat) : State :=
  { s with span := { s.span with txids := s.span.txids.filter (fun t => !(t.1 == txid && t.2 == peer)) } }

/-- Whether a transaction to a peer is outstanding. -/
def State.hasTx (s : State) (txid peer : Nat) : Bool := s.span.txids.contains (txid, peer)

/-- Whether this module belongs to a module span: a member, or one that is leaving (R527, R552). -/
def State.inSpan (s : State) : Bool := s.span.state == .member || s.span.state == .leaving

/-- The ordinal of this module as spans name it: zero outside a module span. -/
def State.here (s : State) : Nat := if s.inSpan then s.span.ord else 0

/-- Whether a module is another current member of this module's span. -/
def State.reachable (s : State) (m : Nat) : Bool :=
  s.inSpan && m != s.span.ord && s.span.roster.any (fun r => r.ord == m)

/-! ### Saturating counters (R8, R517, R518) -/

/-- A saturating count with `n` added. -/
def SatCount.add (c : SatCount) (width n : Nat) : SatCount :=
  let r := satAdd width n c.n c.sat
  { n := r.1, sat := r.2 }

/-- Module counter slot `i` with `n` added (R518). -/
def State.countModule (s : State) (i n : Nat) : State :=
  { s with mcount := NMap.ins i ((NMap.findD {} i s.mcount).add 48 n) s.mcount }

/-- Counter slot `i` of a context with `n` added (R517). -/
def State.countCtx (s : State) (ctx i n : Nat) : State :=
  s.updCtx ctx (fun x => { x with counters := NMap.ins i ((NMap.findD {} i x.counters).add 48 n) x.counters })

/-- The 64-bit slot of a counter: COUNT in [47:0], its flag in [48] (R517). -/
def SatCount.slot (c : SatCount) : Nat := c.n + (b2n c.sat) * 2 ^ 48

/-! ### LPDDR5X (R281, R410, R523) -/

/-- One past the last LPDDR5X address of the part (R410). -/
def State.lpEnd (s : State) : Nat := if s.sec.ident.small then 0x1B400000000 else 0x26800000000

/-- Whether a physical address is LPDDR5X (R410). -/
def State.isLp (s : State) (pa : Nat) : Bool := decide (Config.lpBase ≤ pa) && decide (pa < s.lpEnd)

/-- Whether `n` bytes from a physical address are all LPDDR5X. -/
def State.isLpRange (s : State) (pa n : Nat) : Bool := decide (Config.lpBase ≤ pa) && decide (pa + n ≤ s.lpEnd)

/-- Whether an address lies in the host boot region (R411). -/
def inBoot (a : Nat) : Bool := decide (Config.lpBase ≤ a) && decide (a < Config.lpBase + Config.bootBytes)

/-- What an unlisted byte reads as: the boot image in its region once loaded (R411); elsewhere zero after bring-up (R523
event 8), undefined after a change of the interleave (R550). -/
def Mem.unlisted (m : Mem) (a : Nat) : Byte :=
  if m.boot ≠ 0 ∧ inBoot a then Config.bootByte m.boot (a - Config.lpBase)
  else if m.gen = 0 then 0 else Config.undefByte m.gen a

/-- The byte at a physical address. -/
def Mem.read (m : Mem) (a : Nat) : Byte := NMap.findD (m.unlisted a) a m.cells

/-- The memory with one byte written, kept in canonical form. -/
def Mem.write (m : Mem) (a : Nat) (b : Byte) : Mem :=
  { m with cells := NMap.put (m.unlisted a) a b m.cells }

/-- The canonical form: addresses rise strictly and no entry equals what its address would read unlisted. -/
def Mem.wf (m : Mem) : Bool := NMap.wf m.cells && m.cells.all (fun c => decide (c.2 ≠ m.unlisted c.1))

/-- `n` bytes from a physical address. -/
def Mem.readN (m : Mem) (a : Nat) : Nat → List Byte
  | 0 => []
  | n + 1 => m.read a :: m.readN (a + 1) n

/-- The memory with a byte string written from a physical address. -/
def Mem.writeN (m : Mem) (a : Nat) : List Byte → Mem
  | [] => m
  | b :: bs => (m.write a b).writeN (a + 1) bs

/-- The memory with bytes written at their offsets from `base`. -/
def Mem.writeAt (m : Mem) (base : Nat) : NMap Byte → Mem
  | [] => m
  | (o, b) :: bs => (m.write (base + o) b).writeAt base bs

/-- The 128-byte line an address lies in. -/
def lineOf (a : Nat) : Nat := a / 128 * 128

/-! ### Interleave regions (R284) -/

/-- Bytes one channel group holds: 60 GiB, or 30 GiB on the small part (R284). -/
def State.groupBytes (s : State) : Nat := if s.sec.ident.small then 30 * 2 ^ 30 else 60 * 2 ^ 30

/-- The groups of a region's mask, rising. -/
def groupsOf (m : BitVec 24) : List Nat := (List.range 24).filter (fun j => m.getLsbD j)

/-- Walks the regions in force from region `i` with base `rbase`: region number, its base and its groups. -/
def regionFrom (inForce : NMap (BitVec 24)) (gb pa : Nat) : Nat → Nat → Nat → Option (Nat × Nat × List Nat)
  | 0, _, _ => none
  | fuel + 1, i, rbase =>
    let gs := groupsOf (NMap.findD 0 i inForce)
    if rbase ≤ pa ∧ pa < rbase + gs.length * gb then some (i, rbase, gs)
    else regionFrom inForce gb pa fuel (i + 1) (rbase + gs.length * gb)

/-- The region that holds an LPDDR5X address, its base and its channel groups. -/
def State.region? (s : State) (pa : Nat) : Option (Nat × Nat × List Nat) :=
  regionFrom s.ms.inForce s.groupBytes pa 16 0 Config.lpBase

/-- Where the hash of R284 places a byte: channel group, channel, unit of the channel, byte of the unit. -/
def State.placeOf (s : State) (pa : Nat) : Option (Nat × Nat × Nat × Nat) :=
  match s.region? pa with
  | none => none
  | some (_, rbase, gs) =>
    let n := gs.length
    let u := (pa - rbase) / 256
    let b := u / (4 * n)
    let r := u % (4 * n)
    let h := (b ^^^ (b >>> 11) ^^^ (b >>> 22) ^^^ (b >>> 33)) % (4 * n)
    let p := (r + h) % (4 * n)
    let g := gs.getD (p / 4) 0
    some (g, 4 * g + p % 4, b, pa % 256)

/-- The controller, and so the home agent, of a line (R14, R284). -/
def State.homeOf (s : State) (line : Nat) : Nat :=
  match s.placeOf line with
  | some (g, _, _, _) => g
  | none => 0

/-- The presence-filter region of a line: its home, and the 4 KiB of that controller's addresses, four 256-byte units of
each of its channels (R297, log 26). -/
def State.regionOfLine (s : State) (line : Nat) : Nat :=
  match s.placeOf line with
  | some (g, _, b, _) => g * 2 ^ 40 + b / 4
  | none => 0

/-! ### The host (R411, R419, R421) -/

/-- Whether the host complex runs now: released after bring-up, not held in reset, and the hinge not retraining. -/
def State.hostRuns (s : State) : Bool :=
  s.power.on && s.stage == .ready && !s.hinge.hostInReset && !s.hinge.retrain

/-! ### Power domains (R465, R466) -/

/-- The state of a power domain. -/
def State.domain (s : State) (d : Nat) : DomState := NMap.findD .idle d s.power.domains

/-- The domain of the controllers that hold an LPDDR5X address: 26 on B0, 28 on B1 (R14, R465). -/
def State.memDomain (s : State) (pa : Nat) : Nat := if s.homeOf pa < 12 then 26 else 28

/-! ### Plans and wards (R285 to R288) -/

/-- Partition plan `n` (R285). -/
def State.plan (s : State) (n : Nat) : Plan := NMap.findD {} n s.fe.plans

/-- Whether an LPDDR5X address lies in the REGIONS of the host plan; nothing else of that plan counts (R286). -/
def State.hostReaches (s : State) (pa : Nat) : Bool :=
  match s.region? pa with
  | some (i, _, _) => (s.plan s.ms.hostplan).regions.getLsbD i
  | none => false

/-- Whether a plan reaches an LPDDR5X address (R287). -/
def State.planReaches (s : State) (n pa : Nat) : Bool :=
  match s.region? pa with
  | some (i, _, _) => (s.plan n).valid && (s.plan n).regions.getLsbD i
  | none => false

/-! ### Host epochs (R417, R418) -/

/-- The 16-bit tag of an epoch (R417). -/
def epochTag (e : BitVec 32) : Nat := e.toNat % 65535 + 1

/-- The tag of the current epoch. -/
def State.tagNow (s : State) : Nat := epochTag s.hinge.epoch

/-- The tag of the writes a launch makes: that of the epoch its command was fetched in, zero for a peer's (R417). -/
def State.launchTag (s : State) (k : Nat) : Nat :=
  match s.launch? k with
  | some l => l.tag
  | none => s.tagNow

/-- The tag of the writes of a group. -/
def State.groupTag (s : State) (g : Site) : Nat :=
  match s.group? g with
  | some x => match s.tile? g.core x.tile with
    | some t => s.launchTag t.launch
    | none => s.tagNow
  | none => s.tagNow

/-- Whether retention entry `n` is in force: VALID and not ignored under R427. -/
def State.retEntryOk (s : State) (n : Nat) : Bool :=
  let b := NMap.findD 0 n s.hinge.rtBase
  let l := NMap.findD 0 n s.hinge.rtLimit
  let lo := field b 51 21 * 2 ^ 21
  let hi := field l 51 21 * 2 ^ 21 + 2 ^ 21
  bitAt b 0 && decide (lo < hi) && decide (Config.lpBase + Config.bootBytes ≤ lo) && decide (hi ≤ s.lpEnd)

/-- Whether a physical address lies in a retained region (R426). -/
def State.retained (s : State) (pa : Nat) : Bool :=
  (List.range 16).any (fun n =>
    s.retEntryOk n && decide (field (NMap.findD 0 n s.hinge.rtBase) 51 21 * 2 ^ 21 ≤ pa) &&
      decide (pa < field (NMap.findD 0 n s.hinge.rtLimit) 51 21 * 2 ^ 21 + 2 ^ 21))

/-- Whether the epoch is closed: between a hinge-loss reset's trigger and the next opening (R418). -/
def State.epochClosed (s : State) : Bool := s.hinge.quiescing || s.hinge.waitEpoch

/-- Whether a controller accepts a write with a tag (R418). -/
def State.accepts (s : State) (tag pa : Nat) : Bool :=
  tag == 0 || s.retained pa || (!s.epochClosed && tag == s.tagNow)

/-! ### Reservations (R312, R313) -/

/-- The die of a logical core (R16). -/
def dieOfCore (core : Nat) : Nat := core / 96

/-- The ring stop of a C-die (R20). -/
def stopOfDie (die : Nat) : Nat := if die < 4 then die + 1 else die + 2

/-- A hart's reservation where it lies on a granule, lost. -/
def Hart.lose (h : Hart) (gr : Granule) : Hart :=
  match h.resv with
  | some l => if gr = .line l then { h with resv := none } else h
  | none => h

/-- Every reservation on a granule, held by the groups of the cores that satisfy `p`, for a peer or by a host hart, lost
(R313, R320). -/
def State.killResv (s : State) (p : Nat → Bool) (gr : Granule) : State :=
  { s with hinge := { s.hinge with harts := NMap.mapVals (fun _ h => h.lose gr) s.hinge.harts }, coh := { s.coh with peerResv := s.coh.peerResv.filter (fun r => r.2.2 != gr) }, cores := NMap.mapVals (fun c k =>
      if p c then { k with groups := NMap.mapVals (fun _ g =>
        { g with resv := g.resv.filter (fun lr => lr.2 != gr) }) k.groups } else k) s.cores }

/-! ### Poison (R282) -/

/-- The memory with a line's poison mark set or cleared. -/
def Mem.setPoison (m : Mem) (line : Nat) (p : Bool) : Mem :=
  if p then { m with poison := addNew line m.poison } else { m with poison := m.poison.filter (· != line) }

/-- The two 64-byte entries that a line takes in a controller's FIFO (R39). -/
def halfLines (bytes : List Byte) : List (BitVec 512) :=
  [BitVec.ofNat 512 (bytesNat (bytes.take 64)), BitVec.ofNat 512 (bytesNat ((bytes.drop 64).take 64))]

/-- Whether a controller's FIFO toward its device has room for a line (R39, R40). -/
def State.lpRoom (s : State) (line : Nat) : Bool := decide ((NMap.findD [] (s.homeOf line) s.ms.lpOut).length + 2 ≤ 32)

/-- A line that the controller passes on to its device. -/
def State.lpPush (s : State) (line : Nat) : State :=
  let q := fifoPush 32 (NMap.findD [] (s.homeOf line) s.ms.lpOut) (halfLines (s.ms.mem.readN line 128))
  { s with ms := { s.ms with lpOut := NMap.ins (s.homeOf line) q s.ms.lpOut } }

/-- A write reaching a controller: performed, or dropped and counted (R418). A full line clears poison (R282). -/
def State.memAccept (s : State) (line : Nat) (bytes : NMap Byte) (poison : Bool) (tag : Nat) : State :=
  if s.accepts tag line then
    let m := s.ms.mem.writeAt line bytes
    let full := decide (bytes.length ≥ 128)
    let m := if poison then m.setPoison line true else if full then m.setPoison line false else m
    ({ s with ms := { s.ms with mem := m } } : State).killResv (fun _ => true) (.raw line)
  else s.countModule 8 1

/-! ### Coherent view of a line -/

/-- The stops that hold a line, with their copies. -/
def State.holders (s : State) (line : Nat) : List (Nat × CLine) :=
  s.coh.caches.filterMap (fun sc => (NMap.find line sc.2).map (fun l => (sc.1, l)))

/-- Bytes of a line laid over by a write's bytes. -/
def overlay (bytes : List Byte) (w : NMap Byte) : List Byte :=
  (List.range bytes.length).map (fun i => NMap.findD (bytes.getD i 0) i w)

/-- A line as memory and the writes under way to its controller give it. -/
def State.memLine (s : State) (line : Nat) : LineData :=
  let base : LineData := { bytes := s.ms.mem.readN line 128, poison := s.ms.mem.poison.contains line }
  s.coh.sent.foldl (fun d w =>
    if w.line = line ∧ s.accepts w.tag line then
      { d with bytes := overlay d.bytes w.bytes, poison := w.poison || (d.poison && decide (w.bytes.length < 128)) }
    else d) base

/-- Dirty data of a line that a snooped stop has given up and the home has not granted on (R300). -/
def Txn.inFlight (t : Txn) : List LineData :=
  if t.granted then [] else t.dirty.toList ++ t.answers.filterMap (fun a => a.dirty)

/-- Dirty data of a line that its home has, or that is on its way to it. -/
def State.inFlight (s : State) (line : Nat) : Option LineData :=
  match NMap.find line s.coh.txns with
  | some t => t.inFlight.head?
  | none => none

/-- A line as the coherent agents, the writes under way and memory give it. -/
def State.coherentLine (s : State) (line : Nat) : LineData :=
  match s.inFlight line with
  | some d => d
  | none =>
    match (s.holders line).find? (fun h => h.2.st != .s) with
    | some (_, l) => { bytes := l.bytes, poison := l.poison, tag := l.tag }
    | none => s.memLine line

/-- The byte at a physical address as the coherent agents, the writes under way and memory give it. -/
def State.cohByte (s : State) (pa : Nat) : Byte :=
  match s.inFlight (lineOf pa) with
  | some d => d.bytes.getD (pa % 128) 0
  | none =>
    match (s.holders (lineOf pa)).find? (fun h => h.2.st != .s) with
    | some (_, l) => l.bytes.getD (pa % 128) 0
    | none =>
      s.coh.sent.foldl (fun b w =>
        if w.line = lineOf pa ∧ s.accepts w.tag w.line then NMap.findD b (pa % 128) w.bytes else b) (s.ms.mem.read pa)

/-- `n` bytes from a physical address as the coherent tiers give them. -/
def State.cohRead (s : State) (pa : Nat) : Nat → List Byte
  | 0 => []
  | n + 1 => s.cohByte pa :: s.cohRead (pa + 1) n

/-- The oldest request that waits for a line is called (R302). -/
def State.callNext (s : State) (line : Nat) : State :=
  match findIdx (fun (r : Retry) => r.line == line) 0 s.coh.retries with
  | some (i, _) => { s with coh := { s.coh with
      seq := s.coh.seq + 1, retries := modAt (fun r => { r with called := true, calledAt := s.coh.seq + 1 }) i s.coh.retries } }
  | none => s

/-- A line's transaction closed, the oldest waiting requester called (R300 event 8, R302). -/
def State.closeTxn (s : State) (line : Nat) : State :=
  ({ s with coh := { s.coh with txns := NMap.del line s.coh.txns } } : State).callNext line

/-- The acceptance of a dirty victim noted for the miss that waits for it (R271). -/
def State.victimDone (s : State) (victim : Option (Nat × Nat)) : State :=
  match victim with
  | none => s
  | some (die, line) => { s with coh := { s.coh with misses := s.coh.misses.map (fun m =>
      if m.stop = stopOfDie die ∧ m.line = line then { m with accepted := true } else m) } }

/-- The writes of a list that arrive when those to a line do: each of its senders' earlier ones to the same home come
first (R299). With each write goes whether it arrives; beside the list, the senders of writes to the line. -/
def arriving (home : Nat → Nat) (line : Nat) : List MemWrite → List (MemWrite × Bool) × List Nat
  | [] => ([], [])
  | w :: ws =>
    let r := arriving home line ws
    let srcs := if w.line = line then w.src :: r.2 else r.2
    ((w, srcs.contains w.src && home w.line == home line) :: r.1, srcs)

/-- The writes under way to a line's controller accepted in the order sent (R299, R418). -/
def State.acceptSent (s : State) (line : Nat) : State :=
  let ws := (arriving s.homeOf line s.coh.sent).1
  let s1 := { s with coh := { s.coh with sent := (ws.filter (fun w => !w.2)).map (·.1) } }
  (ws.filter (·.2)).foldl (fun st w => (st.memAccept w.1.line w.1.bytes w.1.poison w.1.tag).victimDone w.1.victim) s1

/-- Every copy of a line dropped, a dirty one written to memory first; done for an agent that writes without caching
(R293, R303). -/
def State.flushLine (s : State) (line : Nat) : State :=
  let s := s.killResv (fun _ => true) (.line line)
  let hs := s.holders line
  let fl := s.inFlight line
  if hs.isEmpty && fl.isNone && !(s.coh.sent.any (fun w => w.line == line)) then s
  else
    let s1 := s.acceptSent line
    let s2 := match fl, hs.find? (fun h => h.2.st == .m) with
      | some d, _ => s1.memAccept line ((List.range 128).map (fun i => (i, d.bytes.getD i 0))) d.poison d.tag
      | none, some (_, l) => s1.memAccept line ((List.range 128).map (fun i => (i, l.bytes.getD i 0))) l.poison l.tag
      | none, none => s1
    { s2 with coh := { s2.coh with
        caches := NMap.mapVals (fun _ c => NMap.del line c) s2.coh.caches
        txns := NMap.modify line (fun t => if t.granted then t else { t with
          dirty := none, answers := t.answers.map (fun a => { a with dirty := none }) }) s2.coh.txns } }

/-- Memory data that an open transaction of a line holds read again: a write of an agent that does not cache takes its
place before the grant (R300). -/
def State.rereadTxn (s : State) (line : Nat) : State :=
  match NMap.find line s.coh.txns with
  | none => s
  | some t =>
    if t.granted ∨ t.memData.isNone then s
    else { s with coh := { s.coh with
      txns := NMap.ins line { t with memData := some (s.memLine line) } s.coh.txns } }

/-- The bytes of a write from an address, gathered by line: line address and offsets in it. -/
def groupLines : Nat → List Byte → List (Nat × NMap Byte)
  | _, [] => []
  | pa, b :: bs =>
    match groupLines (pa + 1) bs with
    | (l, m) :: rest =>
      if l = lineOf pa then (l, (pa % 128, b) :: m) :: rest else (lineOf pa, [(pa % 128, b)]) :: (l, m) :: rest
    | [] => [(lineOf pa, [(pa % 128, b)])]

/-- A write of bytes of one line by an agent that does not cache: every copy is invalidated first and the line leaves its
home's atomic buffer, then the controller takes the bytes under the epoch rule (R293, R300, R303, R418). -/
def State.cohWriteLine (s : State) (tag line : Nat) (bytes : NMap Byte) : State :=
  let s1 : State := { s with coh := { s.coh with atomBuf := s.coh.atomBuf.filter (· != line) } }
  ((s1.flushLine line).memAccept line bytes false tag).rereadTxn line

/-- The same for bytes from a physical address on. -/
def State.cohWrite (s : State) (tag pa : Nat) (bytes : List Byte) : State :=
  (groupLines pa bytes).foldl (fun st lm => st.cohWriteLine tag lm.1 lm.2) s

/-- A number of `n` bytes at a physical address. -/
def State.cohNat (s : State) (pa n : Nat) : Nat := bytesNat (s.cohRead pa n)

/-- A number written in `n` bytes at a physical address. -/
def State.cohPut (s : State) (tag pa n v : Nat) : State := s.cohWrite tag pa (natBytes n v)

end Sys2Proof.Machine
end

