-- ==== Sys2Proof/Machine/Events.lean ====
section
/-! DEFINITION. The event log, trace records and interrupt sources (R412, R413, R511 to R516). -/

namespace Sys2Proof.Machine

/-- An MSI write: the identity, one of 1 to 2,047, becomes pending in the file at the address (R391, R412). -/
def State.msi (s : State) (addr data : Nat) : State :=
  if 1 ≤ data ∧ data ≤ 2047 then { s with hinge := { s.hinge with imsic := addNew (addr, data) s.hinge.imsic } } else s

/-! ### The APLIC (R410, R413; registers PRESUMED as in the RISC-V AIA, log 139) -/

/-- A register of an APLIC domain: 0 the machine domain's, 1 the supervisor domain's. -/
def State.aplicReg (s : State) (dom off : Nat) : Nat := NMap.findD 0 (dom * 32768 + off) s.hinge.aplicRegs

/-- A register of an APLIC domain written. -/
def State.setAplic (s : State) (dom off v : Nat) : State :=
  { s with hinge := { s.hinge with aplicRegs := NMap.ins (dom * 32768 + off) v s.hinge.aplicRegs } }

/-- The domain that a source belongs to: the supervisor domain where the machine domain delegates it. -/
def State.aplicDom (s : State) (n : Nat) : Nat := if (s.aplicReg 0 (4 * n)).testBit 10 then 1 else 0

/-- The interrupt file that a target register of a domain names: hart, and guest for the supervisor domain. -/
def aplicFile (dom target : Nat) : Nat :=
  if dom = 0 then 0x14000000 + 4096 * (target / 2 ^ 18)
  else 0x18000000 + 32768 * (target / 2 ^ 18) + 4096 * (target / 2 ^ 12 % 64)

/-- A pending source that its domain lets through sent as an MSI to the interrupt file it targets; it is pending no more
(R413). -/
def State.aplicDeliver (s : State) (n : Nat) : State :=
  let dom := s.aplicDom n
  if s.hinge.aplic.contains n && (s.aplicReg dom 0).testBit 8 && s.aplicReg dom (4 * n) % 8 != 0 &&
      (s.aplicReg dom 0x1E00).testBit n then
    let target := s.aplicReg dom (0x3000 + 4 * n)
    ({ s with hinge := { s.hinge with aplic := s.hinge.aplic.filter (· != n) } } : State).msi (aplicFile dom target) (target % 2048)
  else s

/-- APLIC source `n` raised (R413). -/
def State.raiseAplic (s : State) (n : Nat) : State :=
  ({ s with hinge := { s.hinge with aplic := addNew n s.hinge.aplic } } : State).aplicDeliver n

/-- The 32 bytes of a record of R514; `high` is bits [191:96] as a number and `top` bits [255:192]. -/
def recordBytes (stamp type ward ctx core place high top : Nat) : List Byte :=
  natBytes 32 (stamp % 2 ^ 32 + type * 2 ^ 32 + ward * 2 ^ 40 + ctx * 2 ^ 50 + core * 2 ^ 64 + place * 2 ^ 74 +
    high * 2 ^ 96 + top * 2 ^ 192)

/-- The header of the open trace block (R512). -/
def State.traceHeader (s : State) : List Byte :=
  let d := s.dbg
  natBytes 32 (d.stamp.toNat + d.bseq.toNat * 2 ^ 64 + d.nrec * 2 ^ 96 + (d.lost.n % 2 ^ 32) * 2 ^ 128 +
    b2n d.lost.sat * 2 ^ 160 + s.here * 2 ^ 161)

/-- Address of block `b` of the trace reserve. -/
def State.traceBlock (s : State) (b : Nat) : Nat := s.dbg.trbase + 4096 * b

/-- The trace unit opening the next block, the header of the one before it written at its close (R512, R513). -/
def State.traceOpen (s : State) : State :=
  let d := s.dbg
  let s1 := if d.blockOpen then s.cohWrite 0 (s.traceBlock d.block) s.traceHeader else s
  let next := if d.blockOpen then d.block + 1 else d.block
  if next * 4096 ≥ d.trsize ∧ d.wrap = false then
    { s1 with dbg := { d with full := true, blockOpen := false, block := next } }
  else
    let b := if next * 4096 ≥ d.trsize then 0 else next
    let s2 := { s1 with dbg := { d with blockOpen := true, block := b, nrec := 0, stamp := s.time.now,
                                        bseq := d.bseq + 1, lost := {} } }
    -- LOST of the header counts drops before this block opened
    s2.cohWrite 0 (s2.traceBlock b) ({ s2 with dbg := { s2.dbg with lost := d.lost } } : State).traceHeader

/-- Whether the trace unit takes records of a ward now (R511). -/
def State.tracing (s : State) (ward : Nat) : Bool :=
  s.dbg.tren && !s.dbg.full && decide (s.dbg.trbase ≠ 0) && decide (s.dbg.trsize ≠ 0) &&
    s.dbg.wards.contains ward

/-- A trace record accepted, stamped and stored, a new block opened when the current one is full or its header is
2^32 ns old (R47, R513). -/
def State.trace (s : State) (type ward ctx core place high : Nat) : State :=
  if s.tracing ward then
    let stale := decide (s.nowN ≥ s.dbg.stamp.toNat + 2 ^ 32)
    let s1 := if s.dbg.blockOpen && decide (s.dbg.nrec < 127) && !stale then s else s.traceOpen
    if s1.dbg.full then s1
    else
      let a := s1.traceBlock s1.dbg.block + 32 + 32 * s1.dbg.nrec
      let s2 := s1.cohWrite 0 a (recordBytes s1.nowN type ward ctx core place high 0)
      { s2 with dbg := { s2.dbg with nrec := s2.dbg.nrec + 1 } }
  else s

/-- An entry of the event log: counted, written where DB.ELBASE names a log, source 1 raised (R515, R575). -/
def State.logEvent (s : State) (type ward ctx core place high : Nat) : State :=
  let n := s.dbg.elcount.toNat % 128
  let s1 := if s.dbg.elbase = 0 then s
    else s.cohWrite 0 (s.dbg.elbase + 32 * n) (recordBytes s.nowN type ward ctx core place high s.nowN)
  let s2 := { s1 with dbg := { s1.dbg with elcount := s1.dbg.elcount + 1 } }
  (s2.raiseAplic 1).trace type ward ctx core place high

/-- A keeper event (R516): its code and information. -/
def State.keeperEvent (s : State) (code info : Nat) : State :=
  s.logEvent 0x10 0 0 0 0 (code + (info % 2 ^ 64) * 2 ^ 32)

/-- A debug event of a group (R516): causes, number or reason, lane, BRK code, address. -/
def State.debugEvent (s : State) (g : Site) (causes n lane brk addr : Nat) : State :=
  let (ward, ctx) := match s.group? g with
    | some x => match s.tile? g.core x.tile with
      | some t => ((s.ctx t.ctx).ward, t.ctx)
      | none => (0, 0)
    | none => (0, 0)
  s.logEvent 0x08 ward ctx g.core g.place
    (causes % 128 + n % 8 * 2 ^ 8 + lane % 32 * 2 ^ 11 + brk % 2 ^ 16 * 2 ^ 16 + addr % 2 ^ 64 * 2 ^ 32)

/-- ALERT_N follows the causes: low while any alert bit or the trip latch is set (R571). `alert` true is low. -/
def State.alertBits (s : State) : Nat :=
  b2n (s.stage == .failed) + 2 * b2n s.power.hot + 4 * b2n (s.power.coolOut || s.power.coolDiff) + 8 * b2n s.power.exc +
    16 * b2n s.power.tripBefore

/-- The pin driven from the causes, an in-band interrupt raised when they changed from `old` (R571). -/
def State.driveAlert (s : State) (old : Nat) : State :=
  let now := s.alertBits
  { s with pins := { s.pins with
      alert := decide (now ≠ 0) || s.power.tripLatch
      ibi := if now = old then s.pins.ibi else s.pins.ibi + 1 } }

end Sys2Proof.Machine
end

