-- ==== Sys2Proof/Machine/Access.lean ====
section
/-! DEFINITION. Virtual addresses: canonical form, shares, translation, permissions, the plan check and the kinds of
target (R79, R261 to R265, R274, R287, R294, R451, R452), and the front end's own accesses (R576). -/

namespace Sys2Proof.Machine

/-- What an access wants of an address. -/
inductive AccKind where
  | read | write | fetch | atomic | lr | sc
  deriving DecidableEq, Repr, Inhabited

/-- What translation answers: a target, no valid mapping, or a memory fault's DETAIL (R104). -/
inductive Resolved where
  | ok (t : Target)
  | miss
  | bad (detail : Nat)
  deriving DecidableEq, Repr, Inhabited

/-- An address is canonical when bits [63:57] all equal bit 56 (R79). -/
def canonical (va : Nat) : Bool := (va >>> 56) % 256 == 0 || (va >>> 56) % 256 == 255

/-- The DETAIL of a permission or plan failure of an access kind (R104, R287, R294); 4 for an atomic on a page that permits
neither read nor write (DESIGN CHOICE, log 125). -/
def permDetail : AccKind → Nat
  | .read | .lr => 3
  | .write | .atomic | .sc => 4
  | .fetch => 5

/-- Leaf sizes that the IOMMU supports (R262). -/
def leafSizes : List Nat := [4096, 65536, 2 ^ 21, 2 ^ 30, 2 ^ 39, 2 ^ 48]

/-- Whether a leaf is one the IOMMU supports: its size, and addresses aligned to it (R262). -/
def leafLegal (l : Leaf) : Bool := leafSizes.contains l.size && l.va % l.size == 0 && l.pa % l.size == 0

/-- The leaf of a list that maps an address of a process; one of a size the IOMMU does not support maps nothing (R4,
R262). -/
def leafIn (ls : List Leaf) (pasid va : Nat) : Option Leaf :=
  ls.find? (fun l => leafLegal l && l.pasid == pasid && decide (l.va ≤ va) && decide (va < l.va + l.size))

/-- Whether the tables are walked for a process: the device context of 0x100 is valid, and the process's context is
(R263). -/
def Iommu.serves (i : Iommu) (pasid : Nat) : Bool := i.dev.valid && i.valid.contains pasid

/-- The leaf an access uses at one IOMMU: the tables', or one a translation cache still holds, either of the two (R263,
R265); `draw` is the free draw for the page. -/
def Iommu.leafOf (i : Iommu) (draw pasid va : Nat) : Option Leaf :=
  match leafIn i.stale pasid va, (if i.serves pasid then leafIn i.leaves pasid va else none) with
  | none, x => x
  | some o, x => if Config.freeBool (draw + va / 4096) then some o else x

/-- The same at the accelerator side's IOMMU. -/
def State.leafOf (s : State) (pasid va : Nat) : Option Leaf := s.io.leafOf s.free pasid va

/-- Whether a leaf permits an access (R83, R104). -/
def leafPermits (l : Leaf) : AccKind → Bool
  | .read | .lr => l.r
  | .write | .sc => l.w
  | .atomic => l.w && l.r
  | .fetch => l.x

/-- The 64-bit window-table entry of aperture `n`; none of them is VALID while SP.WINTAB is zero (R451, R575). -/
def State.windowEntry (s : State) (n : Nat) : Nat :=
  if s.span.wintab = 0 then 0 else s.cohNat (s.span.wintab + 8 * n) 8

/-- The aperture of a span-window address and what it reaches: peer and the peer's physical address (R451). -/
def State.window? (s : State) (pa : Nat) : Option (Nat × Nat) :=
  let n := (pa - Config.winBase) >>> 41
  let e := s.windowEntry n
  let peer := nfield e 11 0
  if e.testBit 12 ∧ peer ≠ s.here then some (peer, Config.lpBase + pa % 2 ^ 41) else none

/-- Whether a physical address is a device range of the host map: IMSIC files, root-port windows (R294, R410). -/
def isMmio (pa : Nat) : Bool :=
  (decide (0x14000000 ≤ pa) && decide (pa < 0x14048000)) || (decide (0x18000000 ≤ pa) && decide (pa < 0x18240000)) ||
  (decide (0x40000000 ≤ pa) && decide (pa < 0x80000000)) ||
  (decide (0x800000000000 ≤ pa) && decide (pa < 0xA00000000000))

/-- The target of a translated physical address for a ward's plan (R264, R287, R294, R452). -/
def State.classify (s : State) (plan pa : Nat) (uncached : Bool) (k : AccKind) : Resolved :=
  if s.isLp pa then
    if s.planReaches plan pa then .ok (if uncached then .uncached pa else .cache pa) else .bad (permDetail k)
  else if Config.winBase ≤ pa ∧ pa < Config.winEnd then
    match s.window? pa with
    | some (peer, ppa) => .ok (.window peer ppa (!uncached))
    | none => .bad 2
  else if isMmio pa then
    match k with
    | .read | .write => .ok (.mmio pa)
    | k => .bad (permDetail k)
  else .bad (permDetail k)

/-- Translation of an address of a process under a plan (R262, R287). -/
def State.translate (s : State) (pasid plan va : Nat) (k : AccKind) : Resolved :=
  match s.leafOf pasid va with
  | none => .miss
  | some l =>
    if leafPermits l k then s.classify plan (l.pa + (va - l.va)) (l.pbmt != Pbmt.pma) k else .bad (permDetail k)

/-- The resident share run of a context that covers an address (R274). -/
def Ctx.shareAt (c : Ctx) (va : Nat) : Option ShareRun :=
  c.shares.find? (fun r => r.resident && decide (r.vbase ≤ va) && decide (va < r.vbase + r.ngran * 2 ^ 21))

/-- The physical address behind byte `off` of a run, as the run's LBASE range translated when the run became resident
(R274). -/
def ShareRun.behind (r : ShareRun) (off : Nat) : Option Nat :=
  (NMap.find (off / 4096) r.backs).map (fun p => p * 4096 + off % 4096)

/-- A target as cacheable memory: an access to an unplaced granule is served so, whatever its page says (R279). -/
def Target.cacheable : Target → Target
  | .uncached pa => .cache pa
  | t => t

/-- An access to a granule that is not placed, or not yet filled, served from the LBASE region: the plan is checked, and
where the region was not mapped its translation is too (R279, R287). -/
def State.fromRegion (s : State) (c : Ctx) (r : ShareRun) (off : Nat) (k : AccKind) : Resolved :=
  match r.behind off with
  | some pa => s.classify c.plan pa false k
  | none =>
    match s.translate c.pasid c.plan (r.lbase + off) k with
    | .ok t => .ok t.cacheable
    | x => x

/-- Bonded SRAM bytes of one die (R19). -/
abbrev sramBytes : Nat := 6 * 2 ^ 30

/-- Where an access of a context goes: canonical form, then the context's resident shares, then translation. -/
def State.resolve (s : State) (ctx va : Nat) (k : AccKind) : Resolved :=
  let c := s.ctx ctx
  if canonical va = false then .bad 1
  else
    match c.shareAt va with
    | some r =>
      if k = .fetch then .bad 5
      else if r.rdonly ∧ (k = .write ∨ k = .atomic ∨ k = .sc) then .bad 4
      else
        let off := va - r.vbase
        match NMap.find (off / 2 ^ 21) r.placed, r.filled with
        | some g, true =>
          .ok (.share (g / 4096) (g % 4096 * 2 ^ 21 + off % 2 ^ 21) (if r.scratch then none else r.behind off))
        | _, _ => s.fromRegion c r off k
    | none => s.translate c.pasid c.plan va k

/-- The state as a tile's accesses see the plans: its ward's plan as it stood when the tile started (R290). -/
def State.tileView (s : State) (core key : Nat) : State :=
  match s.tile? core key with
  | some t => { s with fe := { s.fe with plans := NMap.ins (s.ctx t.ctx).plan t.plan s.fe.plans } }
  | none => s

/-- The same for a group's tile. -/
def State.groupView (s : State) (g : Site) : State :=
  match s.group? g with
  | some x => s.tileView g.core x.tile
  | none => s

/-! ### A and D bits, the fault queue (R262) -/

/-- The state with a draw taken where a stale translation may still be used (R265). -/
def State.drawStale (s : State) : State := if s.io.stale.isEmpty then s else (s.draw).2

/-- Whether a leaf maps an address of a process and lacks the A bit, or for a write the D bit. -/
def leafUnmarked (l : Leaf) (pasid va : Nat) (w : Bool) : Bool :=
  l.pasid == pasid && decide (l.va ≤ va) && decide (va < l.va + l.size) && (!l.acc || (w && !l.dirty))

/-- The A bit set in the leaves that map an address of a process, and for a write the D bit (R262). -/
def Iommu.mark (i : Iommu) (pasid va : Nat) (w : Bool) : Iommu :=
  if i.leaves.any (fun l => leafUnmarked l pasid va w) then
    { i with leaves := i.leaves.map (fun l =>
        if leafUnmarked l pasid va w then { l with acc := true, dirty := l.dirty || w } else l) }
  else i

/-- An access kind that writes. -/
def AccKind.writes : AccKind → Bool
  | .write | .atomic | .sc => true
  | _ => false

/-- What translating the addresses of an access leaves behind: the A and D bits, outside the resident shares, and a draw
for a translation that may be stale (R262, R265, R274). -/
def State.translated (s : State) (ctx : Nat) (k : AccKind) (vas : List Nat) : State :=
  let c := s.ctx ctx
  let io := (vas.filter (fun va => (c.shareAt va).isNone)).foldl (fun i va => i.mark c.pasid va k.writes) s.io
  ({ s with io := io } : State).drawStale

/-- A record in the fault queue for an address that translation or a permission refused: DETAIL 2 to 5 of a canonical
address outside the resident shares (R262). -/
def State.noteIoFault (s : State) (ctx detail va : Nat) : State :=
  let c := s.ctx ctx
  if 2 ≤ detail ∧ detail ≤ 5 ∧ canonical va = true ∧ (c.shareAt va).isNone then
    { s with io := { s.io with faultq := s.io.faultq ++ [{ pasid := c.pasid, va := va, detail := detail }] } }
  else s

/-! ### Bonded SRAM shares -/

/-- A byte of a die's bonded SRAM. Every byte reads zero after bring-up (R523 event 6). -/
def State.sramRead (s : State) (die addr : Nat) : Byte := NMap.findD 0 (die * sramBytes + addr) s.ms.sram

/-- `n` bytes of a die's bonded SRAM. -/
def State.sramReadN (s : State) (die addr : Nat) : Nat → List Byte
  | 0 => []
  | n + 1 => s.sramRead die addr :: s.sramReadN die (addr + 1) n

/-- A store whose missing bytes read zero, with a byte string written at a key. -/
def putBytes (m : NMap Byte) (key : Nat) : List Byte → NMap Byte
  | [] => m
  | b :: bs => putBytes (NMap.put 0 key b m) (key + 1) bs

/-- Bytes written to a die's bonded SRAM. -/
def State.sramWrite (s : State) (die addr : Nat) (bytes : List Byte) : State :=
  { s with ms := { s.ms with sram := putBytes s.ms.sram (die * sramBytes + addr) bytes } }

/-- Bytes of a scratch share marked as written now; a share with a backing needs no mark (R109). -/
def State.stampSram (s : State) (die addr n : Nat) (backing : Option Nat) : State :=
  if backing.isSome then s
  else { s with ms := { s.ms with stamps := (List.range n).foldl (fun m i =>
    NMap.ins (die * sramBytes + addr + i) s.free m) s.ms.stamps } }

/-- Bytes of a share as a tile may see them: of a scratch share, those written since the tile started, the others
undefined (R109). -/
def State.scratchView (s : State) (nonce : Nat) (t : Target) (bs : List Byte) : List Byte :=
  match t with
  | .share die a none => (List.range bs.length).map (fun i =>
      let key := die * sramBytes + a + i
      if NMap.findD 0 key s.ms.stamps > nonce then bs.getD i 0 else Config.undefByte nonce (2 ^ 60 + key))
  | _ => bs

/-- Whether a share line is marked poisoned (R291). -/
def State.sramBad (s : State) (die addr : Nat) : Bool := s.ms.sramPoison.contains (lineOf (die * sramBytes + addr))

/-- Whether the domains that serve a target are in handshake idle; otherwise the access waits for their wake (R469). A
cacheable line in an LLC is served there. -/
def State.awake (s : State) (t : Target) : Bool :=
  match t with
  | .uncached pa => s.domain (s.memDomain pa) == .idle
  | .share die _ _ => s.domain (16 + die) == .idle
  | _ => true

/-- The line a target lies in, as a target. -/
def lineTgt : Target → Target
  | .cache pa => .cache (lineOf pa)
  | .uncached pa => .uncached (lineOf pa)
  | .share die a b => .share die (lineOf a) (b.map lineOf)
  | .window p pa c => .window p (lineOf pa) c
  | .mmio pa => .mmio (lineOf pa)

/-- Byte of its line that a target starts at. -/
def lineOff : Target → Nat
  | .cache pa => pa % 128
  | .uncached pa => pa % 128
  | .share _ a _ => a % 128
  | .window _ pa _ => pa % 128
  | .mmio pa => pa % 128

/-! ### Bytes of a target -/

/-- `n` bytes at a target as its endpoint holds them, with the poison mark; none for a window or a device. -/
def State.targetRead (s : State) (t : Target) (n : Nat) : Option (List Byte × Bool) :=
  match t with
  | .cache pa => some (s.cohRead pa n, (s.coherentLine (lineOf pa)).poison)
  | .uncached pa => some (s.ms.mem.readN pa n, s.ms.mem.poison.contains (lineOf pa))
  | .share die a _ => some (s.sramReadN die a n, s.sramBad die a)
  | .window _ _ _ => none
  | .mmio _ => none

/-- Bytes written at a target at its endpoint, with the epoch tag; a backed share is written through (R276). A window
or a device is not written here. -/
def State.targetWrite (s : State) (t : Target) (tag : Nat) (bytes : List Byte) : State :=
  match t with
  | .cache pa => s.cohWrite tag pa bytes
  | .uncached pa => (groupLines pa bytes).foldl (fun st lm => st.memAccept lm.1 lm.2 false tag) s
  | .share die a back =>
    let s1 := (s.sramWrite die a bytes).stampSram die a bytes.length back
    match back with
    | some pa => s1.cohWrite tag pa bytes
    | none => s1
  | .window _ _ _ => s
  | .mmio _ => s

/-! ### The front end's accesses in a context's address space (R576) -/

/-- Why a front-end access cannot be made yet, or at all. -/
inductive FeFail where
  | wait (va : Nat)
  | bad (detail va : Nat)
  deriving DecidableEq, Repr, Inhabited

/-- Whether no page request helps: the context's are disabled, or the host has answered this one with failure (R84,
R576). -/
def State.noPage (s : State) (ctx va : Nat) : Bool :=
  (s.ctx ctx).prqdis || s.io.failed.contains ((s.ctx ctx).pasid, va / 4096)

/-- The state in which a failed page request has been seen. -/
def State.sawPage (s : State) (ctx va : Nat) : State :=
  { s with io := { s.io with failed := s.io.failed.filter (fun f => f != ((s.ctx ctx).pasid, va / 4096)) } }

/-- Reads `n` bytes at an address of a context, byte by byte through its translation. -/
def State.feReadN (s : State) (ctx va : Nat) : Nat → Except FeFail (List Byte)
  | 0 => .ok []
  | n + 1 =>
    match s.resolve ctx va .read with
    | .bad d => .error (.bad d va)
    | .miss => .error (if s.noPage ctx va then .bad 2 va else .wait va)
    | .ok t =>
      match s.targetRead t 1 with
      | some (b, _) =>
        match s.feReadN ctx (va + 1) n with
        | .ok bs => .ok (b ++ bs)
        | .error e => .error e
      | none => .error (.bad 3 va)

/-- A number of `n` bytes at an address of a context. -/
def State.feNat (s : State) (ctx va n : Nat) : Except FeFail Nat := (s.feReadN ctx va n).map bytesNat

/-- Whether the front end can write `n` bytes from an address of a context. -/
def State.feCanWrite (s : State) (ctx va : Nat) : Nat → Except FeFail Unit
  | 0 => .ok ()
  | n + 1 =>
    match s.resolve ctx va .write with
    | .bad d => .error (.bad d va)
    | .miss => .error (if s.noPage ctx va then .bad 2 va else .wait va)
    | .ok (.window _ _ _) => .error (.bad 4 va)
    | .ok (.mmio _) => .error (.bad 4 va)
    | .ok _ => s.feCanWrite ctx (va + 1) n

/-- Writes bytes at an address of a context, tagged; each byte goes to its own target. -/
def State.feWriteBytes (s : State) (ctx tag va : Nat) : List Byte → State
  | [] => s
  | b :: bs =>
    match s.resolve ctx va .write with
    | .ok t => ({ s.targetWrite t tag [b] with io := s.io.mark (s.ctx ctx).pasid va ((s.ctx ctx).shareAt va).isNone } : State).feWriteBytes
        ctx tag (va + 1) bs
    | _ => s

/-- A write of the front end in a context's address space: whole, or not at all. -/
def State.feWrite (s : State) (ctx tag va : Nat) (bytes : List Byte) : Except FeFail State :=
  match s.feCanWrite ctx va bytes.length with
  | .ok _ => .ok (s.feWriteBytes ctx tag va bytes)
  | .error e => .error e

/-- A page request sent to the host, counted for the context (R84, R517 slot 16). -/
def State.pageRequest (s : State) (ctx va : Nat) : State :=
  let p := (s.ctx ctx).pasid
  if s.io.requests.contains (p, va / 4096) then s
  else ({ s with io := { s.io with requests := s.io.requests ++ [(p, va / 4096)] } } : State).countCtx ctx 16 1

end Sys2Proof.Machine
end

