-- ==== Sys2Proof/Machine/Faults.lean ====
section
/-! DEFINITION. Stopping tiles, the fault record, faulting a context, and what the front end writes back of slots,
contexts and rings (R106 to R108, R353, R356 to R360, R373, R390, R576). -/

namespace Sys2Proof.Machine

/-! ### What the front end writes of its tables -/

/-- The value of a context state (R357). -/
def CtxState.code : CtxState → Nat
  | .off => 0 | .idle => 1 | .loading => 2 | .resident => 3 | .evicting => 4 | .faulted => 5 | .invalid => 6

/-- Address of a context's descriptor (R356). -/
def State.ctxAddr (s : State) (n : Nat) : Nat := s.fe.ctxbase + 256 * n

/-- STATE, CAUSE and SLOT written in the context's descriptor (R356). -/
def State.syncCtx (s : State) (n : Nat) : State :=
  let c := s.ctx n
  s.cohWrite s.tagNow (s.ctxAddr n + 64) [BitVec.ofNat 8 (c.state.code + 16 * c.cause), BitVec.ofNat 8 c.slot]

/-- The 64 bytes of a slot entry (R360). -/
def slotBytes (x : Slot) : List Byte :=
  natBytes 64 (x.ctx + x.state * 2 ^ 16 + x.ward * 2 ^ 32 + x.since * 2 ^ 64 + x.rtiles * 2 ^ 128 + x.grans * 2 ^ 160)

/-- Slot `i` (R360). -/
def State.slot (s : State) (i : Nat) : Slot := NMap.findD {} i s.fe.slots

/-- Slot `i` changed, and its entry of the slot table written. -/
def State.setSlot (s : State) (i : Nat) (x : Slot) : State :=
  ({ s with fe := { s.fe with slots := NMap.ins i x s.fe.slots } } : State).cohWrite s.tagNow
    (s.fe.slotbase + 64 * i) (slotBytes x)

/-- The slot a context holds, where its state says it holds one (R356). -/
def Ctx.holdsSlot (c : Ctx) (slots : NMap Slot) (n : Nat) : Bool :=
  match NMap.find c.slot slots with
  | some x => decide (x.state ≠ 0) && x.ctx == n
  | none => false

/-- Tiles of a context placed on this module's cores now. -/
def State.tilesOf (s : State) (ctx : Nat) : List (Nat × Nat) :=
  (s.cores.map (fun ck => (ck.2.tiles.filter (fun kt => kt.2.ctx == ctx)).map (fun kt => (ck.1, kt.1)))).flatten

/-- RTILES of a context's slot brought up to date (R360). -/
def State.syncSlotOf (s : State) (ctx : Nat) : State :=
  let c := s.ctx ctx
  if c.holdsSlot s.fe.slots ctx then s.setSlot c.slot { s.slot c.slot with rtiles := (s.tilesOf ctx).length } else s

/-! ### Fault record (R108) -/

/-- A fault record's fields as the 384-bit number it holds. -/
def recordOf (f : FaultInfo) (group core : Nat) (time tile : Nat) : Nat :=
  f.cls + f.detail * 2 ^ 8 + f.lane * 2 ^ 16 + group * 2 ^ 24 + core * 2 ^ 32 + f.pc.toNat * 2 ^ 64 +
    f.addr % 2 ^ 64 * 2 ^ 128 + time * 2 ^ 192 + tile % 2 ^ 32 * 2 ^ 256

/-- A fault record with MORE incremented, saturating (R108). -/
def moreOf (old : Nat) : Nat :=
  let more := nfield old 62 48
  let r := satAdd 15 1 more (old.testBit 63)
  old - nfield old 63 48 * 2 ^ 48 + r.1 * 2 ^ 48 + b2n r.2 * 2 ^ 63

/-- The fault record as a fault leaves it: written, or MORE incremented when it already holds one (R108). -/
def State.tryFault (s : State) (ctx tag : Nat) (rcd : Nat) : Except FeFail State :=
  let a := (s.ctx ctx).faultrec
  match s.feNat ctx a 48 with
  | .error e => .error e
  | .ok old => s.feWrite ctx tag a (natBytes 48 (if nfield old 7 0 = 0 then rcd else moreOf old))

/-- A fault recorded, in order; one whose record lies on a missing page waits for the page, and a write that fails is dropped
(R108, R576). -/
def State.writeFault (s : State) (ctx tag : Nat) (rcd : Nat) : State :=
  let owe (st : State) : State := st.updCtx ctx (fun c => { c with owedFaults := c.owedFaults ++ [(tag, rcd)] })
  if (s.ctx ctx).owedFaults.isEmpty = false then owe s
  else match s.tryFault ctx tag rcd with
    | .ok s1 => s1
    | .error (.wait va) => owe (s.pageRequest ctx va)
    | .error (.bad _ va) => s.sawPage ctx va

/-- The fault records of a context that wait for a page taken up again (R576). -/
def State.settleFaults (s : State) (ctx : Nat) : State :=
  (s.ctx ctx).owedFaults.foldl (fun st f => st.writeFault ctx f.1 f.2) (s.updCtx ctx (fun c => { c with owedFaults := [] }))

/-! ### Spindle status blocks (R257) -/

/-- The 64 bytes of a status block. -/
def statusBytes (sp : Spindle) (state cause desc addr time : Nat) : List Byte :=
  natBytes 64 (state + cause * 2 ^ 8 + desc * 2 ^ 16 + sp.flags.toNat * 2 ^ 24 + sp.fills * 2 ^ 32 +
    b2n sp.fillsat * 2 ^ 63 + addr % 2 ^ 64 * 2 ^ 64 + sp.elems * 2 ^ 128 + b2n sp.elemsat * 2 ^ 176 +
    sp.loss * 2 ^ 192 + b2n sp.losssat * 2 ^ 240 + time * 2 ^ 256)

/-- A store of a spindle to one line: it leaves for its endpoint as one of the tile's stores; those of COPY and CONVERT go
through the home without being cached (R293). -/
def State.orphanStore (s : State) (core : Nat) (t : Tile) (va : Nat) (tg : Target) (bs : List Byte) : State :=
  let direct := match s.launch? t.launch with
    | some l => match l.kind with
      | .copy .. => true
      | _ => false
    | none => false
  let e : SbEntry := { order := 0, va := va, tgt := lineTgt tg, tag := s.launchTag t.launch, drain := true, nocache := direct
                       bytes := (List.range bs.length).map (fun i => (lineOff tg + i, bs.getD i 0)) }
  s.updCore core (fun k => { k with orphans := k.orphans ++ [{ ctx := t.ctx, launch := t.launch, store := some e, ways := t.plan.ways }] })

/-- Where a spindle of a tile can write a status block, seen through the tile's plan, or why it cannot (R257, R258,
R290). -/
def State.statusAt (s : State) (core key ctx va : Nat) : Except FeFail Target :=
  match (s.tileView core key).resolve ctx va .write with
  | .ok t => .ok t
  | .miss => .error (if s.noPage ctx va then .bad 2 va else .wait va)
  | .bad d => .error (.bad d va)

/-- A status block written as a store of the tile, which completes before its LAUNCH does (R257): at once where the
module holds it, otherwise on its way to a peer. -/
def State.putStatus (s : State) (core : Nat) (t : Tile) (va : Nat) (tg : Target) (bs : List Byte) : State :=
  let s := s.translated t.ctx .write [va]
  match tg with
  | .window _ _ _ => s.orphanStore core t va tg bs
  | .mmio _ => s.orphanStore core t va tg bs
  | _ => s.targetWrite tg (s.launchTag t.launch) bs

/-- A spindle's status block written as a store of its tile; none when STATUS is zero (R238, R257). A write that fails
is dropped. -/
def State.writeStatus (s : State) (core key : Nat) (t : Tile) (sp : Spindle) (state cause desc addr : Nat) : State :=
  if sp.hdr.status = 0 then s
  else match s.statusAt core key t.ctx sp.hdr.status with
    | .ok tg => s.putStatus core t sp.hdr.status tg (statusBytes sp state cause desc addr s.nowN)
    | .error _ => s

/-- Whether a spindle is at work: it has a program and has neither finished nor faulted. -/
def Spindle.busy (sp : Spindle) : Bool :=
  sp.prog != SpProg.none && sp.phase != SpPhase.idle && sp.phase != SpPhase.finished && sp.phase != SpPhase.faulted

/-- Every busy spindle of a core writes its status block as stopped, with cause 0b1000 (R257 to R259); the spindles of
`but` are left out. -/
def State.stopSpindles (s : State) (core key : Nat) (t : Tile) (but : List Nat) : State :=
  (s.core core).spindles.foldl (fun st ns =>
    if ns.2.busy && !but.contains ns.1 then st.writeStatus core key t ns.2 3 8 ns.2.di 0 else st) s

/-! ### Stopping tiles (R106 step 1, R353) -/

/-- Why a tile is stopped: by a mismatch, by a die fence, or by anything after which it does not run again. -/
inductive StopWhy where
  | mismatch | fence | other
  deriving DecidableEq, Repr, Inhabited

/-- The stores and unperformed atomics a group leaves to complete (R106). -/
def orphansOf (ctx launch : Nat) (ways : BitVec 16) (g : Group) : List Orphan :=
  g.sb.map (fun e => { ctx := ctx, launch := launch, store := some e, ways := ways }) ++
    (g.atoms.filter (fun a => a.result.isNone)).map (fun a => { ctx := ctx, launch := launch, atom := some a, ways := ways })

/-- What a group's visible stores have still to do passes to its launch: lines to bring to their controllers, window
stores not at their final endpoint (R311, R386). -/
def Launch.absorb (l : Launch) (x : Group) : Launch :=
  { l with dirtied := x.dirtied.foldl (fun d a => addNew a d) l.dirtied
           winDone := (x.winDone.map (·.1)).foldl (fun d a => addNew a d) l.winDone }

/-- The array emptied: region, queue, running instructions and accumulators (R106, R154, R155). -/
def Core.clearArray (k : Core) : Core := { k with region := none, queue := [], running := [], acc := [] }

/-- A direction without the relay messages retained for a tile. -/
def RelayDir.drop (d : RelayDir) (launch index : Nat) : RelayDir :=
  { d with retained := d.retained.filter (fun r => !(r.launch == launch && r.index == index)) }

/-- The relay messages retained for a tile released (R230). -/
def Core.dropRetained (k : Core) (launch index : Nat) : Core :=
  { k with fwd := k.fwd.drop launch index, bwd := k.bwd.drop launch index }

/-- The spare map in force of a die (R235). -/
def State.spareMap (s : State) (die : Nat) : SpareMap := NMap.findD {} die s.sec.cfg.maps

/-- Physical position of a logical core (R235). -/
def State.positionOf (s : State) (core : Nat) : Nat := NMap.findD 0 (core % 96) (s.spareMap (dieOfCore core)).map

/-- OUTCOME of a tile (R478): mismatch, nothing drained, everything checked, some not checked. -/
def Tile.outcome (t : Tile) (mismatch : Bool) : Nat :=
  if mismatch then 2 else if !t.drained then 0 else if t.unchecked then 3 else 1

/-- NENT, OVF and DONE of a record (R477). -/
def ExcRec.tail (r : ExcRec) : Nat := r.nent + b2n (decide (r.tiles > 4092)) * 2 ^ 12 + b2n r.left.isEmpty * 2 ^ 13

/-- A record with the entry of an ended tile in flight written, where the record has room (R477). -/
def State.excEntry (s : State) (r : ExcRec) (core key entry : Nat) : State × ExcRec :=
  if r.left.contains (core, key) = false then (s, r)
  else
    let r1 : ExcRec := { r with left := r.left.filter (· != (core, key)) }
    let (s2, r2) : State × ExcRec := if r.nent < 4092 then
        (s.cohWrite 0 (r.addr + 64 + 16 * r.nent) (natBytes 16 entry), { r1 with nent := r.nent + 1 })
      else (s, r1)
    (if r.closed then s2.cohPut 0 (r.addr + 28) 4 r2.tail else s2, r2)

/-- Entries of the excursion records for a tile that ends; a record that is done is let go (R477). -/
def State.excursionTile (s : State) (core key : Nat) (t : Tile) (mismatch : Bool) : State :=
  let l := s.launch? t.launch
  let entry := t.ctx + t.outcome mismatch * 2 ^ 14 + t.index % 2 ^ 32 * 2 ^ 32 + (l.map (·.ring)).getD 0 * 2 ^ 64 +
    (l.map (·.count)).getD 0 % 2 ^ 16 * 2 ^ 80 + core * 2 ^ 96
  let (s1, rs) := s.power.recs.foldl (fun (p : State × List ExcRec) r =>
    let (st, r1) := p.1.excEntry r core key entry
    (st, p.2 ++ [r1])) (s, [])
  { s1 with power := { s1.power with recs := rs.filter (fun r => !(r.closed && r.left.isEmpty)) } }

/-- A tile leaves its core: usage, trace, excursion entry and hasp participation brought up to date, the array and the
tile's spindles freed (R54, R348, R360, R371, R477). `why` none is an ordinary end. -/
def State.tileGone (s : State) (core key : Nat) (why : Option StopWhy) : State :=
  match s.tile? core key with
  | none => s
  | some t =>
    let mism := why == some StopWhy.mismatch
    let again := mism || why == some StopWhy.fence
    let s1 := s.excursionTile core key t mism
    let l := s.launch? t.launch
    let s2 := s1.trace 2 (s.ctx t.ctx).ward t.ctx core 0
      (t.index % 2 ^ 32 + ((l.map (·.count)).getD 0 % 2 ^ 16) * 2 ^ 32 + (l.map (·.ring)).getD 0 * 2 ^ 48 +
        t.outcome mism * 2 ^ 51 + b2n why.isSome * 2 ^ 53)
    let last := !((s.core core).tiles.any (fun kt => kt.1 != key && kt.2.ctx == t.ctx))
    let s3 := s2.updCtx t.ctx (fun c => { c with
      lastEnd := s.nowN
      usage := { c.usage with tiles := c.usage.tiles.add 48 1
                              corens := if last then c.usage.corens.add 48 (s.nowN - NMap.findD s.nowN t.ctx (s.core core).since)
                                        else c.usage.corens } })
    let left := ((s.core core).groupsOf key).map (·.2)
    let s4 := s3.updLaunch t.launch (fun x =>
      left.foldl Launch.absorb x)
    let mine (src : TumSrc) : Bool := match src with
      | .group g => g.core == core && ((s.core core).groupsOf key).any (fun pg => pg.1 == g.place)
      | _ => false
    let posted (op : TumOp) : Bool := match op with
      | .arrive _ => true
      | .depart _ => true
      | _ => false
    let s5 := { s4 with waiters := s4.waiters.filter (fun w => !mine w.src)
                        tumq := s4.tumq.filter (fun q => !mine q.src || posted q.op) }
    let s6 := s5.updCore core (fun k =>
      let gone := k.groupsOf key
      let os := (gone.map (fun pg => orphansOf t.ctx t.launch t.plan.ways pg.2)).flatten
      let fetches (owner : Nat) : Bool := gone.any (fun pg => owner == 5 + pg.1)
      let k1 := { k with groups := k.groups.filter (fun pg => pg.2.tile != key)
                         winreads := k.winreads.filter (fun w => !fetches w.owner)
                         lineReads := k.lineReads.filter (fun r => !fetches r.owner)
                         tiles := NMap.del key k.tiles
                         since := if last then NMap.del t.ctx k.since else k.since
                         orphans := k.orphans ++ os
                         ltq := k.ltq.filter (fun o => o.tile != key) }
      if t.matrix || key == 48 then
        let k2 := { k1.clearArray with spindles := [], winreads := k1.winreads.filter (fun w => decide (4 < w.owner))
                                       lineReads := k1.lineReads.filter (fun r => decide (4 < r.owner)) }
        if again then k2 else k2.dropRetained t.launch t.index
      else k1)
    let s7 := if again then s6 else
      { s6 with hasps := NMap.mapVals (fun _ h => if h.launch = t.launch
          then { h with gone := addNew t.index h.gone } else h) s6.hasps }
    s7.syncSlotOf t.ctx

/-- Releases of halted groups of a tile logged with their reason: 0 mismatch, 1 tile stopped (R506, R516). -/
def State.releaseHalted (s : State) (core key reason : Nat) : State :=
  ((s.core core).groupsOf key).foldl (fun st pg =>
    if pg.2.halted then st.debugEvent ⟨core, pg.1⟩ 64 reason 0 0 pg.2.pc.toNat else st) s

/-- A tile stopped as in step 1 of R106: its groups are gone, results in the array discarded, its local tumblers and
waits with it. Its spindles write their status blocks unless a mismatch stopped it (R227, R257). -/
def State.stopTile (s : State) (core key : Nat) (why : StopWhy) (butSpindle : List Nat := []) : State :=
  match s.tile? core key with
  | none => s
  | some t =>
    let s1 := s.releaseHalted core key (if why = .mismatch then 0 else 1)
    let s2 := if why = .mismatch ∨ ¬ (t.matrix ∨ key = 48) then s1 else s1.stopSpindles core key t butSpindle
    s2.tileGone core key (some why)

/-- Every running tile of a context stopped (R106 step 2). -/
def State.stopCtxTiles (s : State) (ctx : Nat) : State :=
  (s.tilesOf ctx).foldl (fun st ck => st.stopTile ck.1 ck.2 .other) s

/-! ### Faulting a context (R106, R348, R390) -/

/-- Every command of a context that is fetched and not over ends with CANCELLED; one that places tiles gets its status from
its launch (R359, R390). -/
def Ctx.cancelAll (c : Ctx) : Ctx :=
  { c with rings := NMap.mapVals (fun _ x => { x with cmds := x.cmds.map (fun m =>
      match m.state, m.launch with
      | .ended _ _ _ _, _ => m
      | _, some _ => m
      | _, none => { m with state := .ended 1 0 0 0 }) }) c.rings }

/-- The launches of a context that faults place no more tiles: the one whose tile faulted ends with FAULT, the others are
cancelled, and their hasp lines are freed (R348, R390). One that serves a peer goes once the fault has been reported to its
origin (R457, R458). -/
def State.haltLaunches (s : State) (ctx : Nat) (named : Option Nat) : State :=
  let mine := s.fe.launches.filter (fun kl => kl.2.ctx == ctx)
  let halt (k : Nat) (l : Launch) : Launch :=
    if l.ctx ≠ ctx then l
    else if named = some k ∨ l.origin.isSome then { l with faulted := true, pool := [], replays := [] }
    else { l with cancelled := true, pool := [], replays := [] }
  { s with
    fe := { s.fe with launches := NMap.mapVals halt s.fe.launches }
    hasps := s.hasps.filter (fun nh => !(mine.any (fun kl => kl.1 == nh.2.launch))) }

/-- The waits of a context's rings at the tumbler unit taken off. -/
def State.dropRingWaits (s : State) (ctx : Nat) : State :=
  { s with waiters := s.waiters.filter (fun w => match w.src with
      | .ring (.ring c _) => c != ctx
      | .fence (.ring c _) => c != ctx
      | _ => true) }

/-- A context faulted: its other tiles stopped, the fault recorded, its commands completed and its state changed (steps
2 and 3 of R106). `launch` is the launch whose tile faulted. -/
def State.faultContext (s : State) (ctx : Nat) (launch : Option Nat) (rcd : Nat) : State :=
  let s1 := s.writeFault ctx ((launch.map s.launchTag).getD s.tagNow) rcd
  let s2 := s1.stopCtxTiles ctx
  let s3 := s2.updCtx ctx (fun c => { c.cancelAll with state := .faulted })
  ((s3.haltLaunches ctx launch).dropRingWaits ctx).syncCtx ctx

/-- A fault that the front end's own access raises for a context (R576): CLASS memory, DETAIL, ADDR and TIME. -/
def State.feFault (s : State) (ctx detail va : Nat) : State :=
  (s.noteIoFault ctx detail va).faultContext ctx none (recordOf { cls := 4, detail := detail, lane := 0, addr := va, pc := 0 } 0 0 s.nowN 0)

/-- A tile's fault taken: the tile stopped, then the context faulted (R106 steps 1 to 3). A tile of a COPY, CONVERT or
FILL does not fault its context (R399) and does not come here. What the tile was stays known for the beat (R260, R366). -/
def State.faultTile (s : State) (core key : Nat) (f : FaultInfo) (group : Nat) (butSpindle : List Nat := []) :
    State :=
  match s.tile? core key with
  | none => s
  | some t =>
    let rcd := recordOf f group core s.nowN t.index
    let s1 := s.trace 3 (s.ctx t.ctx).ward t.ctx core 0 (f.cls + f.detail * 2 ^ 8 + f.pc.toNat * 2 ^ 32)
    let g : GoneTile := { key := key, time := s.nowN, tag := s.launchTag t.launch, tile := t
                          spindles := if t.matrix then (s.core core).spindles else [] }
    (((s1.stopTile core key .other butSpindle)).faultContext t.ctx (some t.launch) rcd).updCore core (fun k =>
      { k with gone := some g })

/-- A further fault of a context in the same beat as the recorded one: MORE alone (R108). -/
def State.moreFault (s : State) (core : Nat) (t : Tile) (tag : Nat) (f : FaultInfo) (group : Nat) : State :=
  s.writeFault t.ctx tag (recordOf f group core s.nowN t.index)

/-- The tile of a key that a fault stopped on a core in this beat (R260, R366). -/
def State.goneNow (s : State) (core : Nat) : Option GoneTile :=
  match (s.core core).gone with
  | some g => if g.time = s.nowN then some g else none
  | none => none

/-! ### Debug rights and halting (R500, R505) -/

/-- Whether an active token grants right `r` (0 halt, 1 trace, 2 global, 3 JTAG) for a ward (R497, R500). -/
def State.hasRight (s : State) (r ward : Nat) : Bool :=
  s.sec.tokens.any (fun t => t.2.rights.getLsbD r && decide (t.2.wfirst ≤ ward) && decide (ward ≤ t.2.wlast))

/-- Whether some active token grants right `r`: what an operation that concerns no ward needs (R500, log 6). -/
def State.someRight (s : State) (r : Nat) : Bool := s.sec.tokens.any (fun t => t.2.rights.getLsbD r)

/-- The ward of a group's context. -/
def State.wardOf (s : State) (g : Site) : Nat :=
  match s.group? g with
  | some x => match s.tile? g.core x.tile with
    | some t => (s.ctx t.ctx).ward
    | none => 0
  | none => 0

/-- Whether matrix instructions of a group are queued or running. -/
def State.matrixBusy (s : State) (g : Site) : Bool :=
  let k := s.core g.core
  (k.queue ++ k.running).any (fun m => m.place == g.place)

/-- A group halted now: it loses its reservations, leaves its parked state, with REPACK to complete when it resumes, its
tile's budget stops advancing, and the halt is logged (R67, R313, R502, R503). -/
def State.haltNow (s : State) (g : Site) (causes n lane brk addr : Nat) : State :=
  match s.group? g with
  | none => s
  | some x =>
    let s1 := s.setGroup g { x with halted := true, stepping := false, haltReq := none, resv := [], bpSkip := true
                                    pcWritten := false
                                    repackHeld := x.wait == .parked
                                    wait := (match x.wait with | .parked => .none | w => w) }
    let s2 := s1.updTile g.core x.tile (fun t => { t with haltedAt := some (t.haltedAt.getD s.nowN) })
    s2.debugEvent g causes n lane brk addr

/-- A group halted, once its matrix instructions in flight have completed (R70). -/
def State.halt (s : State) (g : Site) (causes n lane brk addr : Nat) : State :=
  if s.matrixBusy g then
    s.updGroup g (fun x => { x with stepping := false, haltReq := some ⟨causes, n, lane, brk, addr⟩ })
  else s.haltNow g causes n lane brk addr

/-- Whether two groups of a tile are merging, which holds a fault of the tile back (R107). -/
def State.merging (s : State) (core key : Nat) : Bool :=
  ((s.core core).groupsOf key).any (fun pg => match pg.2.wait with | .merging _ _ => true | _ => false)

/-- A tile's fault that is not precise, or no longer a group's own: taken, or held back until a merge of the tile's
groups is over (R107). -/
def State.takeFault (s : State) (core key : Nat) (f : FaultInfo) (group : Nat) (butSpindle : Option Nat := none) : State :=
  if s.merging core key then
    s.updTile core key (fun t => { t with late := addNew { info := f, group := group, but := butSpindle } t.late })
  else s.faultTile core key f group butSpindle.toList

/-- A precise fault of a group: it halts with the fault pending where halt on fault is armed for its ward by a debugger
with the right, or where a halt has been asked for (R107); otherwise the fault is taken (R106, R505). -/
def State.raise (s : State) (g : Site) (f : FaultInfo) : State :=
  match s.group? g with
  | none => s
  | some x =>
    let s := if f.cls = 4 then s.noteIoFault (((s.tile? g.core x.tile).map (·.ctx)).getD 0) f.detail f.addr else s
    let w := s.wardOf g
    let armed := s.dbg.hof.contains w && s.hasRight 0 w
    let asked := (x.haltReq.map (·.causes)).getD 0
    if armed || x.haltReq.isSome then
      (s.halt g (asked + if armed then 32 else 0) 0 f.lane 0 f.pc.toNat).updGroup g (fun y =>
        { y with pending := some f, pc := f.pc, wait := .none })
    else if s.merging g.core x.tile then s.setGroup g { x with pending := some f, pc := f.pc }
    else s.faultTile g.core x.tile f x.index

end Sys2Proof.Machine
end

