-- ==== Sys2Proof/Machine/Operands.lean ====
section
/-! DEFINITION. Registers of a group, guards, and the operand fields of an instruction word (R50, R71 to R76, R115,
R117, R118, R142, R143). -/

namespace Sys2Proof.Machine

/-! ### Registers -/

/-- t register `n` of a lane (R71). -/
def Group.rt (x : Group) (lane n : Nat) : Word := NMap.findD 0 (lane * 256 + n) x.t

/-- The group with t register `n` of a lane written. -/
def Group.wt (x : Group) (lane n : Nat) (v : Word) : Group := { x with t := NMap.put 0 (lane * 256 + n) v x.t }

/-- The 64-bit operand in a t pair, bits [31:0] in the even register (R71). -/
def Group.rt2 (x : Group) (lane n : Nat) : DWord := x.rt lane (n + 1) ++ x.rt lane n

/-- The group with a t pair written. -/
def Group.wt2 (x : Group) (lane n : Nat) (v : DWord) : Group :=
  (x.wt lane n (v.setWidth 32)).wt lane (n + 1) ((v >>> 32).setWidth 32)

/-- u register `n` (R72). -/
def Group.ru (x : Group) (n : Nat) : DWord := NMap.findD 0 n x.u

/-- The group with u register `n` written. -/
def Group.wu (x : Group) (n : Nat) (v : DWord) : Group := { x with u := NMap.put 0 n v x.u }

/-- Predicate `n` over the lanes; p0 reads true (R73). -/
def Group.rp (x : Group) (n : Nat) : LaneMask := if n = 0 then BitVec.allOnes 32 else NMap.findD 0 n x.p

/-- The group with predicate `n` written in `lanes` from `v`; a write to p0 is discarded (R73). -/
def Group.wp (x : Group) (n : Nat) (lanes v : LaneMask) : Group :=
  if n = 0 then x else { x with p := NMap.put 0 n ((x.rp n &&& ~~~lanes) ||| (v &&& lanes)) x.p }

/-- t register `n` written in the listed lanes, each with `f` of its number. -/
def Group.wts (x : Group) (n : Nat) (f : Nat → Word) : List Nat → Group
  | [] => x
  | l :: ls => (x.wt l n (f l)).wts n f ls

/-- A t pair written in the listed lanes. -/
def Group.wts2 (x : Group) (n : Nat) (f : Nat → DWord) : List Nat → Group
  | [] => x
  | l :: ls => (x.wt2 l n (f l)).wts2 n f ls

end Sys2Proof.Machine

namespace Sys2Proof

open Sys2Proof.Machine

/-! ### Fields of an instruction word -/

/-- The immediate of an immediate form: SRCC followed by MOD (R115). -/
def Enc.imm (e : Enc) : BitVec 24 := e.srcC ++ e.mods

/-- SRCA, SRCB, SRCC and DST as register numbers. -/
def Enc.a (e : Enc) : Nat := e.srcA.toNat
def Enc.b (e : Enc) : Nat := e.srcB.toNat
def Enc.c (e : Enc) : Nat := e.srcC.toNat
def Enc.d (e : Enc) : Nat := e.dst.toNat

/-- KA, KB, KC: the source is a u register (R122). -/
def Enc.ka (e : Enc) : Bool := e.mods.getLsbD 0
def Enc.kb (e : Enc) : Bool := e.mods.getLsbD 1
def Enc.kc (e : Enc) : Bool := e.mods.getLsbD 2

/-- SUB of a register form (R122). -/
def Enc.sub (e : Enc) : Nat := field e.mods 15 12

/-- SUB of an integer immediate form (R128), and the operation of UOP.i and UCMP.i (R140). -/
def Enc.subI (e : Enc) : Nat := field e.srcB 3 0

/-- RM, FTZ, SAT and PART (R122). -/
def Enc.rm (e : Enc) : Nat := field e.mods 6 4
def Enc.ftz (e : Enc) : Bool := e.mods.getLsbD 7
def Enc.sat (e : Enc) : Bool := e.mods.getLsbD 8
def Enc.part (e : Enc) : Nat := field e.mods 11 9

end Sys2Proof

namespace Sys2Proof.Machine

/-- The lanes whose guard is true, of the active ones (R76). -/
def Group.guard (x : Group) (e : Enc) : LaneMask :=
  let p := x.rp e.pred.toNat
  x.active &&& (if e.neg then ~~~p else p)

/-! ### Operand kinds and the conditions on them -/

/-- The kind of an operand field (R117); `none` for a field the instruction does not use. -/
inductive Opd where
  | none | t | t2 | t4 | u | p
  deriving DecidableEq, Repr, Inhabited

/-- The illegal-instruction DETAILs a field raises (R50, R71, R117, R142). -/
def Opd.bad (alloc : Nat) : Opd → Nat → List Nat
  | .none, f => if f = 0 then [] else [0]
  | .t, f => if f < alloc then [] else [1]
  | .t2, f => (if f < alloc then [] else [1]) ++ (if f % 2 = 0 then [] else [2])
  | .t4, f => (if f < alloc then [] else [1]) ++ (if f % 4 = 0 then [] else [2])
  | .u, f => if f < 64 then [] else [0]
  | .p, f => if f < 8 then [] else [0]

/-- The t registers a field names. -/
def Opd.tregs : Opd → Nat → List Nat
  | .t, f => [f]
  | .t2, f => [f, f + 1]
  | .t4, f => [f, f + 1, f + 2, f + 3]
  | _, _ => []

/-- The predicates a field names. -/
def Opd.pregs : Opd → Nat → List Nat
  | .p, f => [f]
  | _, _ => []

/-- What decoding finds of a word: its operand fields, whether some field holds a reserved value, and the other
illegal-instruction DETAILs it meets. -/
structure Dec where
  ops   : List (Opd × Nat) := []
  rsv   : Bool := false
  extra : List Nat := []
  deriving DecidableEq, Repr, Inhabited

/-- The lowest illegal-instruction DETAIL a word meets (R142, R143). -/
def Dec.illegal (d : Dec) (alloc : Nat) : Option Nat :=
  let regs : List (List Nat) := d.ops.map (fun o => Opd.bad alloc o.1 o.2)
  ((if d.rsv then [0] else []) ++ regs.flatten ++ d.extra).min?

/-- A source field of a vector instruction: a u register when its K bit is set, otherwise a t register or pair. -/
def srcKind (k wide : Bool) : Opd := if k then .u else if wide then .t2 else .t

/-- A t register or pair. -/
def regKind (wide : Bool) : Opd := if wide then .t2 else .t

/-- The 32-bit source of a lane (R118). -/
def Group.src (x : Group) (k : Bool) (n lane : Nat) : Word := if k then (x.ru n).setWidth 32 else x.rt lane n

/-- The 64-bit source of a lane (R118). -/
def Group.src2 (x : Group) (k : Bool) (n lane : Nat) : DWord := if k then x.ru n else x.rt2 lane n

end Sys2Proof.Machine
end

