-- ==== Sys2Proof/Machine/Flags.lean ====
section
/-! DEFINITION. Floating-point flags, rounding modes and compare conditions (R88, R92, R124, R125). -/

namespace Sys2Proof.Machine

/-- The five flags of R92: NV, DZ, OF, UF, NX from bit 4 down to bit 0. -/
abbrev FFlags := BitVec 5

def FFlags.nv : FFlags := 16
def FFlags.dz : FFlags := 8
def FFlags.of : FFlags := 4
def FFlags.uf : FFlags := 2
def FFlags.nx : FFlags := 1

/-- The group with flags ORed into sr.fflags (R92). -/
def Group.raiseFlags (x : Group) (f : FFlags) : Group := { x with fflags := x.fflags ||| f }

/-- Rounding modes (R124). `sto` is stochastic, with the random value of the output element. -/
inductive Rm where
  | rne | rtz | rup | rdn
  | sto (r : BitVec 16)
  deriving DecidableEq, Repr, Inhabited

/-- The mode of a two-bit code, as sr.frm holds it (R124). -/
def Rm.ofCode (n : Nat) : Rm := match n % 4 with | 0 => .rne | 1 => .rtz | 2 => .rup | _ => .rdn

/-- The mode of a floating instruction: static, or dynamic from sr.frm (R88). -/
def Group.rmOf (x : Group) (code : Nat) : Rm := if code = 4 then Rm.ofCode x.frm.toNat else Rm.ofCode code

/-- The integer conditions of R125 by code: eq, ne, lt, le, gt, ge. -/
def condInt (code : Nat) (a b : Int) : Bool :=
  match code with
  | 0 => a == b
  | 1 => a != b
  | 2 => decide (a < b)
  | 3 => decide (a ≤ b)
  | 4 => decide (a > b)
  | _ => decide (a ≥ b)

/-- The value of a 32- or 64-bit operand under a TYPE code's signedness (R119): codes 1 and 3 are signed. -/
def intOf {n : Nat} (type : Nat) (v : BitVec n) : Int := if type % 2 = 1 then v.toInt else (v.toNat : Int)

end Sys2Proof.Machine
end

