-- ==== Sys2Proof/Machine/Issue.lean ====
section
/-! DEFINITION. Issue of an instruction: fetch, readiness, breakpoints, guard, reserved encodings, and what follows
when it completes (R54, R55, R60, R62, R76 to R78, R83, R116, R142, R504, R509, R574). -/

namespace Sys2Proof.Machine

/-! ### The reconvergence stack -/

/-- The pops of R60 before the next fetch, at most one for each entry. -/
def Group.popAll (x : Group) : Nat → Group
  | 0 => x
  | n + 1 =>
    match x.stack with
    | [] => x
    | e :: rest =>
      if x.crpc = some x.pc ∨ x.active = 0 then
        ({ x with active := e.mask, pc := e.pc, crpc := e.rpc, stack := rest } : Group).popAll n
      else x

/-- The group moved to `next` and popped under R60. -/
def Group.goTo (x : Group) (next : DWord) : Group :=
  ({ x with pc := next, bpSkip := false, pcWritten := false } : Group).popAll 33

/-! ### Completion of an instruction -/

/-- A group that completed an instruction: it moves on, and halts when it was stepped, a halt was asked for or a
watchpoint matched (R502, R504, R506, R510). `watch` is the watchpoint, lane and address. -/
def State.complete (s : State) (g : Site) (next : Option DWord) (watch : Option (Nat × Nat × Nat) := none) : State :=
  match s.group? g with
  | none => s
  | some x =>
    let y := x.goTo (next.getD (x.pc + 8))
    let s1 := (s.setGroup g { y with haltReq := none }).updCore g.core (fun k => k.endReads (5 + g.place))
    let asked := match x.haltReq with
      | some r => r.causes
      | none => 0
    let causes := (if x.stepping then 2 else 0) + (if watch.isSome then 16 else 0) + asked
    if causes = 0 then s1
    else
      let w := watch.getD (0, 0, 0)
      s1.halt g causes w.1 w.2.1 0 (if watch.isSome then w.2.2 else y.pc.toNat)

/-- A group whose wait is over: it goes on from the next instruction, or from the PC a debugger wrote (R502, R504). -/
def State.endWait (s : State) (g : Site) : State :=
  match s.group? g with
  | none => s
  | some x =>
    if x.halted then
      s.setGroup g (if x.pcWritten then { x with wait := .none } else ({ x with wait := .none } : Group).goTo (x.pc + 8))
    else if x.pcWritten then s.setGroup g (({ x with wait := .none, pcWritten := false } : Group).popAll 33)
    else (s.setGroup g { x with wait := .none }).complete g none

/-! ### What an instruction's effect answers -/

/-- The effect of an issued instruction: it completes at the next instruction or at a target, halts on a watchpoint
after completing, faults with class, detail, lane and address (`faulted` with what it changed first), waits for a page, waits at its own address, has
done all there is to do (`fin`), or finds no room and does not issue. -/
inductive Done where
  | step (s : State)
  | jump (s : State) (next : DWord)
  | watch (s : State) (w : Option (Nat × Nat × Nat))
  | fault (cls detail lane addr : Nat)
  | faulted (s : State) (cls detail lane addr : Nat)
  | page (va lane : Nat)
  | wait (s : State)
  | fin (s : State)
  | stall

/-! ### Fetch (R83, R574) -/

/-- The key of a target's line in the instruction cache, none for an uncached page, which does not allocate (R574). -/
def fetchKey : Target → Option Nat
  | .cache pa => some (lineOf pa)
  | .window peer pa true => some (2 ^ 60 + peer * 2 ^ 48 + lineOf pa)
  | _ => none

/-- What the fetch of a line of an uncached page answers: of this module's memory at once, of a peer's once the READ sent
for it is answered (R574). -/
def State.fetchRaw (s : State) (g : Site) (t : Target) : Option Bool :=
  match t with
  | .window p pa _ =>
    (((s.core g.core).winreads.find? (fun w => w.owner == 5 + g.place && w.peer == p && w.line == lineOf pa)).bind
      (·.reply)).map (·.2)
  | t => if s.awake t then some ((s.targetRead t 1).map (·.2) == some true) else none

/-- What fetching the instruction at the group's PC answers. -/
inductive Fetch where
  | ready
  | notReady
  | page
  | bad (detail : Nat)
  deriving DecidableEq, Repr, Inhabited

/-- The context of a group's tile. -/
def State.ctxOf (s : State) (g : Site) : Nat :=
  match s.group? g with
  | some x => match s.tile? g.core x.tile with
    | some t => t.ctx
    | none => 0
  | none => 0

/-- Fetch at the group's PC: from the instruction cache, or each time from the controller on an uncached page. -/
def State.fetch (s : State) (g : Site) (x : Group) : Fetch :=
  match (s.groupView g).resolve (s.ctxOf g) x.pc.toNat .fetch with
  | .bad d => .bad d
  | .miss => .page
  | .ok t =>
    match fetchKey t with
    | some k => if (s.core g.core).icache.contains k then .ready else .notReady
    | none =>
      match s.fetchRaw g t with
      | none => .notReady
      | some true => .bad 6
      | some false => .ready

/-! ### Readiness (R55) -/

/-- The registers an earlier instruction of the group still has to write: t registers and predicates. -/
def Group.pendingT (x : Group) : List Nat :=
  (x.loads.map (fun l => (List.range (Nat.max 1 (l.width / 4))).map (fun i => l.dst + i))).flatten ++
    (x.atoms.map (fun a => match a.op with
      | some _ => (List.range (Nat.max 1 (a.width / 4))).map (fun i => a.dst + i)
      | none => [])).flatten

/-- The predicates an SC or an MCHK of the group still has to write. -/
def State.pendingP (s : State) (g : Site) (x : Group) : List Nat :=
  (x.atoms.filterMap (fun a => match a.op with | some _ => none | none => some a.dst)) ++
    (((s.core g.core).queue ++ (s.core g.core).running).filterMap (fun m =>
      match m.instr with
      | .mchk _ p _ => if m.place = g.place then some p else none
      | _ => none))

/-- No register the instruction reads or writes, its guard among them, has a write pending. -/
def State.regsReady (s : State) (g : Site) (x : Group) (e : Enc) (d : Dec) : Bool :=
  let pt := x.pendingT
  let pp := s.pendingP g x
  let ts := (d.ops.map (fun o => o.1.tregs o.2)).flatten
  let ps := e.pred.toNat :: (d.ops.map (fun o => o.1.pregs o.2)).flatten
  !(ts.any (fun r => pt.contains r)) && !(ps.any (fun r => r != 0 && pp.contains r))

/-- The conditions of R55 on the group itself, and that the module is neither off nor frozen for a snapshot (R519). -/
def State.canIssue (s : State) (x : Group) : Bool :=
  s.power.on && s.fe.frozen.isNone && !x.halted && x.haltReq.isNone && x.wait == Wait.none && x.pending.isNone

/-! ### Breakpoints (R508, R509) -/

/-- The number of the lowest breakpoint of the core that matches an instruction of a ward at an address. -/
def State.breakpointAt (s : State) (core ward : Nat) (pc : DWord) : Option Nat :=
  (List.range 8).find? (fun n =>
    let b := NMap.findD {} n (s.core core).bps
    bitAt b.ctl 0 && field b.ctl 10 1 == ward && decide (field b.addr 56 3 = field pc 56 3))

/-- The causes of a group that halts now, when a step is under way. -/
def State.breakHit (s : State) (g : Site) (x : Group) : Option Nat :=
  if x.bpSkip then none
  else
    let w := s.wardOf g
    if s.hasRight 0 w then s.breakpointAt g.core w x.pc else none

/-! ### Issue -/

/-- Whether every earlier load and atomic of the group is done, as a precise fault finds them (R102). -/
def Group.drained (x : Group) : Bool := x.loads.isEmpty && x.atoms.isEmpty

/-- A fault of an instruction that has not issued: taken once the group's earlier loads and atomics are done, which the
instruction waits for (R102). -/
def State.raiseAt (s : State) (g : Site) (x : Group) (f : FaultInfo) : State := if x.drained then s.raise g f else s

/-- A page request for an access of a group, which then waits (R84). -/
def State.waitPage (s : State) (g : Site) (va lane : Nat) (fetch : Bool) : State :=
  (s.pageRequest (s.ctxOf g) va).updGroup g (fun x => { x with wait := .page va lane fetch })

/-- In paired mode the round-robin pointer moves to the place after the group that issued (R53, R57). Which of the ready
groups issues in a beat is the command's to say: the latencies that make one ready are no part of the model (R59, log 142). -/
def State.turn (s : State) (g : Site) : State :=
  s.updCore g.core (fun k =>
    if k.tiles.any (fun t => t.2.oldest) then k else { k with rr := (g.place + 1) % 48 })

/-- The outcome of an effect applied to the group, which stands as `x` before it. -/
def State.settle (s : State) (g : Site) (x : Group) (pc : DWord) : Done → State
  | .step t => (t.complete g none).turn g
  | .jump t n => (t.complete g (some n)).turn g
  | .watch t w => (t.complete g none w).turn g
  | .fault c d l a => s.raiseAt g x { cls := c, detail := d, lane := l, addr := a, pc := pc }
  | .faulted t c d l a => t.raise g { cls := c, detail := d, lane := l, addr := a, pc := pc }
  | .page va lane => (s.waitPage g va lane false).updGroup g (fun x => { x with bpSkip := true })
  | .wait t => (t.updGroup g (fun x => { x with bpSkip := false, pcWritten := false })).turn g
  | .fin t => t.turn g
  | .stall => s

/-- One instruction of a group: nothing happens unless the group is resident and ready (R55, log 1). A fetch that
faults, a page request, or a breakpoint comes before the guard; an instruction whose guard is false on every active lane
completes as a no-op; a reserved encoding, a MAJOR of no instruction among them (R121, R142), faults; otherwise `eff` is the effect on the lanes of the guard. `ready` says
whether the unit can take the instruction (R55). -/
def State.issue (s : State) (g : Site) (e : Enc) (dec : Group → LaneMask → Dec) (ready : Group → Bool)
    (eff : Group → LaneMask → Done) : State :=
  match s.group? g with
  | none => s
  | some x =>
    if s.canIssue x = false then s
    else match s.fetch g x with
      | .notReady => s
      | .page =>
        if (s.ctx (s.ctxOf g)).prqdis then
          s.raiseAt g x { cls := 4, detail := 2, lane := lowestLane x.active, addr := x.pc.toNat, pc := x.pc }
        else s.waitPage g x.pc.toNat (lowestLane x.active) true
      | .bad d => s.raiseAt g x { cls := 4, detail := d, lane := lowestLane x.active, addr := x.pc.toNat, pc := x.pc }
      | .ready =>
        match s.breakHit g x with
        | some n => s.halt g (8 + (if x.stepping then 2 else 0)) n 0 0 x.pc.toNat
        | none =>
          let lanes := x.guard e
          if lanes = 0 then
            if s.regsReady g x e {} then (s.complete g none).turn g else s
          else
            let d : Dec := if e.other.isSome then { rsv := true } else dec x lanes
            match d.illegal x.alloc with
            | some det => if s.regsReady g x e {} then s.settle g x x.pc (.fault 1 det (lowestLane lanes) 0) else s
            | none => if s.regsReady g x e d && ready x then s.settle g x x.pc (eff x lanes) else s

/-- Whether the matrix instructions of a group that are still queued or running hold its sync, memory and atomic
instructions: those that read the chuck or the stores, and drains to memory (R153). -/
def State.matrixGate (s : State) (g : Site) : Bool :=
  let k := s.core g.core
  (k.queue ++ k.running).any (fun m => m.place == g.place && (match m.instr with
    | .mma .. => true
    | .mstat .. => true
    | .mdrain _ _ _ _ _ _ toChuck _ => !toChuck
    | _ => false))

/-- Whether the group may issue a memory access or a sync instruction: no fence holds it (R310, R336), no atomic of its
own is under way, which orders as a fence after it (R305, log 12), and the array does not hold it (R153). -/
def State.orderReady (s : State) (g : Site) (x : Group) : Bool :=
  x.fence.isNone && x.atoms.isEmpty && !s.matrixGate g

/-- The same for an instruction whose effect reaches beyond its group: it also waits until the group's earlier loads have
bound their data, since a load with poisoned data faults precisely (R102, log 13). -/
def State.syncReady (s : State) (g : Site) (x : Group) : Bool := s.orderReady g x && x.loads.isEmpty

/-- The effect that replaces the group by `y` and goes on. -/
def State.put (s : State) (g : Site) (y : Group) : Done := .step (s.setGroup g y)

/-- Issue of an instruction that only changes registers of its group. -/
def State.issueReg (s : State) (g : Site) (e : Enc) (dec : Group → LaneMask → Dec) (f : Group → LaneMask → Group) :
    State :=
  s.issue g e dec (fun _ => true) (fun x lanes => s.put g (f x lanes))

end Sys2Proof.Machine
end

