-- ==== Sys2Proof/Machine/Integer.lean ====
section
/-! DEFINITION. Integer and cross-lane instructions (R85, R86, R122, R123, R125, R126, R128). -/

namespace Sys2Proof

/-- KA of an integer immediate form (R128). -/
def Enc.kaI (e : Enc) : Bool := e.srcB.getLsbD 4

/-- The immediate sign-extended to 32 and to 64 bits (R128). -/
def Enc.imm32 (e : Enc) : Word := e.imm.signExtend 32
def Enc.imm64 (e : Enc) : DWord := e.imm.signExtend 64

end Sys2Proof

namespace Sys2Proof.Machine

/-! ### Decoding -/

/-- Whether a TYPE code is a 64-bit integer. -/
def wideType (type : BitVec 4) : Bool := type == 2 || type == 3

/-- Decoding of an integer register form with `n` sources, its destination a t register or pair, or a predicate
(R122, R123, R126). -/
def intDec (types subs : List Nat) (n : Nat) (toPred : Bool) (e : Enc) : Dec :=
  let wide := wideType e.type
  { ops := [(if toPred then .p else regKind wide, e.d), (srcKind e.ka wide, e.a),
            (if 2 ≤ n then srcKind e.kb wide else .none, e.b), (if 3 ≤ n then srcKind e.kc wide else .none, e.c)]
    rsv := !types.contains e.type.toNat || !subs.contains e.sub || field e.mods 11 3 != 0 ||
      (decide (n < 2) && e.kb) || (decide (n < 3) && e.kc) }

/-- Decoding of an integer immediate form; `immBits` is how many bits of IMM are in use (R128). -/
def intDecI (types subs : List Nat) (immBits : Nat) (toPred : Bool) (e : Enc) : Dec :=
  let wide := wideType e.type
  { ops := [(if toPred then .p else regKind wide, e.d), (srcKind e.kaI wide, e.a)]
    rsv := !types.contains e.type.toNat || !subs.contains e.subI || field e.srcB 7 5 != 0 ||
      decide (e.imm.toNat ≥ 2 ^ immBits) }

/-! ### Lane results -/

/-- 32-bit sources A, B and C of a lane. -/
def Group.srcA (x : Group) (e : Enc) (l : Nat) : Word := x.src e.ka e.a l
def Group.srcB (x : Group) (e : Enc) (l : Nat) : Word := x.src e.kb e.b l
def Group.srcC (x : Group) (e : Enc) (l : Nat) : Word := x.src e.kc e.c l

/-- 64-bit sources A and B of a lane. -/
def Group.srcA2 (x : Group) (e : Enc) (l : Nat) : DWord := x.src2 e.ka e.a l
def Group.srcB2 (x : Group) (e : Enc) (l : Nat) : DWord := x.src2 e.kb e.b l

/-- A 32-bit result written in the lanes of the guard. -/
def Group.out (x : Group) (e : Enc) (lanes : LaneMask) (f : Nat → Word) : Group := x.wts e.d f (lanesOf lanes)

/-- A 64-bit result written in the lanes of the guard. -/
def Group.out2 (x : Group) (e : Enc) (lanes : LaneMask) (f : Nat → DWord) : Group := x.wts2 e.d f (lanesOf lanes)

/-- A predicate result written in the lanes of the guard. -/
def Group.outP (x : Group) (e : Enc) (lanes : LaneMask) (f : Nat → Bool) : Group := x.wp e.d lanes (maskWhere f)

/-- The 64-bit value of MULADD: the product and C extended to 64 bits under the signedness of TYPE (R126). -/
def mulAddWide (type : Nat) (a b c : Word) : DWord := BitVec.ofInt 64 (intOf type a * intOf type b + intOf type c)

/-- The low or the high half of a 64-bit value, as SUB selects (R126). -/
def halfOf (sub : Nat) (v : DWord) : Word := if sub = 0 then v.setWidth 32 else (v >>> 32).setWidth 32

/-- Number of bits set. -/
def bitCount (v : Word) : Nat := ((List.range 32).filter (fun i => v.getLsbD i)).length

/-- Number of zeros above the highest bit set, 32 for zero. -/
def leadZeros (v : Word) : Nat := if v = 0 then 32 else 31 - Nat.log2 v.toNat

/-- Bit i of the result is bit 31 − i of the source. -/
def bitReverse (v : Word) : Word := maskWhere (fun i => v.getLsbD (31 - i))

/-- BYTESEL of one lane (R126). -/
def byteSelect (a b sel : Word) : Word :=
  let pool : DWord := b ++ a
  let byte (i : Nat) : Nat :=
    let n := field sel (4 * i + 3) (4 * i)
    if n ≥ 8 then 0 else field pool (8 * (n % 8) + 7) (8 * (n % 8))
  BitVec.ofNat 32 (byte 0 + byte 1 * 2 ^ 8 + byte 2 * 2 ^ 16 + byte 3 * 2 ^ 24)

/-- Shift right, arithmetic for s32 (R123), the amount modulo 32 (R85). -/
def shiftRight (type n : Nat) (v : Word) : Word := if type = 1 then v.sshiftRight (n % 32) else v >>> (n % 32)

/-- Minimum and maximum under the signedness of TYPE (R123). -/
def minOf (type : Nat) (a b : Word) : Word := if intOf type a ≤ intOf type b then a else b
def maxOf (type : Nat) (a b : Word) : Word := if intOf type a ≥ intOf type b then a else b

/-! ### Register forms -/

/-- A two-source 32-bit operation. -/
def State.alu2 (s : State) (g : Site) (e : Enc) (types subs : List Nat) (f : Word → Word → Word) : State :=
  s.issueReg g e (fun _ _ => intDec types subs 2 false e) (fun x lanes =>
    x.out e lanes (fun l => f (x.srcA e l) (x.srcB e l)))

/-- A one-source 32-bit operation. -/
def State.alu1 (s : State) (g : Site) (e : Enc) (f : Word → Word) : State :=
  s.issueReg g e (fun _ _ => intDec [0] [0] 1 false e) (fun x lanes => x.out e lanes (fun l => f (x.srcA e l)))

/-- A two-source operation with 32- and 64-bit forms. -/
def State.aluWide (s : State) (g : Site) (e : Enc) (f : Word → Word → Word) (f2 : DWord → DWord → DWord) : State :=
  s.issueReg g e (fun _ _ => intDec [0, 1, 2, 3] [0] 2 false e) (fun x lanes =>
    if wideType e.type then x.out2 e lanes (fun l => f2 (x.srcA2 e l) (x.srcB2 e l))
    else x.out e lanes (fun l => f (x.srcA e l) (x.srcB e l)))

/-- ADD (R85). -/
def execAdd (site : Site) (e : Enc) (s : State) : Host.Outcome State Fault Refusal :=
  okay (s.aluWide site e (· + ·) (· + ·))

/-- SUB (R85). -/
def execSub (site : Site) (e : Enc) (s : State) : Host.Outcome State Fault Refusal :=
  okay (s.aluWide site e (· - ·) (· - ·))

/-- MUL: the low or the high half of the product (R126). -/
def execMul (site : Site) (e : Enc) (s : State) : Host.Outcome State Fault Refusal :=
  okay (s.alu2 site e [0, 1] [0, 1] (fun a b => halfOf e.sub (mulAddWide e.type.toNat a b 0)))

/-- MULADD: the low or the high half of A × B + C (R126). -/
def execMuladd (site : Site) (e : Enc) (s : State) : Host.Outcome State Fault Refusal :=
  okay (s.issueReg site e (fun _ _ => intDec [0, 1] [0, 1] 3 false e) (fun x lanes =>
    x.out e lanes (fun l => halfOf e.sub (mulAddWide e.type.toNat (x.srcA e l) (x.srcB e l) (x.srcC e l)))))

/-- AND (R85). -/
def execAnd (site : Site) (e : Enc) (s : State) : Host.Outcome State Fault Refusal :=
  okay (s.alu2 site e [0] [0] (· &&& ·))

/-- OR (R85). -/
def execOr (site : Site) (e : Enc) (s : State) : Host.Outcome State Fault Refusal :=
  okay (s.alu2 site e [0] [0] (· ||| ·))

/-- XOR (R85). -/
def execXor (site : Site) (e : Enc) (s : State) : Host.Outcome State Fault Refusal :=
  okay (s.alu2 site e [0] [0] (· ^^^ ·))

/-- NOT (R85). -/
def execNot (site : Site) (e : Enc) (s : State) : Host.Outcome State Fault Refusal :=
  okay (s.alu1 site e (fun a => ~~~a))

/-- SHIFTL (R85). -/
def execShiftl (site : Site) (e : Enc) (s : State) : Host.Outcome State Fault Refusal :=
  okay (s.alu2 site e [0] [0] (fun a b => a <<< (b.toNat % 32)))

/-- SHIFTR (R85, R123). -/
def execShiftr (site : Site) (e : Enc) (s : State) : Host.Outcome State Fault Refusal :=
  okay (s.alu2 site e [0, 1] [0] (fun a b => shiftRight e.type.toNat b.toNat a))

/-- MIN (R85, R123). -/
def execMin (site : Site) (e : Enc) (s : State) : Host.Outcome State Fault Refusal :=
  okay (s.alu2 site e [0, 1] [0] (minOf e.type.toNat))

/-- MAX (R85, R123). -/
def execMax (site : Site) (e : Enc) (s : State) : Host.Outcome State Fault Refusal :=
  okay (s.alu2 site e [0, 1] [0] (maxOf e.type.toNat))

/-- CMP (R125). -/
def execCmp (site : Site) (e : Enc) (s : State) : Host.Outcome State Fault Refusal :=
  okay (s.issueReg site e (fun _ _ => intDec [0, 1, 2, 3] [0, 1, 2, 3, 4, 5] 2 true e) (fun x lanes =>
    x.outP e lanes (fun l =>
      if wideType e.type then condInt e.sub (intOf e.type.toNat (x.srcA2 e l)) (intOf e.type.toNat (x.srcB2 e l))
      else condInt e.sub (intOf e.type.toNat (x.srcA e l)) (intOf e.type.toNat (x.srcB e l)))))

/-- BITCNT (R85). -/
def execBitcnt (site : Site) (e : Enc) (s : State) : Host.Outcome State Fault Refusal :=
  okay (s.alu1 site e (fun a => BitVec.ofNat 32 (bitCount a)))

/-- LEADZ (R85). -/
def execLeadz (site : Site) (e : Enc) (s : State) : Host.Outcome State Fault Refusal :=
  okay (s.alu1 site e (fun a => BitVec.ofNat 32 (leadZeros a)))

/-- BITREV (R85). -/
def execBitrev (site : Site) (e : Enc) (s : State) : Host.Outcome State Fault Refusal := okay (s.alu1 site e bitReverse)

/-- BYTESEL (R126). -/
def execBytesel (site : Site) (e : Enc) (s : State) : Host.Outcome State Fault Refusal :=
  okay (s.issueReg site e (fun _ _ => intDec [0] [0] 3 false e) (fun x lanes =>
    x.out e lanes (fun l => byteSelect (x.srcA e l) (x.srcB e l) (x.srcC e l))))

/-- MOV, 32-bit or on register pairs (R85, R123). -/
def execMov (site : Site) (e : Enc) (s : State) : Host.Outcome State Fault Refusal :=
  okay (s.issueReg site e (fun _ _ => intDec [0, 2] [0] 1 false e) (fun x lanes =>
    if wideType e.type then x.out2 e lanes (x.srcA2 e) else x.out e lanes (x.srcA e)))

/-- PICK: source A where the predicate in SRCC is true, source B elsewhere (R126). -/
def execPick (site : Site) (e : Enc) (s : State) : Host.Outcome State Fault Refusal :=
  okay (s.issueReg site e
    (fun _ _ => { intDec [0] [0] 2 false e with
      ops := [(.t, e.d), (srcKind e.ka false, e.a), (srcKind e.kb false, e.b), (.p, e.c)] })
    (fun x lanes => x.out e lanes (fun l => if (x.rp e.c).getLsbD l then x.srcA e l else x.srcB e l)))

/-! ### Immediate forms -/

/-- 32- and 64-bit source A of an immediate form. -/
def Group.srcAI (x : Group) (e : Enc) (l : Nat) : Word := x.src e.kaI e.a l
def Group.srcAI2 (x : Group) (e : Enc) (l : Nat) : DWord := x.src2 e.kaI e.a l

/-- A 32-bit immediate operation. -/
def State.aluI (s : State) (g : Site) (e : Enc) (types : List Nat) (immBits : Nat) (f : Word → Word) : State :=
  s.issueReg g e (fun _ _ => intDecI types [0] immBits false e) (fun x lanes =>
    x.out e lanes (fun l => f (x.srcAI e l)))

/-- ADD_I (R128). -/
def execAddI (site : Site) (e : Enc) (s : State) : Host.Outcome State Fault Refusal :=
  okay (s.issueReg site e (fun _ _ => intDecI [0, 1, 2, 3] [0] 24 false e) (fun x lanes =>
    if wideType e.type then x.out2 e lanes (fun l => x.srcAI2 e l + e.imm64)
    else x.out e lanes (fun l => x.srcAI e l + e.imm32)))

/-- AND_I (R128). -/
def execAndI (site : Site) (e : Enc) (s : State) : Host.Outcome State Fault Refusal :=
  okay (s.aluI site e [0] 24 (fun a => a &&& e.imm32))

/-- OR_I (R128). -/
def execOrI (site : Site) (e : Enc) (s : State) : Host.Outcome State Fault Refusal :=
  okay (s.aluI site e [0] 24 (fun a => a ||| e.imm32))

/-- XOR_I (R128). -/
def execXorI (site : Site) (e : Enc) (s : State) : Host.Outcome State Fault Refusal :=
  okay (s.aluI site e [0] 24 (fun a => a ^^^ e.imm32))

/-- SHIFTL_I (R128). -/
def execShiftlI (site : Site) (e : Enc) (s : State) : Host.Outcome State Fault Refusal :=
  okay (s.aluI site e [0] 5 (fun a => a <<< e.imm.toNat))

/-- SHIFTR_I (R123, R128). -/
def execShiftrI (site : Site) (e : Enc) (s : State) : Host.Outcome State Fault Refusal :=
  okay (s.aluI site e [0, 1] 5 (shiftRight e.type.toNat e.imm.toNat))

/-- CMP_I (R125, R128). -/
def execCmpI (site : Site) (e : Enc) (s : State) : Host.Outcome State Fault Refusal :=
  okay (s.issueReg site e (fun _ _ => intDecI [0, 1, 2, 3] [0, 1, 2, 3, 4, 5] 24 true e) (fun x lanes =>
    x.outP e lanes (fun l =>
      if wideType e.type then condInt e.subI (intOf e.type.toNat (x.srcAI2 e l)) (intOf e.type.toNat e.imm64)
      else condInt e.subI (intOf e.type.toNat (x.srcAI e l)) (intOf e.type.toNat e.imm32))))

/-- MOV_I: the sign-extended immediate, or its low byte into the top byte of the destination (R126). -/
def execMovI (site : Site) (e : Enc) (s : State) : Host.Outcome State Fault Refusal :=
  okay (s.issueReg site e
    (fun _ _ =>
      let d := intDecI [0] [0, 1] (if e.subI = 0 then 24 else 8) false e
      { d with ops := [(.t, e.d), (.none, e.a)], rsv := d.rsv || e.kaI })
    (fun x lanes => x.out e lanes (fun l =>
      if e.subI = 0 then e.imm32 else (e.imm.setWidth 8) ++ ((x.rt l e.d).setWidth 24 : BitVec 24))))

/-! ### Cross-lane instructions (R86) -/

/-- The source lane of LXCH in a lane (R86). -/
def lxchLane (sub n sel l : Nat) : Nat :=
  match sub with
  | 0 => sel % 32
  | 1 => (l + n) % 32
  | 2 => (l ^^^ n) % 32
  | _ => n % 32

/-- LXCH: lanes exchange a 32-bit source; an inactive or vacant source lane gives the reading lane its own (R86). -/
def execLxch (site : Site) (e : Enc) (s : State) : Host.Outcome State Fault Refusal :=
  okay (s.issueReg site e
    (fun _ _ =>
      let d := intDec [0] [0, 1, 2, 3] 2 false e
      { d with rsv := d.rsv || (if e.sub = 0 then e.kb else !e.kb) })
    (fun x lanes => x.out e lanes (fun l =>
      let o := lxchLane e.sub (field (x.ru e.b) 4 0) (x.rt l e.b).toNat l
      if x.active.getLsbD o then x.srcA e o else x.srcA e l)))

/-- LQUERY: some, every, mask or count of a predicate over the lanes of the guard (R86, R122, R126). With no such lane
it writes nothing, so the values that R86 gives then are never written. -/
def execLquery (site : Site) (e : Enc) (s : State) : Host.Outcome State Fault Refusal :=
  okay (s.issueReg site e
    (fun _ _ =>
      let d := intDec [0] [0, 1, 2, 3] 1 false e
      { d with
        ops := [(if e.sub < 2 then .p else .t, e.d), (.p, e.a), (.none, e.b), (.none, e.c)]
        rsv := d.rsv || e.ka })
    (fun x lanes =>
      let m := lanes &&& x.rp e.a
      match e.sub with
      | 0 => x.wp e.d lanes (if m = 0 then 0 else BitVec.allOnes 32)
      | 1 => x.wp e.d lanes (if m = lanes then BitVec.allOnes 32 else 0)
      | 2 => x.out e lanes (fun _ => m)
      | _ => x.out e lanes (fun _ => BitVec.ofNat 32 (popcount m))))

end Sys2Proof.Machine
end

