-- ==== Sys2Proof/Machine/Memory.lean ====
section
/-! DEFINITION. Memory instructions: addresses, checks of the lanes, pending loads, the store buffer, and when loads
perform and stores become visible (R79 to R84, R96, R105, R120, R129, R130, R264, R266 to R268, R276, R282, R294, R296,
R306 to R309, R510). -/

namespace Sys2Proof.Machine

/-! ### Addresses (R80, R129) -/

/-- The address of a lane in a mode, modulo 2^64. -/
def Group.addr (x : Group) (mode : AddrMode) (e : Enc) (lane : Nat) : Nat :=
  match mode with
  | .uniform => (x.ru e.a + e.imm64).toNat
  | .indexed =>
    let i := x.rt lane e.b
    let w : DWord := if e.mods.getLsbD 2 then i.signExtend 64 else i.setWidth 64
    (x.ru e.a + w <<< field e.mods 5 3).toNat
  | .thread => (x.rt2 lane e.a + e.imm64).toNat

/-- POL of a memory instruction (R129). -/
def polOf (mode : AddrMode) (e : Enc) : Nat :=
  match mode with
  | .indexed => field e.mods 1 0
  | _ => field e.srcB 1 0

/-- Decoding of a memory instruction: `dst` is the kind of DST, `types` the access codes and `pols` the policies it
accepts (R120, R129, R130). -/
def memDec (mode : AddrMode) (dst : Opd) (types pols : List Nat) (e : Enc) : Dec :=
  let rsv := !types.contains e.type.toNat || !pols.contains (polOf mode e)
  match mode with
  | .uniform => { ops := [(dst, e.d), (.u, e.a)], rsv := rsv || field e.srcB 7 2 != 0 }
  | .indexed =>
    { ops := [(dst, e.d), (.u, e.a), (.t, e.b), (.none, e.c)]
      rsv := rsv || decide (field e.mods 5 3 > 4) || field e.mods 15 6 != 0 }
  | .thread => { ops := [(dst, e.d), (.t2, e.a)], rsv := rsv || field e.srcB 7 2 != 0 }

/-- Bytes of an access code (R120). -/
def accBytes (type : Nat) : Nat :=
  match type with
  | 0 | 1 => 1
  | 2 | 3 => 2
  | 4 => 4
  | 5 => 8
  | _ => 16

/-- The kind of the data register of an access code (R71, R120). -/
def accKind (type : Nat) : Opd :=
  match type with
  | 5 => .t2
  | 6 => .t4
  | _ => .t

/-! ### Checks of the lanes (R79, R81, R83, R84, R105) -/

/-- What an access of a lane meets: misalignment first, then what translation answers. -/
def State.laneCheck (s : State) (ctx width va : Nat) (k : AccKind) : Resolved :=
  if va % width ≠ 0 then .bad 0 else s.resolve ctx va k

/-- The lanes' accesses when none faults or waits for a page; otherwise the fault or the page wait. A lane that would
fault whatever its translation comes first, then a page request, then the lowest DETAIL and its lowest lane. -/
def State.checkLanes (s : State) (ctx width : Nat) (k : AccKind) (lanes : List (Nat × Nat)) :
    Except Done (List LaneAcc) :=
  let rs := lanes.map (fun lv => (lv.1, lv.2, s.laneCheck ctx width lv.2 k))
  let noPage := (s.ctx ctx).prqdis
  let bads := rs.filterMap (fun r => match r.2.2 with
    | .bad d => some (r.1, r.2.1, d)
    | .miss => if noPage then some (r.1, r.2.1, 2) else none
    | .ok _ => none)
  let misses := rs.filterMap (fun r => match r.2.2 with | .miss => some (r.1, r.2.1) | _ => none)
  let least := (bads.map (fun b => b.2.2)).min?
  let wait := match misses with | m :: _ => if noPage then none else some m | [] => none
  match least, wait with
  | some d, w =>
    if d ≤ 1 ∨ w = none then
      match bads.find? (fun b => b.2.2 == d) with
      | some b => .error (.fault 4 d b.1 b.2.1)
      | none => .ok []
    else match w with
      | some m => .error (.page m.2 m.1)
      | none => .ok []
  | none, some m => .error (.page m.2 m.1)
  | none, none => .ok (rs.filterMap (fun r => match r.2.2 with
      | .ok t => some { lane := r.1, va := r.2.1, tgt := t }
      | _ => none))

/-! ### Watchpoints (R508, R510) -/

/-- The lowest watchpoint of a core that an access of `kind` (0 load, 1 store, 2 atomic) of a ward matches, with the
lowest lane that overlaps its range and that lane's address. -/
def State.watchHit (s : State) (core ward kind width : Nat) (lanes : List (Nat × Nat)) : Option (Nat × Nat × Nat) :=
  if s.hasRight 0 ward then
    (List.range 8).findSome? (fun n =>
      let w := NMap.findD {} n (s.core core).wps
      let log := field w.ctl 19 14
      if bitAt w.ctl 0 && field w.ctl 10 1 == ward && bitAt w.ctl (11 + kind) && decide (3 ≤ log) && decide (log ≤ 32) then
        let base := w.addr.toNat / 2 ^ log * 2 ^ log
        (lanes.find? (fun lv => decide (lv.2 < base + 2 ^ log) && decide (base < lv.2 + width))).map
          (fun lv => (n, lv.1, lv.2))
      else none)
  else none

/-! ### Lines of targets -/

/-- Whether a target is a span window. -/
def isWindow : Target → Bool
  | .window _ _ _ => true
  | _ => false

/-- The key of a target's line in the L1; uncached pages, span windows and devices are never held there (R266, R452). -/
def l1Key : Target → Option Nat
  | .cache pa => some (lineOf pa)
  | .share die a _ => some (2 ^ 60 + lineOf (die * sramBytes + a))
  | _ => none

/-- The granule of a target, as a reservation names it (R312). -/
def granuleOf : Target → Granule
  | .cache pa => .line (lineOf pa)
  | .uncached pa => .raw (lineOf pa)
  | .share die a _ => .share die (lineOf a)
  | .window p pa _ => .window p (lineOf pa)
  | .mmio pa => .raw (lineOf pa)

/-- A line held by the LLC of a core's die. -/
def State.llcLine (s : State) (core pa : Nat) : Option CLine :=
  NMap.find (lineOf pa) (s.cacheOf (stopOfDie (dieOfCore core)))

/-! ### Loads -/

/-- The data register's value of a lane from its bytes, and the load written (R80, R120). -/
def Group.writeLoad (x : Group) (dst width : Nat) (sext : Bool) (lane : Nat) (bytes : List Byte) : Group :=
  let v := bytesNat bytes
  match width with
  | 8 => x.wt2 lane dst (BitVec.ofNat 64 v)
  | 16 => (x.wt2 lane dst (BitVec.ofNat 64 v)).wt2 lane (dst + 2) (BitVec.ofNat 64 (v / 2 ^ 64))
  | 4 => x.wt lane dst (BitVec.ofNat 32 v)
  | w => x.wt lane dst (if sext then BitVec.ofInt 32 (signedOf (8 * w) v) else BitVec.ofNat 32 v)

/-- Bytes laid over by those of the group's store buffer that an earlier store made, the latest store's where several did
(R308). -/
def Group.forward (x : Group) (order : Nat) (t : Target) (bytes : List Byte) : List Byte :=
  x.sb.foldl (fun bs e =>
    if e.order < order ∧ lineTgt e.tgt = lineTgt t then
      (List.range bs.length).map (fun i => NMap.findD (bs.getD i 0) (lineOff t + i) e.bytes)
    else bs) bytes

/-- The group's registers as they are now. -/
def Group.regsNow (x : Group) : GroupRegs :=
  { order := x.order, pc := x.pc, crpc := x.crpc, stack := x.stack, active := x.active, t := x.t, u := x.u, p := x.p
    fflags := x.fflags, frm := x.frm, shape := x.shape }

/-- The group as the access of an order found it, that access and the later ones taken back (R102, R282). -/
def Group.backTo (x : Group) (order : Nat) : Group :=
  let y : Group := match x.snaps.find? (fun r => r.order == order) with
    | some r => { x with pc := r.pc, crpc := r.crpc, stack := r.stack, active := r.active, t := r.t, u := r.u, p := r.p
                         fflags := r.fflags, frm := r.frm, shape := r.shape }
    | none => x
  { y with loads := [], atoms := [], snaps := [], fence := none, sb := x.sb.filter (fun e => decide (e.order < order)) }

/-- The group and its matrix instructions as the access of an order found them (R102). -/
def State.backTo (s : State) (g : Site) (x : Group) (order : Nat) : State :=
  let keep (m : MEntry) : Bool := m.place != g.place || decide (m.order < order)
  (s.setGroup g (x.backTo order)).updCore g.core (fun k => { k with queue := k.queue.filter keep, running := k.running.filter keep })

/-- Registers that the access of an order writes, in the group and in what later accesses found. -/
def Group.landed (x : Group) (order : Nat) (wr : Group → Group) : Group :=
  { wr x with snaps := (x.snaps.filter (fun r => r.order != order)).map (fun r => { r with t := (wr { x with t := r.t }).t }) }

/-- The L1's copy of a line, where the replacement has kept it (R266, R296): a free choice. -/
def State.l1Copy (s : State) (core : Nat) (t : Target) : Option (List Byte) :=
  match l1Key t with
  | some k => if Config.freeBool (s.free + k) then NMap.find k (s.core core).l1 else none
  | none => none

/-- The 128 bytes of a target's line where the tier beyond the L1 can give them to a core now, with the poison mark:
the die's LLC for a cacheable line, the controller, the SRAM controller, or the peer's answer. -/
def State.tierLine (s : State) (core : Nat) (t : Target) (needE : Bool) : Option (List Byte × Bool) :=
  if s.awake t = false then none
  else match t with
  | .cache pa =>
    match s.llcLine core pa with
    | some l => if needE && l.st == .s then none else some (l.bytes, l.poison)
    | none => none
  | .uncached pa => some (s.ms.mem.readN (lineOf pa) 128, s.ms.mem.poison.contains (lineOf pa))
  | .share die a _ => some (s.sramReadN die (lineOf a) 128, s.sramBad die a)
  | .window _ _ _ => none
  | .mmio _ => some ((List.range 128).map (fun i => BitVec.ofNat 8 (Config.freeNat (s.free + i))), false)

/-- What a lane of a load reads: its bytes and the poison mark, none while the line is not there. -/
def State.laneRead (s : State) (core nonce : Nat) (l : PendLoad) (a : LaneAcc) : Option (List Byte × Bool) :=
  match a.reply with
  | some r => some r
  | none =>
    let take := fun (bs : List Byte) => s.scratchView nonce a.tgt ((bs.drop (lineOff a.tgt)).take l.width)
    match (if l.ca && !l.lr then s.l1Copy core a.tgt else none) with
    | some bs => some (take bs, false)
    | none => (s.tierLine core a.tgt l.lr).map (fun r => (take r.1, r.2))

/-- The set of the L1 that a line falls in (R266; log 136). -/
def l1Set (key : Nat) : Nat := key / 128 % 256

/-- A line put in a core's L1 of 256 sets of 8 ways: a full set gives up one of its lines, whichever (R266). -/
def State.l1Put (s : State) (core key : Nat) (bytes : List Byte) : State :=
  let l1 := (s.core core).l1
  let mine := (NMap.keys l1).filter (fun k => l1Set k == l1Set key)
  if NMap.has key l1 || decide (mine.length < 8) then s.updCore core (fun c => { c with l1 := NMap.ins key bytes c.l1 })
  else
    let (i, s1) := s.draw
    s1.updCore core (fun c => { c with
      l1 := NMap.ins key bytes (NMap.del (mine.getD (Config.freeNat i % mine.length) 0) c.l1) })

/-- The lines a .ca load fills into the L1 from the tier beyond (R266). -/
def State.l1Fill (s : State) (core : Nat) (l : PendLoad) : State :=
  if l.ca && !l.lr then
    l.lanes.foldl (fun st a =>
      match l1Key a.tgt, st.tierLine core a.tgt false with
      | some k, some (bs, false) =>
        if (st.l1Copy core a.tgt).isSome then st else st.l1Put core k bs
      | _, _ => st) s
  else s

/-- The lane of an LR or SC as the messages to a peer name it, which holds a reservation for each (R294, R312; log 61). -/
def laneName (g : Site) (lane : Nat) : Nat := (g.core * 48 + g.place) * 32 + lane

/-- READ requests of a load's window lanes, one for each line (R453); an LR sends an LR_MESSAGE for each lane. A lane whose
peer is no current member completes as one to a lost peer (R317, R451). -/
def State.sendReads (s : State) (g : Site) (l : PendLoad) : State × PendLoad :=
  l.lanes.foldl (fun (st, pl) a =>
    let put (st : State) (f : LaneAcc → LaneAcc) : State × PendLoad :=
      (st, { pl with lanes := pl.lanes.map (fun x => if x.lane = a.lane then f x else x) })
    match a.tgt with
    | .window peer pa c =>
      if a.txid.isSome || a.reply.isSome || st.span.stalled then (st, pl)
      else if st.reachable peer = false then put st (fun x => { x with reply := some (List.replicate pl.width 0, true) })
      else
        match (if l.lr then none else pl.lanes.find? (fun b => b.txid.isSome && lineTgt b.tgt == lineTgt a.tgt)) with
        | some b => put st (fun x => { x with txid := b.txid })
        | none =>
          let (id, s1) := st.newTx peer
          let body := if l.lr then MsgBody.lr (lineOf pa) 128 (laneName g a.lane) c else MsgBody.read (lineOf pa) 128 c
          put (s1.sendTo peer body id (s.wardOf g)) (fun x => { x with txid := some id })
    | _ => (st, pl)) (s, l)

/-- The place that holds an LR's reservation delays its answer to other requests for the granule (R314): a line of the
LLC is marked, a granule at a controller is listed. -/
def State.holdLines (s : State) (core : Nat) (lanes : List LaneAcc) : State :=
  lanes.foldl (fun st a =>
    match a.tgt with
    | .cache pa =>
      let stop := stopOfDie (dieOfCore core)
      st.setCache stop (NMap.modify (lineOf pa) (fun l => { l with hold := true }) (st.cacheOf stop))
    | .window _ _ _ => st
    | .mmio _ => st
    | t => { st with coh := { st.coh with holds := addNew (granuleOf t) st.coh.holds } }) s

/-- What a lane of a group's load binds now: the group's own earlier stores lie over what the tier gives (R308); bytes
that a reply holds have them already. -/
def State.laneValue (s : State) (core nonce : Nat) (x : Group) (l : PendLoad) (a : LaneAcc) : Option (List Byte × Bool) :=
  match a.reply with
  | some r => some r
  | none => (s.laneRead core nonce l a).map (fun r => (x.forward l.order a.tgt r.1, r.2))

/-- The nonce of a group's tile (R109). -/
def State.nonceOf (s : State) (core : Nat) (x : Group) : Nat := ((s.tile? core x.tile).map (·.nonce)).getD 0

/-- The earliest load of a group performs: every lane binds its bytes, and an LR places its lanes' reservations. A
poisoned lane raises the precise fault of R282 at the load, the group found as it was there (R102). -/
def State.loadPerform (s : State) (g : Site) : State :=
  match s.group? g with
  | none => s
  | some x =>
    match x.loads with
    | [] => s
    | l :: rest =>
      let (s0, l) := if l.lanes.any (fun a => isWindow a.tgt && a.txid.isNone && a.reply.isNone)
        then s.sendReads g l else (s, l)
      let vals := l.lanes.map (fun a => (a, s0.laneValue g.core (s0.nonceOf g.core x) x l a))
      if vals.any (fun v => v.2.isNone) then s0.updGroup g (fun y => { y with loads := l :: rest })
      else
        let bad := vals.find? (fun v => match v.2 with | some (_, p) => p | none => false)
        match bad with
        | some (a, _) =>
          (s0.backTo g x l.order).raise g { cls := 4, detail := 6, lane := a.lane, addr := a.va, pc := l.pc }
        | none =>
          let wr := fun (y : Group) => vals.foldl (fun y v =>
            match v.2 with
            | some (bs, _) => y.writeLoad l.dst l.width l.sext v.1.lane bs
            | none => y) y
          let y := ({ x with loads := rest } : Group).landed l.order wr
          let y := if l.lr then { y with resv := l.lanes.foldl (fun m a => NMap.ins a.lane (granuleOf a.tgt) m) y.resv } else y
          let s1 := ((if l.lr then s0.holdLines g.core l.lanes else s0).l1Fill g.core l).setGroup g y
          if l.ca || l.lanes.any (fun a => match a.tgt with | .mmio _ => true | _ => false) then (s1.draw).2 else s1

/-- LOAD_PERFORM (R307). -/
def execLoadPerform (site : Site) (s : State) : Host.Outcome State Fault Refusal := okay (s.loadPerform site)

/-- LD in its three modes (R96, R102, R120, R129). -/
def execLd (site : Site) (mode : AddrMode) (e : Enc) (s : State) : Host.Outcome State Fault Refusal :=
  okay (s.issue site e
    (fun _ _ => memDec mode (accKind e.type.toNat) [0, 1, 2, 3, 4, 5, 6] [0, 1] e)
    (fun x => s.orderReady site x)
    (fun x lanes =>
      let w := accBytes e.type.toNat
      let lv := (lanesOf lanes).map (fun l => (l, x.addr mode e l))
      match (s.groupView site).checkLanes (s.ctxOf site) w .read lv with
      | .error d => d
      | .ok accs =>
        let ld : PendLoad := { order := x.order, pc := x.pc, ca := polOf mode e == 0, width := w,
                               sext := e.type == 1 || e.type == 3, dst := e.d, lr := false, lanes := accs }
        .watch ((s.translated (s.ctxOf site) .read (lv.map (·.2))).setGroup site
            { x with order := x.order + 1, loads := x.loads ++ [ld], snaps := x.snaps ++ [x.regsNow] })
          (s.watchHit site.core (s.wardOf site) 0 w lv)))

/-! ### Stores -/

/-- The store-buffer entries of one instruction: one for each line, the higher lane's bytes over the lower's (R82,
R306). -/
def storeEntries (order : Nat) (accs : List (LaneAcc × List Byte)) : List SbEntry :=
  accs.foldl (fun es ab =>
    let off := lineOff ab.1.tgt
    let add := fun (m : NMap Byte) => (ab.2.foldl (fun (p : Nat × NMap Byte) b => (p.1 + 1, NMap.ins p.1 b p.2)) (off, m)).2
    match findIdx (fun (e : SbEntry) => e.tgt == lineTgt ab.1.tgt) 0 es with
    | some (i, _) => modAt (fun e => { e with bytes := add e.bytes }) i es
    | none => es ++ [{ order := order, va := ab.1.va, tgt := lineTgt ab.1.tgt, bytes := add [] }]) []

/-- Stores put into the group's store buffer, the instruction completing; no issue while there is no room (R306). -/
def State.putStores (s : State) (g : Site) (x : Group) (vas : List Nat) (es : List SbEntry)
    (w : Option (Nat × Nat × Nat)) : Done :=
  if x.sb.length + es.length > 32 then .stall
  else
    let es := es.map (fun e => { e with tag := s.groupTag g })
    .watch ((s.translated (s.ctxOf g) .write vas).setGroup g { x with order := x.order + 1, sb := x.sb ++ es }) w

/-- The bytes a lane stores. -/
def Group.storeBytes (x : Group) (dst width lane : Nat) : List Byte :=
  match width with
  | 8 => natBytes 8 (x.rt2 lane dst).toNat
  | 16 => natBytes 8 (x.rt2 lane dst).toNat ++ natBytes 8 (x.rt2 lane (dst + 2)).toNat
  | w => natBytes w (x.rt lane dst).toNat

/-- ST in its three modes (R96, R120, R129, R306). -/
def execSt (site : Site) (mode : AddrMode) (e : Enc) (s : State) : Host.Outcome State Fault Refusal :=
  okay (s.issue site e
    (fun _ _ => memDec mode (accKind e.type.toNat) [0, 2, 4, 5, 6] [0] e)
    (fun x => s.orderReady site x && decide (x.sb.length < 32))
    (fun x lanes =>
      let w := accBytes e.type.toNat
      let lv := (lanesOf lanes).map (fun l => (l, x.addr mode e l))
      match (s.groupView site).checkLanes (s.ctxOf site) w .write lv with
      | .error d => d
      | .ok accs =>
        s.putStores site x (lv.map (·.2)) (storeEntries x.order (accs.map (fun a => (a, x.storeBytes e.d w a.lane))))
          (s.watchHit site.core (s.wardOf site) 1 w lv)))

/-- ZLINE in its three modes: 128 zero bytes of each lane's line (R81, R96, R268). -/
def execZline (site : Site) (mode : AddrMode) (e : Enc) (s : State) : Host.Outcome State Fault Refusal :=
  okay (s.issue site e
    (fun _ _ => memDec mode .none [0] [0, 1] e)
    (fun x => s.orderReady site x && decide (x.sb.length < 32))
    (fun x lanes =>
      let lv := (lanesOf lanes).map (fun l => (l, x.addr mode e l))
      match (s.groupView site).checkLanes (s.ctxOf site) 128 .write lv with
      | .error d => d
      | .ok accs =>
        let es := storeEntries x.order (accs.map (fun a => (a, List.replicate 128 (0 : Byte))))
        s.putStores site x (lv.map (·.2)) (es.map (fun en => { en with zline := some (polOf mode e == 1) }))
          (s.watchHit site.core (s.wardOf site) 1 128 lv)))

/-! ### When a store becomes visible (R294, R307) -/

/-- The L1 of the storing core after a store to a line became visible: a copy is updated; ZLINE.l1 leaves the line
valid, ZLINE.llc takes it out (R266, R268). -/
def State.l1Store (s : State) (core : Nat) (e : SbEntry) : State :=
  match l1Key e.tgt with
  | none => s
  | some k =>
    match e.zline with
    | some false => s.l1Put core k (List.replicate 128 0)
    | some true => s.updCore core (fun c => { c with l1 := NMap.del k c.l1 })
    | none => s.updCore core (fun c => { c with l1 := NMap.modify k (fun bs => overlay bs e.bytes) c.l1 })

/-- The runs of adjoining bytes of a store entry: first offset and bytes. -/
def runsOf : NMap Byte → List (Nat × List Byte)
  | [] => []
  | (o, b) :: m =>
    match runsOf m with
    | (p, bs) :: rest => if p = o + 1 then (o, b :: bs) :: rest else (o, [b]) :: (p, bs) :: rest
    | [] => [(o, [b])]

/-- A write the hinge passes on: recorded as sent out, and an interrupt made pending where it is the first word of an
IMSIC file (R294, R391, R410). -/
def State.mmioWrite (s : State) (pa : Nat) (bytes : List Byte) : State :=
  let s1 := { s with hinge := { s.hinge with mmioOut := s.hinge.mmioOut ++ [(pa, bytes)] } }
  let imsic := (decide (0x14000000 ≤ pa) && decide (pa < 0x14048000)) ||
    (decide (0x18000000 ≤ pa) && decide (pa < 0x18240000))
  if imsic && pa % 4096 == 0 && bytes.length == 4 then s1.msi pa (bytesNat bytes) else s1

/-- The share line of a store entry written in the bonded SRAM; a full line clears its poison (R282, R291). -/
def State.shareStore (s : State) (die a : Nat) (back : Option Nat) (bytes : NMap Byte) : State :=
  let s1 := bytes.foldl (fun (st : State) (ob : Nat × Byte) =>
    (st.sramWrite die (lineOf a + ob.1) [ob.2]).stampSram die (lineOf a + ob.1) 1 back) s
  if bytes.length ≥ 128 then
    { s1 with ms := { s1.ms with sramPoison := s1.ms.sramPoison.filter (fun l => l != lineOf (die * sramBytes + a)) } }
  else s1

/-- Whether the FIFO of an uncached target's controller has room for a line (R39, R40). -/
def State.sinks (s : State) : Target → Bool
  | .uncached pa => s.lpRoom (lineOf pa)
  | _ => true

/-- A store entry accepted at its endpoint of visibility, none while that cannot take it: the die's LLC for a cacheable
line held in M or E, the home for a store that is not cached, the controller, the SRAM controller with one write-through
of the line, or the hinge (R276, R293, R294). A window store sends its WRITE and is accepted by the peer's VISACK. -/
def State.acceptNow (s : State) (core : Nat) (e : SbEntry) : Option State :=
  let gr := granuleOf e.tgt
  if s.awake e.tgt = false then none
  else match e.tgt, e.nocache with
  | .cache pa, true =>
    if s.domain (s.memDomain pa) ≠ .idle then none else some (s.cohWriteLine e.tag (lineOf pa) e.bytes)
  | .cache pa, false =>
    let stop := stopOfDie (dieOfCore core)
    match NMap.find (lineOf pa) (s.cacheOf stop) with
    | none => none
    | some l =>
      if l.st = .s then none
      else
        let full := decide (e.bytes.length ≥ 128)
        let l' := { l with st := .m, bytes := overlay l.bytes e.bytes, poison := l.poison && !full, tag := e.tag }
        some (((s.setCache stop (NMap.ins (lineOf pa) l' (s.cacheOf stop))).killResv (fun _ => true) gr).l1Store core e)
  | .uncached pa, _ =>
    some (((s.memAccept (lineOf pa) e.bytes false e.tag).killResv (fun _ => true) gr).lpPush (lineOf pa))
  | .share die a back, _ =>
    let s1 := s.shareStore die a back e.bytes
    let s2 := match back with
      | some pa => s1.cohWriteLine e.tag (lineOf pa) e.bytes
      | none => s1
    some ((s2.killResv (fun _ => true) gr).l1Store core e)
  | .mmio pa, _ =>
    some ((runsOf e.bytes).foldl (fun st r => st.mmioWrite (lineOf pa + r.1) r.2) s)
  | .window _ _ _, _ => none

/-- The same where a full FIFO holds the store back (R40). -/
def State.acceptStore (s : State) (core : Nat) (e : SbEntry) : Option State :=
  if s.sinks e.tgt then s.acceptNow core e else none

/-- The same for a store that no LR's holder delays (R314). -/
def State.acceptFree (s : State) (core : Nat) (e : SbEntry) : Option State :=
  if s.coh.holds.contains (granuleOf e.tgt) then none else s.acceptStore core e

/-- A window entry's WRITEs sent under fresh transaction numbers, one for each run of bytes (R453); a full line of a
drain goes as bulk data (R436). -/
def State.sendStore (s : State) (ward : Nat) (e : SbEntry) : State × SbEntry :=
  match e.tgt, e.sent || s.span.stalled with
  | .window peer pa c, false =>
    let e0 : SbEntry := { e with sent := true }
    (runsOf e.bytes).foldl (fun (st, en) r =>
      let (id, s1) := st.newTx peer
      let body := if e.drain && decide (r.2.length ≥ 128) then MsgBody.bulkwrite (lineOf pa) r.2 c true
        else MsgBody.write (lineOf pa + r.1) r.2 c true
      (s1.sendTo peer body id ward, { en with txids := en.txids ++ [id] })) (s, e0)
  | _, _ => (s, e)

/-- Whether a store entry is to a span window whose peer is no current member: undeliverable (R316). -/
def State.undeliverable (s : State) (e : SbEntry) : Bool :=
  match e.tgt with
  | .window peer _ _ => !s.reachable peer
  | _ => false

/-- A group whose store of an order and address is undeliverable: the earliest is kept (R316). -/
def Group.noteUndelivered (x : Group) (order va : Nat) : Group :=
  match x.undeliv with
  | some (o, a) => { x with undeliv := some (if order < o then (order, va) else (o, a)) }
  | none => { x with undeliv := some (order, va) }

/-- An undeliverable store of a group, or of one that ended, taken out and counted for its context (R316, R517). -/
def State.dropUndelivered (s : State) (g : Site) (idx : Nat) (e : SbEntry) : State :=
  match s.group? g with
  | some x => (s.setGroup g ({ x with sb := dropAt idx x.sb }.noteUndelivered e.order e.va)).countCtx (s.ctxOf g) 14 1
  | none =>
    match (s.core g.core).orphans[idx]? with
    | some o => (s.updCore g.core (fun k => { k with orphans := dropAt idx k.orphans })).countCtx o.ctx 14 1
    | none => s

/-- Whether entry `e` of a group may become visible next: every earlier load has performed, and no earlier entry that
is not a window store waits before it, window stores being unordered against other stores (R307). -/
def Group.mayAccept (x : Group) (e : SbEntry) : Bool :=
  x.loads.all (fun l => decide (e.order < l.order)) &&
    (isWindow e.tgt || x.sb.all (fun f => isWindow f.tgt || decide (e.order ≤ f.order)))

/-- Entry `idx` of a group's store buffer becomes visible, where it may; a place of 48 or more names an orphan of the
core, whose stores keep their order too. -/
def State.storeVisible (s : State) (g : Site) (idx : Nat) : State :=
  match s.group? g with
  | some x =>
    match x.sb[idx]? with
    | none => s
    | some e =>
      if x.mayAccept e = false then s
      else if s.undeliverable e then s.dropUndelivered g idx e
      else if isWindow e.tgt then
        let (s1, e1) := s.sendStore (s.wardOf g) e
        s1.updGroup g (fun y => { y with sb := modAt (fun _ => e1) idx y.sb })
      else match s.acceptFree g.core e with
        | none => s
        | some s1 =>
          let dirty := match e.tgt with | .cache pa => [lineOf pa] | _ => []
          s1.updGroup g (fun y => { y with sb := dropAt idx y.sb, dirtied := dirty.foldl (fun d l => addNew l d) y.dirtied })
  | none =>
    if g.place < 48 then s
    else match (s.core g.core).orphans[idx]? with
      | some o =>
        match o.store with
        | none => s
        | some e =>
          let before := ((s.core g.core).orphans.take idx).any (fun p => match p.store with
            | some f => p.launch == o.launch && !isWindow f.tgt && decide (f.order < e.order)
            | none => false)
          if before && !isWindow e.tgt then s
          else if s.undeliverable e then s.dropUndelivered g idx e
          else if isWindow e.tgt then
            let (s1, e1) := s.sendStore (s.ctx o.ctx).ward e
            s1.updCore g.core (fun k => { k with orphans := modAt (fun p => { p with store := some e1 }) idx k.orphans })
          else match s.acceptFree g.core e with
            | none => s
            | some s1 =>
              let dirty := match e.tgt, e.nocache with | .cache pa, false => [lineOf pa] | _, _ => []
              (s1.updCore g.core (fun k => { k with orphans := dropAt idx k.orphans })).updLaunch o.launch
                (fun l => { l with dirtied := dirty.foldl (fun d a => addNew a d) l.dirtied })
      | none => s

/-- STORE_VISIBLE (R306, R307). -/
def execStoreVisible (site : Site) (idx : Nat) (s : State) : Host.Outcome State Fault Refusal :=
  okay (s.storeVisible site idx)

end Sys2Proof.Machine
end

