-- ==== Sys2Proof/Machine/Reads.lean ====
section
/-! DEFINITION. Line reads of spindles, MLOADs and instruction fetches, through the die's LLC, the home, a controller or a
peer (R162, R270, R293, R453), and the instruction cache (R574). -/

namespace Sys2Proof.Machine

/-! ### Line readers -/

/-- Whether a bulk reader's cacheable lines come through the die's LLC: all but those of the spindles of COPY and CONVERT
do (R270, R293). -/
def State.viaLlc (s : State) (core owner : Nat) : Bool :=
  match NMap.find owner (s.core core).spindles with
  | some sp => match sp.prog with
    | .move .. => false
    | _ => true
  | none => true

/-- The line a target lies in as a bulk reader gets it: through the die's LLC or the home, the controller, the SRAM
controller, a device, or the peer's answer; none while that has not come. -/
def State.bulkLine (s : State) (core owner : Nat) (t : Target) : Option (List Byte × Bool) :=
  match t with
  | .cache pa =>
    if s.viaLlc core owner then
      match (s.core core).lineReads.find? (fun r => r.owner == owner && r.line == lineOf pa) with
      | some r => r.reply
      | none => (s.llcLine core pa).map (fun l => (l.bytes, l.poison))
    else if s.domain (s.memDomain pa) ≠ .idle then none
    else let l := s.coherentLine (lineOf pa); some (l.bytes, l.poison)
  | .window p pa _ =>
    ((s.core core).winreads.find? (fun w => w.owner == owner && w.peer == p && w.line == lineOf pa)).bind (·.reply)
  | t => (s.tierLine core t false).map (fun r => (s.scratchView (s.core core).undef (lineTgt t) r.1, r.2))

/-- The tile a line reader works for: the core's matrix or spindle tile, or that of a group whose instructions are fetched
(owners as in `WinRead`). -/
def State.readerTile (s : State) (core owner : Nat) : Option Tile :=
  if owner < 5 then ((s.core core).tiles.find? (fun kt => kt.2.matrix || kt.1 == 48)).map (·.2)
  else (s.group? ⟨core, owner - 5⟩).bind (fun x => s.tile? core x.tile)

/-- A line read asked of the die's LLC for a reader, which gives it at once where it holds the line (R270). -/
def State.askLine (s : State) (core owner line : Nat) : State :=
  let got := (s.llcLine core line).map (fun l => (l.bytes, l.poison))
  let mine (r : LineRead) : Bool := r.owner == owner && r.line == line
  let fill (r : LineRead) : LineRead := if mine r && r.reply.isNone then { r with reply := got } else r
  let ways : BitVec 16 := ((s.readerTile core owner).map (·.plan.ways)).getD 0
  s.updCore core (fun k =>
    if k.lineReads.any mine then { k with lineReads := k.lineReads.map fill }
    else { k with lineReads := k.lineReads ++ [{ owner := owner, ways := ways, line := line, reply := got }] })

/-- The lines of a list asked for by a reader: of the die's LLC, or by READs sent for the window lines not asked for yet
(R270, R453). -/
def State.bulkAsk (s : State) (core owner : Nat) (ts : List Target) : State :=
  let ward := ((s.readerTile core owner).map (fun t => (s.ctx t.ctx).ward)).getD 0
  ts.foldl (fun st t =>
    match t with
    | .cache pa => if st.viaLlc core owner then st.askLine core owner (lineOf pa) else st
    | .window p pa c =>
      if st.span.stalled || (st.core core).winreads.any (fun w => w.owner == owner && w.peer == p && w.line == lineOf pa) then st
      else if st.reachable p = false then
        let w : WinRead := { owner := owner, peer := p, line := lineOf pa, txid := 65536, reply := some (List.replicate 128 0, true) }
        st.updCore core (fun k => { k with winreads := k.winreads ++ [w] })
      else
        let (id, s1) := st.newTx p
        let s2 := s1.sendTo p (.read (lineOf pa) 128 c) id ward
        s2.updCore core (fun k => { k with winreads := k.winreads ++ [{ owner := owner, peer := p, line := lineOf pa, txid := id }] })
    | _ => st) s

/-- A byte as a bulk reader gets it, with the poison mark of its line. -/
def State.bulkByte (s : State) (core owner : Nat) (t : Target) : Option (Byte × Bool) :=
  (s.bulkLine core owner t).map (fun l => (l.1.getD (lineOff t) 0, l.2))

/-! ### Instruction fetch (R574) -/

/-- A line put in a core's instruction cache of 512 lines: a full cache gives up one, whichever (R574; log 136). -/
def State.icachePut (s : State) (core key : Nat) : State :=
  let ic := (s.core core).icache
  if ic.contains key || decide (ic.length < 512) then s.updCore core (fun c => { c with icache := addNew key c.icache })
  else
    let (i, s1) := s.draw
    s1.updCore core (fun c => { c with icache := addNew key (dropAt (Config.freeNat i % 512) c.icache) })

/-- INSTRUCTION_FETCH_FILL: the line of the group's PC is read as a .cg load is, from the die's LLC or by a READ to a peer.
When it is there it enters the core's instruction cache, that of a peer's uncached page serving the group's next fetch
alone; poisoned data faults the fetch (R282, R574). -/
def execInstructionFetchFill (site : Site) (s : State) : Host.Outcome State Fault Refusal :=
  let owner := 5 + site.place
  match s.group? site with
  | none => okay s
  | some x =>
    match (s.groupView site).resolve (s.ctxOf site) x.pc.toNat .fetch with
    | .ok t =>
      let s1 := s.bulkAsk site.core owner [t]
      match s1.bulkLine site.core owner t, fetchKey t with
      | some (_, true), _ =>
        if s1.canIssue x && x.drained then
          okay ((s1.updCore site.core (fun c => c.endReads owner)).raise site
            { cls := 4, detail := 6, lane := lowestLane x.active, addr := x.pc.toNat, pc := x.pc })
        else okay s1
      | some (_, false), some k =>
        okay (((s1.updCore site.core (fun c => c.endReads owner)).translated (s.ctxOf site) .fetch [x.pc.toNat]).icachePut
          site.core k)
      | _, _ => okay s1
    | _ => okay s

end Sys2Proof.Machine
end

