-- ==== Sys2Proof/Machine/Hasp.lean ====
section
/-! DEFINITION. Hasp lines: participants, arrivals, generations and their release (R342 to R349). -/

namespace Sys2Proof.Machine

/-- Thread groups of a tile of a launch (R344). -/
def groupsPerTile (f : LaunchFields) : Nat := ceilDiv f.nthread 32

/-- Tiles for each core of a LAUNCH that binds hasp lines: c of R344. -/
def tilesPerCore (f : LaunchFields) : Nat :=
  if f.matrix then 1 else Nat.min (48 / groupsPerTile f) (192 / (groupsPerTile f * (2 + f.regs)))

/-- The core that the tile of linear index `t` belongs to, by module and logical core (R344). -/
def Launch.homeCore (l : Launch) (t : Nat) : Option (Nat × Nat) := l.homes[t / tilesPerCore l.fields]?

/-- Whether the tile of linear index `t` is a participant of a line (R343). -/
def Launch.takesPart (l : Launch) (h : Hasp) (t : Nat) : Bool :=
  match l.homeCore t with
  | some c => h.cores.contains c
  | none => false

/-- The line and its state, where a group's tile is a participant of it. -/
def State.haspOf (s : State) (launch index line : Nat) : Option Hasp :=
  match NMap.find line s.hasps, s.launch? launch with
  | some h, some l => if h.launch = launch ∧ l.takesPart h index then some h else none
  | _, _ => none

/-- A resident tile of a launch by linear index: core and key. -/
def State.findTile (s : State) (launch index : Nat) : Option (Nat × Nat) :=
  s.cores.findSome? (fun ck => ck.2.tiles.findSome? (fun kt =>
    if kt.2.launch = launch ∧ kt.2.index = index then some (ck.1, kt.1) else none))

/-- Whether a participant tile has arrived: it is gone for good, or each of its groups has arrived or ended (R345,
R348). -/
def State.tileArrived (s : State) (h : Hasp) (index : Nat) : Bool :=
  h.gone.contains index || (match s.findTile h.launch index with
    | some (c, k) => ((s.core c).groupsOf k).all (fun pg => h.arrived.contains (index, pg.2.index))
    | none => false)

/-- Whether every participant tile of this module has arrived. -/
def State.localArrived (s : State) (h : Hasp) (l : Launch) : Bool :=
  (List.range (Nat.min l.total (l.homes.length * tilesPerCore l.fields))).all (fun t =>
    match l.homeCore t with
    | some c => c.1 != s.here || !h.cores.contains c || s.tileArrived h t
    | none => true)

/-- The modules that take part in a line. -/
def Hasp.modules (h : Hasp) : List Nat := (h.cores.map (·.1)).eraseDups

/-- The groups that wait at a generation of a line. -/
def State.haspWaiting (s : State) (line gen : Nat) : List Site :=
  (s.cores.map (fun ck => ck.2.groups.filterMap (fun pg =>
    if pg.2.wait = .hasp line gen then some (⟨ck.1, pg.1⟩ : Site) else none))).flatten

/-- The current generation of a line resolves: the waiting groups are released and the next one begins (R345). -/
def State.haspRelease (s : State) (line : Nat) (h : Hasp) : State :=
  let ws := s.haspWaiting line h.gen
  let h1 : Hasp := { h with gen := h.gen + 1, arrived := [], members := [], sent := false }
  let s1 : State := { s with hasps := NMap.ins line h1 s.hasps }
  ws.foldl (fun st g => st.endWait g) s1

/-- Whether the master holds the arrival of every module of a line that it has not declared lost (R349). -/
def State.haspAllIn (s : State) (mods members : List Nat) : Bool :=
  mods.all (fun m => members.contains m || !(m == s.here || s.span.roster.any (fun r => r.ord == m)))

/-- A line brought up to date: its local part sent on, or the generation resolved, where everything has arrived (R345,
R349). The fuel bounds the generations that resolve at once because a member's tiles are all gone. -/
def State.haspSettle (s : State) (line : Nat) : Nat → State
  | 0 => s
  | fuel + 1 =>
    match NMap.find line s.hasps with
    | none => s
    | some h =>
      match s.launch? h.launch with
      | none => s
      | some l =>
        if s.localArrived h l = false then s
        else if h.modules.all (· == s.here) then
          if (s.haspWaiting line h.gen).isEmpty then s else s.haspRelease line h
        else if s.span.master then
          let ms := addNew s.here h.members
          let s1 : State := { s with hasps := NMap.ins line { h with members := ms } s.hasps }
          if s.haspAllIn h.modules ms then
            let s2 := (h.modules.filter (· != s.here)).foldl (fun st m => st.sendTo m (.hasprel line h.gen)) s1
            (s2.haspRelease line { h with members := ms }).haspSettle line fuel
          else s1
        else if h.sent then s
        else
          ({ s with hasps := NMap.ins line { h with sent := true } s.hasps } : State).sendTo s.span.masterOrd
            (.hasparr line h.gen)

/-- Every line brought up to date. -/
def State.haspSettleAll (s : State) : State := s.hasps.foldl (fun st nh => st.haspSettle nh.1 2) s

end Sys2Proof.Machine
end

