-- ==== Sys2Proof/Machine/Float.lean ====
section
/-! DEFINITION. Number formats, exact values and rounding (R87 to R90, R94, R119, R178 to R180, R195 to R197). -/

namespace Sys2Proof.Machine

/-! ### Formats (R178) -/

/-- A floating format: exponent and mantissa bits, bias, whether it has infinities and which NaNs. `nan` is 0 for none,
1 for the two encodings of E4M3, 2 for IEEE 754; `quiet` says that every NaN of it is quiet (R179). -/
structure Fmt where
  ebits : Nat
  mbits : Nat
  bias  : Nat
  inf   : Bool
  nan   : Nat
  quiet : Bool
  deriving DecidableEq, Repr, Inhabited

def fmtE2m1 : Fmt := { ebits := 2, mbits := 1, bias := 1, inf := false, nan := 0, quiet := true }
def fmtE2m3 : Fmt := { ebits := 2, mbits := 3, bias := 1, inf := false, nan := 0, quiet := true }
def fmtE3m2 : Fmt := { ebits := 3, mbits := 2, bias := 3, inf := false, nan := 0, quiet := true }
def fmtE4m3 : Fmt := { ebits := 4, mbits := 3, bias := 7, inf := false, nan := 1, quiet := true }
def fmtE5m2 : Fmt := { ebits := 5, mbits := 2, bias := 15, inf := true, nan := 2, quiet := true }
def fmtF16 : Fmt := { ebits := 5, mbits := 10, bias := 15, inf := true, nan := 2, quiet := false }
def fmtBf16 : Fmt := { ebits := 8, mbits := 7, bias := 127, inf := true, nan := 2, quiet := false }
def fmtF32 : Fmt := { ebits := 8, mbits := 23, bias := 127, inf := true, nan := 2, quiet := false }
def fmtF64 : Fmt := { ebits := 11, mbits := 52, bias := 1023, inf := true, nan := 2, quiet := false }

/-- The floating format of a TYPE code (R119); an integer code has none. -/
def fmtOf (type : Nat) : Option Fmt :=
  match type with
  | 6 => some fmtF64
  | 7 => some fmtF32
  | 8 => some fmtF16
  | 9 => some fmtBf16
  | 10 => some fmtE4m3
  | 11 => some fmtE5m2
  | 12 => some fmtE2m3
  | 13 => some fmtE3m2
  | 14 => some fmtE2m1
  | _ => none

/-- Bits of an element of a TYPE code; 6-bit formats are held in bytes (R158). -/
def typeBits (type : Nat) : Nat :=
  match type with
  | 0 | 1 | 7 => 32
  | 2 | 3 | 6 => 64
  | 4 | 10 | 11 | 12 | 13 => 8
  | 5 | 14 => 4
  | _ => 16

/-- Width in bits of a format's encoding. -/
def Fmt.width (f : Fmt) : Nat := 1 + f.ebits + f.mbits

/-- Exponent of the smallest subnormal. -/
def Fmt.qmin (f : Fmt) : Int := 1 - (f.bias : Int) - f.mbits

/-- The largest biased exponent that a finite value can have. -/
def Fmt.emax (f : Fmt) : Nat := if f.nan = 2 then 2 ^ f.ebits - 2 else 2 ^ f.ebits - 1

/-- The encoding of the largest finite magnitude. -/
def Fmt.maxBits (f : Fmt) : Nat := f.emax * 2 ^ f.mbits + (2 ^ f.mbits - 1) - (if f.nan = 1 then 1 else 0)

/-- A sign bit in front of a magnitude's encoding. -/
def Fmt.signed (f : Fmt) (neg : Bool) (mag : Nat) : Nat := mag + b2n neg * 2 ^ (f.width - 1)

/-- The canonical NaN (R90, R195). -/
def Fmt.canonNan (f : Fmt) : Nat :=
  match f.nan with
  | 1 => 0x7F
  | _ => (2 ^ f.ebits - 1) * 2 ^ f.mbits + 2 ^ (f.mbits - 1)

/-- The infinity of a sign. -/
def Fmt.infBits (f : Fmt) (neg : Bool) : Nat := f.signed neg ((2 ^ f.ebits - 1) * 2 ^ f.mbits)

/-! ### Values -/

/-- What an encoding stands for; `fin` is ± m × 2^q exactly, with m zero for a zero of the sign. -/
inductive FVal where
  | nan (signalling : Bool)
  | inf (neg : Bool)
  | fin (neg : Bool) (m : Nat) (q : Int)
  deriving DecidableEq, Repr, Inhabited

/-- The value of an encoding (R178, R179). -/
def Fmt.decode (f : Fmt) (bits : Nat) : FVal :=
  let man := bits % 2 ^ f.mbits
  let ex := bits / 2 ^ f.mbits % 2 ^ f.ebits
  let neg := (bits / 2 ^ (f.width - 1)) % 2 = 1
  if f.nan = 2 ∧ ex = 2 ^ f.ebits - 1 then
    if man = 0 then .inf neg else .nan (!f.quiet && decide (man < 2 ^ (f.mbits - 1)))
  else if f.nan = 1 ∧ ex = 2 ^ f.ebits - 1 ∧ man = 2 ^ f.mbits - 1 then .nan false
  else if ex = 0 then .fin neg man f.qmin
  else .fin neg (man + 2 ^ f.mbits) (f.qmin + (ex : Int) - 1)

/-- Whether a finite value is subnormal in a format: nonzero and below its smallest normal. -/
def Fmt.tiny (f : Fmt) (m : Nat) (q : Int) : Bool :=
  m != 0 && decide ((Nat.log2 m : Int) + q < 1 - (f.bias : Int))

/-- A value with a subnormal input taken as a zero of its sign, under .ftz (R89). -/
def Fmt.flushIn (f : Fmt) (ftz : Bool) (v : FVal) : FVal :=
  match v with
  | .fin neg m q => if ftz && f.tiny m q then .fin neg 0 f.qmin else v
  | _ => v

/-! ### Rounding (R88, R89, R94, R196, R197) -/

/-- m × 2^q in units of 2^u: whole units, the remainder and how many bits the remainder has. -/
def unitsOf (m : Nat) (q u : Int) : Nat × Nat × Nat :=
  if u ≤ q then (m * 2 ^ (q - u).toNat, 0, 0)
  else
    let d := (u - q).toNat
    (m / 2 ^ d, m % 2 ^ d, d)

/-- The units after rounding in a mode. -/
def roundUnits (rm : Rm) (neg : Bool) (m : Nat) (q u : Int) : Nat :=
  let (n, r, d) := unitsOf m q u
  let up := r != 0 && (match rm with
    | .rne => decide (2 * r > 2 ^ d) || (decide (2 * r = 2 ^ d) && n % 2 == 1)
    | .rtz => false
    | .rup => !neg
    | .rdn => neg
    | .sto x => decide (x.toNat < r * 2 ^ 16 / 2 ^ d))
  if up then n + 1 else n

/-- Whether a mode takes an overflow of a sign to infinity rather than to the largest finite value (R94, R197). -/
def Rm.toInf (rm : Rm) (neg : Bool) : Bool :=
  match rm with
  | .rne | .sto _ => true
  | .rtz => false
  | .rup => !neg
  | .rdn => neg

/-- The result of an overflow (R94, R196). -/
def Fmt.overflow (f : Fmt) (rm : Rm) (sat neg : Bool) : Nat :=
  if sat || !rm.toInf neg || (!f.inf && f.nan == 0) then f.signed neg f.maxBits
  else if f.inf then f.infBits neg else f.canonNan

/-- ± m × 2^q rounded to a format, with the flags of R92: overflow, tininess after rounding, inexactness, and the
flush of a subnormal result under .ftz. -/
def Fmt.round (f : Fmt) (rm : Rm) (ftz sat neg : Bool) (m : Nat) (q : Int) : Nat × FFlags :=
  if m = 0 then (f.signed neg 0, 0)
  else
    let lead : Int := (Nat.log2 m : Int) + q
    let emin : Int := 1 - (f.bias : Int)
    let u : Int := max lead emin - f.mbits
    let n := roundUnits rm neg m q u
    let inexact := (unitsOf m q u).2.1 != 0
    let free := roundUnits rm neg m q (lead - f.mbits)
    let tiny := decide (lead < emin) && !(decide (lead + 1 = emin) && decide (free = 2 ^ (f.mbits + 1)))
    let (n', u') := if n = 2 ^ (f.mbits + 1) then (2 ^ f.mbits, u + 1) else (n, u)
    let ex : Nat := if n' < 2 ^ f.mbits then 0 else (u' - f.qmin).toNat + 1
    let bits := if ex = 0 then n' else ex * 2 ^ f.mbits + (n' - 2 ^ f.mbits)
    if bits > f.maxBits then (f.overflow rm sat neg, FFlags.of ||| FFlags.nx)
    else
      let fl := (if inexact then FFlags.nx else 0) ||| (if inexact && tiny then FFlags.uf else 0)
      if ftz && ex == 0 && n' != 0 then (f.signed neg 0, fl ||| FFlags.uf ||| FFlags.nx)
      else (f.signed neg bits, fl)

/-- ± m × 2^q rounded to an integer of `n` bits, signed or not: the largest or smallest value with NV where it does not
fit (R94, R196). -/
def roundToInt (n : Nat) (signed : Bool) (rm : Rm) (neg : Bool) (m : Nat) (q : Int) : Nat × FFlags :=
  let k := roundUnits rm neg m q 0
  let v : Int := if neg then -(k : Int) else k
  let lo : Int := if signed then -(2 ^ (n - 1) : Nat) else 0
  let hi : Int := if signed then (2 ^ (n - 1) : Nat) - 1 else (2 ^ n : Nat) - 1
  if v < lo then (wrapInt n lo, FFlags.nv)
  else if hi < v then (wrapInt n hi, FFlags.nv)
  else (wrapInt n v, if (unitsOf m q 0).2.1 != 0 then FFlags.nx else 0)

/-! ### Exact sums and products of finite values -/

/-- The signed integer a finite value is in units of 2^u, for u at most its exponent. -/
def inUnits (neg : Bool) (m : Nat) (q u : Int) : Int :=
  let k : Int := (m * 2 ^ (q - u).toNat : Nat)
  if neg then -k else k

/-- The exact sum of two finite values, as sign, magnitude and exponent; an exact zero takes the sign that IEEE 754
gives: the common sign of two zeros, otherwise minus only when rounding down. -/
def addExact (rm : Rm) (na : Bool) (ma : Nat) (qa : Int) (nb : Bool) (mb : Nat) (qb : Int) : Bool × Nat × Int :=
  let u := min qa qb
  let v := inUnits na ma qa u + inUnits nb mb qb u
  if v = 0 then
    (if ma = 0 ∧ mb = 0 ∧ na = nb then na else decide (rm = Rm.rdn), 0, u)
  else (decide (v < 0), v.natAbs, u)

/-! ### Arithmetic of the vector pipes (R87) -/

/-- A NaN operand's contribution to NV: signalling (R90). -/
def FVal.snan : FVal → Bool
  | .nan s => s
  | _ => false

/-- Whether a value is a NaN. -/
def FVal.isNan : FVal → Bool
  | .nan _ => true
  | _ => false

/-- The canonical NaN with NV where an operand is signalling or the operation is invalid. -/
def Fmt.nanOf (f : Fmt) (invalid : Bool) : Nat × FFlags := (f.canonNan, if invalid then FFlags.nv else 0)

/-- A product of two values: the exact value, or the reason it is not finite. -/
def mulVal (a b : FVal) : FVal :=
  match a, b with
  | .nan s, .nan t => .nan (s || t)
  | .nan s, _ => .nan s
  | _, .nan s => .nan s
  | .inf x, .inf y => .inf (x != y)
  | .inf x, .fin y m _ => if m = 0 then .nan true else .inf (x != y)
  | .fin x m _, .inf y => if m = 0 then .nan true else .inf (x != y)
  | .fin x m q, .fin y n r => .fin (x != y) (m * n) (q + r)

/-- The sum of two values rounded once (R87): infinities of opposite signs are invalid. -/
def Fmt.addVal (f : Fmt) (rm : Rm) (ftz : Bool) (a b : FVal) : Nat × FFlags :=
  match a, b with
  | .nan s, .nan t => f.nanOf (s || t)
  | .nan s, _ => f.nanOf s
  | _, .nan s => f.nanOf s
  | .inf x, .inf y => if x = y then (f.infBits x, 0) else f.nanOf true
  | .inf x, .fin _ _ _ => (f.infBits x, 0)
  | .fin _ _ _, .inf y => (f.infBits y, 0)
  | .fin x m q, .fin y n r =>
    let (neg, k, u) := addExact rm x m q y n r
    f.round rm ftz false neg k u

/-- The value with its sign turned. -/
def FVal.negate : FVal → FVal
  | .nan s => .nan s
  | .inf n => .inf (!n)
  | .fin n m q => .fin (!n) m q

/-- FADD. -/
def Fmt.add (f : Fmt) (rm : Rm) (ftz : Bool) (a b : Nat) : Nat × FFlags :=
  f.addVal rm ftz (f.flushIn ftz (f.decode a)) (f.flushIn ftz (f.decode b))

/-- FSUB. -/
def Fmt.sub (f : Fmt) (rm : Rm) (ftz : Bool) (a b : Nat) : Nat × FFlags :=
  f.addVal rm ftz (f.flushIn ftz (f.decode a)) (f.flushIn ftz (f.decode b)).negate

/-- FMUL. -/
def Fmt.mul (f : Fmt) (rm : Rm) (ftz : Bool) (a b : Nat) : Nat × FFlags :=
  match mulVal (f.flushIn ftz (f.decode a)) (f.flushIn ftz (f.decode b)) with
  | .nan s => f.nanOf s
  | .inf n => (f.infBits n, 0)
  | .fin n m q => f.round rm ftz false n m q

/-- FMA with one rounding. IEEE 754 leaves open whether 0 × ∞ with a quiet NaN addend is invalid (log 20). -/
def Fmt.fma (f : Fmt) (rm : Rm) (ftz : Bool) (a b c : Nat) : Nat × FFlags :=
  let va := f.flushIn ftz (f.decode a)
  let vb := f.flushIn ftz (f.decode b)
  let vc := f.flushIn ftz (f.decode c)
  let p := mulVal va vb
  let made := p.isNan && !va.isNan && !vb.isNan
  match vc with
  | .nan s => f.nanOf (s || va.snan || vb.snan || (made && Config.fmaInvalid))
  | _ => f.addVal rm ftz p vc

/-- Whether a value lies below another, with −0 below +0 (R87, minimumNumber). -/
def FVal.below : FVal → FVal → Bool
  | .nan _, _ => false
  | _, .nan _ => false
  | .inf x, .inf y => x && !y
  | .inf x, .fin _ _ _ => x
  | .fin _ _ _, .inf y => !y
  | .fin x m q, .fin y n r =>
    let u := min q r
    let a := inUnits x m q u
    let b := inUnits y n r u
    decide (a < b) || (decide (a = b) && m == 0 && n == 0 && x && !y)

/-- The bits of an input as an instruction with .ftz reads it (R89). -/
def Fmt.flushBits (f : Fmt) (ftz : Bool) (bits : Nat) : Nat :=
  match f.decode bits with
  | .fin neg m q => if ftz && f.tiny m q then f.signed neg 0 else bits
  | _ => bits

/-- minimumNumber and maximumNumber: the number where one operand is a NaN, the canonical NaN where both are (R87,
R90). -/
def Fmt.minmax (f : Fmt) (ismin ftz : Bool) (a b : Nat) : Nat × FFlags :=
  let a := f.flushBits ftz a
  let b := f.flushBits ftz b
  let va := f.decode a
  let vb := f.decode b
  let fl := if va.snan || vb.snan then FFlags.nv else 0
  match va.isNan, vb.isNan with
  | true, true => (f.canonNan, fl)
  | true, false => (b, fl)
  | false, true => (a, fl)
  | false, false =>
    let first := if ismin then va.below vb else vb.below va
    (if first then a else b, fl)

/-- The ordered comparison of two values that are not NaN: −1, 0 or 1. -/
def FVal.order (a b : FVal) : Int :=
  match a, b with
  | .inf x, .inf y => if x = y then 0 else if x then -1 else 1
  | .inf x, _ => if x then -1 else 1
  | _, .inf y => if y then 1 else -1
  | .fin x m q, .fin y n r =>
    let u := min q r
    let d := inUnits x m q u - inUnits y n r u
    if d < 0 then -1 else if d = 0 then 0 else 1
  | _, _ => 0

/-- FCMP: the condition's result and the flags (R125). -/
def Fmt.cmp (f : Fmt) (cond : Nat) (ftz : Bool) (a b : Nat) : Bool × FFlags :=
  let va := f.flushIn ftz (f.decode a)
  let vb := f.flushIn ftz (f.decode b)
  let un := va.isNan || vb.isNan
  let nv := va.snan || vb.snan || (un && decide (2 ≤ cond) && decide (cond ≤ 5))
  let fl := if nv then FFlags.nv else 0
  if un then (cond == 1 || cond == 6, fl)
  else if cond = 6 then (false, fl)
  else if cond = 7 then (true, fl)
  else (condInt cond (va.order vb) 0, fl)

/-! ### Conversion (R94, R95) -/

/-- The value of a source encoding under a TYPE code: an integer's value is exact. -/
def valOf (type bits : Nat) : FVal :=
  match fmtOf type with
  | some f => f.decode bits
  | none =>
    let v : Int := if type % 2 = 1 then signedOf (typeBits type) bits else (bits : Int)
    .fin (decide (v < 0)) v.natAbs 0

/-- A value converted to the destination of a TYPE code (R94). -/
def convertVal (dst : Nat) (rm : Rm) (ftz sat : Bool) (v : FVal) : Nat × FFlags :=
  match fmtOf dst with
  | none =>
    let n := typeBits dst
    let sg := dst % 2 = 1
    let lo := if sg then 2 ^ (n - 1) else 0
    let hi := if sg then 2 ^ (n - 1) - 1 else 2 ^ n - 1
    match v with
    | .nan _ => (0, FFlags.nv)
    | .inf neg => (if neg then lo else hi, FFlags.nv)
    | .fin neg m q => roundToInt n sg rm neg m q
  | some f =>
    match v with
    | .nan s => if f.nan = 0 then (0, FFlags.nv) else f.nanOf s
    | .inf neg =>
      if f.inf then (f.infBits neg, 0)
      else if f.nan = 1 ∧ sat = false then (f.canonNan, FFlags.nv)
      else (f.signed neg f.maxBits, FFlags.nv)
    | .fin neg m q => f.round rm ftz sat neg m q

/-- A conversion between two TYPE codes of one element's bits. An integer zero is +0. -/
def convertBits (src dst : Nat) (rm : Rm) (ftz sat : Bool) (bits : Nat) : Nat × FFlags :=
  let v := valOf src bits
  convertVal dst rm ftz sat (match fmtOf src with | some f => f.flushIn ftz v | none => v)

end Sys2Proof.Machine
end

