-- ==== Sys2Proof/Machine/WideWord.lean ====
section
/-! DEFINITION. Products, wide words, anchors, residues and drained values (R178 to R198, R209, R213 to R220). -/

namespace Sys2Proof.Machine

/-! ### Elements and products (R179 to R181, R188, R189) -/

/-- The value of an operand element in a matrix format: FP6 lies in the low six bits of its byte (R158). -/
def elemVal (fmt bits : Nat) : FVal :=
  match fmt with
  | 4 => let v := signedOf 8 bits; .fin (decide (v < 0)) v.natAbs 0
  | 5 => let v := signedOf 4 bits; .fin (decide (v < 0)) v.natAbs 0
  | f => match fmtOf f with
    | some ff => ff.decode (bits % 2 ^ ff.width)
    | none => .fin false 0 0

/-- A value scaled by an MX scale byte; 0xFF is a quiet NaN (R181). -/
def scaleVal (x : Nat) (v : FVal) : FVal :=
  if x = 255 then .nan v.snan
  else match v with
    | .fin n m q => .fin n m (q + x - 127)
    | v => v

/-- What one product adds to a word: a finite value n × 2^q, or flags. -/
inductive Prod1 where
  | fin (n : Int) (q : Int)
  | special (pinf ninf qnan inv : Bool)
  deriving DecidableEq, Repr, Inhabited

/-- The product of two operands (R188, R189). -/
def productOf (a b : FVal) : Prod1 :=
  match a, b with
  | .nan s, .nan t => .special false false (!s || !t) (s || t)
  | .nan s, _ => .special false false (!s) s
  | _, .nan s => .special false false (!s) s
  | .inf x, .inf y => if x = y then .special true false false false else .special false true false false
  | .inf x, .fin y m _ =>
    if m = 0 then .special false false false true
    else if x = y then .special true false false false else .special false true false false
  | .fin x m _, .inf y =>
    if m = 0 then .special false false false true
    else if x = y then .special true false false false else .special false true false false
  | .fin x m q, .fin y n r => .fin ((if x = y then 1 else -1) * ((m * n : Nat) : Int)) (q + r)

/-- Whether a product lane gates itself: one operand a zero and the other finite (R176). -/
def gated (a b : FVal) : Bool :=
  match a, b with
  | .fin _ m _, .fin _ n _ => m == 0 || n == 0
  | _, _ => false

/-- ⌊log2⌋ of a finite nonzero product's magnitude. -/
def Prod1.lead : Prod1 → Option Int
  | .fin n q => if n = 0 then none else some ((Nat.log2 n.natAbs : Int) + q)
  | .special _ _ _ _ => none

/-- The larger of two optional exponents. -/
def maxOpt (a b : Option Int) : Option Int :=
  match a, b with
  | some x, some y => some (max x y)
  | some x, none => some x
  | none, y => y

/-! ### Words (R182, R184, R190) -/

/-- Whether a word uses its headroom (R184). -/
def headUsed (w : WideWord) : Bool := w.x.getLsbD 319 != w.x.getLsbD 318

/-- A word shifted right by `d` bits, a nonzero bit shifted out recorded in STICKY (R191). -/
def shiftWord (d : Nat) (w : WideWord) : WideWord :=
  { w with x := w.x.sshiftRight d, sticky := w.sticky || decide (w.x.toNat % 2 ^ d ≠ 0) }

/-- A word with one product aligned to anchor `e` added (R188 to R190). -/
def addProduct (e : Int) (w : WideWord) (p : Prod1) : WideWord :=
  match p with
  | .fin n q =>
    let (k, r, _) := unitsOf n.natAbs q e
    { w with x := w.x + BitVec.ofInt 320 (if n < 0 then -(k : Int) else k), sticky := w.sticky || decide (r ≠ 0) }
  | .special pi ni qn iv => { w with pinf := w.pinf || pi, ninf := w.ninf || ni, qnan := w.qnan || qn, inv := w.inv || iv }

/-- Whether a product is one that enters no window. -/
def Prod1.isSpecial : Prod1 → Bool
  | .special _ _ _ _ => true
  | .fin _ _ => false

/-- Word `i` of a set. -/
def AccSet.word (a : AccSet) (i : Nat) : WideWord := NMap.findD {} i a.words

/-- RAISES incremented, saturating (R183). -/
def AccSet.countRaise (a : AccSet) : AccSet :=
  let r := satAdd 16 1 a.raises a.raisesat
  { a with raises := r.1, raisesat := r.2 }

/-- The set reset by an overwriting MMA, before its anchor is chosen (R183, R185, R186, R216). -/
def AccSet.overwrite (fixed : Bool) : AccSet :=
  if fixed then { anchor := -64, valid := true } else { anchor := 0, valid := true, unset := true }

/-- A beat of products, cell by cell, added to a set: the anchor chosen where none is, raised where a product or the
headroom asks for it, then the sums (R186, R190, R191). The flag says that the anchor was raised. -/
def AccSet.beat (a : AccSet) (fixed : Bool) (prods : List (Nat × List Prod1)) : AccSet × Bool :=
  let lead := prods.foldl (fun l ip => ip.2.foldl (fun l p => maxOpt l p.lead) l) none
  let a := if a.unset then
      if fixed then { a with unset := false, anchor := -64 }
      else match lead with
        | some l => { a with unset := false, anchor := l - 255 }
        | none => a
    else a
  let head := (NMap.vals a.words).any headUsed
  let beyond := match lead with | some l => decide (l > a.anchor + 286) | none => false
  let raised := !a.unset && (beyond || head)
  let a := if raised then
      let d : Int := max (match lead with | some l => l - 255 - a.anchor | none => 32) 32
      ({ a with words := NMap.mapVals (fun _ w => shiftWord d.toNat w) a.words, anchor := a.anchor + d } : AccSet).countRaise
    else a
  (prods.foldl (fun a ip =>
    let ps := if a.unset then ip.2.filter Prod1.isSpecial else ip.2
    let w := ps.foldl (addProduct a.anchor) (a.word ip.1)
    { a with words := NMap.put {} ip.1 w a.words }) a, raised)

/-! ### Residues (R213 to R217) -/

/-- 2^q as a residue: q taken modulo 31 (R213). -/
def resPow (q : Int) : Nat := 2 ^ (q % 31).toNat

/-- The residue of n × 2^q (R213). -/
def residue (n : Int) (q : Int) : Nat := ((n % (Config.resP : Int)).toNat * resPow q) % Config.resP

/-- The residue of an element: what is not finite counts as zero (R215). -/
def resVal : FVal → Nat
  | .fin neg m q => residue (if neg then -(m : Int) else m) q
  | _ => 0

/-- The residue of a wide word under an anchor. -/
def resWord (e : Int) (w : WideWord) : Nat := residue w.x.toInt e

/-- A sum of residues. -/
def resSum (l : List Nat) : Nat := l.foldl (fun a b => (a + b) % Config.resP) 0

/-- The set with amounts added to CC of a physical row, to CR of a physical column, and to T. -/
def AccSet.addCC (a : AccSet) (row v : Nat) : AccSet :=
  { a with cc := NMap.put 0 row ((NMap.findD 0 row a.cc + v) % Config.resP) a.cc }
def AccSet.addCR (a : AccSet) (col v : Nat) : AccSet :=
  { a with cr := NMap.put 0 col ((NMap.findD 0 col a.cr + v) % Config.resP) a.cr }
def AccSet.addT (a : AccSet) (v : Nat) : AccSet := { a with tot := (a.tot + v) % Config.resP }

/-- The residues of the words of a set summed by physical row and column and in total, added to its checksums (R216). -/
def AccSet.addWordResidues (a : AccSet) (e : Int) (words : NMap WideWord) : AccSet :=
  words.foldl (fun a iw =>
    let v := resWord e iw.2
    ((a.addCC (iw.1 / 32) v).addCR (iw.1 % 32) v).addT v) a

/-! ### Comparisons (R219, R220) -/

/-- The words of a physical row, and of a physical column (R146). -/
def rowCells (r : Nat) : List Nat := (List.range 32).map (fun c => 32 * r + c)
def colCells (c : Nat) : List Nat := (List.range 32).map (fun r => 32 * r + c)

/-- Whether a comparison over cells runs: every word has STICKY clear. -/
def AccSet.runs (a : AccSet) (cells : List Nat) : Bool := cells.all (fun i => !(a.word i).sticky)

/-- Whether a comparison over cells passes against a residue. -/
def AccSet.passes (a : AccSet) (cells : List Nat) (want : Nat) : Bool :=
  resSum (cells.map (fun i => resWord a.anchor (a.word i))) == want % Config.resP

/-- Whether a comparison of the set that runs does not pass (R219). -/
def AccSet.mismatch (a : AccSet) (stat : Bool) : Bool :=
  let rows := (List.range 32).any (fun r => a.runs (rowCells r) && !a.passes (rowCells r) (NMap.findD 0 r a.cc))
  let cols := (List.range 32).any (fun c => a.runs (colCells c) && !a.passes (colCells c) (NMap.findD 0 c a.cr))
  let units := resSum (NMap.vals a.cc) != a.tot % Config.resP || resSum (NMap.vals a.cr) != a.tot % Config.resP
  rows || (!stat && (cols || units))

/-- The classes of R220. -/
inductive OutClass where
  | checked | skipped | shadowed
  deriving DecidableEq, Repr, Inhabited

/-- Logical rows and columns of a shape (R133). -/
def shapeH (shape : BitVec 3) : Nat := 32 / 2 ^ shape.toNat
def shapeW (shape : BitVec 3) : Nat := 1024 / shapeH shape

/-- The cells of an output: one, or the column of a stationary drain (R174). -/
def outCells (stat : Bool) (shape : BitVec 3) (o : Nat) : List Nat :=
  if stat then (List.range (shapeH shape)).map (fun r => r * shapeW shape + o) else [o]

/-- The number of outputs of a drain. -/
def outCount (stat : Bool) (shape : BitVec 3) : Nat := if stat then shapeW shape else 1024

/-- The class of an output (R220). -/
def AccSet.outClass (a : AccSet) (stat : Bool) (shape : BitVec 3) (o : Nat) : OutClass :=
  let cells := outCells stat shape o
  if cells.any (fun i => (a.word i).sticky) then .skipped
  else if stat then (if cells.all (fun i => a.runs (rowCells (i / 32))) then .checked else .shadowed)
  else if a.runs (rowCells (o / 32)) || a.runs (colCells (o % 32)) then .checked else .shadowed

/-! ### Drained values (R195 to R198) -/

/-- The sum of the words of an output: status ORed, values added exactly. -/
def AccSet.outSum (a : AccSet) (stat : Bool) (shape : BitVec 3) (o : Nat) : Int × WideWord :=
  (outCells stat shape o).foldl (fun (v, st) i =>
    let w := a.word i
    (v + w.x.toInt, { st with sticky := st.sticky || w.sticky, pinf := st.pinf || w.pinf, ninf := st.ninf || w.ninf,
                              qnan := st.qnan || w.qnan, inv := st.inv || w.inv })) (0, {})

/-- One drained result: its bits and flags (R195, R196, R198). `inexact` is STICKY or FAST. -/
def drainValue (type : Nat) (rm : Rm) (v : Int) (e : Int) (st : WideWord) (fast : Bool) : Nat × FFlags :=
  let nan := st.inv || (st.pinf && st.ninf)
  let extra : FFlags := if st.sticky || fast then FFlags.nx else 0
  match fmtOf type with
  | none =>
    if nan || st.qnan then (0, FFlags.nv)
    else if st.pinf then (0x7FFFFFFF, FFlags.nv)
    else if st.ninf then (0x80000000, FFlags.nv)
    else
      let r := roundToInt 32 true rm (decide (v < 0)) v.natAbs e
      (r.1, r.2 ||| extra)
  | some f =>
    if nan then (f.canonNan, FFlags.nv)
    else if st.qnan then (f.canonNan, 0)
    else if st.pinf || st.ninf then
      if f.inf then (f.infBits st.ninf, 0) else (f.canonNan, FFlags.nv)
    else
      let r := f.round rm false false (decide (v < 0)) v.natAbs e
      (r.1, r.2 ||| extra)

/-! ### Relay addition (R207, R209, R216) -/

/-- A set that receives a message: it takes the incoming state, or adds cell by cell after alignment. -/
def AccSet.receive (a : AccSet) (m : RelayMsg) : AccSet :=
  if a.valid = false then
    (({ anchor := m.anchor, valid := true, unset := m.unset, fast := m.fast, words := m.words } : AccSet)).addWordResidues
      m.anchor m.words
  else
    let e : Int := if m.unset then a.anchor else if a.unset then m.anchor else max a.anchor m.anchor
    let aw := NMap.mapVals (fun _ w => shiftWord (e - a.anchor).toNat w) a.words
    let mw := NMap.mapVals (fun _ w => shiftWord (e - m.anchor).toNat w) m.words
    let raise := (NMap.vals aw).any headUsed || (NMap.vals mw).any headUsed
    let aw := if raise then NMap.mapVals (fun _ w => shiftWord 32 w) aw else aw
    let mw := if raise then NMap.mapVals (fun _ w => shiftWord 32 w) mw else mw
    let e := if raise then e + 32 else e
    let sum := mw.foldl (fun ws iw =>
      let w := NMap.findD {} iw.1 ws
      let y := iw.2
      NMap.put {} iw.1 { x := w.x + y.x, sticky := w.sticky || y.sticky, pinf := w.pinf || y.pinf,
                         ninf := w.ninf || y.ninf, qnan := w.qnan || y.qnan, inv := w.inv || y.inv } ws) aw
    let b := { a with words := sum, anchor := e, unset := a.unset && m.unset, fast := a.fast || m.fast }
    let b := if raise then b.countRaise else b
    b.addWordResidues e mw

end Sys2Proof.Machine
end

