-- ==== Sys2Proof/Machine/Recovery.lean ====
section
/-! DEFINITION. Checksum mismatches, recovery and commit (R219 to R236). -/

namespace Sys2Proof.Machine

/-- The tile that a core's open region belongs to. -/
def State.regionTile (s : State) (core : Nat) : Option Nat :=
  ((s.core core).region.bind (fun r => s.group? ⟨core, r.place⟩)).map (·.tile)

/-- Whether a tile is replayed only on its own logical core: it is core-bound, its LAUNCH binds hasp lines, or its span
is one core (R228, R344). -/
def Tile.bound (t : Tile) (l : Launch) : Bool := t.coreBound || !l.hasps.isEmpty || decide (l.chain.length ≤ 1)

/-- A mismatch against a core: a tile's second in a row on it, or the core's third within 10 s, retires it (R232). -/
def State.countCoreMismatch (s : State) (core : Nat) (again : Bool) : State :=
  s.updCore core (fun k =>
    let recent := (k.mismAt.filter (fun t => decide (s.nowN < t + 10000000000))) ++ [s.nowN]
    { k with mismAt := recent, retiring := k.retiring || again || decide (recent.length ≥ 3) })

/-- A mismatch of a tile: it is stopped and counted; uncommitted and below its fourth it waits for replay, otherwise it
has failed by check (R227, R228, R231). -/
def State.mismatch (s : State) (core key : Nat) : State :=
  match s.tile? core key with
  | none => s
  | some t =>
    let n := t.mism + 1
    let s1 := ((s.countCtx t.ctx 3 1).countModule 0 1).trace 4 (s.ctx t.ctx).ward t.ctx core 0 (t.index % 2 ^ 32)
    let here := (core, s.positionOf core)
    let s2 := (s1.stopTile core key .mismatch).countCoreMismatch core (t.lastAt == some here)
    if t.committed || decide (n ≥ 4) then
      let s3 := ((s2.countCtx t.ctx 5 1).updCore core (fun k => k.dropRetained t.launch t.index)).updLaunch t.launch (fun l =>
        { l with failed := l.failed + 1, ended := l.ended + 1 })
      -- a tile that will not be replayed counts as arrived from now on (R348)
      ({ s3 with hasps := NMap.mapVals (fun _ h => if h.launch = t.launch
          then { h with gone := addNew t.index h.gone } else h) s3.hasps } : State).haspSettleAll
    else
      s2.updLaunch t.launch (fun l =>
        let r : Replay := { index := t.index, mism := n, on := some core, bound := t.bound l, coreBound := t.coreBound
                            lastAt := some here }
        { l with replays := l.replays ++ [if n = 2 ∧ t.bound l = false then { r with on := none, notOn := some core } else r] })

/-- The accumulator set `a` of a core. -/
def Core.accSet (k : Core) (a : Nat) : AccSet := NMap.findD {} a k.acc

/-- The valid sets of a core's region. -/
def Core.validSets (k : Core) : List AccSet := (NMap.vals k.acc).filter (·.valid)

/-- Commits a tile before its first irrevocable act: the comparisons of every valid set of the tile's open region come
first (R225). The flag says whether the act may take place. -/
def State.commit (s : State) (core key : Nat) : Bool × State :=
  match s.tile? core key with
  | none => (false, s)
  | some t =>
    if t.committed then (true, s)
    else
      let k := s.core core
      let bad := s.regionTile core == some key && (match k.region with
        | some r => k.validSets.any (fun a => a.mismatch r.stat)
        | none => false)
      if bad then (false, s.mismatch core key)
      else (true, s.updTile core key (fun x => { x with committed := true }))

end Sys2Proof.Machine
end

