-- ==== Sys2Proof/Machine/Array.lean ====
section
/-! DEFINITION. The matrix array at work: chuck and stores, panels, MMA, MSTAT, MLOAD, drains, relay, and the start and
finish of queued instructions (R145 to R177, R200 to R202, R205 to R223, R230). -/

namespace Sys2Proof.Machine

/-! ### Chuck and stores -/

/-- A byte of the chuck, undefined where the tile has not written it (R109). -/
def Core.chuckByte (k : Core) (a : Nat) : Byte := NMap.findD (Config.undefByte k.undef a) a k.chuck

/-- Bytes written to the chuck. -/
def Core.chuckWrite (k : Core) (a : Nat) : List Byte → Core
  | [] => k
  | b :: bs => ({ k with chuck := NMap.ins a b k.chuck } : Core).chuckWrite (a + 1) bs

/-- A byte of a cell's stationary store, and of its scale store. -/
def Core.storeByte (k : Core) (cell b : Nat) : Byte :=
  NMap.findD (Config.undefByte k.undef (2 ^ 24 + cell * 256 + b)) (cell * 256 + b) k.stores
def Core.scaleByte (k : Core) (cell e : Nat) : Byte :=
  NMap.findD (Config.undefByte k.undef (2 ^ 25 + cell * 16 + e)) (cell * 16 + e) k.scales

/-- Bits of an element of a matrix format, one slice for FP64 (R147). -/
def matBits (fmt : Nat) : Nat :=
  match fmt with
  | 5 | 14 => 4
  | 8 | 9 => 16
  | 7 => 32
  | _ => 8

/-- Products per cell and beat, and operand bytes (R147). -/
def matG (fmt : Nat) : Nat :=
  match fmt with
  | 5 | 14 => 16
  | 8 | 9 => 4
  | 7 => 1
  | _ => 8
def matBytes (fmt : Nat) : Nat := if fmt = 7 then 4 else 8

/-- Elements per byte (R156). -/
def matEpb (fmt : Nat) : Nat := if matBits fmt = 4 then 2 else 1

/-- Bytes that `n` packed elements take (R158). -/
def packedBytes (fmt n : Nat) : Nat := ceilDiv (n * matBits fmt) 8

/-- Element `j` of a packed run that starts at `base` (R158). -/
def elemBits (rd : Nat → Byte) (bits base j : Nat) : Nat :=
  if bits = 4 then (rd (base + j / 2)).toNat / 16 ^ (j % 2) % 16
  else bytesNat ((List.range (bits / 8)).map (fun i => rd (base + j * (bits / 8) + i)))

/-- The chuck with element `j` of a packed run written. -/
def Core.chuckPutElem (k : Core) (bits base j v : Nat) : Core :=
  if bits = 4 then
    let a := base + j / 2
    let old := (k.chuckByte a).toNat
    k.chuckWrite a [BitVec.ofNat 8 (elemPut4 old (j % 2) v)]
  else k.chuckWrite (base + j * (bits / 8)) (natBytes (bits / 8) v)
where
  /-- A byte with one of its nibbles replaced. -/
  elemPut4 (old n v : Nat) : Nat := if n = 0 then old / 16 * 16 + v % 16 else old % 16 + v % 16 * 16

/-! ### MMA (R164 to R171, R214, R217) -/

/-- A zero operand. -/
def zeroVal : FVal := .fin false 0 0

/-- One beat's operands: for each logical row of A, for each logical column of B, the g values along k. -/
structure Operands where
  rows : List (List FVal)
  cols : List (List FVal)
  deriving Repr, Inhabited

/-- The products of a streamed beat, cell by cell (R164). -/
def streamedProducts (w : Nat) (o : Operands) : List (Nat × List Prod1) :=
  (List.range 1024).map (fun i => (i, List.zipWith productOf (o.rows.getD (i / w) []) (o.cols.getD (i % w) [])))

/-- Products gated in a streamed beat (R176). -/
def streamedGated (w : Nat) (o : Operands) : Nat :=
  ((List.range 1024).map (fun i =>
    ((List.zipWith gated (o.rows.getD (i / w) []) (o.cols.getD (i % w) [])).filter (· == true)).length)).sum

/-- The checksum additions of a streamed beat (R214). -/
def AccSet.addStreamed (a : AccSet) (w g : Nat) (o : Operands) : AccSet :=
  let ra := o.rows.map (fun l => l.map resVal)
  let rb := o.cols.map (fun l => l.map resVal)
  let at' (m : List (List Nat)) (i j : Nat) : Nat := (m.getD i []).getD j 0
  let js := List.range g
  let rowSum (j : Nat) : Nat := resSum (ra.map (fun l => l.getD j 0))
  let colSum (j : Nat) (cs : List Nat) : Nat := resSum (cs.map (fun c => at' rb c j))
  let a1 := (List.range 32).foldl (fun a p =>
    let r := 32 * p / w
    let cs := (List.range 32).map (fun c => 32 * p % w + c)
    a.addCC p (resSum (js.map (fun j => at' ra r j * colSum j cs)))) a
  let a2 := (List.range 32).foldl (fun a c =>
    let cs := (List.range w).filter (fun x => x % 32 == c)
    a.addCR c (resSum (js.map (fun j => rowSum j * colSum j cs)))) a1
  a2.addT (resSum (js.map (fun j => rowSum j * colSum j (List.range w))))

/-- An MMA's progress: its set and what it counts, its beats with the repeated ones (R176, R191, R371, R517). -/
structure MmaRun where
  acc   : AccSet
  beats : Nat := 0
  formed : Nat := 0
  gatedN : Nat := 0
  raises : Nat := 0
  deriving Repr, Inhabited

/-- One streamed beat. -/
def MmaRun.streamed (m : MmaRun) (fixed : Bool) (w g : Nat) (o : Operands) : MmaRun :=
  let (a, up) := m.acc.beat fixed (streamedProducts w o)
  { acc := a.addStreamed w g o, beats := m.beats + (if up then 2 else 1), formed := m.formed + 1024 * g, gatedN := m.gatedN + streamedGated w o
    raises := m.raises + (if up then 1 else 0) }

/-- An element of a streamed panel in k-group major order (R159); zero at k ≥ K. `n` is the panel's rows or columns. -/
def Core.panelElem (k : Core) (fmt base n idx kk depth : Nat) : FVal :=
  if depth ≤ kk then zeroVal
  else
    let g := matG fmt
    elemVal fmt (elemBits k.chuckByte (matBits fmt) (base + kk / g * n * matBytes fmt + idx * matBytes fmt) (kk % g))

/-- The scaled element of a streamed MX panel (R161, R181). -/
def Core.panelMx (k : Core) (mx : Bool) (fmt base sbase n idx kk depth : Nat) : FVal :=
  let v := k.panelElem fmt base n idx kk depth
  if mx && decide (kk < depth) then scaleVal (k.chuckByte (sbase + kk / 32 * n + idx)).toNat v else v

/-- A digit of an FP64 slice panel with its weight (R160, R201, R202). An exponent entry that R201 does not name is used
as the signed exponent it is (log 132). -/
def Core.sliceElem (k : Core) (base n q slice idx kk depth : Nat) : FVal :=
  let ebase := base + ceilDiv (7 * q * n * 8) 16 * 16
  let ex := bytesNat [k.chuckByte (ebase + 2 * idx), k.chuckByte (ebase + 2 * idx + 1)]
  if ex = 0x8000 ∨ depth ≤ kk then zeroVal
  else if ex = 0x7FFF then .nan true
  else
    let d := signedOf 8 (k.chuckByte (base + slice * (q * n * 8) + kk / 8 * n * 8 + idx * 8 + kk % 8)).toNat
    .fin (decide (d < 0)) d.natAbs (signedOf 16 ex - 53 + 8 * (6 - (slice : Int)))

/-- The slice pairs of a k-group in order: ascending i + j, then i; 28 of them in fast mode (R202). -/
def slicePairs (fast : Bool) : List (Nat × Nat) :=
  ((List.range (if fast then 7 else 13)).map (fun t =>
    (List.range 7).filterMap (fun i => if i ≤ t ∧ t - i < 7 then some (i, t - i) else none))).flatten

/-- A streamed MMA's beats over its k-groups. -/
def Core.mmaStreamed (k : Core) (fixed : Bool) (shape : BitVec 3) (fmt bfmt : Nat) (mx fast : Bool)
    (aoff boff depth asoff bsoff : Nat) (m : MmaRun) : MmaRun :=
  let h := shapeH shape
  let w := shapeW shape
  let g := matG fmt
  let q := ceilDiv depth g
  (List.range q).foldl (fun m kg =>
    let ks := (List.range g).map (fun j => kg * g + j)
    if fmt = 6 then
      (slicePairs fast).foldl (fun m ij => m.streamed fixed w g
        { rows := (List.range h).map (fun r => ks.map (fun kk => k.sliceElem aoff h q ij.1 r kk depth))
          cols := (List.range w).map (fun c => ks.map (fun kk => k.sliceElem boff w q ij.2 c kk depth)) }) m
    else m.streamed fixed w g
      { rows := (List.range h).map (fun r => ks.map (fun kk => k.panelMx mx fmt aoff asoff h r kk depth))
        cols := (List.range w).map (fun c => ks.map (fun kk => k.panelMx mx bfmt boff bsoff w c kk depth)) }) m

/-- A cell's share of k in a stationary MMA (R170). -/
def stationaryKc (mx : Bool) (h g k : Nat) : Nat := if mx then 32 * ceilDiv k (h * 32) else g * ceilDiv k (h * g)

/-- Element `j` of a cell's store from byte `soff`, with its MX scale (R170). -/
def Core.storeElem (k : Core) (mx : Bool) (fmt cell soff j : Nat) : FVal :=
  let v := elemVal fmt (elemBits (k.storeByte cell) (matBits fmt) soff j)
  if mx then scaleVal (k.scaleByte cell ((soff * matEpb fmt + j) / 32)).toNat v else v

/-- The checksum-store entry of an element: its start byte and nibble (R217). -/
def ckEntry (fmt soff j : Nat) : Nat :=
  if matBits fmt = 4 then 2 * (soff + j / 2) + j % 2 else 2 * (soff + j * (matBits fmt / 8))

/-- The key of an entry of physical row `p`'s checksum store, without or with the elements' MX scales (log 130). -/
def ckKey (mx : Bool) (p entry : Nat) : Nat := b2n mx * 16384 + p * 512 + entry

/-- A stationary MMA's beats (R170, R217). -/
def Core.mmaStationary (k : Core) (fixed : Bool) (shape : BitVec 3) (fmt bfmt : Nat) (mx : Bool)
    (aoff depth asoff soff : Nat) (m : MmaRun) : MmaRun :=
  let h := shapeH shape
  let w := shapeW shape
  let g := matG fmt
  let kc := stationaryKc mx h g depth
  let act (i : Nat) : FVal :=
    if depth ≤ i then zeroVal
    else
      let v := elemVal fmt (elemBits k.chuckByte (matBits fmt) aoff i)
      if mx then scaleVal (k.chuckByte (asoff + i / 32)).toNat v else v
  (List.range (kc / g)).foldl (fun m b =>
    let js := (List.range g).map (fun j => b * g + j)
    let pair (i j : Nat) : FVal × FVal :=
      (act (i / w * kc + j), if depth ≤ i / w * kc + j then zeroVal else k.storeElem mx bfmt i soff j)
    let prods := (List.range 1024).map (fun i => (i, js.map (fun j => productOf (pair i j).1 (pair i j).2)))
    let gn := ((List.range 1024).map (fun i => (js.filter (fun j => gated (pair i j).1 (pair i j).2)).length)).sum
    let (a, up) := m.acc.beat fixed prods
    let a := (List.range 32).foldl (fun a p =>
      a.addCC p (resSum (js.map (fun j =>
        resVal (act (32 * p / w * kc + j)) * NMap.findD 0 (ckKey mx p (ckEntry bfmt soff j)) k.ckstore)))) a
    { acc := a, beats := m.beats + (if up then 2 else 1), formed := m.formed + 1024 * g, gatedN := m.gatedN + gn, raises := m.raises + (if up then 1 else 0) }) m

/-- Whether an MMA is of a fixed-anchor format or pair (R185). -/
def fixedAnchor (fmt bfmt : Nat) (mx : Bool) : Bool :=
  let ok := fun f => f == 4 || f == 5 || f == 8 || decide (10 ≤ f ∧ f ≤ 14)
  ok fmt && ok bfmt && !mx

/-! ### Stationary stores (R168, R169, R217, R218) -/

/-- The checksum entries of a granule computed again from the bytes and formats it holds, without or with the scale of
each element's own cell. -/
def Core.refreshEntries (k : Core) (mx : Bool) (gran : Nat) : Core :=
  (List.range 32).foldl (fun k row =>
    let fmt (c : Nat) : Option Nat := (NMap.find ((32 * row + c) * 32 + gran) k.fmts).map (·.toNat)
    (List.range 16).foldl (fun k e =>
      let total := resSum ((List.range 32).map (fun c =>
        match fmt c with
        | some f =>
          let bits := matBits f
          let starts := if bits = 4 then true else e % (bits / 4) == 0
          if starts then
            let j := if bits = 4 then e else e / (bits / 4)
            resVal (k.storeElem mx f (32 * row + c) (8 * gran) j)
          else 0
        | none => 0))
      { k with ckstore := NMap.put 0 (ckKey mx row (16 * gran + e)) total k.ckstore }) k) k

/-- Both readings of a granule's checksum entries computed again (R217, R218, log 130). -/
def Core.refreshGranule (k : Core) (gran : Nat) : Core := (k.refreshEntries false gran).refreshEntries true gran

/-- The granules of a byte range of the stores. -/
def granulesOf (soff n : Nat) : List Nat := (List.range 32).filter (fun g => decide (8 * g < soff + n) && decide (soff < 8 * g + 8))

/-- MSTAT: planes copied into every cell's store, formats recorded, scale planes loaded, checksums updated (R169). -/
def Core.mstat (k : Core) (fmt coff scoff soff kcb : Nat) (mx : Bool) : Core :=
  let k1 := (List.range kcb).foldl (fun k j =>
    (List.range 1024).foldl (fun k i =>
      { k with stores := NMap.ins (i * 256 + soff + j) (k.chuckByte (coff + j * 1024 + i)) k.stores }) k) k
  let k2 := if mx then (List.range (kcb * matEpb fmt / 32)).foldl (fun k p =>
      (List.range 1024).foldl (fun k i =>
        { k with scales := NMap.ins (i * 16 + soff * matEpb fmt / 32 + p) (k.chuckByte (scoff + p * 1024 + i)) k.scales }) k) k1
    else k1
  let gs := granulesOf soff kcb
  let k3 := gs.foldl (fun k g =>
    (List.range 1024).foldl (fun k i => { k with fmts := NMap.ins (i * 32 + g) (BitVec.ofNat 4 fmt) k.fmts }) k) k2
  gs.foldl Core.refreshGranule k3

/-! ### Bulk reads of memory by MLOAD and spindles (R162, R293, R309) -/

/-- A target moved by `n` bytes within its page. -/
def tgtAdd (t : Target) (n : Nat) : Target :=
  match t with
  | .cache pa => .cache (pa + n)
  | .uncached pa => .uncached (pa + n)
  | .share d a b => .share d (a + n) (b.map (· + n))
  | .window p pa c => .window p (pa + n) c
  | .mmio pa => .mmio (pa + n)

/-- The target of an address among translated 4 KiB pages. -/
def pageTarget (pages : List (Nat × Target)) (va : Nat) : Option Target :=
  (pages.find? (fun p => p.1 == va / 4096)).map (fun p => tgtAdd p.2 (va % 4096))

/-- The rows an MLOAD reads in memory: address and bytes of each (R162). -/
def mloadRows (stat panelB : Bool) (shape : BitVec 3) (fmt va depth pitch : Nat) : List (Nat × Nat) :=
  if stat then [(va, packedBytes fmt depth)]
  else if panelB then (List.range depth).map (fun r => (va + r * pitch, packedBytes fmt (shapeW shape)))
  else (List.range (shapeH shape)).map (fun r => (va + r * pitch, packedBytes fmt depth))

/-- The chuck after an MLOAD, from a function that reads memory bytes (R159, R162). -/
def Core.mloadWrite (k : Core) (stat panelB : Bool) (shape : BitVec 3) (fmt va coff depth pitch : Nat)
    (rd : Nat → Byte) : Core :=
  let bits := matBits fmt
  let g := matG fmt
  let gb := matBytes fmt
  if stat then k.chuckWrite coff ((List.range (packedBytes fmt depth)).map (fun i => rd (va + i)))
  else if panelB then
    let w := shapeW shape
    (List.range depth).foldl (fun k kk =>
      (List.range w).foldl (fun k c =>
        k.chuckPutElem bits (coff + kk / g * w * gb + c * gb) (kk % g) (elemBits rd bits (va + kk * pitch) c)) k) k
  else
    let h := shapeH shape
    (List.range h).foldl (fun k r =>
      (List.range depth).foldl (fun k kk =>
        k.chuckPutElem bits (coff + kk / g * h * gb + r * gb) (kk % g) (elemBits rd bits (va + r * pitch) kk)) k) k

/-! ### Relay (R205 to R212, R230) -/

/-- The core one place on in a direction of a chain: forward is toward higher rank (R205). -/
def chainNext (chain : List (Nat × Nat)) (dir : Bool) (me : Nat × Nat) : Option (Nat × Nat) :=
  match findIdx (fun p => p == me) 0 chain with
  | none => none
  | some (i, _) => if dir then (if i = 0 then none else chain[i - 1]?) else chain[i + 1]?

/-- One direction of a core's relay path. -/
def Core.relay (k : Core) (dir : Bool) : RelayDir := if dir then k.bwd else k.fwd
def Core.setRelay (k : Core) (dir : Bool) (r : RelayDir) : Core := if dir then { k with bwd := r } else { k with fwd := r }

/-- Whether a message is a resend of one already accepted (R210). -/
def RelayDir.resend (r : RelayDir) (m : RelayMsg) : Bool :=
  match r.last with
  | some x => x.origin == m.origin && x.lnum == m.lnum && x.tile == m.tile && decide (m.seq ≤ x.seq)
  | none => false

/-- A message accepted into a core's incoming queue, or a resend discarded; none where the queue is full (R208, R210). -/
def Core.acceptRelay (k : Core) (m : RelayMsg) : Option Core :=
  let r := k.relay m.dir
  if r.resend m then some k
  else if r.inq.length ≥ 2 then none
  else some (k.setRelay m.dir { r with inq := r.inq ++ [m]
                                       last := some { origin := m.origin, lnum := m.lnum, tile := m.tile, seq := m.seq } })

/-- Whether a relay message can leave for a member: the port on the route to it works and has the credit of virtual
channel 4, and no level commit stops the injection (R208, R446, R462). -/
def State.relayRoom (s : State) (m : Nat) : Bool :=
  !s.span.stalled && (match s.routePort m with
    | some p => (s.port p).up && decide (NMap.findD 0 4 (s.port p).waiting + 412 ≤ NMap.findD 0 4 (s.port p).credits)
    | none => false)

/-- A set sent to the next core in a direction: done, held for want of space, or nothing to send (R206, R208, R212). -/
def State.relaySend (s : State) (core key : Nat) (dir : Bool) (a : AccSet) (reg : Region) : Option State :=
  match s.tile? core key with
  | none => some s
  | some t =>
    match s.launch? t.launch with
    | none => some s
    | some l =>
      match chainNext l.chain dir (s.here, core) with
      | none => some s
      | some (m, c) =>
        let seq := if dir then t.sendSeq1 else t.sendSeq0
        let msg : RelayMsg := { anchor := a.anchor, unset := a.unset, fast := a.fast, dir := dir, stat := reg.stat
                                shape := reg.shape, tile := t.index, seq := seq, core := core, modOrd := s.here
                                lnum := l.fields.lnum, origin := l.origin.getD s.here, words := a.words }
        let bump := fun (st : State) => st.updTile core key (fun t =>
          if dir then { t with sendSeq1 := t.sendSeq1 + 1 } else { t with sendSeq0 := t.sendSeq0 + 1 })
        if m = s.here then ((s.core c).acceptRelay msg).map (fun k => bump (s.setCore c k))
        else if s.reachable m then
          if s.relayRoom m then some (bump (s.sendTo m (.relay msg) 0 (s.ctx t.ctx).ward)) else none
        else some (bump s)

/-- The messages a direction retains for a tile, in the order of their SEQ (R230). -/
def RelayDir.kept (r : RelayDir) (t : Tile) : List RelayMsg :=
  (r.retained.filter (fun x => x.launch == t.launch && x.index == t.index)).map (·.msg)

/-- Relay receives of a tile in a direction that its retained messages have served. -/
def Tile.served (t : Tile) (dir : Bool) : Nat := if dir then t.served1 else t.served0

/-- The tile with that many served. -/
def Tile.setServed (t : Tile) (dir : Bool) (n : Nat) : Tile :=
  if dir then { t with served1 := n } else { t with served0 := n }

/-- A receive whose tile already retains two messages of the direction, and has used both, commits the tile and releases
them; the flag says whether the receive proceeds (R230). -/
def State.relayCommit (s : State) (core key : Nat) (dir : Bool) : Bool × State :=
  match s.tile? core key with
  | none => (true, s)
  | some t =>
    if (((s.core core).relay dir).kept t).length < 2 ∨ t.served dir < 2 then (true, s)
    else match s.commit core key with
      | (false, s1) => (false, s1)
      | (true, s1) => (true, (s1.updCore core (fun k => k.setRelay dir ((k.relay dir).drop t.launch t.index))).updTile core key
          (fun t => t.setServed dir 0))

/-- A receive in a direction: the message to add with the state after it has been taken, nothing to add at the end of
the chain, or none while no message is there (R206, R208, R230). -/
inductive Recv where
  | waiting (s : State)
  | nothing (s : State)
  | got (m : RelayMsg) (s : State)
  | stopped (s : State)

/-- The receive of a tile in a direction: from the messages retained for it, then from the incoming queue. -/
def State.relayRecv (s : State) (core key : Nat) (dir : Bool) : Recv :=
  match (s.tile? core key).bind (fun t => (s.launch? t.launch).map (fun l => (t, l))) with
  | none => .nothing s
  | some (t, l) =>
    if (chainNext l.chain (!dir) (s.here, core)).isNone then .nothing s
    else match s.relayCommit core key dir with
      | (false, s1) => .stopped s1
      | (true, s1) =>
        let r := (s1.core core).relay dir
        let served := ((s1.tile? core key).getD t).served dir
        let take := fun (st : State) => st.updTile core key (fun t => t.setServed dir (served + 1))
        match (r.kept t)[served]?, r.inq with
        | some m, _ => .got m (take s1)
        | none, [] => .waiting s1
        | none, m :: rest =>
          .got m (take (s1.updCore core (fun k => k.setRelay dir
            { r with inq := rest, retained := r.retained ++ [{ launch := t.launch, index := t.index, msg := m }] })))

/-! ### Start of queued instructions (R152) -/

/-- The set an instruction drains, checks or relays. -/
def MInstr.drainSet : MInstr → Option Nat
  | .mdrain _ a _ _ _ _ _ _ => some a
  | .mrelay a _ _ => some a
  | .mchk a _ _ => some a
  | _ => none

/-- The set an MMA adds to. -/
def MInstr.mmaSet : MInstr → Option Nat
  | .mma _ _ a _ _ _ _ _ _ _ _ _ => some a
  | _ => none

/-- Whether the array may start an instruction beside those that run (R152). -/
def mayStart (running : List MEntry) (i : MInstr) : Bool :=
  match i.mmaSet, i.drainSet with
  | some a, _ => running.all (fun m => match m.instr.drainSet with | some b => a != b | none => false)
  | none, some a => running.all (fun m => match m.instr.mmaSet with | some b => a != b | none => false)
  | none, none => running.isEmpty

/-- Counters of the context of a core's tile. -/
def State.countTile (s : State) (core key i n : Nat) : State :=
  match s.tile? core key with
  | some t => s.countCtx t.ctx i n
  | none => s

/-- MBEATS of the context of a core's tile (R371). -/
def State.countBeats (s : State) (core key n : Nat) : State :=
  match s.tile? core key with
  | some t => s.updCtx t.ctx (fun c => { c with usage := { c.usage with mbeats := c.usage.mbeats.add 48 n } })
  | none => s

/-- The rounding mode of a drained output: the next random value for stochastic rounding (R196, R197). -/
def drainRm (code draw : Nat) : Rm := if code = 5 then .sto (Config.randomBits draw) else Rm.ofCode code

/-- Bytes of a drained element. -/
def drainBytes (type : Nat) : Nat := typeBits type / 8

/-- Rows of a drain cut at line boundaries: address and bytes of each piece. -/
def cutLines : Nat → Nat → List Byte → List (Nat × List Byte)
  | 0, _, _ => []
  | _, _, [] => []
  | n + 1, va, bs =>
    let k := 128 - va % 128
    (va, bs.take k) :: cutLines n (va + k) (bs.drop k)

/-- An MDRAIN at its start: the comparisons, then the results, counted by class (R174, R195, R220, R222, R236). To the
chuck it writes every byte at its start (R152, log 133). -/
def State.startDrain (s : State) (core key : Nat) (reg : Region) (m : MEntry) (fmt acc rm va coff pitch : Nat)
    (toChuck : Bool) : State :=
  let a := (s.core core).accSet acc
  if a.mismatch reg.stat then s.mismatch core key
  else
    let n := outCount reg.stat reg.shape
    let vals := (List.range n).map (fun o =>
      let (v, st) := a.outSum reg.stat reg.shape o
      drainValue fmt (drainRm rm (s.free + o)) v a.anchor st a.fast)
    let classes := (List.range n).map (a.outClass reg.stat reg.shape)
    let count := fun c => (classes.filter (· == c)).length
    let flags := vals.foldl (fun f v => f ||| v.2) 0
    let eb := drainBytes fmt
    let w := shapeW reg.shape
    let rows := (List.range (n / w)).map (fun r => ((vals.drop (r * w)).take w).map (fun v => natBytes eb v.1))
    let s1 := { s with free := s.free + (if rm = 5 then n else 0) }
    let s2 := ((s1.countTile core key 0 (count .checked)).countTile core key 1 (count .skipped)).countTile core key 2 (count .shadowed)
    let s3 := s2.updTile core key (fun t =>
      { t with drained := true, unchecked := t.unchecked || decide (count .checked ≠ n) })
    let s4 := if toChuck then s3.updCore core (fun k => k.chuckWrite coff (rows.flatten.flatten)) else s3
    let outs := if toChuck then [] else
      ((List.range (n / w)).map (fun r => cutLines 66 (va + r * pitch) ((rows.getD r []).flatten))).flatten
    s4.updCore core (fun k => { k with running := k.running ++ [{ m with outs := outs, flags := flags }] })

/-- A relay entry worked on: the receive, then the check and the send (R208, R222). The check is made also where R206
sends nothing (log 134). -/
def State.workRelay (s : State) (core key : Nat) (reg : Region) (m : MEntry) (acc : Nat) (role : BitVec 2) (dir : Bool) :
    State :=
  let put := fun (st : State) (e : MEntry) => st.updCore core (fun k => { k with running := k.running ++ [e] })
  let send := fun (st : State) =>
    let a := (st.core core).accSet acc
    if a.mismatch reg.stat then st.mismatch core key
    else match st.relaySend core key dir a reg with
      | some s1 => put s1 { m with added := true, held := false }
      | none => put st { m with added := true, held := true }
  if role = 0 ∨ m.added then send s
  else
    match s.relayRecv core key dir with
    | .waiting s1 => put s1 { m with held := true }
    | .stopped s1 => s1
    | .nothing s1 => if role = 1 then put s1 { m with added := true, held := false } else send s1
    | .got msg s1 =>
      let s2 := s1.updCore core (fun k => { k with acc := NMap.ins acc ((k.accSet acc).receive msg) k.acc })
      if role = 1 then put s2 { m with added := true, held := false } else send s2

/-- The head of a core's array queue starts: its arithmetic, checks and copies are made (R152). An MMA takes the store
bytes as they stand at its start (R172, log 131). An MLOAD reads once the group's earlier stores and loads are done; the
chuck bytes that one with poisoned data writes are free values (R162). -/
def State.arrayStart (s : State) (core : Nat) : State :=
  let k := s.core core
  match k.queue, k.region, s.regionTile core with
  | m :: rest, some reg, some key =>
    if mayStart k.running m.instr = false then s
    else
      let s1 := s.setCore core { k with queue := rest }
      let run := fun (st : State) (e : MEntry) => st.updCore core (fun k => { k with running := k.running ++ [e] })
      match m.instr with
      | .mclose => run s1 m
      | .mstat fmt coff scoff soff kcb mx => run (s1.updCore core (fun k => k.mstat fmt coff scoff soff kcb mx)) m
      | .mma fmt bfmt acc add mx fast aoff boff depth asoff bsoff soff =>
        let fixed := fixedAnchor fmt bfmt mx
        let a0 := if add then k.accSet acc else AccSet.overwrite fixed
        let r0 : MmaRun := { acc := { a0 with fast := a0.fast || fast } }
        let r := if reg.stat then k.mmaStationary fixed reg.shape fmt bfmt mx aoff depth asoff soff r0
          else k.mmaStreamed fixed reg.shape fmt bfmt mx fast aoff boff depth asoff bsoff r0
        let s2 := s1.updCore core (fun k => { k with acc := NMap.ins acc r.acc k.acc })
        run ((((s2.countTile core key 6 r.raises).countTile core key 7 r.formed).countTile core key 8 r.gatedN).countBeats
          core key r.beats) m
      | .mdrain fmt acc rm va coff pitch toChuck _ => s1.startDrain core key reg m fmt acc rm va coff pitch toChuck
      | .mchk acc _ _ =>
        let a := k.accSet acc
        if a.mismatch reg.stat then s1.mismatch core key
        else
          let all := (List.range (outCount reg.stat reg.shape)).all (fun o => a.outClass reg.stat reg.shape o == .checked)
          run s1 { m with added := all }
      | .mrelay acc role dir => s1.workRelay core key reg m acc role dir
      | .mload panelB fmt va coff depth pitch pages =>
        match s.group? ⟨core, m.place⟩ with
        | none => s
        | some x =>
          if x.sb.any (fun e => decide (e.order < m.order)) || x.loads.any (fun l => decide (l.order < m.order)) then s
          else
            let rows := mloadRows reg.stat panelB reg.shape fmt va depth pitch
            let lines := (rows.map (fun r => (List.range ((r.1 % 128 + r.2 + 127) / 128)).filterMap (fun i =>
              (pageTarget pages (r.1 / 128 * 128 + 128 * i)).map (fun t => (r.1 / 128 * 128 + 128 * i, t))))).flatten
            let sa := s.bulkAsk core 4 (lines.map (·.2))
            if lines.any (fun l => (sa.bulkLine core 4 l.2).isNone) then sa
            else
              let bad := lines.find? (fun l => match sa.bulkLine core 4 l.2 with | some (_, p) => p | none => false)
              let rd := fun a => match (pageTarget pages a).bind (sa.bulkByte core 4) with | some (b, _) => b | none => 0
              let rd := if bad.isSome then Config.undefByte sa.free else rd
              let s2 := sa.updCore core (fun k =>
                { (k.mloadWrite reg.stat panelB reg.shape fmt va coff depth pitch rd).endReads 4 with queue := rest })
              run { s2 with free := s2.free + if bad.isSome then 1 else 0 } { m with poison := bad.map (·.1) }
  | _, _, _ => s

/-- ARRAY_START (R152). -/
def execArrayStart (core : Nat) (s : State) : Host.Outcome State Fault Refusal := okay (s.arrayStart core)

/-! ### Finish (R152 to R154, R174, R177, R198, R223) -/

/-- A halt that waited for the group's matrix instructions takes effect once none is left (R70). -/
def State.settleHalt (s : State) (g : Site) : State :=
  match s.group? g with
  | none => s
  | some x => match x.haltReq with
    | some h => if s.matrixBusy g then s else s.haltNow g h.causes h.n h.lane h.brk h.addr
    | none => s

/-- Whether a running entry can finish: it holds no poison, and a relay has done its work. -/
def MEntry.ready (m : MEntry) : Bool := m.poison.isNone && !m.held

/-- Entry `i` of the running list taken out. -/
def State.dropRunning (s : State) (core i : Nat) : State := s.updCore core (fun k => { k with running := dropAt i k.running })

/-- The entry of a store buffer that a drain of an order has for the line of a target and may still add to (R306). -/
def drainEntry (order : Nat) (t : Option Target) (sb : List SbEntry) : Option (Nat × SbEntry) :=
  match t with
  | some t => findIdx (fun (e : SbEntry) => e.drain && e.order == order && e.tgt == lineTgt t && !e.sent) 0 sb
  | none => none

/-- A piece of a drain's row put into the store buffer: into the drain's entry for its line, or as a new one (R306). -/
def addOut (tag order va : Nat) (bs : List Byte) (t : Option Target) (sb : List SbEntry) : List SbEntry :=
  match t with
  | none => sb
  | some t =>
    let put (m : NMap Byte) : NMap Byte :=
      (List.range bs.length).foldl (fun m i => NMap.ins (lineOff t + i) (bs.getD i 0) m) m
    match drainEntry order (some t) sb with
    | some (i, _) => modAt (fun e => { e with bytes := put e.bytes }) i sb
    | none => sb ++ [{ order := order, va := va, tgt := lineTgt t, drain := true, tag := tag, bytes := put [] }]

/-- Drain rows put into the group's store buffer while it has room; the rest stay with the entry (R153, R174, R306). -/
def moveOuts (tag order : Nat) (pages : List (Nat × Target)) : Nat → List (Nat × List Byte) → List SbEntry →
    List (Nat × List Byte) × List SbEntry
  | 0, outs, sb => (outs, sb)
  | _, [], sb => ([], sb)
  | n + 1, (va, bs) :: rest, sb =>
    if sb.length ≥ 32 && !(drainEntry order (pageTarget pages va) sb).isSome then ((va, bs) :: rest, sb)
    else moveOuts tag order pages n rest (addOut tag order va bs (pageTarget pages va) sb)

/-- A running instruction of a core finishes: a drain's writes have reached the store buffer and its flags are in
sr.fflags, an MCHK writes its predicate, an MCLOSE closes the region (R154, R198, R223). -/
def State.matrixFinish (s : State) (core : Nat) : State :=
  let k := s.core core
  match findIdx MEntry.ready 0 k.running with
  | none => s
  | some (i, m) =>
    let g : Site := ⟨core, m.place⟩
    match m.instr with
    | .mclose => ((s.dropRunning core i).updCore core (fun k => { k with region := none, acc := [] })).settleHalt g
    | .mchk _ pdst mask =>
      ((s.dropRunning core i).updGroup g (fun x =>
        x.wp pdst mask (if m.added then BitVec.allOnes 32 else 0))).settleHalt g
    | .mdrain _ _ _ _ _ _ _ pages =>
      match s.group? g with
      | none => s.dropRunning core i
      | some x =>
        let (left, sb) := moveOuts (s.groupTag g) m.order pages (m.outs.length + 1) m.outs x.sb
        let s1 := s.setGroup g { x with sb := sb }
        if left.isEmpty then
          ((s1.dropRunning core i).updGroup g (fun y => y.raiseFlags m.flags)).settleHalt g
        else s1.updCore core (fun k => { k with running := modAt (fun e => { e with outs := left }) i k.running })
    | _ => (s.dropRunning core i).settleHalt g

/-- MATRIX_INSTRUCTION_FINISH (R152). -/
def execMatrixInstructionFinish (core : Nat) (s : State) : Host.Outcome State Fault Refusal := okay (s.matrixFinish core)

/-- RELAY_SEND_RESUME: a relay instruction that waits tries again, its send once the target queue has space, its
receive once a message is there (R208). -/
def execRelaySendResume (core : Nat) (s : State) : Host.Outcome State Fault Refusal :=
  let k := s.core core
  match findIdx (fun m => m.held) 0 k.running, k.region, s.regionTile core with
  | some (i, m), some reg, some key =>
    match m.instr with
    | .mrelay acc role dir => okay ((s.dropRunning core i).workRelay core key reg m acc role dir)
    | _ => okay s
  | _, _, _ => okay s

/-- MLOAD_POISON: the tile of a running MLOAD that read poisoned data is stopped with the imprecise memory fault, whose
record names the MLOAD and the first poisoned line (R108, R162). -/
def execMloadPoison (core : Nat) (s : State) : Host.Outcome State Fault Refusal :=
  match (s.core core).running.find? (fun m => m.poison.isSome) with
  | none => okay s
  | some m =>
    match s.group? ⟨core, m.place⟩ with
    | none => okay s
    | some x => okay (s.takeFault core x.tile
        { cls := 4, detail := 6, lane := m.lane, addr := m.poison.getD 0, pc := m.pc } x.index)

end Sys2Proof.Machine
end

