-- ==== Sys2Proof/Machine/Atomic.lean ====
section
/-! DEFINITION. ATOM, LR and SC as they issue, and the operations of an atomic request (R97, R98, R131, R294, R304, R305,
R312 to R314). -/

namespace Sys2Proof.Machine

/-! ### The operations (R97, R304) -/

/-- The operation of a SUB code of ATOM (R131). -/
def atomOpOf : Nat → AtomOp
  | 0 => .add | 1 => .and | 2 => .or | 3 => .xor | 4 => .min | 5 => .max | 6 => .exch | _ => .cas

/-- What a location holds after one lane's operation on `old`: operand `b`, and `c` for cas. -/
def atomNew (op : AtomOp) (width : Nat) (signed : Bool) (old b c : Nat) : Nat :=
  let less := if signed then decide (signedOf (8 * width) b < signedOf (8 * width) old) else decide (b < old)
  match op with
  | .add => (old + b) % 2 ^ (8 * width)
  | .and => old &&& b
  | .or => old ||| b
  | .xor => old ^^^ b
  | .min => if less then b else old
  | .max => if less then old else b
  | .exch => b
  | .cas => if old = b then c else old

/-- The lanes of a request combined in ascending order: the final value, and the old value each lane receives (R304). -/
def atomRun (op : AtomOp) (width : Nat) (signed : Bool) :
    Nat → List (Nat × DWord × DWord) → Nat × List (Nat × DWord)
  | old, [] => (old, [])
  | old, (l, b, c) :: rest =>
    let r := atomRun op width signed (atomNew op width signed old b.toNat c.toNat) rest
    (r.1, (l, BitVec.ofNat 64 old) :: r.2)

/-! ### ATOM -/

/-- Whether ATOM, LR and SC may issue: as after a FENCE.ORD.module that does not wait for span-window stores (R305). -/
def State.fencedReady (s : State) (g : Site) (x : Group) : Bool :=
  s.orderReady g x && x.loads.isEmpty && x.sb.all (fun e => isWindow e.tgt)

/-- Decoding of ATOM, LR and SC: the address and, of the operands, those the instruction uses (R131). `dst` is the kind
of DST. -/
def atomDec (dst : Opd) (b c : Bool) (types : List Nat) (sub : Bool) (e : Enc) : Dec :=
  let wide := decide (e.type.toNat ≥ 2)
  { ops := [(dst, e.d), (if e.ka then .u else .t2, e.a), (if b then srcKind e.kb wide else .none, e.b),
            (if c then srcKind e.kc wide else .none, e.c)]
    rsv := !types.contains e.type.toNat || field e.mods 11 3 != 0 || (!b && e.kb) || (!c && e.kc) ||
      (if sub then decide (e.sub > 7) else e.sub != 0) }

/-- The address of a lane (R131). -/
def Group.atomAddr (x : Group) (e : Enc) (lane : Nat) : Nat :=
  if e.ka then (x.ru e.a).toNat else (x.rt2 lane e.a).toNat

/-- A 32- or 64-bit operand of a lane, zero-extended. -/
def Group.atomSrc (x : Group) (wide k : Bool) (n lane : Nat) : DWord :=
  if wide then x.src2 k n lane else (x.src k n lane).setWidth 64

/-- The requests of one ATOM: one for each address its lanes name, lanes ascending (R304). -/
def atomReqs (base : AtomReq) (accs : List (LaneAcc × DWord × DWord)) : List AtomReq :=
  accs.foldl (fun (rs : List AtomReq) a =>
    match findIdx (fun (r : AtomReq) => r.va == a.1.va) 0 rs with
    | some (i, _) => modAt (fun r => { r with lanes := r.lanes ++ [(a.1.lane, a.2.1, a.2.2)] }) i rs
    | none => rs ++ [{ base with va := a.1.va, tgt := a.1.tgt, lanes := [(a.1.lane, a.2.1, a.2.2)] }]) []

/-- Whether the lanes of an operation combine into one operand (R304). -/
def combines : AtomOp → Bool
  | .exch => false
  | .cas => false
  | _ => true

/-- The operation applied over the lanes' operands (R304). -/
def combined (op : AtomOp) (width : Nat) (signed : Bool) : List (Nat × DWord × DWord) → DWord
  | [] => 0
  | l :: ls => ls.foldl (fun a x => BitVec.ofNat 64 (atomNew op width signed a.toNat x.2.1.toNat 0)) l.2.1

/-- What a request sends: one combined operand, or those of the lanes in lane order (R304). -/
def AtomReq.sent (r : AtomReq) (op : AtomOp) : List (DWord × DWord) :=
  if combines op then [(combined op r.width r.signed r.lanes, 0)] else r.lanes.map (fun l => (l.2.1, l.2.2))

/-- Requests to span windows sent to their peers (R453). -/
def State.sendAtoms (s : State) (g : Site) (ward : Nat) : List AtomReq → State × List AtomReq
  | [] => (s, [])
  | r :: rs =>
    match r.tgt with
    | .window peer pa c =>
      if s.reachable peer = false then
        -- as to a lost peer (R317): poisoned data, or an SC that fails
        let lost := if r.op.isSome then { r with result := some [], poison := true }
          else { r with result := some (r.lanes.map (fun l => (l.1, (0 : DWord)))) }
        let (s2, rest) := s.sendAtoms g ward rs
        (s2, lost :: rest)
      else
      let (id, s1) := s.newTx peer
      let body := match r.op with
        | some op => MsgBody.atomic pa r.width op r.signed (r.sent op) c
        | none => MsgBody.sc pa (natBytes r.width ((r.lanes.map (fun l => l.2.1.toNat)).headD 0))
            (laneName g ((r.lanes.map (·.1)).headD 0)) c
      let (s2, rest) := (s1.sendTo peer body id ward).sendAtoms g ward rs
      (s2, { r with txid := some id } :: rest)
    | _ =>
      let (s2, rest) := s.sendAtoms g ward rs
      (s2, r :: rest)

/-- An act of a group that commits its tile first; where the commit finds a mismatch the tile is gone and the act does
not take place (R225). -/
def State.committed (s : State) (g : Site) (x : Group) (act : State → Done) : Done :=
  match s.commit g.core x.tile with
  | (true, t) => act t
  | (false, t) => .wait t

/-- ATOM (R97, R131, R304): the lanes' operations leave as requests, and the old values return later. -/
def execAtom (site : Site) (e : Enc) (s : State) : Host.Outcome State Fault Refusal :=
  let wide := decide (e.type.toNat ≥ 2)
  let w := if wide then 8 else 4
  okay (s.issue site e
    (fun _ _ => atomDec (regKind wide) true (e.sub == 7) [0, 1, 2, 3] true e)
    (fun x => s.fencedReady site x)
    (fun x lanes =>
      let lv := (lanesOf lanes).map (fun l => (l, x.atomAddr e l))
      match (s.groupView site).checkLanes (s.ctxOf site) w .atomic lv with
      | .error d => d
      | .ok accs => if s.span.stalled && accs.any (fun a => isWindow a.tgt) then .stall else s.committed site x (fun t =>
        let base : AtomReq := { order := x.order, pc := x.pc, op := some (atomOpOf e.sub), width := w
                                signed := e.type.toNat % 2 == 1, dst := e.d, tgt := .mmio 0, va := 0, lanes := []
                                tag := s.groupTag site }
        let reqs := atomReqs base (accs.map (fun a =>
          (a, x.atomSrc wide e.kb e.b a.lane, if e.sub = 7 then x.atomSrc wide e.kc e.c a.lane else 0)))
        let (t1, reqs) := (t.translated (s.ctxOf site) .atomic (lv.map (·.2))).sendAtoms site (s.wardOf site) reqs
        .watch (t1.setGroup site { x with order := x.order + 1, atoms := reqs, snaps := x.snaps ++ [x.regsNow] })
          (s.watchHit site.core (s.wardOf site) 2 w lv))))

/-! ### LR (R98, R312) -/

/-- LR: a load that bypasses the L1 and, when it performs, places each lane's reservation. -/
def execLr (site : Site) (e : Enc) (s : State) : Host.Outcome State Fault Refusal :=
  let wide := decide (e.type.toNat ≥ 2)
  let w := if wide then 8 else 4
  okay (s.issue site e
    (fun _ _ => atomDec (regKind wide) false false [0, 2] false e)
    (fun x => s.fencedReady site x)
    (fun x lanes =>
      let lv := (lanesOf lanes).map (fun l => (l, x.atomAddr e l))
      match (s.groupView site).checkLanes (s.ctxOf site) w .lr lv with
      | .error d => d
      | .ok accs =>
        let ld : PendLoad := { order := x.order, pc := x.pc, ca := false, width := w, sext := false, dst := e.d
                               lr := true, lanes := accs }
        .watch ((s.translated (s.ctxOf site) .lr (lv.map (·.2))).setGroup site
            { x with order := x.order + 1, loads := x.loads ++ [ld], snaps := x.snaps ++ [x.regsNow] })
          (s.watchHit site.core (s.wardOf site) 0 w lv)))

/-! ### SC (R98, R313, R314) -/

/-- One lane of an SC: it succeeds where the lane's reservation lies on the granule of its address, and stores at the
endpoint; a span-window lane leaves a request for the peer, which holds a reservation for each lane. The lane's
reservation ends. -/
def State.scLane (s : State) (g : Site) (base : AtomReq) (a : LaneAcc) (data : DWord) : State :=
  match s.group? g with
  | none => s
  | some x =>
    let holds := NMap.find a.lane x.resv == some (granuleOf a.tgt)
    let s1 := s.setGroup g { x with resv := NMap.del a.lane x.resv }
    let dst (st : State) (v : Bool) : State :=
      st.updGroup g (fun y => y.wp base.dst (maskOf [a.lane]) (if v then BitVec.allOnes 32 else 0))
    if holds = false then dst s1 false
    else if isWindow a.tgt then
      let r : AtomReq := { base with va := a.va, tgt := a.tgt, lanes := [(a.lane, data, 0)] }
      let (s2, rs) := s1.sendAtoms g (s1.wardOf g) [r]
      s2.updGroup g (fun y => { y with atoms := y.atoms ++ rs })
    else
      let bytes := natBytes base.width data.toNat
      let en : SbEntry := { order := base.order, va := a.va, tgt := lineTgt a.tgt, tag := base.tag
                            bytes := (List.range bytes.length).map (fun i => (lineOff a.tgt + i, bytes.getD i 0)) }
      match s1.acceptNow g.core en with
      | none => dst s1 false
      | some s2 =>
        let s3 := match a.tgt with
          | .cache pa => s2.updGroup g (fun y => { y with dirtied := addNew (lineOf pa) y.dirtied })
          | _ => s2
        dst s3 true

/-- Whether a cacheable target's line is not held in M or E by the LLC of a core's die. -/
def State.needsOwn (s : State) (core : Nat) (t : Target) : Bool :=
  match t with
  | .cache pa => (match s.llcLine core pa with
    | some l => l.st == .s
    | none => true)
  | _ => false

/-- SC: the lanes in ascending order (R314). -/
def execSc (site : Site) (e : Enc) (s : State) : Host.Outcome State Fault Refusal :=
  let wide := decide (e.type.toNat ≥ 2)
  let w := if wide then 8 else 4
  okay (s.issue site e
    (fun _ _ => atomDec .p true false [0, 2] false e)
    (fun x => s.fencedReady site x)
    (fun x lanes =>
      let lv := (lanesOf lanes).map (fun l => (l, x.atomAddr e l))
      match (s.groupView site).checkLanes (s.ctxOf site) w .sc lv with
      | .error d => d
      | .ok accs =>
        -- a lane whose reservation holds waits until the LLC has the line in E or M again its domain is awake and its controller takes it
        if accs.any (fun a => NMap.find a.lane x.resv == some (granuleOf a.tgt) &&
              (s.needsOwn site.core a.tgt || !s.awake a.tgt || !s.sinks a.tgt)) ||
            (s.span.stalled && accs.any (fun a => isWindow a.tgt)) then .stall
        else s.committed site x (fun t =>
        let base : AtomReq := { order := x.order, pc := x.pc, op := none, width := w, signed := false, dst := e.d
                                tgt := .mmio 0, va := 0, lanes := [], tag := s.groupTag site }
        let t0 := (t.translated (s.ctxOf site) .sc (lv.map (·.2))).setGroup site { x with order := x.order + 1 }
        let t1 := accs.foldl (fun st a => st.scLane site base a (x.atomSrc wide e.kb e.b a.lane)) t0
        .watch t1 (s.watchHit site.core (s.wardOf site) 1 w lv))))

end Sys2Proof.Machine
end

