-- ==== Sys2Proof/Machine/HostCache.lean ====
section
/-! DEFINITION. The host cores' accesses to cacheable memory in the host's caches, and the poison they consume (R293, R318,
R320, R416). -/

namespace Sys2Proof.Machine

/-- A host access that consumes poison: an access fault of its kind, HG.POISON and APLIC source 2 (R416, R558). A
second error before software clears VALID sets MORE. -/
def State.hostPoison (s : State) (pa : Nat) (kind : HostKind) : State :=
  let h := s.hinge
  ({ s with hinge := { h with
      hostFault := some kind
      poisonAddr := if h.poisonValid then h.poisonAddr else pa
      poisonMore := h.poisonMore || h.poisonValid, poisonValid := true } } : State).raiseAplic 2

/-- The kind of access fault that an access raises: an LR's is a load's, an SC's a store's (R410, R416). -/
def hostKindOf : HostAcc → HostKind
  | .load _ _ => .load
  | .fetch _ _ => .fetch
  | .store _ _ => .store
  | .atomic _ _ _ _ _ _ => .atomic
  | .lr _ _ => .load
  | .sc _ _ => .store

/-- First address and length of a host access. -/
def hostPa : HostAcc → Nat
  | .load pa _ => pa
  | .fetch pa _ => pa
  | .store pa _ => pa
  | .atomic pa _ _ _ _ _ => pa
  | .lr pa _ => pa
  | .sc pa _ => pa
def hostLen : HostAcc → Nat
  | .load _ n => n
  | .fetch _ n => n
  | .store _ bs => bs.length
  | .atomic _ w _ _ _ _ => w
  | .lr _ w => w
  | .sc _ bs => bs.length

/-- Whether an access needs its line in E or M: all but loads and fetches (R293, R320). -/
def hostOwns : HostAcc → Bool
  | .load _ _ => false
  | .fetch _ _ => false
  | _ => true

/-- The pieces of an access of up to 128 bytes that lie in one line each. -/
def hostPieces (a : HostAcc) : List (Nat × Nat) :=
  let pa := hostPa a
  let len := hostLen a
  let n := Nat.min len (128 - pa % 128)
  if n < len then [(pa, n), (pa + n, len - n)] else [(pa, n)]

/-- Hart `h`. -/
def State.hart (s : State) (h : Nat) : Hart := NMap.findD {} h s.hinge.harts

/-- The state with `f` applied to a hart. -/
def State.updHart (s : State) (h : Nat) (f : Hart → Hart) : State :=
  { s with hinge := { s.hinge with harts := NMap.ins h (f (s.hart h)) s.hinge.harts } }

/-- What a host access answers: its data. -/
def State.hostGives (s : State) (bytes : List Byte) : State :=
  { s with hinge := { s.hinge with hostData := bytes, hostFault := none } }

/-- Bytes stored in a line that the host holds in M or E, with the tag of the current epoch; a full line clears its
poison (R282, R417). -/
def State.hostStore (s : State) (l : CLine) (pa : Nat) (bytes : List Byte) : State :=
  let line := lineOf pa
  let w : NMap Byte := (List.range bytes.length).map (fun i => (pa % 128 + i, bytes.getD i 0))
  (s.setCache 10 (NMap.ins line { l with
    st := .m, bytes := overlay l.bytes w, poison := l.poison && decide (bytes.length < 128), tag := s.tagNow }
    (s.cacheOf 10))).killResv (fun _ => true) (.line line)

/-- A piece of a host access performed on a line that the host holds, with the bytes it read; none where it consumes
poison. -/
def State.hostPiece (s : State) (q : HostReq) (l : CLine) (pa n : Nat) : Option (State × List Byte) :=
  let old := (l.bytes.drop (pa % 128)).take n
  match q.acc with
  | .store a bs => some (s.hostStore l pa ((bs.drop (pa - a)).take n), [])
  | .sc _ bs =>
    if (s.hart q.hart).resv = some (lineOf pa) then
      some ((s.hostStore l pa bs).updHart q.hart (fun h => { h with resv := none }), natBytes 4 0)
    else some (s.updHart q.hart (fun h => { h with resv := none }), natBytes 4 1)
  | .atomic _ w op sgn b c =>
    if l.poison then none
    else some (s.hostStore l pa (natBytes w (atomNew op w sgn (bytesNat old) b.toNat c.toNat)), old)
  | .lr _ _ => if l.poison then none else some (s.updHart q.hart (fun h => { h with resv := some (lineOf pa) }), old)
  | _ => if l.poison then none else some (s, old)

/-- A host access taken on as far as the lines that the host holds allow: over (with its data, or with a fault for poison it
consumed), or waiting for its next line. -/
def State.hostStep (s : State) (q : HostReq) : List (Nat × Nat) → State × Option HostReq
  | [] => (s.hostGives q.got, none)
  | (pa, n) :: rest =>
    match NMap.find (lineOf pa) (s.cacheOf 10) with
    | none => (s, some { q with rest := (pa, n) :: rest })
    | some l =>
      if hostOwns q.acc ∧ l.st = .s then (s, some { q with rest := (pa, n) :: rest })
      else match s.hostPiece q l pa n with
        | none => (s.hostPoison pa (hostKindOf q.acc), none)
        | some (s1, bs) => s1.hostStep { q with got := q.got ++ bs } rest

/-- Whether a host access waits for a line. -/
def HostReq.wants (q : HostReq) (line : Nat) : Bool :=
  match q.rest with
  | (pa, _) :: _ => lineOf pa == line
  | [] => false

/-- The host accesses that wait for a line performed, in their order (R300 event 7). -/
def State.hostPerform (s : State) (line : Nat) : State :=
  s.hinge.hostq.foldl (fun (st : State) q =>
    let (st1, left) := if q.wants line then st.hostStep q q.rest else (st, some q)
    { st1 with hinge := { st1.hinge with hostq := st1.hinge.hostq ++ left.toList } })
    { s with hinge := { s.hinge with hostq := [] } }

end Sys2Proof.Machine
end

