-- ==== Sys2Proof/Machine/Coherence.lean ====
section
/-! DEFINITION. Coherence: requests of the agents, home transactions, snoops, retries, presence filters, write-backs,
memory errors and scrubs (R269 to R271, R281 to R283, R288, R291 to R293, R297 to R302, R314, R416, R418). -/

namespace Sys2Proof.Machine

/-! ### Agents (R293) -/

/-- Whether a stop is a coherent agent: a C-die or the H-die. -/
def coherentStop (stop : Nat) : Bool := stop != 0 && stop != 5 && decide (stop ≤ 10)

/-- The C-die at a stop (R20). -/
def dieOfStop (stop : Nat) : Nat := if stop ≤ 4 then stop - 1 else stop - 2

/-- Whether an agent sends requests and takes lines now: the H-die does neither while it is held in reset or the hinge
retrains (R419, R421). -/
def State.agentLive (s : State) (stop : Nat) : Bool := stop != 10 || s.hostRuns

/-- Whether a stop answers snoops now: stop 10 waits for a retrain only, and answers for an absent host (R419, R422). -/
def State.stopAnswers (s : State) (stop : Nat) : Bool := stop != 10 || !s.hinge.retrain

/-- A cacheable line that a target lies in. -/
def Target.cacheLine : Target → Option Nat
  | .cache pa => some (lineOf pa)
  | _ => none

/-- Whether a group has an access to a line that it could perform now: a lane of its earliest load, a store that may
become visible next, or a reservation, for its SC. -/
def Group.wantsLine (x : Group) (line : Nat) : Bool :=
  (match x.loads with
    | l :: _ => l.lanes.any (fun a => a.reply.isNone && a.tgt.cacheLine == some line)
    | [] => false) ||
    x.sb.any (fun e => e.tgt.cacheLine == some line && !e.nocache && x.mayAccept e) ||
    x.resv.any (fun lr => lr.2 == Granule.line line)

/-- The orphan of a core, by its place in the list, that is the next to store to a line: stores of one launch keep their
order (R307). -/
def Core.nextOrphan (k : Core) (line : Nat) : Option (Nat × Orphan) :=
  findIdx (fun (o : Orphan) => match o.store with
    | some e => e.tgt.cacheLine == some line && !e.nocache
    | none => false) 0 k.orphans

/-- For each access of a die's cores that waits for a line, WAYS of the plan its tile runs under (R290). -/
def State.wants (s : State) (stop line : Nat) : List (BitVec 16) :=
  (s.cores.map (fun ck =>
    if stopOfDie (dieOfCore ck.1) = stop then
      ck.2.groups.filterMap (fun pg =>
        if pg.2.wantsLine line then some (((s.tile? ck.1 pg.2.tile).map (·.plan.ways)).getD 0) else none) ++
        ((ck.2.nextOrphan line).map (·.2.ways)).toList ++
        (ck.2.lineReads.filter (fun r => r.line == line && r.reply.isNone)).map (·.ways)
    else [])).flatten

/-- The ways of a die's LLC that WAYS of a plan let a ward fill (R269, R288). -/
def State.wayMask (s : State) (die : Nat) (ways : BitVec 16) : List Nat :=
  (List.range (16 - NMap.findD 0 die s.ms.shareways)).filter (fun w => ways.getLsbD w)

/-- The set of a die's LLC that a line falls in (R270, log 27). -/
def llcSet (line : Nat) : Nat := line / 128 % 3145728

/-- A line taken out of an agent's cache; the reservations it holds there are lost (R313). -/
def State.dropLine (s : State) (stop line : Nat) : State :=
  (s.setCache stop (NMap.del line (s.cacheOf stop))).killResv
    (fun c => stopOfDie (dieOfCore c) == stop) (.line line)

/-- A whole line as a write on its way to its controller from an agent's stop. -/
def CLine.asWrite (l : CLine) (stop line : Nat) : MemWrite :=
  { line := line, src := stop, bytes := (List.range 128).map (fun i => (i, l.bytes.getD i 0)), poison := l.poison, tag := l.tag }

/-- A line leaves an agent, a dirty one as a write-back. -/
def State.evictLine (s : State) (stop line : Nat) (victim : Option (Nat × Nat) := none) : State :=
  match NMap.find line (s.cacheOf stop) with
  | none => s
  | some l =>
    let s1 := s.dropLine stop line
    if l.st = .m then { s1 with coh := { s1.coh with sent := s1.coh.sent ++ [{ l.asWrite stop line with victim := victim }] } }
    else s1

/-- Lines that a die could not allocate and no access waits for any more leave it (R288). -/
def State.sweepTransient (s : State) (stop : Nat) : State :=
  (s.cacheOf stop).foldl (fun st l =>
    if l.2.transient && (st.wants stop l.1).isEmpty then st.evictLine stop l.1 else st) s

/-! ### Presence filters (R297, R298) -/

/-- The presence bits of a region. -/
def State.presence (s : State) (region : Nat) : BitVec 11 :=
  ((s.coh.filter.find? (fun f => f.1 == region)).map (·.2)).getD 0

/-- Whether a region has a filter entry that is not being reclaimed. -/
def State.hasEntry (s : State) (region : Nat) : Bool :=
  s.coh.filter.any (fun f => f.1 == region) && !s.coh.backInv.any (fun b => b.region == region)

/-- The stops of a set of presence bits, less one. -/
def stopsOf (bits : BitVec 11) (but : Nat) : List Nat :=
  (List.range 11).filter (fun i => bits.getLsbD i && i != but)

/-- Two regions share a set of a home's filter (R297, log 26). -/
def sameFilterSet (a b : Nat) : Bool := a / 2 ^ 40 == b / 2 ^ 40 && a % 65536 == b % 65536

/-- An entry for a region, marked most recently used. A full set gives up its least recently used entry whose lines
have no open transaction, by a back-invalidation where a bit of it is set. -/
def State.makeEntry (s : State) (region : Nat) : State :=
  match s.coh.filter.find? (fun f => f.1 == region) with
  | some f => { s with coh := { s.coh with filter := s.coh.filter.filter (fun g => g.1 != region) ++ [f] } }
  | none =>
    let mine := s.coh.filter.filter (fun f => sameFilterSet f.1 region)
    if mine.length < 16 then { s with coh := { s.coh with filter := s.coh.filter ++ [(region, 0)] } }
    else if mine.any (fun f => s.coh.backInv.any (fun b => b.region == f.1)) then s
    else
      match mine.find? (fun f => !(s.coh.txns.any (fun t => s.regionOfLine t.1 == f.1))) with
      | none => s
      | some (old, bits) =>
        if bits = 0 then
          { s with coh := { s.coh with filter := s.coh.filter.filter (fun g => g.1 != old) ++ [(region, 0)] } }
        else
          ({ s with coh := { s.coh with
              seq := s.coh.seq + 1, backInv := s.coh.backInv ++ [⟨old, stopsOf bits 11, s.coh.seq + 1⟩] } } : State).countModule 3 1

/-- A presence bit of a region set or cleared. -/
def State.setPresence (s : State) (region stop : Nat) (v : Bool) : State :=
  let bit := BitVec.ofNat 11 (1 <<< stop)
  { s with coh := { s.coh with filter := s.coh.filter.map (fun f =>
      if f.1 = region then (f.1, if v then f.2 ||| bit else f.2 &&& ~~~bit) else f) } }

/-- Whether a snoop or back-invalidation that the home of a region sent to a stop at `seq` is the first of them to arrive
there: those sent before it have (R299). -/
def State.firstSnoop (s : State) (stop region seq : Nat) : Bool :=
  let home := region / 2 ^ 40
  !(s.coh.txns.any (fun t => t.2.toSnoop.contains stop && decide (t.2.seq < seq) && s.regionOfLine t.1 / 2 ^ 40 == home)) &&
    !(s.coh.backInv.any (fun b => b.stops.contains stop && decide (b.seq < seq) && b.region / 2 ^ 40 == home))

/-- BACK_INVALIDATION: a stop gives up every line of a region that its home reclaims, dirty ones as write-backs; with
the last answer the entry is free (R298). -/
def execBackInvalidation (stop region : Nat) (s : State) : Host.Outcome State Fault Refusal :=
  match s.coh.backInv.find? (fun b => b.region == region && b.stops.contains stop) with
  | none => okay s
  | some b =>
    let mine := (s.cacheOf stop).filter (fun l => s.regionOfLine l.1 == region)
    if mine.any (fun l => l.2.hold) || s.stopAnswers stop == false || !s.firstSnoop stop region b.seq then okay s
    else
      let s1 := mine.foldl (fun st l => st.evictLine stop l.1) s
      let left := b.stops.filter (· != stop)
      if left.isEmpty then
        okay { s1 with coh := { s1.coh with backInv := s1.coh.backInv.filter (fun x => x.region != region)
                                            filter := s1.coh.filter.filter (fun f => f.1 != region) } }
      else
        okay { s1 with coh := { s1.coh with backInv := s1.coh.backInv.map (fun x =>
          if x.region = region then { x with stops := left } else x) } }

/-! ### A home's transactions (R300 to R303) -/

/-- A transaction opened for a line: the filter entry made or used, and the snoop mask read from it. An upgrade of a
line the requester has lost meanwhile asks for the line itself. The home's own atomic unit, which a ticket names, snoops
every marked stop and takes no entry (R303). -/
def State.openTxn (s : State) (stop line : Nat) (kind : CohKind) (way : Nat) (ticket : Nat := 0) : State :=
  let k : CohKind := if kind = .upgrade ∧ ¬ NMap.has line (s.cacheOf stop) then .own else kind
  let region := s.regionOfLine line
  let t : Txn := { stop := stop, kind := k, way := way, ticket := ticket, seq := s.coh.seq + 1
                   toSnoop := stopsOf (s.presence region) (if ticket = 0 then stop else 11) }
  let s1 : State := { s with coh := { s.coh with txns := NMap.ins line t s.coh.txns, seq := s.coh.seq + 1 } }
  if ticket = 0 then s1.makeEntry region else s1

/-- A request reaches its line's home: refused with a retry entry while the line has a transaction or requests waiting,
otherwise a transaction. A line in the atomic buffer leaves it; a read is served at once, another request is refused and
called to resend (R300, R303, log 23). -/
def State.homeRequest (s : State) (stop line : Nat) (kind : CohKind) (way : Nat) (ticket : Nat := 0) : State :=
  let refuse (st : State) : State :=
    { st with coh := { st.coh with
        retries := st.coh.retries ++ [{ stop := stop, line := line, kind := kind, way := way, ticket := ticket }] } }
  if NMap.has line s.coh.txns || s.coh.retries.any (fun r => r.line == line) then refuse s
  else if s.coh.atomBuf.contains line && ticket == 0 then
    let s1 : State := { s with coh := { s.coh with atomBuf := s.coh.atomBuf.filter (· != line) } }
    if kind = .read then s1.openTxn stop line kind way else (refuse s1).callNext line
  else s.openTxn stop line kind way ticket

/-- Whether an agent has a request for a line outstanding. -/
def State.asked (s : State) (stop line : Nat) : Bool :=
  (match NMap.find line s.coh.txns with | some t => t.stop == stop && t.ticket == 0 | none => false) ||
    s.coh.retries.any (fun r => r.stop == stop && r.line == line && r.ticket == 0) ||
    s.coh.misses.any (fun m => m.stop == stop && m.line == line)

/-- Requests a stop has outstanding at the homes, of at most 256: its agent's, and the atomics of its cores (R301). -/
def State.outstanding (s : State) (stop : Nat) : Nat :=
  (s.coh.txns.filter (fun t => t.2.stop == stop)).length +
    (s.coh.retries.filter (fun r => r.stop == stop)).length + (s.coh.misses.filter (fun m => m.stop == stop)).length

/-- The way of a die's LLC is waited for already by a request of another line of the same set. -/
def State.wayTaken (s : State) (stop line way : Nat) : Bool :=
  s.coh.txns.any (fun t => t.2.stop == stop && t.2.ticket == 0 && t.2.way == way && llcSet t.1 == llcSet line) ||
    s.coh.retries.any (fun r => r.stop == stop && r.ticket == 0 && r.way == way && llcSet r.line == llcSet line) ||
    s.coh.misses.any (fun m => m.stop == stop && m.way == way && llcSet m.line == llcSet line)

/-- A die's LLC misses: the way's occupant makes room, a dirty one by a write-back that the miss waits for (R270,
R271, R288). -/
def State.llcMiss (s : State) (stop line : Nat) (kind : CohKind) (way : Nat) : State :=
  let die := dieOfStop stop
  let ws := s.wants stop line
  if ws.isEmpty then s
  else if ws.all (fun w => (s.wayMask die w).isEmpty) then s.homeRequest stop line kind 16
  else if ws.any (fun w => (s.wayMask die w).contains way) = false ∨ s.wayTaken stop line way then s
  else
    match (s.cacheOf stop).find? (fun l => l.2.way == way && !l.2.transient && llcSet l.1 == llcSet line) with
    | none => s.homeRequest stop line kind way
    | some (old, l) =>
      if s.asked stop old ∨ l.hold then s
      else if l.st = .m then
        let s1 := s.evictLine stop old (some (die, line))
        { s1 with coh := { s1.coh with misses := s1.coh.misses ++ [{ stop := stop, line := line, kind := kind, way := way }] } }
      else (s.evictLine stop old).homeRequest stop line kind way

/-- Whether the access that a line is wanted for next is a ZLINE, which needs no data (R268). -/
def State.zlineNext (s : State) (stop line : Nat) : Bool :=
  s.cores.any (fun ck => stopOfDie (dieOfCore ck.1) == stop &&
    (ck.2.groups.any (fun pg => pg.2.sb.any (fun e =>
        e.zline.isSome && e.tgt.cacheLine == some line && pg.2.mayAccept e)) ||
      (match ck.2.nextOrphan line with
        | some (_, o) => (match o.store with | some e => e.zline.isSome | none => false)
        | none => false)))

/-- COHERENT_REQUEST: an agent that needs a line asks its home (R300 events 1 to 3, R301); `claim` for a ZLINE, which needs
the line and not its data (R268). The host gives up a clean copy silently before it asks anew. -/
def execCoherentRequest (stop line : Nat) (kind : CohKind) (way : Nat) (s : State) : Host.Outcome State Fault Refusal :=
  if s.isLp line = false ∨ coherentStop stop = false ∨ s.agentLive stop = false ∨ s.asked stop line ∨
      s.outstanding stop ≥ 256 ∨ s.domain (s.memDomain line) ≠ .idle ∨
      (stop ≠ 10 ∧ s.domain (16 + dieOfStop stop) ≠ .idle) ∨ s.coh.backInv.any (fun b => b.region == s.regionOfLine line) then okay s
  else if stop = 10 ∧ s.hostReaches line = false then okay s
  else if kind = .claim ∧ s.zlineNext stop line = false then okay s
  else
    let s := s.sweepTransient stop
    match kind, NMap.find line (s.cacheOf stop) with
    | .upgrade, some l => okay (if l.st = .s then s.homeRequest stop line .upgrade l.way else s)
    | .upgrade, none => okay s
    | k, some l =>
      if stop = 10 ∧ l.st ≠ .m then okay ((s.dropLine stop line).homeRequest stop line k 0)
      else if (k = .own ∨ k = .claim) ∧ l.st = .s then okay (s.homeRequest stop line .upgrade l.way)
      else okay s
    | k, none => if stop = 10 then okay (s.homeRequest stop line k 0) else okay (s.llcMiss stop line k way)

/-- VICTIM_ACCEPT: the acceptance of a dirty victim reaches the LLC, the way is free and the fill's request leaves
(R271). -/
def execVictimAccept (die line : Nat) (s : State) : Host.Outcome State Fault Refusal :=
  match s.coh.misses.find? (fun m => m.stop == stopOfDie die && m.line == line && m.accepted) with
  | none => okay s
  | some m =>
    let s1 : State := { s with coh := { s.coh with misses := s.coh.misses.filter (fun x => x != m) } }
    okay (s1.homeRequest m.stop m.line m.kind m.way)

/-- PROCEED: a called requester resends, and its home accepts it and frees the retry entry (R302). Proceeds of one home to
one stop arrive in the order sent (R299). -/
def execProceed (line : Nat) (s : State) : Host.Outcome State Fault Refusal :=
  match s.coh.retries.find? (fun r => r.line == line && r.called) with
  | none => okay s
  | some r =>
    if (r.ticket = 0 ∧ s.agentLive r.stop = false) ∨ NMap.has line s.coh.txns ∨
        s.coh.retries.any (fun q => q.called && q.stop == r.stop && decide (q.calledAt < r.calledAt) &&
          s.homeOf q.line == s.homeOf line) then okay s
    else
      let s1 : State := { s with coh := { s.coh with retries := s.coh.retries.filter (fun x => x != r) } }
      okay (s1.openTxn r.stop line r.kind r.way r.ticket)

/-! ### Snoops (R298, R300 event 5, R314) -/

/-- The state with `f` applied to a line's open transaction. -/
def State.updTxn (s : State) (line : Nat) (f : Txn → Txn) : State :=
  { s with coh := { s.coh with txns := NMap.modify line f s.coh.txns } }

/-- Whether a stop holds a line of a region. -/
def State.holdsRegion (s : State) (stop region : Nat) : Bool :=
  (s.cacheOf stop).any (fun l => s.regionOfLine l.1 == region)

/-- A stop's answer to a snoop. For a request that wants the line owned every copy goes; for a read a copy is dropped or
kept shared, whichever the agent likes (R300). -/
def State.answer (s : State) (stop line : Nat) (kind : CohKind) : State :=
  let region := s.regionOfLine line
  let r : SnoopAnswer × State := match NMap.find line (s.cacheOf stop) with
    | none => ({ stop := stop }, s)
    | some l =>
      let dirty : Option LineData := if l.st = Mesi.m then some { bytes := l.bytes, poison := l.poison, tag := l.tag } else none
      let (i, sd) := s.draw
      if kind = CohKind.read ∧ Config.freeBool i = true ∧ l.transient = false then
        ({ stop := stop, kept := true, dirty := dirty },
          sd.setCache stop (NMap.ins line { l with st := .s, tag := 0, hold := false } (sd.cacheOf stop)))
      else ({ stop := stop, dirty := dirty }, sd.dropLine stop line)
  let n := r.2.coh.seq + 1
  ({ r.2 with coh := { r.2.coh with seq := n } } : State).updTxn line (fun t => { t with
    answers := t.answers ++ [{ r.1 with seq := n, empty := !r.2.holdsRegion stop region }] })

/-- SNOOP: a marked stop receives the snoop and answers, unless an LR holds its answer back (R300, R314). Snoops of one home
to one stop arrive in the order sent (R299). -/
def execSnoop (stop line : Nat) (s : State) : Host.Outcome State Fault Refusal :=
  match NMap.find line s.coh.txns with
  | none => okay s
  | some t =>
    if t.toSnoop.contains stop = false ∨ s.stopAnswers stop = false ∨
        s.firstSnoop stop (s.regionOfLine line) t.seq = false then okay s
    else
      let s1 := s.updTxn line (fun t => { t with
        toSnoop := t.toSnoop.filter (· != stop), toAnswer := t.toAnswer ++ [stop] })
      match NMap.find line (s.cacheOf stop) with
      | some l => if l.hold then okay s1 else okay (s1.answer stop line t.kind)
      | none => okay (s1.answer stop line t.kind)

/-- SNOOP_ANSWER_DELAY_EXPIRY: the delay that a reservation puts on an answer is over; an answer held back is sent
(R314). At a B-die's stop it ends for the uncached granule at the address, at a C-die's for the share granule of its bonded
SRAM at that byte too. -/
def execSnoopAnswerDelayExpiry (stop line : Nat) (s : State) : Host.Outcome State Fault Refusal :=
  let mine (g : Granule) : Bool := match g with
    | .raw pa => pa == line && (stop == 0 || stop == 5)
    | .share die a => a == line && coherentStop stop && stop != 10 && die == dieOfStop stop
    | _ => false
  let s : State := { s with coh := { s.coh with holds := s.coh.holds.filter (fun g => !mine g) } }
  match NMap.find line (s.cacheOf stop) with
  | none => okay s
  | some l =>
    if l.hold = false then okay s
    else
      let s1 := s.setCache stop (NMap.ins line { l with hold := false } (s.cacheOf stop))
      match NMap.find line s.coh.txns with
      | some t =>
        if t.toAnswer.contains stop && !(t.answers.any (fun a => a.stop == stop)) then okay (s1.answer stop line t.kind)
        else okay s1
      | none => okay s1

/-- Whether a message of the response class that a stop sent to a home at `seq`, an answer or a done, is the first of them to
arrive (R299). -/
def State.firstAnswer (s : State) (stop home seq : Nat) : Bool :=
  !(s.coh.txns.any (fun o => s.homeOf o.1 == home &&
    (o.2.answers.any (fun b => b.stop == stop && decide (b.seq < seq)) ||
      (o.2.granted && o.2.stop == stop && decide (o.2.doneSeq < seq)))))

/-- SNOOP_RESPONSE: the answer reaches the home; an empty region clears the stop's bit, and dirty data takes the place
of memory data (R298, R300). -/
def execSnoopResponse (stop line : Nat) (s : State) : Host.Outcome State Fault Refusal :=
  match NMap.find line s.coh.txns with
  | none => okay s
  | some t =>
    match t.answers.find? (fun a => a.stop == stop) with
    | none => okay s
    | some a =>
      if s.firstAnswer stop (s.homeOf line) a.seq = false then okay s
      else
      let s1 := s.updTxn line (fun t => { t with
        toAnswer := t.toAnswer.filter (· != stop), answers := t.answers.filter (fun b => b.stop != stop)
        dirty := (if a.dirty.isSome then a.dirty else t.dirty), shared := t.shared || a.kept })
      okay (if a.empty then s1.setPresence (s.regionOfLine line) stop false else s1)

/-- An LPDDR5X error: an uncorrectable one counted, its address logged by the controller and by the keeper, and its line
poisoned (R282, R516, R518). -/
def State.memError (s : State) (line : Nat) : State :=
  let s1 : State := { s with ms := { s.ms with mem := s.ms.mem.setPoison line true, eccLog := s.ms.eccLog ++ [(line, true)] } }
  (s1.countModule 5 1).keeperEvent 8 line

/-- A corrected error: counted, and its address logged by the controller (R282, R518). -/
def State.memCorrected (s : State) (line : Nat) : State :=
  ({ s with ms := { s.ms with eccLog := s.ms.eccLog ++ [(line, false)] } } : State).countModule 4 1

/-- MEMORY_READ_RETURN: memory data of a transaction reaches the home, poisoned where it cannot be corrected (R282,
R300). -/
def execMemoryReadReturn (line : Nat) (ecc : EccError) (s : State) : Host.Outcome State Fault Refusal :=
  match NMap.find line s.coh.txns with
  | none => okay s
  | some t =>
    if t.memData.isSome ∨ (NMap.findD [] (s.homeOf line) s.ms.lpIn).length + 2 > 32 then okay s
    else
      let s1 := match ecc with
        | .none => s
        | .corrected => s.memCorrected line
        | .uncorrectable => s.memError line
      let q := fifoPush 32 (NMap.findD [] (s.homeOf line) s.ms.lpIn) (halfLines (s.ms.mem.readN line 128))
      let into : State := { s1 with ms := { s1.ms with lpIn := NMap.ins (s.homeOf line) q s1.ms.lpIn } }
      okay (into.updTxn line (fun t => { t with memData := some (s1.memLine line) }))

/-! ### The grant (R300 events 6 to 8, R416) -/

/-- The earliest load of a group binds the bytes of its lanes on a line that the die's LLC holds now, and performs where it
lacks nothing else. -/
def State.bindLoads (s : State) (g : Site) (line : Nat) : State :=
  match s.group? g with
  | none => s
  | some x =>
    match x.loads with
    | [] => s
    | l :: rest =>
      let mine (a : LaneAcc) : Bool := a.reply.isNone && a.tgt.cacheLine == some line
      if l.lanes.any mine then
        let l1 := { l with lanes := l.lanes.map (fun a =>
          if mine a then { a with reply := s.laneValue g.core (s.nonceOf g.core x) x l a } else a) }
        (s.setGroup g { x with loads := l1 :: rest }).loadPerform g
      else s

/-- The next store of a group to a line becomes visible. -/
def State.storeLine (s : State) (g : Site) (line : Nat) (zline : Bool) : State :=
  match s.group? g with
  | none => s
  | some x =>
    match findIdx (fun (e : SbEntry) => e.tgt.cacheLine == some line && !e.nocache && x.mayAccept e &&
        (!zline || e.zline.isSome)) 0 x.sb with
    | some (i, _) => s.storeVisible g i
    | none => s

/-- The accesses of a die's cores that wait for a line performed: of a line granted without data, first the ZLINE it was
claimed for (R268, R300 event 7). -/
def State.performLine (s : State) (stop line : Nat) (zline : Bool) : State :=
  let cs := (NMap.keys s.cores).filter (fun c => stopOfDie (dieOfCore c) == stop)
  let stores (st : State) (z : Bool) : State := cs.foldl (fun (st : State) c =>
    let st1 := (NMap.keys (st.core c).groups).foldl (fun (st : State) p => st.storeLine ⟨c, p⟩ line z) st
    match (st1.core c).nextOrphan line with
    | some (i, o) =>
      if z && !(match o.store with | some e => e.zline.isSome | none => false) then st1 else st1.storeVisible ⟨c, 48⟩ i
    | none => st1) st
  let loads (st : State) : State := cs.foldl (fun (st : State) c =>
    let st1 := (NMap.keys (st.core c).groups).foldl (fun (st : State) p => st.bindLoads ⟨c, p⟩ line) st
    ((st1.core c).lineReads.filter (fun r => r.line == line && r.reply.isNone)).foldl (fun (st : State) r =>
      st.askLine c r.owner line) st1) st
  if zline then loads (stores (stores s true) false) else stores (loads s) false

/-- The copy the requester installs: M for ownership, E or S for a read. -/
def Txn.copy (t : Txn) (own : Option CLine) (d : LineData) : CLine :=
  let data : LineData := match t.kind, own with
    | .upgrade, some l => { bytes := l.bytes, poison := l.poison, tag := l.tag }
    | _, _ => d
  let st : Mesi := match t.kind with
    | .read => if t.shared || t.dirty.isSome then .s else .e
    | _ => .m
  { st := st, bytes := data.bytes, poison := data.poison, tag := (if st = .m then data.tag else 0)
    way := t.way % 16, transient := t.way == 16 }

/-- LINE_GRANT: with every answer in, the home sends the line to the stop that asked for it; dirty data of a read also goes to the controller. The
requester installs the line, performs every access of its own that waits for it, and sends done (R300 events 6 and 7). -/
def execLineGrant (stop line : Nat) (s : State) : Host.Outcome State Fault Refusal :=
  match NMap.find line s.coh.txns with
  | none => okay s
  | some t =>
    let region := s.regionOfLine line
    let s0 := if s.hasEntry region then s else if s.coh.backInv.any (fun b => b.region == region) then s
      else s.makeEntry region
    let claim := decide (t.kind = .claim) && s.zlineNext t.stop line
    if t.stop ≠ stop ∨ t.granted ∨ t.ticket ≠ 0 ∨ ¬ t.toSnoop.isEmpty ∨ ¬ t.toAnswer.isEmpty ∨ s0.hasEntry region = false ∨
        s.agentLive t.stop = false then okay s
    else
      match (if claim then some { bytes := List.replicate 128 0 } else if t.dirty.isSome then t.dirty else t.memData) with
      | none => okay s
      | some d =>
        let s1 : State := match t.kind, t.dirty with
          | .read, some _ =>
            let w : MemWrite := { line := line, bytes := (List.range 128).map (fun i => (i, d.bytes.getD i 0))
                                  poison := d.poison, tag := d.tag, src := 32 + s.homeOf line }
            { s0 with coh := { s0.coh with sent := s0.coh.sent ++ [w] } }
          | _, _ => s0
        let c := t.copy (NMap.find line (s1.cacheOf t.stop)) d
        let s2 := s1.setCache t.stop (NMap.ins line c (s1.cacheOf t.stop))
        let s3 := if t.stop = 10 then s2.hostPerform line else s2.performLine t.stop line claim
        okay (({ s3 with coh := { s3.coh with seq := s3.coh.seq + 1 } } : State).updTxn line (fun t => { t with
          granted := true, doneSeq := s3.coh.seq + 1 }))

/-- DONE: the transaction closes, the requester's presence bit is set, and the oldest refused requester is called (R300
event 8, R302). What the same stop sent before arrives first (R299). -/
def execDone (line : Nat) (s : State) : Host.Outcome State Fault Refusal :=
  match NMap.find line s.coh.txns with
  | none => okay s
  | some t =>
    if t.granted = false ∨ s.firstAnswer t.stop (s.homeOf line) t.doneSeq = false then okay s
    else okay ((s.setPresence (s.regionOfLine line) t.stop true).closeTxn line)

/-! ### Writes at a controller (R271, R418) -/

/-- WRITE_ACCEPT: the oldest write under way to a line is accepted or dropped by its epoch tag, and the miss that waits
for it may go on; what the same stop sent to the same home before arrives first (R299), and a controller whose FIFO is full
withholds its acknowledge (R40); or an agent gives up a dirty line, whose write-back the controller takes (R271, R297, R418). -/
def execWriteAccept (sel : WriteSel) (s : State) : Host.Outcome State Fault Refusal :=
  match sel with
  | .sent line =>
    match findIdx (fun (w : MemWrite) => w.line == line) 0 s.coh.sent with
    | none => okay s
    | some (i, w) =>
      if (s.coh.sent.take i).any (fun v => v.src == w.src && s.homeOf v.line == s.homeOf line) ∨ s.lpRoom line = false then okay s
      else
      let s1 : State := { s with coh := { s.coh with sent := dropAt i s.coh.sent } }
      let s2 := s1.memAccept line w.bytes w.poison w.tag
      okay ((s2.victimDone w.victim).lpPush line)
  | .writeback stop line =>
    match NMap.find line (s.cacheOf stop) with
    | none => okay s
    | some l =>
      if l.st ≠ .m ∨ l.hold ∨ s.asked stop line ∨ s.agentLive stop = false ∨ s.lpRoom line = false then okay s
      else okay (((s.evictLine stop line).acceptSent line).lpPush line)

/-! ### Scrubs (R283, R291, R292, R475) -/

/-- PATROL_SCRUB: a pass over a device: corrected errors counted and logged, uncorrectable lines poisoned, counted and
logged (R282, R283). -/
def execPatrolScrub (device : Nat) (corrected bad : List Nat) (s : State) : Host.Outcome State Fault Refusal :=
  if s.power.on = false then okay s
  else
    let mine (a : Nat) : Bool := s.isLp a && s.homeOf (lineOf a) == device
    let s0 : State := { s with ms := { s.ms with fastScrub := s.ms.fastScrub.filter (· != device) } }
    let s1 := (corrected.filter mine).foldl (fun (st : State) a => st.memCorrected (lineOf a)) s0
    okay ((bad.filter mine).foldl (fun (st : State) a => st.memError (lineOf a)) s1)

/-- The backing of a share line of a die's bonded SRAM, for a backed run of a resident context (R273, R274, R291). -/
def State.sramBacking (s : State) (die addr : Nat) : Option Nat :=
  let g := die * 4096 + addr / 2 ^ 21
  s.fe.ctxs.findSome? (fun nc => nc.2.shares.findSome? (fun r =>
    if r.scratch then none
    else match r.placed.find? (fun x => x.2 == g) with
      | some (i, _) => r.behind (i * 2 ^ 21 + addr % 2 ^ 21)
      | none => none))

/-- A double-bit error in a die's bonded SRAM: an LLC line by its LPDDR5X address, a share line by its byte of the SRAM
(R291). -/
def State.sramError (s : State) (die a : Nat) : State :=
  let s1 := (s.countModule (24 + die) 1).keeperEvent 8 a
  let stop := stopOfDie die
  if s.isLp a then
    let line := lineOf a
    match NMap.find line (s1.cacheOf stop) with
    | none => s
    | some l =>
      if l.st = .m then (s1.setCache stop (NMap.ins line { l with poison := true } (s1.cacheOf stop))).evictLine stop line
      else s1.dropLine stop line
  else if a ≥ sramBytes then s
  else
    let line := lineOf a
    let mark (st : State) (p : Bool) : State :=
      let kept := st.ms.sramPoison.filter (· != die * sramBytes + line)
      { st with ms := { st.ms with sramPoison := if p then kept ++ [die * sramBytes + line] else kept } }
    match s1.sramBacking die line with
    | some pa => mark (s1.sramWrite die line (s1.cohRead pa 128)) (s1.coherentLine (lineOf pa)).poison
    | none => mark s1 true

/-- SRAM_SCRUB: a pass over a die's bonded SRAM: corrected errors counted, double-bit errors handled by what the word
holds (R291, R292). -/
def execSramScrub (die corrected : Nat) (bad : List Nat) (s : State) : Host.Outcome State Fault Refusal :=
  if s.power.on = false then okay s
  else
    let s0 : State := { s with ms := { s.ms with fastScrub := s.ms.fastScrub.filter (· != 32 + die) } }
    let s1 := if corrected = 0 then s0 else s0.countModule (16 + die) corrected
    okay (bad.foldl (fun st a => st.sramError die a) s1)

end Sys2Proof.Machine
end

