-- ==== Sys2Proof/Machine/Timebase.lean ====
section
/-! DEFINITION. The timebase (R41 to R45): a nanosecond of it, TB_PPS edges, and loss and return of TB_REF. -/

namespace Sys2Proof.Machine

/-- What one nanosecond adds to the timebase and what is left to slew: once in every 1 µs one nanosecond more or none
(R42). -/
def TimeBase.tick (t : TimeBase) : TimeBase :=
  if t.phase < 999 then { t with now := t.now + 1, phase := t.phase + 1 }
  else if 0 < t.slew then { t with now := t.now + 2, phase := 0, slew := t.slew - 1 }
  else if t.slew < 0 then { t with phase := 0, slew := t.slew + 1 }
  else { t with now := t.now + 1, phase := 0 }

/-- The FIFOs of a port after one nanosecond: an entry each way has gone through, and flits that waited follow (R39, R40). -/
def Port.drain (p : Port) : Port :=
  if p.txFifo.isEmpty && p.rxFifo.isEmpty then p
  else ({ p with txFifo := p.txFifo.drop 1, rxFifo := p.rxFifo.drop 1 } : Port).pump

/-- VCOMP after one nanosecond: a step of 5 mV toward the setpoint every 500 ns, which is 10 mV/µs (R36). -/
def Power.move (p : Power) : Power :=
  if p.vcomp = p.vnow then { p with vphase := 0 }
  else if p.vphase < 499 then { p with vphase := p.vphase + 1 }
  else { p with vphase := 0, vcomp := if p.vcomp < p.vnow then p.vcomp + 1 else p.vcomp - 1 }

/-- A nanosecond without power: the time since PWR_EN fell (R563). -/
def Power.dark (p : Power) : Power := { p with sinceFall := Nat.min 100000000 (p.sinceFall + 1) }

/-- The clock-domain FIFOs after one nanosecond; the timebase enters that of each of the 11 ring stops (R39, R40, R44;
DESIGN CHOICE, log 138). -/
def State.drainFifos (s : State) : State :=
  { s with
    ms := { s.ms with lpOut := NMap.mapVals (fun _ q => q.drop 1) s.ms.lpOut, lpIn := NMap.mapVals (fun _ q => q.drop 1) s.ms.lpIn }
    ports := NMap.mapVals (fun _ p => p.drain) s.ports
    pins := { s.pins with cpOut := s.pins.cpOut.drop 1, cpIn := s.pins.cpIn.drop 1 }
    hinge := { s.hinge with rports := NMap.mapVals (fun _ (p : RootPort) => { p with inq := p.inq.drop 1, outq := p.outq.drop 1 }) s.hinge.rports }
    time := { s.time with fifos := (List.range 11).map (fun n => (n, [s.time.now])) } }

/-- One nanosecond passes. While the module is powered: the timebase, the keeper's own oscillator, VCOMP on its way to the
setpoint, and the FIFOs (R36, R39, R41, R497, log 2). -/
def State.tick (s : State) : State :=
  if s.power.on then
    ({ s with time := s.time.tick, power := s.power.move, sec := { s.sec with keeperNs := s.sec.keeperNs + 1 } } : State).drainFifos
  else { s with power := s.power.dark }

/-- The local copy of the timebase on a C-die, by number, or on the H-die (10): within 2 ns of B0's counter modulo 2^64,
never behind what it gave before (R44). -/
def State.timeCopy (s : State) (place : Nat) : Nat :=
  let v := (s.nowN + 2 ^ 64 + Config.freeNat s.free % 5 - 2) % 2 ^ 64
  match NMap.find place s.time.copies with
  | some last => if (v + 2 ^ 64 - last) % 2 ^ 64 < 2 ^ 63 then v else last
  | none => if s.nowN < 2 then s.nowN else v

/-- Reading a copy fixes its value. -/
def State.seeTime (s : State) (place : Nat) : State :=
  { s with free := s.free + 1, time := { s.time with copies := NMap.ins place (s.timeCopy place) s.time.copies } }

/-- Nanoseconds from a timebase value to the nearest whole second, positive when the value lies before it. The manual
names no second: the nearest one, and omitting at exactly 500 ms, is the model's choice (DESIGN CHOICE, log 126). -/
def toWholeSecond (now : Nat) : Int :=
  let r := now % 1000000000
  if r ≤ 500000000 then -(r : Int) else (1000000000 : Int) - (r : Int)

/-- A rising edge of TB_PPS: an armed value is loaded and ARM cleared, otherwise slewing toward the whole second starts
(R42). -/
def TimeBase.pps (t : TimeBase) : TimeBase :=
  if t.arm then { t with now := t.load, arm := false, slew := 0, phase := 0, copies := [] }
  else { t with slew := toWholeSecond t.now.toNat }

/-- TB_PPS_EDGE, of a span's member too (DESIGN CHOICE, log 127). -/
def execTbPpsEdge (s : State) : Host.Outcome State Fault Refusal :=
  okay (if s.power.on then { s with time := s.time.pps } else s)

/-- TB_REF_LOST: the internal oscillator takes over, REFLOST is set and the keeper raises event 4 (R43, R516). -/
def execTbRefLost (s : State) : Host.Outcome State Fault Refusal :=
  if s.power.on ∧ s.time.refOk then
    okay (({ s with time := { s.time with refOk := false, reflost := true } } : State).keeperEvent 4 0)
  else okay s

/-- TB_REF_RETURN: the reference drives the timebase again and REFLOST stays set (R43). -/
def execTbRefReturn (s : State) : Host.Outcome State Fault Refusal :=
  okay { s with time := { s.time with refOk := true } }

end Sys2Proof.Machine
end

