-- ==== Sys2Proof/Machine/Rings.lean ====
section
/-! DEFINITION. What the front end reads and writes for its rings: outcomes of its accesses, the handle table, ring-table
fields, completion and overrun entries, counter entries (R366, R367 to R369, R373 to R382, R387 to R391, R517, R576). -/

namespace Sys2Proof.Machine

/-! ### Outcomes of front-end work -/

/-- What a piece of front-end work comes to: a value; a page it waits for; a fault of the context (R576); or a status,
DETAIL and INFO its command completes with (R389). -/
inductive Chk (α : Type) where
  | ok (a : α)
  | page (va : Nat)
  | fault (detail va : Nat)
  | fail (status detail info : Nat)
  deriving DecidableEq, Repr, Inhabited

/-- The next piece of work, where the one before gave a value. -/
def Chk.bind {α β : Type} (x : Chk α) (f : α → Chk β) : Chk β :=
  match x with
  | .ok a => f a
  | .page va => .page va
  | .fault d va => .fault d va
  | .fail s d i => .fail s d i

/-- A failure unless a condition holds. -/
def Chk.need (c : Bool) (status detail info : Nat) : Chk Unit := if c then .ok () else .fail status detail info

/-- A number of `n` bytes of a structure that a command names; what cannot be reached completes the command with
BADRANGE (R576). -/
def State.chkRead (s : State) (ctx va n field : Nat) : Chk Nat :=
  match s.feNat ctx va n with
  | .ok v => .ok v
  | .error (.wait a) => .page a
  | .error (.bad _ a) => .fail 9 field a

/-- A number of `n` bytes of a structure whose loss faults the context (R576). -/
def State.chkTable (s : State) (ctx va n : Nat) : Chk Nat :=
  match s.feNat ctx va n with
  | .ok v => .ok v
  | .error (.wait a) => .page a
  | .error (.bad d a) => .fault d a

/-- Whether such a structure can be written. -/
def State.chkCanWrite (s : State) (ctx va n : Nat) : Chk Unit :=
  match s.feCanWrite ctx va n with
  | .ok _ => .ok ()
  | .error (.wait a) => .page a
  | .error (.bad d a) => .fault d a

/-- A write of such a structure, which chkCanWrite has found possible. -/
def State.feStore (s : State) (ctx tag va : Nat) (bytes : List Byte) : State :=
  match s.feWrite ctx tag va bytes with
  | .ok t => t
  | .error _ => s

/-! ### Rings (R373, R405) -/

/-- Context of a ring, zero for the admin ring, which belongs to ward 0. -/
def ringCtx : RingId → Nat
  | .admin => 0
  | .ring c _ => c

/-- Number of a ring. -/
def ringNum : RingId → Nat
  | .admin => 0
  | .ring _ r => r

/-- Ward of a ring. -/
def State.ringWard (s : State) : RingId → Nat
  | .admin => 0
  | .ring c _ => (s.ctx c).ward

/-- A number of `n` bytes that a ring's addresses name: physical for the admin ring (R405). -/
def State.ringNat (s : State) (id : RingId) (a n : Nat) : Chk Nat :=
  match id with
  | .admin => .ok (s.cohNat a n)
  | .ring c _ => s.chkTable c a n

/-- Bytes written where a ring's addresses name; the context faulted where they cannot be (R576). -/
def State.ringStore (s : State) (id : RingId) (tag a : Nat) (bytes : List Byte) : State :=
  match id with
  | .admin => s.cohWrite tag a bytes
  | .ring c _ => s.feStore c tag a bytes

/-- Whether bytes can be written there. -/
def State.ringCanWrite (s : State) (id : RingId) (a n : Nat) : Chk Unit :=
  match id with
  | .admin => .ok ()
  | .ring c _ => s.chkCanWrite c a n

/-- Address of a ring's entry of the ring table. -/
def State.ringEntry (s : State) : RingId → Nat
  | .admin => s.fe.ringbase
  | .ring c r => (s.ctx c).ringtab + 64 * r

/-- HEAD, CTAIL, WAITDB and DBERR written in the ring's entry (R373, R380). -/
def State.syncRing (s : State) (id : RingId) : State :=
  match s.ring? id with
  | none => s
  | some r => s.ringStore id s.tagNow (s.ringEntry id + 48)
      (natBytes 9 (r.head % 2 ^ 32 + r.ctail % 2 ^ 32 * 2 ^ 32 + b2n r.waitdb * 2 ^ 64 + b2n r.dberr * 2 ^ 65))

/-- A page asked for on behalf of a ring, which waits for the answer (R576). -/
def State.ringPage (s : State) (id : RingId) (va : Nat) : State :=
  (s.pageRequest (ringCtx id) va).updRing id (fun r => { r with pageWait := some va })

/-- Work of a ring that came to no value: a page request, or the fault of its context. -/
def State.ringMiss (s : State) (id : RingId) (k : Chk Unit) : State :=
  match k with
  | .page va => s.ringPage id va
  | .fault d va => (s.sawPage (ringCtx id) va).feFault (ringCtx id) d va
  | _ => s

/-- Whether the front end serves rings now: enabled, not frozen by a SNAPSHOT, and the host epoch open (R421, R519,
R546). -/
def State.feServes (s : State) : Bool :=
  s.power.on && s.fe.en && s.fe.frozen.isNone && !s.epochClosed

/-- Whether a ring is fetched now (R357, R359): its context activated, not faulted and not leaving. -/
def State.fetches (s : State) : RingId → Bool
  | .admin => s.feServes
  | .ring c _ =>
    let x := s.ctx c
    s.feServes && !x.leaving &&
      (x.state == .idle || x.state == .loading || x.state == .resident || x.state == .evicting)

/-- Completion entries free in a ring (R382). -/
def Ring.free (r : Ring) : Nat := 2 ^ r.clog2 - (r.ctail + 2 ^ 32 - r.chead) % 2 ^ 32

/-- The fetch window of a ring (R382). -/
def Ring.window (r : Ring) : Nat := Nat.min 32 r.free - r.cmds.length

/-- The pass bit of a count: 1 on even passes (R377, R387). -/
def phaseOf (n log2 : Nat) : Nat := 1 - n / 2 ^ log2 % 2

/-! ### Handles (R367 to R369) -/

/-- Address of an entry of a context's handle table. -/
def Ctx.handleAt (c : Ctx) (i : Nat) : Nat := c.htab + 32 * i

/-- An entry of a handle table as the number its 32 bytes hold. -/
def State.handle (s : State) (ctx i : Nat) : Chk Nat := s.chkTable ctx ((s.ctx ctx).handleAt i) 32

/-- Whether an UNBIND of a handle has been fetched and has not run: a command fetched after it fails (R370). -/
def Ctx.unbinding (c : Ctx) (h : Nat) : Bool :=
  c.rings.any (fun r => r.2.cmds.any (fun m =>
    Machine.field m.desc 31 24 == 9 && m.state == .fetched && Machine.field m.desc 159 128 == h))

/-- Whether a handle passes R369 and R370, with its entry; otherwise BADHANDLE with the field and the handle. -/
def State.checkHandle (s : State) (ctx h field : Nat) : Chk Nat :=
  if h % 2 ^ 20 ≥ 2 ^ (s.ctx ctx).hlog2 || (s.ctx ctx).unbinding h then .fail 8 field h
  else (s.handle ctx (h % 2 ^ 20)).bind (fun e =>
    if nfield e 141 140 = 1 ∧ nfield e 139 128 = h / 2 ^ 20 % 2 ^ 12 then .ok e else .fail 8 field h)

/-- Bytes [0,32) of an entry replaced. -/
def State.putHandle (s : State) (ctx i e : Nat) : State :=
  s.feStore ctx s.tagNow ((s.ctx ctx).handleAt i) (natBytes 32 e)

/-- An entry with PINS replaced. -/
def setPins (e pins : Nat) : Nat := e - nfield e 175 144 * 2 ^ 144 + pins % 2 ^ 32 * 2 ^ 144

/-- An entry freed: STATE free, GEN advanced (R368). -/
def freeHandle (e : Nat) : Nat :=
  e - nfield e 141 128 * 2 ^ 128 + (nfield e 139 128 + 1) % 2 ^ 12 * 2 ^ 128

/-- A handle-table entry that can be read and written. -/
def State.openHandle (s : State) (ctx i : Nat) : Chk Nat :=
  (s.chkCanWrite ctx ((s.ctx ctx).handleAt i) 32).bind fun _ => s.handle ctx i

/-- Whether each entry of a list can be written. -/
def State.canPin (s : State) (ctx : Nat) (is : List Nat) : Chk Unit :=
  is.foldl (fun k i => k.bind (fun _ => (s.openHandle ctx i).bind (fun _ => .ok ()))) (.ok ())

/-- An entry pinned once more or once less. -/
def movedPin (e : Nat) (up : Bool) : Nat :=
  if up then setPins e (nfield e 175 144 + 1)
  else
    let p := nfield e 175 144 - 1
    if p = 0 ∧ nfield e 141 140 = 2 then freeHandle (setPins e p) else setPins e p

/-- PINS of an entry moved; a freeing entry whose PINS becomes zero is freed. An entry on a missing page waits for the page;
one that cannot be reached faults the context (R368, R369, R576). -/
def State.movePin (s : State) (ctx i : Nat) (up : Bool) : State :=
  match s.openHandle ctx i with
  | .ok e => s.putHandle ctx i (movedPin e up)
  | .page va => (s.pageRequest ctx va).updCtx ctx (fun c => { c with owedPins := c.owedPins ++ [(i, up)] })
  | .fault d va => if (s.ctx ctx).state = .faulted then s.sawPage ctx va else (s.sawPage ctx va).feFault ctx d va
  | .fail _ _ _ => s

/-- An entry pinned, and unpinned. -/
def State.pin (s : State) (ctx i : Nat) : State := s.movePin ctx i true
def State.unpin (s : State) (ctx i : Nat) : State := s.movePin ctx i false

/-- The changes of PINS of a context that wait for a page taken up again (R576). -/
def State.settlePins (s : State) (ctx : Nat) : State :=
  (s.ctx ctx).owedPins.foldl (fun st p => st.movePin ctx p.1 p.2) (s.updCtx ctx (fun c => { c with owedPins := [] }))

/-! ### Counters (R517) -/

/-- The entry of a context in the counter table written. -/
def State.writeCounters (s : State) (ctx : Nat) : State :=
  let c := s.ctx ctx
  s.cohWrite s.tagNow (s.fe.ctbase + 256 * ctx)
    ((List.range 32).map (fun i => natBytes 8 (SatCount.slot (NMap.findD {} i c.counters)))).flatten

/-! ### Completion entries (R387, R388, R391) -/

/-- The 32 bytes of an entry. -/
def entryBytes (r : Ring) (seq kind status detail : Nat) (flags : BitVec 5) (tag info time : Nat) : List Byte :=
  natBytes 32 (seq + phaseOf r.ctail r.clog2 * 2 ^ 16 + kind * 2 ^ 24 + status * 2 ^ 32 + detail % 2 ^ 16 * 2 ^ 40 +
    flags.toNat * 2 ^ 56 + b2n r.lost * 2 ^ 61 + tag * 2 ^ 64 + info % 2 ^ 64 * 2 ^ 128 + time * 2 ^ 192)

/-- Address of the next completion entry. -/
def Ring.nextEntry (r : Ring) : Nat := r.cbase + 32 * (r.ctail % 2 ^ r.clog2)

/-- The MSI of a ring, not sent while the host epoch is closed; the mirror keeps the last one of each ring (R391, R407,
R421). -/
def State.ringMsi (s : State) (id : RingId) (r : Ring) : State :=
  if r.msiaddr = 0 ∨ s.epochClosed then s
  else
    let key := match id with | .admin => 0 | .ring c n => 8 * c + n + 1
    let s1 := s.msi r.msiaddr r.msidata
    { s1 with fe := { s1.fe with lastMsi := NMap.ins key (r.msiaddr, r.msidata) s1.fe.lastMsi } }

/-- An entry of a completion ring written, after the counter entry of the context (R517), with the ring's MSI where one
is asked for; CTAIL moves on. -/
def State.postEntry (s : State) (id : RingId) (m : Cmd) (kind status detail : Nat) (flags : BitVec 5) (info : Nat)
    (msi : Bool) : State :=
  match s.ring? id with
  | none => s
  | some r =>
    let s1 := match id with
      | .admin => s
      | .ring c _ => s.writeCounters c
    let s2 := s1.ringStore id m.tag r.nextEntry
      (entryBytes r (field m.desc 15 0) kind status detail flags (field m.desc 127 64) info s.nowN)
    let s3 := s2.updRing id (fun x => { x with ctail := (x.ctail + 1) % 2 ^ 32, lost := false
                                               cmds := if kind = 0 then x.cmds.filter (fun y => y.count != m.count) else x.cmds })
    let s4 := if msi then s3.ringMsi id r else s3
    s4.syncRing id

/-- An overrun entry for a tile (R366, R388): dropped, with LOST set, where only the entries kept for fetched commands
are free; one whose page is missing waits for it, with those behind it (R576). -/
def State.postOverrun (s : State) (id : RingId) (m : Cmd) (index : Nat) : State :=
  match s.ring? id with
  | none => s
  | some r =>
    let owe (st : State) : State := st.updRing id (fun x => { x with owed := x.owed ++ [(m, index)] })
    if r.owed.isEmpty = false then owe s
    else if r.free ≤ r.cmds.length then s.updRing id (fun x => { x with lost := true })
    else match s.ringCanWrite id r.nextEntry 32 with
      | .ok _ => s.postEntry id m 1 0 0 0 index r.ovirq
      | .page va => owe (s.pageRequest (ringCtx id) va)
      | k => s.ringMiss id k

/-- The overrun entries of a ring that wait for a page taken up again (R576). -/
def State.settleOverruns (s : State) (id : RingId) : State :=
  match s.ring? id with
  | none => s
  | some r => r.owed.foldl (fun st o => st.postOverrun id o.1 o.2) (s.updRing id (fun x => { x with owed := [] }))

end Sys2Proof.Machine
end

