-- ==== Sys2Proof/Machine/Checks.lean ====
section
/-! DEFINITION. The checks of commands that place tiles, and the launches they leave: LAUNCH with its extension and
span records, COPY, CONVERT and FILL (R28 to R31, R343, R344, R369, R384, R385, R389, R393 to R396, R398, R399). -/

namespace Sys2Proof.Machine

/-! ### Span records (R396) -/

/-- A range of cores reached in a walk: the records it lies under, module, first core and number. -/
structure CoreRange where
  under  : List Nat
  modOrd : Nat
  first  : Nat
  count  : Nat
  deriving DecidableEq, Repr, Inhabited

/-- What a walk has reached: ranges, records, entries. -/
structure Walk where
  ranges : List CoreRange := []
  recs   : List Nat := []
  total  : Nat := 0
  deriving DecidableEq, Repr, Inhabited

/-- Whether two ranges share a core. -/
def CoreRange.meets (a b : CoreRange) : Bool :=
  a.modOrd == b.modOrd && decide (a.first < b.first + b.count) && decide (b.first < a.first + a.count)

/-- Whether an ordinal names a member of the module span, or module 0 outside one (R396). -/
def State.isMember (s : State) (m : Nat) : Bool :=
  m == s.here || s.reachable m

/-- NENT of a record, whose address stands in `field` of the descriptor or in a record. -/
def State.spanNent (s : State) (ctx a field : Nat) : Chk Nat :=
  (s.chkRead ctx a 64 field).bind (fun h =>
    let n := nfield h 12 0
    if 1 ≤ n ∧ n ≤ 4096 then .ok n else .fail 10 0xFFFF a)

/-- The walk over a span record, depth first in entry order. The stack holds the records being read, the innermost at
the head: address, NENT, next entry. Each turn reads one entry or leaves a record. -/
def State.walkSpan (s : State) (ctx : Nat) : Nat → List (Nat × Nat × Nat) → Walk → Chk Walk
  | 0, _, w => .ok w
  | _ + 1, [], w => .ok w
  | fuel + 1, (a, n, i) :: rest, w =>
    if i ≥ n then s.walkSpan ctx fuel rest w
    else if w.total ≥ 16384 then .fail 10 0xFFFF a
    else (s.chkRead ctx (a + 64 + 16 * i) 16 (if rest.isEmpty then 128 else 0xFFFF)).bind (fun e =>
      let w1 := { w with total := w.total + 1 }
      let stack := (a, n, i + 1) :: rest
      match nfield e 1 0 with
      | 0 =>
        let r : CoreRange := { under := a :: rest.map (·.1), modOrd := nfield e 35 24, first := nfield e 13 4,
                               count := nfield e 23 14 }
        if 1 ≤ r.count ∧ r.count ≤ 768 ∧ r.first + r.count ≤ 768 ∧ s.isMember r.modOrd = true ∧ ¬ w.ranges.any r.meets then
          s.walkSpan ctx fuel stack { w1 with ranges := w.ranges ++ [r] }
        else .fail 10 0xFFFF a
      | 1 =>
        let m := nfield e 127 64
        if m % 64 ≠ 0 ∨ canonical m = false then .fail 9 0xFFFF a
        else if w.recs.contains m then .fail 10 0xFFFF a
        else (s.spanNent ctx m 0xFFFF).bind (fun k =>
          s.walkSpan ctx fuel ((m, k, 0) :: stack) { w1 with recs := w.recs ++ [m] })
      | _ => .fail 7 0xFFFF a)

/-- A range put in place by module and first core (R30). -/
def insertRange (r : CoreRange) : List CoreRange → List CoreRange
  | [] => [r]
  | x :: xs => if r.modOrd < x.modOrd ∨ (r.modOrd = x.modOrd ∧ r.first < x.first) then r :: x :: xs
    else x :: insertRange r xs

/-- Whether a die of this module is fenced (R31, R234). -/
def State.fenced (s : State) (die : Nat) : Bool := (NMap.findD {} die s.sec.cfg.maps).fenced

/-- The cores of ranges in relay-chain order, those of fenced dies left out; which dies of other members a LAUNCH finds
fenced is open, since no message tells (R30, R31, log 112). -/
def State.chainOf (s : State) (lnum : Nat) (rs : List CoreRange) : List (Nat × Nat) :=
  let here := s.here
  (((rs.foldl (fun l r => insertRange r l) []).map (fun r =>
    (List.range r.count).map (fun i => (r.modOrd, r.first + i)))).flatten).filter (fun c =>
      !(if c.1 = here then s.fenced (dieOfCore c.2) else Config.farFenced lnum c.1 (dieOfCore c.2)))

/-- The whole walk from a span record. -/
def State.spanOf (s : State) (ctx a : Nat) : Chk Walk :=
  (s.spanNent ctx a 128).bind (fun n => s.walkSpan ctx 40000 [(a, n, 0)] { recs := [a] })

/-! ### LAUNCH (R393 to R395) -/

/-- The operands of a LAUNCH. -/
def launchFields (d : BitVec 512) (lnum : Nat) : LaunchFields :=
  { spanRec := (d.extractLsb' 128 64), pc := d.extractLsb' 192 64, args := d.extractLsb' 256 64
    gx := field d 351 320, gy := field d 383 352, gz := field d 415 384
    nthread := field d 426 416, regs := field d 430 427, oldest := bitAt d 431, matrix := bitAt d 432
    extv := bitAt d 433, budget := field d 447 434, ext := BitVec.ofNat 64 (field d 511 454 * 64)
    done := bitAt d 34, lnum := lnum }

/-- The checks of the fields of the descriptor, lowest first (R389, R394). -/
def launchFieldsOk (f : LaunchFields) : Chk Unit :=
  (Chk.need (decide (f.spanRec.toNat % 64 = 0) && canonical f.spanRec.toNat) 9 128 0).bind fun _ =>
  (Chk.need (decide (f.pc.toNat % 8 = 0) && canonical f.pc.toNat) 10 192 0).bind fun _ =>
  (Chk.need (decide (f.gx ≠ 0)) 10 320 0).bind fun _ =>
  (Chk.need (decide (f.gy = 0) || decide (f.gz = 0) || decide (f.gx * f.gy * f.gz < 2 ^ 32)) 10 320 0).bind fun _ =>
  (Chk.need (decide (f.gy ≠ 0)) 10 352 0).bind fun _ =>
  (Chk.need (decide (f.gz ≠ 0)) 10 384 0).bind fun _ =>
  (Chk.need (decide (1 ≤ f.nthread) && decide (f.nthread ≤ 1536) &&
    (decide (f.regs > 14) || (decide (groupsPerTile f * (2 + f.regs) ≤ 192) && decide (groupsPerTile f ≤ 48)))) 10 416 0).bind
      fun _ =>
  (Chk.need (decide (f.regs ≤ 14)) 10 427 0).bind fun _ =>
  (Chk.need (decide (f.budget = 0) || (decide (10 ≤ f.budget) && decide (f.budget ≤ 10000))) 10 434 0).bind fun _ =>
  Chk.need (!f.extv || canonical f.ext.toNat) 9 454 0

/-- The handles of a launch's list, each checked; they pin their entries (R369, R395). -/
def State.listHandles (s : State) (ctx a : Nat) : Nat → Chk (List Nat)
  | 0 => .ok []
  | n + 1 =>
    (s.chkRead ctx a 4 0xFFFF).bind fun h =>
    (s.checkHandle ctx h 0xFFFF).bind fun _ =>
    (s.listHandles ctx (a + 4) n).bind fun hs => .ok (h % 2 ^ 20 :: hs)

/-- What a launch extension gives: stream programs, bound hasp lines by number, and handle indexes. -/
structure LaunchExt where
  sprogs : List Nat := []
  hspans : NMap Nat := []
  pins   : List Nat := []
  deriving DecidableEq, Repr, Inhabited

/-- Whether the records that hasp lines are bound to stand among those of the span's walk; of a walk that fails, only
whether they could stand in any (R389, R394). -/
def hspansNamed (hs : NMap Nat) (walk : Chk Walk) : Chk Bool :=
  match walk with
  | .ok w => .ok (hs.all (fun h => w.recs.contains h.2))
  | .page va => if hs.isEmpty then .ok true else .page va
  | _ => .ok (hs.all (fun h => h.2 % 64 == 0 && canonical h.2))

/-- A launch extension read and checked, field by field, beside the walk of the span record (R389, R394, R395). -/
def State.launchExt (s : State) (ctx : Nat) (f : LaunchFields) (walk : Chk Walk) : Chk LaunchExt :=
  if f.extv = false then .ok {}
  else
    let a := f.ext.toNat
    (s.chkRead ctx a 256 454).bind fun x =>
    let sprogs := (List.range 4).map (fun i => nfield x (64 * i + 63) (64 * i))
    let hspans : NMap Nat := ((List.range 16).map (fun i => (i, nfield x (319 + 64 * i) (256 + 64 * i)))).filter (fun h => h.2 != 0)
    let hlist := nfield x 1343 1280
    let n := nfield x 1354 1344
    (Chk.need (f.matrix || sprogs.all (· == 0)) 10 0xFFFF a).bind fun _ =>
    (hspansNamed hspans walk).bind fun named =>
    (Chk.need named 10 0xFFFF a).bind fun _ =>
    (Chk.need (decide (n = 0) || (decide (hlist % 4 = 0) && canonical hlist)) 9 0xFFFF a).bind fun _ =>
    (Chk.need (decide (n ≤ 1024)) 10 0xFFFF a).bind fun _ =>
    (s.listHandles ctx hlist n).bind fun pins => .ok { sprogs := sprogs, hspans := hspans, pins := pins }

/-- The cores of each bound hasp line (R343). -/
def State.haspCores (s : State) (lnum : Nat) (w : Walk) (hs : NMap Nat) : NMap (List (Nat × Nat)) :=
  hs.map (fun h => (h.1, s.chainOf lnum (w.ranges.filter (fun r => r.under.contains h.2))))

/-- A LAUNCH checked at fetch: its launch and the handles it pins, or its failure (R389, R394). -/
def State.checkLaunch (s : State) (ctx ring count : Nat) (d : BitVec 512) : Chk (Launch × List Nat) :=
  let f := launchFields d s.fe.lnum
  (launchFieldsOk f).bind fun _ =>
  let walk := s.spanOf ctx f.spanRec.toNat
  (s.launchExt ctx f walk).bind fun x =>
  walk.bind fun w =>
  let chain := s.chainOf f.lnum w.ranges
  (Chk.need (!chain.isEmpty) 10 128 0).bind fun _ =>
  let away := if s.span.state = SpanState.leaving then chain.filter (fun c => c.1 != s.here) else []
  (Chk.need away.isEmpty 14 0 (away.headD (0, 0)).1).bind fun _ =>
  let total := f.gx * f.gy * f.gz
  (Chk.need (x.hspans.isEmpty || decide (total ≤ tilesPerCore f * chain.length)) 10 320 0).bind fun _ =>
  .ok ({ ctx := ctx, ring := ring, count := count, fields := f, chain := chain, homes := chain, hasps := s.haspCores f.lnum w x.hspans
         sprogs := x.sprogs, total := total, scid := if s.span.sctab = 0 then 0 else s.cohNat (s.span.sctab + 4 * ctx) 4 % 65536
         tag := s.tagNow }, x.pins)

/-! ### COPY, CONVERT and FILL (R398, R399) -/

/-- Whether CVT, and so CONVERT, takes a format (R127). -/
def convertFmt (t : Nat) : Bool := !(t == 4 || t == 5 || t == 15)

/-- A range of an object checked against its entry: an offset aligned to `al`, and `len` bytes within SIZE. -/
def rangeOk (off len size al field : Nat) : Chk Unit :=
  Chk.need (decide (off % al = 0) && decide (off + len ≤ size)) 9 field 0

/-- Bytes of `n` elements of a format. -/
def elemBytes (fmt n : Nat) : Nat := typeBits fmt * n / 8

/-- Tiles of a command that writes so many bytes (R399). -/
def moveTiles (bytes : Nat) : Nat := ceilDiv bytes (2 ^ 21)

/-- COPY, CONVERT or FILL (opcodes 2 to 4) checked at fetch: its launch and the handles it pins. -/
def State.checkMove (s : State) (ctx ring count op : Nat) (d : BitVec 512) : Chk (Launch × List Nat) :=
  let sh := field d 159 128
  let dh := field d 191 160
  let soff := field d 255 192
  let doff := field d 319 256
  let len := field d 383 320
  let sfmt := if op = 3 then field d 387 384 else 0
  let dfmt := if op = 3 then field d 391 388 else 0
  let sbytes := if op = 3 then elemBytes sfmt len else len
  let dbytes := if op = 3 then elemBytes dfmt len else len
  let sal := if op = 3 then Nat.max 1 (typeBits sfmt / 8) else 1
  let dal := if op = 3 then Nat.max 1 (typeBits dfmt / 8) else if op = 4 then 8 else 1
  (if op = 4 then (.ok 0 : Chk Nat) else s.checkHandle ctx sh 128).bind fun se =>
  (s.checkHandle ctx dh 160).bind fun de =>
  (Chk.need (!de.testBit 176) 8 160 dh).bind fun _ =>
  (if op = 4 then (.ok () : Chk Unit) else rangeOk soff sbytes (nfield se 127 64) sal 192).bind fun _ =>
  (rangeOk doff dbytes (nfield de 127 64) dal 256).bind fun _ =>
  (Chk.need (decide (1 ≤ len) && (op != 4 || len % 8 == 0) &&
    !(op == 3 && len % 2 == 1 && (typeBits sfmt == 4 || typeBits dfmt == 4))) 9 320 0).bind fun _ =>
  (Chk.need (op != 3 || (convertFmt sfmt && sfmt != dfmt)) 7 384 0).bind fun _ =>
  (Chk.need (op != 3 || convertFmt dfmt) 7 388 0).bind fun _ =>
  (Chk.need (op != 3 || decide (field d 394 392 ≤ 3)) 7 392 0).bind fun _ =>
  let src := nfield se 63 0 + soff
  let dst := nfield de 63 0 + doff
  let kind : LaunchKind := if op = 4 then .fill dst len (d.extractLsb' 448 64)
    else .copy src dst len (BitVec.ofNat 4 sfmt) (BitVec.ofNat 4 dfmt) (d.extractLsb' 392 3) (op == 3 && bitAt d 395)
  .ok ({ ctx := ctx, ring := ring, count := count, kind := kind, total := moveTiles dbytes, tag := s.tagNow
         fields := { done := bitAt d 34 } },
       if op = 4 then [dh % 2 ^ 20] else [sh % 2 ^ 20, dh % 2 ^ 20])

end Sys2Proof.Machine
end

