-- ==== Sys2Proof/Machine/Control.lean ====
section
/-! DEFINITION. Branches, calls and NOP, uniform arithmetic, special values and BRK (R60, R61, R72, R75, R78, R83, R100,
R101, R139 to R141). -/

namespace Sys2Proof.Machine

/-! ### Branches -/

/-- The address of the target of BRA and CALL: pc + 8 × TOFF (R139). -/
def branchTarget (pc : DWord) (e : Enc) : DWord := pc + 8 * e.imm.signExtend 64

/-- RPCOFF of BRA, bits [47:24] of the word (R139). -/
def braRpc (e : Enc) : BitVec 24 := e.dst ++ e.srcA ++ e.srcB

/-- A divergent branch taken: the rejoin entry, then the entries of the other targets, the lowest target or the
fall-through path running first (R60, R61). `paths` are target and lanes, the one that runs first at the head. -/
def State.diverge (s : State) (g : Site) (x : Group) (lanes : LaneMask) (rpc : DWord)
    (paths : List (DWord × LaneMask)) : Done :=
  match paths with
  | [] => .step s
  | (t, m) :: rest =>
    if x.stack.length + paths.length > 32 then .fault 2 0 (lowestLane lanes) 0
    else
      let es : List StackEntry := rest.map (fun p => { pc := p.1, rpc := some rpc, mask := p.2 })
      .jump (s.setGroup g { x with
        stack := es ++ [{ pc := rpc, rpc := x.crpc, mask := x.active }] ++ x.stack
        active := m, crpc := some rpc }) t

/-- BRA: uniform, or divergent with the fall-through path first (R60, R139). -/
def execBra (site : Site) (e : Enc) (s : State) : Host.Outcome State Fault Refusal :=
  let plain := e.pred == 0 && !e.neg
  okay (s.issue site e
    (fun _ _ => { rsv := e.type != 0 || (if plain then braRpc e != 0 else braRpc e == 0) })
    (fun _ => true)
    (fun x lanes =>
      let tgt := branchTarget x.pc e
      if lanes = x.active then .jump s tgt
      else s.diverge site x lanes (x.pc + 8 * (braRpc e).setWidth 64)
        [(x.pc + 8, x.active &&& ~~~lanes), (tgt, lanes)]))

/-- A list without repeats, rising. -/
def sortedNew (v : Nat) : List Nat → List Nat
  | [] => [v]
  | w :: ws => if v < w then v :: w :: ws else if v = w then w :: ws else w :: sortedNew v ws

/-- BRX: each active lane with a true guard goes to the target in its t pair, the others to the next instruction
(R60, R83, R139). A misaligned target is reported before an overflow of the stack (DESIGN CHOICE, log 124). -/
def execBrx (site : Site) (e : Enc) (s : State) : Host.Outcome State Fault Refusal :=
  okay (s.issue site e
    (fun _ _ => { ops := [(.none, e.d), (.t2, e.a), (.none, e.b)], rsv := e.type != 0 || e.imm == 0 })
    (fun _ => true)
    (fun x lanes =>
      let target (l : Nat) : DWord := if lanes.getLsbD l then x.rt2 l e.a else x.pc + 8
      let active := lanesOf x.active
      let ts := active.foldl (fun ts l => sortedNew (target l).toNat ts) []
      let paths := ts.map (fun t => (BitVec.ofNat 64 t, maskOf (active.filter (fun l => (target l).toNat == t))))
      match (lanesOf lanes).find? (fun l => (target l).toNat % 8 != 0) with
        | some l => .fault 4 5 l (target l).toNat
        | none =>
          match paths with
          | [(t, _)] => .jump s t
          | _ => s.diverge site x lanes (x.pc + 8 * e.imm.setWidth 64) paths))

/-- The illegal-instruction DETAIL of a guard that is true on some active lanes only (R78). -/
def callGuard (x : Group) (lanes : LaneMask) : List Nat := if lanes = x.active then [] else [4]

/-- CALL: the address of the next instruction into a u register, and a branch (R100, R140). -/
def execCall (site : Site) (e : Enc) (s : State) : Host.Outcome State Fault Refusal :=
  okay (s.issue site e
    (fun x lanes => { ops := [(.u, e.d), (.none, e.a), (.none, e.b)], rsv := e.type != 0, extra := callGuard x lanes })
    (fun _ => true)
    (fun x _ => .jump (s.setGroup site (x.wu e.d (x.pc + 8))) (branchTarget x.pc e)))

/-- RET: a branch to the address in a u register (R83, R100, R140). -/
def execRet (site : Site) (e : Enc) (s : State) : Host.Outcome State Fault Refusal :=
  okay (s.issue site e
    (fun x lanes => { ops := [(.none, e.d), (.u, e.a), (.none, e.b)], rsv := e.type != 0 || e.imm != 0
                      extra := callGuard x lanes })
    (fun _ => true)
    (fun x lanes =>
      let t := x.ru e.a
      if t.toNat % 8 ≠ 0 then .fault 4 5 (lowestLane lanes) t.toNat else .jump s t))

/-- A word whose operand fields are all unused holds a reserved value (R140, R142). -/
def plainRsv (e : Enc) : Bool :=
  e.type != 0 || e.dst != 0 || e.srcA != 0 || e.srcB != 0 || e.imm != 0

/-- NOP (R100). -/
def execNop (site : Site) (e : Enc) (s : State) : Host.Outcome State Fault Refusal :=
  okay (s.issue site e (fun _ _ => { rsv := plainRsv e }) (fun _ => true) (fun _ _ => .step s))

/-! ### Uniform arithmetic (R72, R85, R140) -/

/-- The uniform operation of a code. -/
def uniOp (code : Nat) (a b : DWord) : DWord :=
  let n := b.toNat % 64
  match code with
  | 0 => a + b
  | 1 => a - b
  | 2 => a * b
  | 3 => a &&& b
  | 4 => a ||| b
  | 5 => a ^^^ b
  | 6 => a <<< n
  | 7 => a >>> n
  | 8 => a.sshiftRight n
  | 9 => if a.toInt ≤ b.toInt then a else b
  | 10 => if a.toInt ≥ b.toInt then a else b
  | 11 => if a.toNat ≤ b.toNat then a else b
  | 12 => if a.toNat ≥ b.toNat then a else b
  | _ => a

/-- UOP: 64-bit arithmetic on u registers. -/
def execUop (site : Site) (e : Enc) (s : State) : Host.Outcome State Fault Refusal :=
  okay (s.issueReg site e
    (fun _ _ => { ops := [(.u, e.d), (.u, e.a), (if e.sub = 13 then .none else .u, e.b), (.none, e.c)]
                  rsv := e.type != 2 || decide (e.sub > 13) || field e.mods 11 0 != 0 })
    (fun x _ => x.wu e.d (uniOp e.sub (x.ru e.a) (x.ru e.b))))

/-- UOP_I: the immediate, sign-extended, as the second operand; move copies it. -/
def execUopI (site : Site) (e : Enc) (s : State) : Host.Outcome State Fault Refusal :=
  okay (s.issueReg site e
    (fun _ _ => { ops := [(.u, e.d), (if e.subI = 13 then .none else .u, e.a)]
                  rsv := e.type != 2 || decide (e.subI > 13) || field e.srcB 7 4 != 0 })
    (fun x _ => x.wu e.d (if e.subI = 13 then e.imm64 else uniOp e.subI (x.ru e.a) e.imm64)))

/-- The predicate that a uniform compare writes, in each active lane with a true guard (R73, R77, R140). -/
def uniCompare (x : Group) (e : Enc) (lanes : LaneMask) (code : Nat) (b : DWord) : Group :=
  x.wp e.d lanes (if condInt code (intOf e.type.toNat (x.ru e.a)) (intOf e.type.toNat b) then BitVec.allOnes 32 else 0)

/-- UCMP. -/
def execUcmp (site : Site) (e : Enc) (s : State) : Host.Outcome State Fault Refusal :=
  okay (s.issueReg site e
    (fun _ _ => { ops := [(.p, e.d), (.u, e.a), (.u, e.b), (.none, e.c)]
                  rsv := (e.type != 2 && e.type != 3) || decide (e.sub > 5) || field e.mods 11 0 != 0 })
    (fun x lanes => uniCompare x e lanes e.sub (x.ru e.b)))

/-- UCMP_I. -/
def execUcmpI (site : Site) (e : Enc) (s : State) : Host.Outcome State Fault Refusal :=
  okay (s.issueReg site e
    (fun _ _ => { ops := [(.p, e.d), (.u, e.a)]
                  rsv := (e.type != 2 && e.type != 3) || decide (e.subI > 5) || field e.srcB 7 4 != 0 })
    (fun x lanes => uniCompare x e lanes e.subI e.imm64))

/-! ### Special values (R75, R141) -/

/-- The special values that differ between lanes. -/
def srPerLane (name : Nat) : Bool := name == 0 || name == 1

/-- The names SREAD accepts. -/
def srNames : List Nat := [0, 1, 2, 3, 4, 8, 9, 10, 12, 13, 14, 16, 17, 18, 20, 21, 24, 32, 33]

/-- The value of a name that does not differ between lanes. -/
def State.srValue (s : State) (g : Site) (x : Group) (name : Nat) : Nat :=
  let t := (s.tile? g.core x.tile).getD default
  let l := (s.launch? t.launch).getD default
  let gx := l.fields.gx
  let gy := l.fields.gy
  match name with
  | 2 => x.index
  | 3 => t.nthread
  | 4 => x.active.toNat
  | 8 => t.index % gx
  | 9 => t.index / gx % gy
  | 10 => t.index / gx / gy
  | 12 => gx
  | 13 => gy
  | 14 => l.fields.gz
  | 16 => g.core
  | 17 => dieOfCore g.core
  | 18 => s.here
  | 20 => (l.chain.findIdx? (fun c => c.1 == s.here && c.2 == g.core)).getD 0
  | 21 => l.chain.length
  | 24 => s.timeCopy (dieOfCore g.core)
  | 32 => x.fflags.toNat
  | _ => x.frm.toNat

/-- Reading sr.time fixes the value of the die's copy; reading sr.core, sr.die or sr.spanrank makes the tile core-bound
(R44, R228). -/
def State.srRead (s : State) (g : Site) (x : Group) (name : Nat) : State :=
  if name = 24 then
    s.seeTime (dieOfCore g.core)
  else if name = 16 ∨ name = 17 ∨ name = 20 then s.updTile g.core x.tile (fun t => { t with coreBound := true })
  else s

/-- SREAD: a special value into a u register, or into a t register where it differs between lanes. -/
def execSread (site : Site) (e : Enc) (s : State) : Host.Outcome State Fault Refusal :=
  let name := field e.imm 7 0
  let known := srNames.contains name
  okay (s.issue site e
    (fun _ _ => { ops := [(.none, e.a), (.none, e.b)] ++
                    (if known then [(if srPerLane name then .t else .u, e.d)] else [])
                  rsv := e.type != 0 || field e.imm 23 8 != 0, extra := if known then [] else [3] })
    (fun _ => true)
    (fun x lanes =>
      if srPerLane name then
        s.put site (x.wts e.d (fun l => BitVec.ofNat 32 (if name = 0 then l else NMap.findD 0 l x.tids)) (lanesOf lanes))
      else (s.srRead site x name).put site (x.wu e.d (BitVec.ofNat 64 (s.srValue site x name)))))

/-- SWRITE: sr.fflags or sr.frm from a u register. -/
def execSwrite (site : Site) (e : Enc) (s : State) : Host.Outcome State Fault Refusal :=
  let name := field e.imm 7 0
  okay (s.issueReg site e
    (fun _ _ => { ops := [(.none, e.d), (.u, e.a), (.none, e.b)], rsv := e.type != 0 || field e.imm 23 8 != 0
                  extra := if name = 32 ∨ name = 33 then [] else [3] })
    (fun x _ =>
      if name = 32 then { x with fflags := (x.ru e.a).setWidth 5 } else { x with frm := (x.ru e.a).setWidth 2 }))

/-! ### BRK (R101) -/

/-- BRK: once the group's loads and atomics are done (R102, log 13), completes, and stops the group at the next instruction as a debug event with its code where an active token holds halt rights over the
ward; otherwise a no-op (R101, R516). -/
def execBrk (site : Site) (e : Enc) (s : State) : Host.Outcome State Fault Refusal :=
  okay (s.issue site e
    (fun _ _ => { ops := [(.none, e.d), (.none, e.a), (.none, e.b)], rsv := e.type != 0 || field e.imm 23 16 != 0 })
    (fun x => x.drained)
    (fun x _ =>
      if s.hasRight 0 (s.wardOf site) then
        let y := x.goTo (x.pc + 8)
        .fin ((s.setGroup site y).halt site (4 + (if x.stepping then 2 else 0)) 0 0 (field e.imm 15 0) y.pc.toNat)
      else .step s))

end Sys2Proof.Machine
end

