-- ==== Sys2Proof/Machine/Matrix.lean ====
section
/-! DEFINITION. Issue of matrix instructions: their operands, the matrix conditions, collective divergence and the
translation of their memory extents (R69, R132 to R134, R148 to R156, R162, R165, R169, R174, R205, R223). -/

namespace Sys2Proof.Machine

/-! ### Regions and conditions -/

/-- The open region of a group, none once its MCLOSE has issued. -/
def State.regionOf (s : State) (g : Site) : Option Region :=
  match (s.core g.core).region with
  | some r => if r.place = g.place ∧ r.closing = false then some r else none
  | none => none

/-- Whether the group's tile owns the array: its LAUNCH sets the matrix flag (R148). -/
def State.matrixTile (s : State) (g : Site) (x : Group) : Bool :=
  match s.tile? g.core x.tile with
  | some t => t.matrix
  | none => false

/-- The conditions of R69 for a matrix instruction. -/
def State.divergent (s : State) (g : Site) (x : Group) (lanes : LaneMask) : Bool :=
  lanes != x.active || (match s.regionOf g with
    | some r => (r.lanes &&& ~~~x.active) != 0 || decide (x.stack.length > r.depth)
    | none => false)

/-- A matrix condition as an illegal-instruction DETAIL (R104, R156). -/
def mcond (bad : Bool) : List Nat := if bad then [5] else []

/-- The matrix conditions on the region: the matrix flag, and being inside a region or outside one (R156). -/
def State.regionCond (s : State) (g : Site) (x : Group) (inside : Bool) : List Nat :=
  mcond (!s.matrixTile g x || (s.regionOf g).isSome != inside)

/-- Fields [hi:lo] of a u register. -/
def Group.uf (x : Group) (r hi lo : Nat) : Nat := field (x.ru r) hi lo

/-- Decoding of a matrix instruction: its u operands, whether a reserved value stands in MOD or TYPE, and the matrix
conditions it meets (R132). -/
def matDec (a b c : Bool) (rsv : Bool) (conds : List Nat) (e : Enc) : Dec :=
  { ops := [(.none, e.d), (if a then .u else .none, e.a), (if b then .u else .none, e.b), (if c then .u else .none, e.c)]
    rsv := rsv, extra := conds }

/-- TYPE codes of MLOAD, MSTAT and MMA, of MDRAIN, and those that MX and BSEP accept (R134). -/
def matTypes : List Nat := [4, 5, 6, 7, 8, 9, 10, 11, 12, 13, 14]
def drainTypes : List Nat := [1, 6, 7, 8, 9, 10, 11]
def mxTypes : List Nat := [10, 11, 12, 13, 14]
def bsepTypes : List Nat := [10, 11, 12, 13]

/-- A chuck extent ends beyond the last byte (R156). -/
def beyondChuck (offset n : Nat) : Bool := decide (offset + n > 0x100000)

/-- Issue of a matrix instruction: collective divergence after the illegal-instruction checks (R69, R105). -/
def State.issueMatrix (s : State) (g : Site) (e : Enc) (dec : Group → LaneMask → Dec) (ready : Group → Bool)
    (eff : Group → LaneMask → Done) : State :=
  s.issue g e dec ready (fun x lanes =>
    if s.divergent g x lanes then .fault 3 0 (lowestLane lanes) 0 else eff x lanes)

/-- A queued instruction put behind the others (R152). -/
def State.enqueue (s : State) (g : Site) (x : Group) (lanes : LaneMask) (i : MInstr) : State :=
  (s.setGroup g { x with order := x.order + 1 }).updCore g.core (fun k => { k with
    queue := k.queue ++ [{ place := g.place, order := x.order, pc := x.pc, lane := lowestLane lanes, instr := i }] })

/-- Whether the array queue has an entry free (R152). -/
def State.queueReady (s : State) (g : Site) : Bool := decide ((s.core g.core).queue.length < 8)

/-! ### Translated extents -/

/-- The pages of rows of bytes, each with the first address used in it. -/
def pagesOf (rows : List (Nat × Nat)) : List (Nat × Nat) :=
  (rows.map (fun r =>
    let va := r.1 % 2 ^ 64
    if r.2 = 0 then [] else
    (List.range ((va % 4096 + r.2 + 4095) / 4096)).map (fun i =>
      (va / 4096 + i, if i = 0 then va else (va / 4096 + i) * 4096)))).flatten

/-- A target moved back to the base of its page. -/
def pageBase (va : Nat) (t : Target) : Target :=
  let n := va % 4096
  match t with
  | .cache pa => .cache (pa - n)
  | .uncached pa => .uncached (pa - n)
  | .share d a b => .share d (a - n) (b.map (· - n))
  | .window p pa c => .window p (pa - n) c
  | .mmio pa => .mmio (pa - n)

/-- Every page of an extent translated: the lowest DETAIL faults at its first page, a page without a translation is
requested, otherwise the targets of the pages' bases (R84, R105, R162, R174). -/
def State.extent (s : State) (g : Site) (k : AccKind) (lane : Nat) (rows : List (Nat × Nat)) :
    Except Done (List (Nat × Target)) :=
  match (s.groupView g).checkLanes (s.ctxOf g) 1 k ((pagesOf rows).map (fun p => (lane, p.2))) with
  | .error d => .error d
  | .ok accs => .ok (accs.map (fun a => (a.va / 4096, pageBase a.va a.tgt)))

/-- The lowest watchpoint that an extent overlaps: lane 0 and the first overlapping address (R510). -/
def State.watchExtent (s : State) (g : Site) (kind : Nat) (rows : List (Nat × Nat)) : Option (Nat × Nat × Nat) :=
  let ward := s.wardOf g
  if s.hasRight 0 ward then
    (List.range 8).findSome? (fun n =>
      let w := NMap.findD {} n (s.core g.core).wps
      let log := field w.ctl 19 14
      if bitAt w.ctl 0 && field w.ctl 10 1 == ward && bitAt w.ctl (11 + kind) && decide (3 ≤ log) && decide (log ≤ 32) then
        let base := w.addr.toNat / 2 ^ log * 2 ^ log
        (rows.find? (fun r => decide (r.1 < base + 2 ^ log) && decide (base < r.1 + r.2))).map
          (fun r => (n, 0, Nat.max r.1 base))
      else none)
  else none

/-! ### Instructions -/

/-- MSHAPE: the group's pending shape (R133, R149). -/
def execMshape (site : Site) (e : Enc) (s : State) : Host.Outcome State Fault Refusal :=
  okay (s.issueMatrix site e
    (fun x _ => matDec false false false (e.type != 0 || decide (e.mods.toNat > 5)) (s.regionCond site x false) e)
    (fun _ => true)
    (fun x _ => s.put site { x with shape := e.mods.setWidth 3 }))

/-- MOPEN: opens a region when none is open on the core; its lanes are those that hold threads (R69, R150). -/
def execMopen (site : Site) (e : Enc) (s : State) : Host.Outcome State Fault Refusal :=
  okay (s.issueMatrix site e
    (fun x _ => matDec false false false (e.type != 0 || decide (e.mods.toNat > 1)) (s.regionCond site x false) e)
    (fun _ => (s.core site.core).region.isNone)
    (fun x lanes =>
      if (x.threads &&& ~~~x.active) != 0 then .fault 3 0 (lowestLane lanes) 0
      else .step (s.updCore site.core (fun k => { k with
        region := some { place := site.place, shape := x.shape, stat := bitAt e.mods 0, lanes := x.threads
                         depth := x.stack.length }
        acc := [] }))))

/-- MCLOSE: closes the region when every earlier instruction of it has finished (R154). -/
def execMclose (site : Site) (e : Enc) (s : State) : Host.Outcome State Fault Refusal :=
  okay (s.issueMatrix site e
    (fun x _ => matDec false false false (e.type != 0 || e.mods != 0) (s.regionCond site x true) e)
    (fun _ => s.queueReady site)
    (fun x lanes => .step ((s.enqueue site x lanes .mclose).updCore site.core (fun k => { k with
      region := k.region.map (fun r => { r with closing := true }) }))))

/-- Decoding of MLOAD (R156, R162). -/
def State.mloadDec (s : State) (site : Site) (e : Enc) (x : Group) : Dec :=
  let reg := (s.regionOf site).getD default
  let panelB := bitAt e.mods 0
  let fmt := e.type.toNat
  let depth := x.uf e.b 31 16
  let n := if reg.stat then packedBytes fmt depth
    else ceilDiv depth (matG fmt) * (if panelB then shapeW reg.shape else shapeH reg.shape) * matBytes fmt
  matDec true true false (!matTypes.contains fmt || decide (e.mods.toNat > 1))
    (s.regionCond site x true ++ mcond (depth == 0 || fmt == 6 ||
      (reg.stat && (panelB || x.uf e.b 63 32 != 0)) || beyondChuck (16 * x.uf e.b 15 0) n)) e

/-- MLOAD: copies a panel from memory into the chuck (R162). -/
def execMload (site : Site) (e : Enc) (s : State) : Host.Outcome State Fault Refusal :=
  let reg := (s.regionOf site).getD default
  let panelB := bitAt e.mods 0
  let fmt := e.type.toNat
  okay (s.issueMatrix site e
    (fun x _ => s.mloadDec site e x)
    (fun x => s.queueReady site && x.fence.isNone && x.atoms.isEmpty)
    (fun x lanes =>
      let va := (x.ru e.a).toNat
      let pitch := x.uf e.b 63 32
      let rows := mloadRows reg.stat panelB reg.shape fmt va (x.uf e.b 31 16) pitch
      if va % 16 ≠ 0 ∨ pitch % 16 ≠ 0 then .fault 4 0 (lowestLane lanes) va
      else match s.extent site .read (lowestLane lanes) rows with
        | .error d => d
        | .ok pages => .watch
            ((s.translated (s.ctxOf site) .read (pages.map (fun p => p.1 * 4096))).enqueue site x lanes (.mload panelB fmt va (16 * x.uf e.b 15 0) (x.uf e.b 31 16) pitch pages))
            (s.watchExtent site 0 rows)))

/-- Decoding of MSTAT (R156, R169). -/
def State.mstatDec (s : State) (site : Site) (e : Enc) (x : Group) : Dec :=
  let fmt := e.type.toNat
  let mx := bitAt (x.ru e.b) 9
  let kcb := x.uf e.b 8 0
  let soff := x.uf e.a 39 32
  let epb := matEpb fmt
  matDec true true false (!matTypes.contains fmt || e.mods != 0)
    (s.regionCond site x true ++ mcond (x.uf e.a 63 40 != 0 || x.uf e.b 63 10 != 0 || (!mx && x.uf e.a 31 16 != 0) ||
      kcb == 0 || decide (kcb > 256) || fmt == 6 || soff % 8 != 0 || decide (soff + kcb > 256) ||
      (mx && (soff * epb % 32 != 0 || kcb * epb % 32 != 0)) || beyondChuck (16 * x.uf e.a 15 0) (kcb * 1024) ||
      (mx && beyondChuck (16 * x.uf e.a 31 16) (kcb * epb / 32 * 1024)))) e

/-- MSTAT: copies planes from the chuck into the stationary stores (R169). -/
def execMstat (site : Site) (e : Enc) (s : State) : Host.Outcome State Fault Refusal :=
  let fmt := e.type.toNat
  okay (s.issueMatrix site e
    (fun x _ => s.mstatDec site e x)
    (fun _ => s.queueReady site)
    (fun x lanes => .step (s.enqueue site x lanes (.mstat fmt (16 * x.uf e.a 15 0) (16 * x.uf e.a 31 16) (x.uf e.a 39 32)
      (x.uf e.b 8 0) (bitAt (x.ru e.b) 9)))))

/-- Whether a core has a core before it in a direction of the relay chain of its matrix tile's LAUNCH, from which a
receive adds a message (R205, R206). -/
def State.hasPrev (s : State) (core : Nat) (dir : Bool) : Bool :=
  match ((s.regionTile core).bind (s.tile? core)).bind (fun t => s.launch? t.launch) with
  | some l => (chainNext l.chain (!dir) (s.here, core)).isSome
  | none => false

/-- Whether a set is valid for an instruction issued now: it is, or a queued instruction before it makes it so (R173,
R206, R207). -/
def State.willBeValid (s : State) (core a : Nat) : Bool :=
  let k := s.core core
  (k.accSet a).valid || (k.queue ++ k.running).any (fun m => match m.instr with
    | .mma _ _ b add _ _ _ _ _ _ _ _ => b == a && !add
    | .mrelay b role dir => b == a && role != 0 && s.hasPrev core dir
    | _ => false)

/-- The format a granule of a cell's store will have when the instructions queued have started (R168, R169). -/
def Core.granuleFmt (k : Core) (cell gran : Nat) : Option Nat :=
  k.queue.foldl (fun f m => match m.instr with
    | .mstat fmt _ _ soff kcb _ => if (granulesOf soff kcb).contains gran then some fmt else f
    | _ => f) ((NMap.find (cell * 32 + gran) k.fmts).map (·.toNat))

/-- Decoding of MMA (R134, R156, R164, R165, R170). -/
def State.mmaDec (s : State) (site : Site) (e : Enc) (x : Group) : Dec :=
  let reg := (s.regionOf site).getD default
  let fmt := e.type.toNat
  let acc := field e.mods 1 0
  let add := bitAt e.mods 2
  let mx := bitAt e.mods 3
  let bsep := bitAt e.mods 4
  let bf := field e.mods 8 5
  let fast := bitAt e.mods 9
  let bfmt := if bsep then bf else fmt
  let k := s.core site.core
  let depth := x.uf e.c 15 0
  let soff := x.uf e.c 55 48
  let h := shapeH reg.shape
  let w := shapeW reg.shape
  let g := matG fmt
  let q := ceilDiv depth g
  let blocks := ceilDiv depth 32
  let panel := fun n => if fmt = 6 then ceilDiv (7 * q * n * 8) 16 * 16 + 2 * n else q * n * matBytes fmt
  let kc := stationaryKc mx h g depth
  let used := packedBytes bfmt kc
  let rsv := !matTypes.contains fmt || field e.mods 15 10 != 0 || (mx && !mxTypes.contains fmt) ||
    (mx && bsep && !mxTypes.contains bf) || (!bsep && bf != 0) ||
    (bsep && !(bsepTypes.contains fmt && bsepTypes.contains bf)) || (fast && fmt != 6)
  let common := x.uf e.a 63 16 != 0 || x.uf e.c 63 56 != 0 || (!mx && (x.uf e.c 31 16 != 0 || x.uf e.c 47 32 != 0)) ||
    depth == 0 || (add && !s.willBeValid site.core acc)
  let streamed := x.uf e.b 63 16 != 0 || soff != 0 || beyondChuck (16 * x.uf e.a 15 0) (panel h) ||
    beyondChuck (16 * x.uf e.b 15 0) (panel w) ||
    (mx && (beyondChuck (16 * x.uf e.c 31 16) (blocks * h) || beyondChuck (16 * x.uf e.c 47 32) (blocks * w)))
  let stationary := x.uf e.c 47 32 != 0 || fmt == 6 || soff % 8 != 0 || decide (soff + used > 256) ||
    beyondChuck (16 * x.uf e.a 15 0) (packedBytes fmt depth) || (mx && soff * matEpb bfmt % 32 != 0) ||
    (mx && beyondChuck (16 * x.uf e.c 31 16) blocks) ||
    (granulesOf soff used).any (fun gr => (List.range 1024).any (fun i => k.granuleFmt i gr != some bfmt))
  matDec true (!reg.stat) true rsv
    (s.regionCond site x true ++ mcond (common || (if reg.stat then stationary else streamed))) e

/-- MMA: a streamed or stationary multiply-accumulate (R164, R165, R170). -/
def execMma (site : Site) (e : Enc) (s : State) : Host.Outcome State Fault Refusal :=
  let fmt := e.type.toNat
  let bfmt := if bitAt e.mods 4 then field e.mods 8 5 else fmt
  okay (s.issueMatrix site e
    (fun x _ => s.mmaDec site e x)
    (fun _ => s.queueReady site)
    (fun x lanes => .step (s.enqueue site x lanes (.mma fmt bfmt (field e.mods 1 0) (bitAt e.mods 2) (bitAt e.mods 3)
      (bitAt e.mods 9) (16 * x.uf e.a 15 0) (16 * x.uf e.b 15 0) (x.uf e.c 15 0) (16 * x.uf e.c 31 16)
      (16 * x.uf e.c 47 32) (x.uf e.c 55 48)))))

/-- The rows an MDRAIN to memory writes. -/
def drainRows (reg : Region) (fmt va pitch : Nat) : List (Nat × Nat) :=
  let w := shapeW reg.shape * drainBytes fmt
  (List.range (if reg.stat then 1 else shapeH reg.shape)).map (fun r => (va + r * pitch, w))

/-- Decoding of MDRAIN (R156, R174). -/
def State.mdrainDec (s : State) (site : Site) (e : Enc) (x : Group) : Dec :=
  let reg := (s.regionOf site).getD default
  let fmt := e.type.toNat
  let eb := drainBytes fmt
  let toChuck := bitAt (x.ru e.b) 63
  let pitch := x.uf e.b 31 0
  let n := outCount reg.stat reg.shape * eb
  let w := shapeW reg.shape * eb
  matDec true true false
    (!drainTypes.contains fmt || decide (field e.mods 6 4 > 5) || field e.mods 3 2 != 0 || field e.mods 15 7 != 0)
    (s.regionCond site x true ++ mcond (x.uf e.b 62 32 != 0 || !s.willBeValid site.core (field e.mods 1 0) ||
      (if toChuck then pitch != 0 || x.uf e.a 63 16 != 0 || beyondChuck (16 * x.uf e.a 15 0) n
       else pitch % eb != 0 || (!reg.stat && decide (shapeH reg.shape > 1) && decide (pitch < w))))) e

/-- MDRAIN: a set's results, to memory or to the chuck (R174). -/
def execMdrain (site : Site) (e : Enc) (s : State) : Host.Outcome State Fault Refusal :=
  let reg := (s.regionOf site).getD default
  let fmt := e.type.toNat
  let acc := field e.mods 1 0
  let rm := field e.mods 6 4
  let eb := drainBytes fmt
  okay (s.issueMatrix site e
    (fun x _ => s.mdrainDec site e x)
    (fun x => s.queueReady site && x.fence.isNone && x.atoms.isEmpty && decide (x.sb.length < 32))
    (fun x lanes =>
      let code := if rm = 4 then x.frm.toNat else rm
      if bitAt (x.ru e.b) 63 then
        .step (s.enqueue site x lanes (.mdrain fmt acc code 0 (16 * x.uf e.a 15 0) 0 true []))
      else
        let va := (x.ru e.a).toNat
        let pitch := x.uf e.b 31 0
        let rows := drainRows reg fmt va pitch
        if va % eb ≠ 0 then .fault 4 0 (lowestLane lanes) va
        else match s.extent site .write (lowestLane lanes) rows with
          | .error d => d
          | .ok pages => .watch ((s.translated (s.ctxOf site) .write (pages.map (fun p => p.1 * 4096))).enqueue site x lanes
              (.mdrain fmt acc code va 0 pitch false pages))
              (s.watchExtent site 1 rows)))

/-- Decoding of MRELAY and MCHK (R156, R205, R223). -/
def State.mrelayDec (s : State) (site : Site) (e : Enc) (x : Group) : Dec :=
  let role := field e.mods 3 2
  matDec true false false (e.type != 0 || role == 3 || field e.mods 15 4 != 0)
    (s.regionCond site x true ++ mcond (x.uf e.a 63 1 != 0 ||
      (role != 1 && !s.willBeValid site.core (field e.mods 1 0)))) e
def State.mchkDec (s : State) (site : Site) (e : Enc) (x : Group) : Dec :=
  let d := matDec false false false (e.type != 0 || field e.mods 15 2 != 0)
    (s.regionCond site x true ++ mcond (!s.willBeValid site.core (field e.mods 1 0))) e
  { d with ops := [(.p, e.d), (.none, e.a), (.none, e.b), (.none, e.c)] }

/-- MRELAY: moves a set along the relay chain; the tile becomes core-bound (R205, R228). A receive issued while two
messages are retained commits the tile first (R230). Since it acts beyond its group, it waits until the group's loads and
atomics are done (R102, log 13). -/
def execMrelay (site : Site) (e : Enc) (s : State) : Host.Outcome State Fault Refusal :=
  let acc := field e.mods 1 0
  let role := field e.mods 3 2
  okay (s.issueMatrix site e
    (fun x _ => s.mrelayDec site e x)
    (fun x => s.queueReady site && x.drained)
    (fun x lanes =>
      let dir := bitAt (x.ru e.a) 0
      match if role = 0 ∨ s.hasPrev site.core dir = false then (true, s) else s.relayCommit site.core x.tile dir with
      | (false, t) => .wait t
      | (true, t) => .step ((t.enqueue site x lanes (.mrelay acc (BitVec.ofNat 2 role) dir)).updTile
          site.core x.tile (fun t => { t with coreBound := true }))))

/-- MCHK: the comparisons of a set, whether every output is checked written into a predicate (R223). -/
def execMchk (site : Site) (e : Enc) (s : State) : Host.Outcome State Fault Refusal :=
  let acc := field e.mods 1 0
  okay (s.issueMatrix site e
    (fun x _ => s.mchkDec site e x)
    (fun _ => s.queueReady site)
    (fun x lanes => .step (s.enqueue site x lanes (.mchk acc e.d x.active))))

end Sys2Proof.Machine
end

