-- ==== Sys2Proof/Machine/Tumbler.lean ====
section
/-! DEFINITION. Tumblers: the operations on global and local counts, the waits they release, the arm of the front end
and TUMBLER_OPERATION (R321 to R335). -/

namespace Sys2Proof.Machine

/-- The highest count (R330). -/
abbrev tumTop : Nat := 2 ^ 32 - 1

/-! ### Counts (R330) -/

/-- What an addition leaves of a count and its S flag. -/
def countAdd (n count : Nat) (sat : Bool) : Nat × Bool :=
  if sat then (count, true) else if count + n > tumTop then (tumTop, true) else (count + n, false)

/-- What a subtraction leaves of a count, and whether it would have gone below zero. -/
def countSub (n count : Nat) (sat : Bool) : Nat × Bool :=
  if sat then (count, false) else if count < n then (0, true) else (count - n, false)

/-- A global tumbler after ARRIVE n or ARRIVE −n (R329, R330). -/
def Tumbler.apply (t : Tumbler) : TumOp → Tumbler
  | .arrive n => let r := countAdd n t.count t.s; { t with count := r.1, s := r.2 }
  | .depart n => let r := countSub n t.count t.s; { t with count := r.1, u := t.u || r.2 }
  | .wait _ => t
  | .test _ => t
  | .mark => { t with m := true }

/-- A local tumbler after an operation (R327, R330). -/
def LTumbler.apply (t : LTumbler) : TumOp → LTumbler
  | .arrive n => let r := countAdd n t.count t.s; { t with count := r.1, s := r.2 }
  | .depart n => let r := countSub n t.count t.s; { t with count := r.1, u := t.u || r.2 }
  | .wait _ => t
  | .test _ => t
  | .mark => t

/-- Whether an operation on a count is an S event, and whether it is a U event (R327, R330). -/
def sEvent (count : Nat) (sat : Bool) : TumOp → Bool
  | .arrive n => !sat && decide (count + n > tumTop)
  | _ => false
def uEvent (count : Nat) (sat : Bool) : TumOp → Bool
  | .depart n => !sat && decide (count < n)
  | _ => false

/-! ### What waits -/

/-- A TWAIT or TTEST of a group completes with its outcome in every active lane (R99, R138, R331). -/
def State.endTumWait (s : State) (g : Site) (outcome : Bool) : State :=
  let fin (pdst : Nat) : State :=
    (s.updGroup g (fun x => x.wp pdst x.active (if outcome then BitVec.allOnes 32 else 0))).endWait g
  match (s.group? g).map (fun x => x.wait) with
  | some (Wait.twait _ _ _ _ pdst _) => fin pdst
  | some (Wait.ttest _ _ _ _ pdst) => fin pdst
  | _ => s

/-- The WAIT that holds a ring ends with a status; INFO of a fence WAIT is the VALUE last read (R401). -/
def State.endRingWait (s : State) (r : RingId) (status : Nat) : State :=
  s.updRing r (fun x => { x with cmds := x.cmds.map (fun c =>
    if c.state = .waiting then { c with state := .ended status 0 c.seen 0 } else c) })

/-- A wait at the tumbler unit released. A fence wait is only taken off: the front end rereads the record (R340). -/
def State.release (s : State) : TumSrc → State
  | .group g => s.endTumWait g true
  | .ring r => s.endRingWait r 0
  | .fence _ => s
  | .peer o id => s.send { dst := o, txid := id, epoch := s.span.epoch, body := .twake true }

/-- Whether a source is the front end, which waits through the tumbler's one arm (R334). -/
def TumSrc.isRing : TumSrc → Bool
  | .ring _ => true
  | .fence _ => true
  | _ => false

/-- The tumbler's arm set to the lowest value that a ring WAIT on it waits for; 2^32 stands for the next-arrive form
(R334). -/
def State.rearm (s : State) (n : Nat) : State :=
  match ((s.waiters.filter (fun w => w.tumbler == n && w.src.isRing)).map (·.v)).min? with
  | none => s
  | some v => s.setTum n { s.tum n with armed := true, armNext := decide (v > tumTop), armV := Nat.min v tumTop }

/-- After an operation on a global tumbler: the arm fires where its condition holds, and every wait whose condition
holds is released. `next` says that an arm in its next-arrive form fires (R323, R331, R334). -/
def State.settleTum (s : State) (n : Nat) (next : Bool) : State :=
  let t := s.tum n
  let fires := t.armed && (if t.armNext then next else decide (t.armV ≤ t.count))
  let s1 := if fires then s.setTum n { t with armed := false, armNext := false } else s
  let goes (w : TumWaiter) : Bool := w.tumbler == n && (decide (w.v ≤ t.count) || (next && decide (w.v > tumTop)))
  let s2 : State := { s1 with waiters := s.waiters.filter (fun w => !goes w) }
  ((s.waiters.filter goes).foldl (fun st w => st.release w.src) s2).rearm n

/-! ### An operation takes effect (R329 to R333) -/

/-- An operation on a global tumbler. -/
def State.tumOperate (s : State) (src : TumSrc) (n : Nat) (op : TumOp) : State :=
  match op with
  | .wait v =>
    if v ≤ (s.tum n).count then s.release src else { s with waiters := s.waiters ++ [⟨src, n, v⟩] }
  | .test v =>
    let r := decide (v ≤ (s.tum n).count)
    match src with
    | .group g => s.endTumWait g r
    | .peer o id => s.send { dst := o, txid := id, epoch := s.span.epoch, body := .twake r }
    | _ => s
  | .mark => s.setTum n ((s.tum n).apply .mark)
  | op => (s.setTum n ((s.tum n).apply op)).settleTum n true

/-- The groups of a tile that wait at a local tumbler and whose wait has reached it, with the value (R331). -/
def Core.localWaiters (k : Core) (tile id : Nat) : List (Nat × Nat) :=
  k.groups.filterMap (fun pg =>
    match pg.2.wait with
    | .twait true i _ v _ _ =>
      let sent := k.ltq.any (fun (o : LocalOp) => o.place == pg.1 && (match o.op with | .wait _ => true | _ => false))
      if pg.2.tile = tile ∧ i = id ∧ sent = false then some (pg.1, v) else none
    | _ => none)

/-- The count a spindle waits for on EMPTT now, none while it does not wait (R249). -/
def Spindle.waitsFor (sp : Spindle) : Option Nat :=
  match sp.phase with
  | .waitEmpt => some 1
  | .final => if sp.raised = sp.ended then some (Nat.min sp.started sp.hdr.nbuf) else none
  | _ => none

/-- A spindle whose EMPTT wait the count satisfies, marked so (R331). -/
def Spindle.see (sp : Spindle) (id count : Nat) : Spindle :=
  match sp.waitsFor with
  | some v => if sp.hdr.emptt = id ∧ v ≤ count then { sp with met := true } else sp
  | none => sp

/-- Count of a tile's local tumbler. -/
def State.ltCount (s : State) (core tile id : Nat) : Nat :=
  match s.tile? core tile with
  | some t => (NMap.findD {} id t.lt).count
  | none => 0

/-- The waits on a tile's local tumbler whose condition holds released: groups, then the spindles of a matrix tile
(R249, R331). -/
def State.wakeLocal (s : State) (core tile id : Nat) : State :=
  let count := s.ltCount core tile id
  let s1 := ((s.core core).localWaiters tile id).foldl (fun st pv =>
    if pv.2 ≤ count then st.endTumWait ⟨core, pv.1⟩ true else st) s
  match s.tile? core tile with
  | some t =>
    if t.matrix then s1.updCore core (fun k => { k with spindles := NMap.mapVals (fun _ sp => sp.see id count) k.spindles })
    else s1
  | none => s1

/-- An operation that changes a tile's local tumbler, with its S and U events counted for the context (R327, R330,
R517). -/
def State.localApply (s : State) (core tile id : Nat) (op : TumOp) : State :=
  match s.tile? core tile with
  | none => s
  | some t =>
    let l := NMap.findD {} id t.lt
    let s1 := s.updTile core tile (fun t => { t with lt := NMap.put {} id (l.apply op) t.lt })
    let s2 := if sEvent l.count l.s op then s1.countCtx t.ctx 11 1 else s1
    let s3 := if uEvent l.count l.s op then s2.countCtx t.ctx 12 1 else s2
    s3.wakeLocal core tile id

/-- A group's operation on a local tumbler takes effect. -/
def State.localOperate (s : State) (core : Nat) (o : LocalOp) : State :=
  match o.op with
  | .wait v => if v ≤ s.ltCount core o.tile o.id then s.endTumWait ⟨core, o.place⟩ true else s
  | .test v => s.endTumWait ⟨core, o.place⟩ (decide (v ≤ s.ltCount core o.tile o.id))
  | op => s.localApply core o.tile o.id op

/-- Whether two sources' operations reach a tumbler in the order sent: those of one group, and those of one peer (R332,
R437). -/
def sameSource : TumSrc → TumSrc → Bool
  | .group g, .group h => g == h
  | .peer o _, .peer p _ => o == p
  | _, _ => false

/-- TUMBLER_OPERATION: operation `idx` on its way to a unit takes effect, unless an earlier one of its source to the
same tumbler is still on its way (R328, R332). -/
def execTumblerOperation (unit : TumUnit) (idx : Nat) (s : State) : Host.Outcome State Fault Refusal :=
  match unit with
  | .global =>
    match s.tumq[idx]? with
    | none => okay s
    | some r =>
      if (s.tumq.take idx).any (fun q => sameSource q.src r.src && q.tumbler == r.tumbler) then okay s
      else okay (({ s with tumq := dropAt idx s.tumq } : State).tumOperate r.src r.tumbler r.op)
  | .core c =>
    match (s.core c).ltq[idx]? with
    | none => okay s
    | some o =>
      if ((s.core c).ltq.take idx).any (fun q => q.tile == o.tile && q.id == o.id) then okay s
      else okay ((s.updCore c (fun k => { k with ltq := dropAt idx k.ltq })).localOperate c o)

end Sys2Proof.Machine
end

