-- ==== Sys2Proof/Machine/Spindle.lean ====
section
/-! DEFINITION. Spindles: stream programs, the walk, what is written, buffers, status and faults, and the spindle tiles
of COPY, CONVERT and FILL (R237 to R260, R399). -/

namespace Sys2Proof.Machine

/-! ### Headers and descriptors (R238 to R242) -/

/-- The header that 64 bytes hold. -/
def spHdrOf (w : Nat) : SpHdr :=
  { status := nfield w 63 0, tsx := signedOf 64 (nfield w 127 64), tsy := signedOf 64 (nfield w 191 128)
    tsz := signedOf 64 (nfield w 255 192), ndesc := nfield w 263 256, fullt := nfield w 269 264
    emptt := nfield w 277 272, nbuf := nfield w 283 280, cbase := nfield w 303 288, bufsz := nfield w 319 304 }

/-- First chuck byte of buffer `j` of a ring (R239). -/
def SpHdr.buffer (h : SpHdr) (j : Nat) : Nat := h.cbase * 16 + j % 2 * 0x80000 + j / 2 * (h.bufsz * 16)

/-- Whether a header is invalid, its ring's placement included; a header without a ring has no placement, and reserved
fields are ignored (R9, R238, R239, R258). -/
def spHdrBad (w : Nat) : Bool :=
  let h := spHdrOf w
  h.ndesc == 0 || decide (h.fullt > 47) || decide (h.emptt > 47) || h.fullt == h.emptt || decide (h.nbuf > 8) ||
    h.status % 64 != 0 ||
    (h.nbuf != 0 && (h.bufsz == 0 || decide (h.bufsz > 32768) || decide (h.cbase * 16 ≥ 0x80000) ||
      (List.range h.nbuf).any (fun j => decide (h.buffer j + h.bufsz * 16 > (j % 2 + 1) * 0x80000))))

/-- The descriptor that 64 bytes hold. -/
def spDescOf (w : Nat) : SpDesc :=
  { base := nfield w 63 0
    count := (List.range 5).map (fun i => nfield w (79 + 16 * i) (64 + 16 * i))
    stride := (List.range 5).map (fun i => signedOf 40 (nfield w (183 + 40 * i) (144 + 40 * i)))
    ibase := nfield w 407 344, gather := w.testBit 408, panel := w.testBit 409, dest := nfield w 411 410
    bufend := nfield w 414 412, sat := w.testBit 415, sfmt := BitVec.ofNat 4 (nfield w 419 416)
    dfmt := BitVec.ofNat 4 (nfield w 423 420), op := nfield w 426 424, rm := BitVec.ofNat 3 (nfield w 430 428)
    doff := nfield w 447 432, sdoff := nfield w 463 448 }

/-- Extents and strides of a dimension. -/
def SpDesc.cnt (d : SpDesc) (i : Nat) : Nat := d.count.getD i 0
def SpDesc.str (d : SpDesc) (i : Nat) : Int := d.stride.getD i 0

/-- Whether the formats suit the operation (R127, R241). -/
def spFormats (op sf df : Nat) : Bool :=
  match op with
  | 0 => sf == df && sf != 15
  | 1 => sf != df && !([4, 5, 15].contains sf) && !([4, 5, 15].contains df)
  | 2 => sf == 6 && df == 4
  | _ => [7, 8, 9].contains sf && mxTypes.contains df

/-- Whether a descriptor is invalid (R242). -/
def spDescBad (h : SpHdr) (w : Nat) : Bool :=
  let d := spDescOf w
  let sf := d.sfmt.toNat
  let df := d.dfmt.toNat
  w.testBit 427 || w.testBit 431 || nfield w 511 464 != 0 || decide (d.bufend > 5) || decide (d.op > 3) ||
    decide (d.rm.toNat > 3) || (!d.gather && d.ibase != 0) || (d.op != 3 && d.sdoff != 0) ||
    (match d.dest with
      | 1 => decide (d.doff > 255)
      | 3 => decide (d.doff > 15)
      | _ => d.doff != 0) ||
    d.count.any (· == 0) || (d.dest == 0 && h.nbuf == 0) ||
    (d.panel && (d.dest != 0 || d.bufend == 1 || !matTypes.contains df || df == 6)) ||
    ((d.op == 2 || d.op == 3) && d.dest != 0) || (d.op == 2 && !d.panel) || (d.op == 3 && d.cnt 0 % 32 != 0) ||
    (d.dest == 2 && d.op != 0) || (d.dest == 3 && (d.op != 0 || sf != 4)) ||
    (d.dest == 1 && (decide (d.op ≥ 2) || df == 6)) || (d.gather && typeBits sf == 4) ||
    (typeBits sf == 4 && (d.cnt 0 % 2 != 0 || d.str 0 != 0)) || !spFormats d.op sf df

/-! ### Reads (R243, R254, R256, R258) -/

/-- What a spindle's read answers: bytes, a page to ask for, a peer's line to wait for, or a fault's cause and address. -/
inductive SpGot where
  | bytes (bs : List Byte)
  | page (va : Nat)
  | later (t : Target)
  | bad (cause addr : Nat)

/-- The key and tile that a core's spindles belong to: its matrix tile, or its spindle tile at key 48 (R148, R399). -/
def State.spTile (s : State) (core : Nat) : Option (Nat × Tile) :=
  (s.core core).tiles.find? (fun kt => kt.2.matrix || kt.1 == 48)

/-- The state as the accesses of a core's spindles see the plans (R290). -/
def State.spView (s : State) (core : Nat) : State :=
  match s.spTile core with
  | some (key, _) => s.tileView core key
  | none => s

/-- `len` bytes within one line at an address aligned to `align`. -/
def State.spRead (s : State) (core n ctx va len align : Nat) : SpGot :=
  if va % align ≠ 0 then .bad 3 va
  else match (s.spView core).resolve ctx va .read with
    | .bad d => .bad (if d = 1 then 4 else 2) va
    | .miss => if s.noPage ctx va then .bad 2 va else .page va
    | .ok t =>
      match s.bulkLine core n t with
      | none => .later t
      | some (bs, p) => if p then .bad 5 va else .bytes ((bs.drop (lineOff t)).take len)

/-- A list of reads: all of them, or the first that does not answer with bytes. -/
def spReadAll (rd : Nat → SpGot) : List Nat → List (List Byte) → Except SpGot (List (List Byte))
  | [], acc => .ok acc.reverse
  | a :: as, acc =>
    match rd a with
    | .bytes bs => spReadAll rd as (bs :: acc)
    | g => .error g

/-! ### The tile a spindle works for -/

/-- The state with a spindle replaced. -/
def State.setSpindle (s : State) (core n : Nat) (sp : Spindle) : State :=
  s.updCore core (fun k => { k with spindles := NMap.ins n sp k.spindles })

/-- What a spindle's reads at some addresses of a context leave behind once used: the marks of their translations; the answered
line reads are dropped, and a line read again is asked for again (R262). -/
def State.usedReads (s : State) (core n ctx : Nat) (vas : List Nat) : State :=
  (s.translated ctx .read vas).updCore core (fun k => { k with
    winreads := k.winreads.filter (fun w => w.owner != n || w.reply.isNone)
    lineReads := k.lineReads.filter (fun r => r.owner != n || r.reply.isNone) })

/-- Flags of a spindle's conversions ORed into those of its LAUNCH (R93, R246). -/
def State.launchFlags (s : State) (t : Tile) (f : FFlags) : State :=
  if f = 0 then s else s.updLaunch t.launch (fun l => { l with flags := l.flags ||| f })

/-- The record of a spindle's fault (R108, R259): STATUS where the status block could not be written. -/
def spRecord (addr : Nat) : FaultInfo := { cls := 9, detail := 0, lane := 0, addr := addr, pc := 0 }

/-- Bytes of a context's memory made undefined, those at addresses that translate here (R399). -/
def State.undefine (s : State) (ctx tag va : Nat) : Nat → State
  | 0 => s
  | n + 1 =>
    match s.resolve ctx va .write with
    | .ok t => (s.targetWrite t tag [Config.undefByte s.free va]).undefine ctx tag (va + 1) n
    | _ => s.undefine ctx tag (va + 1) n

/-- Bytes of destination that a COPY, CONVERT or FILL writes. -/
def LaunchKind.dest : LaunchKind → Nat × Nat
  | .copy _ dst len sfmt dfmt _ _ => (dst, if sfmt = dfmt then len else typeBits dfmt.toNat * len / 8)
  | .fill dst len _ => (dst, len)
  | .launch => (0, 0)

/-- The destination of a command that ends with MEMFAULT holds undefined bytes, whatever of its stores is under way on this
module (R399). -/
def State.undefineMove (s : State) (ctx key : Nat) : State :=
  match s.launch? key with
  | none => s
  | some l =>
    let near (o : Orphan) : Bool := o.launch == key && (match o.store with | some e => !isWindow e.tgt | none => false)
    let s1 := { (s.draw).2 with cores := NMap.mapVals (fun _ (k : Core) => { k with orphans := k.orphans.filter (fun o => !near o) }) s.cores }
    s1.undefine ctx l.tag l.kind.dest.1 l.kind.dest.2

/-- A spindle fault: the spindle's own status block, the tile stopped with every other spindle, and the context faulted
with no detail (R257 to R259); while two groups of the tile merge the stop waits (R107). For a spindle tile, the command
keeps cause and address for MEMFAULT (R389, R399). `status` says that the fault is that of the status block. -/
def State.spFault (s : State) (core n cause addr : Nat) (status : Bool) : State :=
  match s.spTile core, NMap.find n (s.core core).spindles with
  | some (key, t), some sp =>
    let s0 := (s.sawPage t.ctx addr).setSpindle core n { sp with phase := .faulted }
    if key = 48 then
      let s1 := s0.updLaunch t.launch (fun l => { l with
        memFault := some (l.memFault.getD (cause, addr)), placedAll := true, next := l.total })
      let peers := s1.tilesOf t.ctx
      (peers.foldl (fun st ck =>
        match st.tile? ck.1 ck.2 with
        | some u => if u.launch = t.launch then
            (st.stopTile ck.1 ck.2 .other).updLaunch t.launch (fun l => { l with ended := l.ended + 1, stopped := l.stopped + 1 })
          else st
        | none => st) s1).undefineMove t.ctx t.launch
    else
      let a := if 2 ≤ cause ∧ cause ≤ 5 then addr else 0
      let s1 := if status then s0 else s0.writeStatus core key t sp 2 cause sp.di a
      s1.takeFault core key (spRecord (if status then sp.hdr.status else 0)) 0 (some n)
  | _, _ => s

/-- What a read that has not answered with bytes leads to. -/
def State.spNotYet (s : State) (core n : Nat) (g : SpGot) : State :=
  match s.spTile core with
  | none => s
  | some (_, t) =>
    match g with
    | .bytes _ => s
    | .page va =>
      (s.pageRequest t.ctx va).updCore core (fun k => { k with
        spindles := NMap.modify n (fun sp => { sp with pageWait := some va }) k.spindles })
    | .later tg => s.bulkAsk core n [tg]
    | .bad c a => s.spFault core n c a false

/-! ### What a spindle writes (R245) -/

/-- A number rounded up to a multiple of 16. -/
def up16 (n : Nat) : Nat := ceilDiv n 16 * 16

/-- First chuck byte of the spindle's current buffer, and its size. -/
def Spindle.bufBase (sp : Spindle) : Nat := sp.hdr.buffer sp.buf
def Spindle.bufBytes (sp : Spindle) : Nat := sp.hdr.bufsz * 16

/-- A byte string written into the current buffer at an offset; none where it would pass the end. -/
def Core.bufWrite (k : Core) (sp : Spindle) (off : Nat) (bs : List Byte) : Option Core :=
  if off + bs.length > sp.bufBytes then none else some (k.chuckWrite (sp.bufBase + off) bs)

/-- An element of 4 bits or more written into the current buffer as the element `pos` of a run at `off`. -/
def Core.bufElem (k : Core) (sp : Spindle) (bits off pos v : Nat) : Option Core :=
  if off + ceilDiv ((pos + 1) * bits) 8 > sp.bufBytes then none
  else some (k.chuckPutElem bits (sp.bufBase + off) pos v)

/-- An element (k, m) of a panel whose format has `bits`, `g` and `gb`; the last k of a row writes the zeros behind it
(R245). -/
def Core.panelElemPut (k : Core) (sp : Spindle) (d : SpDesc) (bits g gb i0 i1 v : Nat) : Option Core :=
  let off := sp.wp / 2 + i0 / g * (d.cnt 1 * gb) + i1 * gb
  let zeros := if i0 + 1 = d.cnt 0 then (List.range g).filter (fun p => decide (i0 % g < p)) else []
  zeros.foldl (fun (k : Option Core) p => k.bind (fun c => c.bufElem sp bits off p 0)) (k.bufElem sp bits off (i0 % g) v)

/-- A byte of the stationary stores written, with the format recorded and the checksum stores updated (R168, R218). -/
def Core.stationaryByte (k : Core) (dfmt : Nat) (cell b : Nat) (v : Byte) : Core :=
  let k1 := { k with stores := NMap.ins (cell * 256 + b) v k.stores
                     fmts := NMap.ins (cell * 32 + b / 8) (BitVec.ofNat 4 dfmt) k.fmts }
  k1.refreshGranule (b / 8)

/-- A byte of the scale stores written; the entries of the elements it scales are computed again (R217, R218). -/
def Core.scalePut (k : Core) (cell e : Nat) (v : Byte) : Core :=
  let k1 := { k with scales := NMap.ins (cell * 16 + e) v k.scales }
  (List.range 32).foldl (fun k g =>
    match NMap.find (cell * 32 + g) k.fmts with
    | some f => if mxTypes.contains f.toNat && 8 * g * matEpb f.toNat / 32 == e then k.refreshGranule g else k
    | none => k) k1

/-- One output element placed; none on an overrun. `outPos` counts half-bytes of the descriptor's output. -/
def Core.spEmit (k : Core) (sp : Spindle) (i0 i1 v : Nat) : Option (Core × Spindle) :=
  let d := sp.desc
  let df := d.dfmt.toNat
  let bits := typeBits df
  match d.dest with
  | 0 =>
    if d.panel then (k.panelElemPut sp d bits (matG df) (matBytes df) i0 i1 v).map (fun c => (c, sp))
    else
      let c := if bits = 4 then k.bufElem sp 4 0 sp.wp v else k.bufElem sp bits (sp.wp / 2) 0 v
      c.map (fun c => (c, { sp with wp := sp.wp + bits / 4 }))
  | 2 => some (k, sp)
  | _ =>
    let b := sp.outPos / 2
    let sp1 := { sp with outPos := sp.outPos + bits / 4 }
    let n := ceilDiv bits 8
    let limit := if d.dest = 1 then 255 else 15
    if (List.range n).any (fun i => decide (d.doff + (b + i) / 1024 > limit)) then none
    else
      let bytes := if bits = 4 then
          let at_ := d.doff + b / 1024
          [BitVec.ofNat 8 (Core.chuckPutElem.elemPut4 (k.storeByte (b % 1024) at_).toNat (sp.outPos % 2) v)]
        else natBytes n v
      some ((List.range n).foldl (fun c i =>
        let x := bytes.getD i 0
        let cell := (b + i) % 1024
        let p := d.doff + (b + i) / 1024
        if d.dest = 1 then c.stationaryByte df cell p x else c.scalePut cell p x) k, sp1)

/-! ### Walking (R243, R244) -/

/-- The indexes of element number `pos`. -/
def SpDesc.index (d : SpDesc) (pos : Nat) : List Nat :=
  let c := d.cnt
  [pos % c 0, pos / c 0 % c 1, pos / (c 0 * c 1) % c 2, pos / (c 0 * c 1 * c 2) % c 3, pos / (c 0 * c 1 * c 2 * c 3)]

/-- Elements of a descriptor, and of one iteration of dimension `b` with all of its inner dimensions. -/
def SpDesc.period (d : SpDesc) (b : Nat) : Nat := (d.count.take b).foldl (· * ·) 1
def SpDesc.total (d : SpDesc) : Nat := d.period 5

/-- The tile offset of a stream program. -/
def SpHdr.offset (h : SpHdr) (l : Launch) (index : Nat) : Int :=
  let gx := l.fields.gx
  let gy := l.fields.gy
  (index % gx : Nat) * h.tsx + (index / gx % gy : Nat) * h.tsy + (index / gx / gy : Nat) * h.tsz

/-- The address of element `pos`, given its index-list entry. -/
def SpDesc.addr (d : SpDesc) (toff : Int) (pos idx : Nat) : Nat :=
  let i := d.index pos
  let outer := (d.base : Int) + toff + (i.getD 1 0 : Nat) * d.str 1 + (i.getD 2 0 : Nat) * d.str 2 +
    (i.getD 3 0 : Nat) * d.str 3 + (i.getD 4 0 : Nat) * d.str 4
  wrapInt 64 (if d.gather then outer + idx * d.str 0
    else if typeBits d.sfmt.toNat = 4 then outer + (i.getD 0 0 / 2 : Nat) else outer + (i.getD 0 0 : Nat) * d.str 0)

/-- Element `pos` read: its bits, or why it cannot be. -/
def State.spElem (s : State) (core n ctx : Nat) (toff : Int) (d : SpDesc) (pos : Nat) : SpGot :=
  let bytes := ceilDiv (typeBits d.sfmt.toNat) 8
  let read (idx : Nat) : SpGot := s.spRead core n ctx (d.addr toff pos idx) bytes bytes
  if d.gather then
    match s.spRead core n ctx ((d.ibase + 4 * ((d.index pos).getD 0 0)) % 2 ^ 64) 4 4 with
    | .bytes bs => read (bytesNat bs)
    | g => g
  else read 0

/-- The addresses that element `pos` is read from: its own, and that of its index-list entry (R243). -/
def State.spVas (s : State) (core n ctx : Nat) (toff : Int) (d : SpDesc) (pos : Nat) : List Nat :=
  let ia := (d.ibase + 4 * ((d.index pos).getD 0 0)) % 2 ^ 64
  if d.gather then
    match s.spRead core n ctx ia 4 4 with
    | .bytes bs => [d.addr toff pos (bytesNat bs), ia]
    | _ => [ia]
  else [d.addr toff pos 0]

/-! ### Conversions (R246 to R248) -/

/-- An element's output bits and flags under COPY or CONVERT. -/
def SpDesc.convert (d : SpDesc) (v : Nat) : Nat × FFlags :=
  if d.op = 1 then convertBits d.sfmt.toNat d.dfmt.toNat (Rm.ofCode d.rm.toNat) false d.sat v
  else (v, 0)

/-- Exponent of the leading bit of a finite nonzero value. -/
def leadExp : FVal → Option Int
  | .fin _ m q => if m = 0 then none else some ((Nat.log2 m : Int) + q)
  | _ => none

/-- The largest of a list of exponents. -/
def maxExp (vs : List FVal) : Option Int := (vs.filterMap leadExp).max?

/-- The seven digits of an integer, the most significant first (R200). -/
def sliceDigits (m : Int) : List Int :=
  let step (p : Int × List Int) (_ : Nat) : Int × List Int :=
    let d := (p.1 + 128) % 256 - 128
    ((p.1 - d) / 256, d :: p.2)
  let r := (List.range 6).foldl step (m, [])
  r.1 :: r.2

/-- A row of FP64 elements sliced: its exponent entry, the digits of each element, and how many lose bits (R200, R201,
R247). -/
def sliceRow (vs : List FVal) : Nat × List (List Int) × Nat :=
  let zero : List Int := List.replicate 7 0
  if vs.any (fun v => match v with | .fin _ _ _ => false | _ => true) then (0x7FFF, vs.map (fun _ => zero), 0)
  else match maxExp vs with
    | none => (0x8000, vs.map (fun _ => zero), 0)
    | some ea =>
      let one (v : FVal) : Int × Bool :=
        match v with
        | .fin neg m q =>
          let sh := q + 53 - ea
          let n := if 0 ≤ sh then m * 2 ^ sh.toNat else m / 2 ^ (-sh).toNat
          let lost := decide (sh < 0) && m % 2 ^ (-sh).toNat != 0
          let small := match leadExp v with | some e => decide (e < ea - 1) | none => false
          (if neg then -(n : Int) else n, lost && small)
        | _ => (0, false)
      (wrapInt 16 ea, vs.map (fun v => sliceDigits (one v).1), (vs.filter (fun v => (one v).2)).length)

/-- Largest exponent of an MX element format (R248). -/
def mxEmax (fmt : Nat) : Int := match fmt with | 10 => 8 | 11 => 15 | 12 => 2 | 13 => 4 | _ => 2

/-- A block of MXQ: its scale byte and its elements' bits (R248). -/
def mxqBlock (fmt : Nat) (rm : Rm) (vs : List FVal) : Nat × List Nat :=
  if vs.any (fun v => match v with | .fin _ _ _ => false | _ => true) then (0xFF, vs.map (fun _ => 0))
  else match maxExp vs with
    | none => (0, vs.map (fun _ => 0))
    | some e =>
      let x : Int := min (max (e - mxEmax fmt) (-127)) 127
      let f := (fmtOf fmt).getD fmtE2m1
      ((x + 127).toNat, vs.map (fun v => match v with
        | .fin neg m q => (f.round rm false true neg m (q - x)).1
        | _ => 0))

/-! ### One unit of work -/

/-- The spindle after `cnt` elements of its descriptor: buffer ends, the next descriptor, the final wait (R241, R245,
R249). -/
def Spindle.advance (sp : Spindle) (cnt : Nat) : Spindle :=
  let d := sp.desc
  let pos := sp.pos + cnt
  let atEnd := decide (pos ≥ d.total)
  let ends := (decide (1 ≤ d.bufend ∧ d.bufend ≤ 4) && pos % d.period d.bufend == 0) || (d.bufend == 5 && atEnd)
  let el := satAdd 48 cnt sp.elems sp.elemsat
  -- a panel ends with its last element (R245)
  let panelBytes := if d.op = 2 then up16 (up16 (7 * (ceilDiv (d.cnt 0) 8 * d.cnt 1 * 8)) + 2 * d.cnt 1)
    else up16 (ceilDiv (d.cnt 0) (matG d.dfmt.toNat) * d.cnt 1 * matBytes d.dfmt.toNat)
  let sp1 := if d.panel && pos % d.period 2 == 0 then
      { sp with wp := sp.wp + 2 * panelBytes, panelNo := sp.panelNo + 1 } else sp
  let sp2 := { sp1 with pos := pos, elems := el.1, elemsat := el.2, pageWait := none }
  let sp3 := if ends then
      let sp3 := { sp2 with ended := sp2.ended + 1 }
      if d.dest = 0 then { sp3 with bufOpen := false, buf := (sp3.buf + 1) % sp3.hdr.nbuf, wp := 0, panelNo := 0 } else sp3
    else if atEnd && d.dest == 0 then { sp2 with wp := ceilDiv sp2.wp 32 * 32 } else sp2
  if atEnd then
    { sp3 with di := sp3.di + 1, pos := 0, outPos := 0, met := false
               phase := if sp3.di + 1 ≥ sp3.hdr.ndesc then .final else .start }
  else sp3

/-- The elements of one unit at `pos`: a pair for a 4-bit source, a sweep for SLICE64, a block for MXQ, otherwise one. -/
def SpDesc.unit (d : SpDesc) : Nat :=
  if d.op = 2 then d.cnt 0 else if d.op = 3 then 32 else if typeBits d.sfmt.toNat = 4 then 2 else 1

/-- The writes of a SLICE64 sweep; none on an overrun (R247). -/
def Core.slicePut (k : Core) (sp : Spindle) (m : Nat) (row : Nat × List (List Int) × Nat) : Option Core :=
  let d := sp.desc
  let n := d.cnt 1
  let q := ceilDiv (d.cnt 0) 8
  let base := sp.wp / 2
  let digits := row.2.1 ++ List.replicate (q * 8 - d.cnt 0) (List.replicate 7 0)
  let k1 := (List.range (q * 8)).foldl (fun (c : Option Core) kk =>
    (List.range 7).foldl (fun (c : Option Core) j => c.bind (fun x =>
      x.bufWrite sp (base + j * (q * n * 8) + kk / 8 * (n * 8) + m * 8 + kk % 8)
        [BitVec.ofNat 8 (wrapInt 8 ((digits.getD kk []).getD j 0))])) c) (some k)
  k1.bind (fun x => x.bufWrite sp (base + up16 (7 * (q * n * 8)) + 2 * m) (natBytes 2 row.1))

/-- The writes of an MXQ block: its elements and its scale; none on an overrun (R248). -/
def Core.mxqPut (k : Core) (sp : Spindle) (blk : Nat × List Nat) : Option (Core × Spindle) :=
  let d := sp.desc
  let i := d.index sp.pos
  let i0 := i.getD 0 0
  let r := (List.range 32).foldl (fun (c : Option (Core × Spindle)) j => c.bind (fun x =>
    x.1.spEmit x.2 (i0 + j) (i.getD 1 0) (blk.2.getD j 0))) (some (k, sp))
  let off := d.sdoff * 16 + (if d.panel then (sp.panelNo * d.cnt 0 / 32 + i0 / 32) * d.cnt 1 + i.getD 1 0 else sp.pos / 32)
  r.bind (fun x => (x.1.bufWrite sp off [BitVec.ofNat 8 blk.1]).map (fun c => (c, x.2)))

/-- Bits of each element that a unit's reads give: two nibbles of a byte for a 4-bit format. -/
def unitBits (sfmt : Nat) (bs : List Byte) : List Nat :=
  let v := bytesNat bs
  if typeBits sfmt = 4 then [v % 16, v / 16 % 16] else [v]

/-- The line of an element brought into the L1 (R245). -/
def State.spFillL1 (s : State) (core n ctx va : Nat) : State :=
  match (s.spView core).resolve ctx va .read with
  | .ok t =>
    match l1Key t, s.bulkLine core n t with
    | some k, some (bs, _) => s.l1Put core k bs
    | _, _ => s
  | _ => s

/-- One unit of a descriptor read, converted and written (R245 to R248). -/
def State.spRun (s : State) (core n : Nat) (key : Nat) (t : Tile) (sp : Spindle) : State :=
  let d := sp.desc
  let toff := sp.hdr.offset ((s.launch? t.launch).getD default) t.index
  let poss := if typeBits d.sfmt.toNat = 4 then [sp.pos] else (List.range d.unit).map (fun i => sp.pos + i)
  match spReadAll (s.spElem core n t.ctx toff d) poss [] with
  | .error g => s.spNotYet core n g
  | .ok bss =>
    let vals := (bss.map (unitBits d.sfmt.toNat)).flatten
    let vas := (poss.map (fun p => s.spVas core n t.ctx toff d p)).flatten
    let i := d.index sp.pos
    let k := s.core core
    let done (k : Core) (sp : Spindle) (f : FFlags) (loss : Nat) : State :=
      let ls := satAdd 48 loss sp.loss sp.losssat
      let sp1 := ({ sp with flags := sp.flags ||| f, loss := ls.1, losssat := ls.2 } : Spindle).advance d.unit
      let s1 := ((s.setCore core k).setSpindle core n sp1).usedReads core n t.ctx vas
      let s2 := (s1.launchFlags t f).wakeLocal core key sp.hdr.emptt
      if loss = 0 then s2 else s2.countCtx t.ctx 13 loss
    if d.op = 2 then
      let row := sliceRow (vals.map (valOf 6))
      match k.slicePut sp (i.getD 1 0) row with
      | some c => done c sp 0 row.2.2
      | none => s.spFault core n 6 0 false
    else if d.op = 3 then
      match k.mxqPut sp (mxqBlock d.dfmt.toNat (Rm.ofCode d.rm.toNat) (vals.map (valOf d.sfmt.toNat))) with
      | some (c, sp1) => done c sp1 0 0
      | none => s.spFault core n 6 0 false
    else if d.dest = 2 then
      let s1 := s.spFillL1 core n t.ctx (vas.headD 0)
      ((s1.setSpindle core n (sp.advance d.unit)).usedReads core n t.ctx vas).wakeLocal core key sp.hdr.emptt
    else
      let r := (List.range vals.length).foldl (fun (c : Option (Core × Spindle × FFlags)) j => c.bind (fun x =>
        let v := d.convert (vals.getD j 0)
        (x.1.spEmit x.2.1 (i.getD 0 0 + j) (i.getD 1 0) v.1).map (fun y => (y.1, y.2, x.2.2 ||| v.2)))) (some (k, sp, 0))
      match r with
      | some (c, sp1, f) => done c sp1 f 0
      | none => s.spFault core n 6 0 false

/-! ### Headers and descriptors reached -/

/-- The header read and checked, then the status block's address; and a descriptor read and checked (R238, R242,
R257). -/
def State.spStart (s : State) (core n addr : Nat) (t : Tile) (sp : Spindle) : State :=
  if addr % 64 ≠ 0 then s.spFault core n 3 addr false
  else if sp.hdr.ndesc = 0 then
    match s.spRead core n t.ctx addr 64 64 with
    | .bytes bs =>
      let w := bytesNat bs
      let h := spHdrOf w
      if spHdrBad w then
        (s.setSpindle core n { sp with hdr := { status := if h.status % 64 = 0 then h.status else 0 } }).spFault core n 1 0 false
      else
        let go := (s.setSpindle core n { sp with hdr := h, phase := .start, pageWait := none }).usedReads core n t.ctx [addr]
        if h.status = 0 then go
        else match (s.spView core).resolve t.ctx h.status .write with
          | .ok _ => go
          | .miss =>
            if s.noPage t.ctx h.status then (s.setSpindle core n { sp with hdr := h }).spFault core n 2 h.status true
            else s.spNotYet core n (.page h.status)
          | .bad d => (s.setSpindle core n { sp with hdr := h }).spFault core n (if d = 1 then 4 else 2) h.status true
    | g => s.spNotYet core n g
  else
    match s.spRead core n t.ctx (addr + 64 * (sp.di + 1)) 64 64 with
    | .bytes bs =>
      let w := bytesNat bs
      if spDescBad sp.hdr w then s.spFault core n 1 0 false
      else (s.setSpindle core n { sp with desc := spDescOf w, pos := 0, outPos := 0, phase := .run, pageWait := none }).usedReads core n t.ctx
        [addr + 64 * (sp.di + 1)]
    | g => s.spNotYet core n g

/-! ### Spindle tiles (R398, R399) -/

/-- A store of a spindle tile: it leaves for its endpoint as one of the command's outstanding stores. -/
def State.spStore (s : State) (core : Nat) (t : Tile) (va : Nat) (tg : Target) (bs : List Byte) : State :=
  (s.translated t.ctx .write [va]).orphanStore core t va tg bs

/-- Where a spindle tile writes: the target, or why it cannot. -/
def State.spWhere (s : State) (core ctx va : Nat) : Except SpGot Target :=
  match (s.spView core).resolve ctx va .write with
  | .ok t => .ok t
  | .miss => .error (if s.noPage ctx va then .bad 2 va else .page va)
  | .bad d => .error (.bad (if d = 1 then 4 else 2) va)

/-- The end of a spindle tile: its command has one tile more done. -/
def State.spTileDone (s : State) (core key : Nat) (t : Tile) : State :=
  (s.tileGone core key none).updLaunch t.launch (fun l => { l with ended := l.ended + 1 })

/-- One step of a spindle tile: a piece of a COPY within one line on each side, an element of a CONVERT (a pair where a
format has 4 bits), or a piece of a FILL. -/
def State.spMove (s : State) (core n key : Nat) (t : Tile) (sp : Spindle) : State :=
  let finish (st : State) (vas : List Nat) (pos total : Nat) : State :=
    let st := (st.setSpindle core n { sp with pos := pos, pageWait := none }).usedReads core n t.ctx vas
    if pos ≥ total then st.spTileDone core key ((st.tile? core key).getD t) else st
  match sp.prog with
  | .fill dst total pattern =>
    let va := dst + sp.pos
    let len := Nat.min (total - sp.pos) (128 - va % 128)
    match s.spWhere core t.ctx va with
    | .error g => s.spNotYet core n g
    | .ok tg =>
      let pat := natBytes 8 pattern.toNat
      let bs := (List.range len).map (fun i => pat.getD ((sp.pos + i) % 8) 0)
      finish (s.spStore core t va tg bs) [] (sp.pos + len) total
  | .move src dst elems sfmt dfmt rm sat =>
    if sfmt = dfmt then
      let a := src + sp.pos
      let b := dst + sp.pos
      let len := Nat.min (elems - sp.pos) (Nat.min (128 - a % 128) (128 - b % 128))
      match s.spRead core n t.ctx a len 1, s.spWhere core t.ctx b with
      | .bytes bs, .ok tg => finish (s.spStore core t b tg bs) [a] (sp.pos + len) elems
      | .bytes _, .error g => s.spNotYet core n g
      | g, _ => s.spNotYet core n g
    else
      let sb := typeBits sfmt.toNat
      let db := typeBits dfmt.toNat
      let cnt := if sb = 4 ∨ db = 4 then 2 else 1
      let sbytes := sb * cnt / 8
      let dbytes := db * cnt / 8
      let a := src + sp.pos * sb / 8
      let b := dst + sp.pos * db / 8
      let step := ceilDiv sb 8
      let vas := (List.range (sbytes / step)).map (fun i => a + i * step)
      match spReadAll (fun x => s.spRead core n t.ctx x step step) vas [],
          s.spWhere core t.ctx b with
      | .ok bss, .ok tg =>
        let vals := (bss.map (unitBits sfmt.toNat)).flatten
        let outs := vals.map (convertBits sfmt.toNat dfmt.toNat (Rm.ofCode rm.toNat) false sat)
        let f := outs.foldl (fun f o => f ||| o.2) 0
        let packed := if db = 4 then
            natBytes 1 ((outs.getD 0 (0, 0)).1 % 16 + (outs.getD 1 (0, 0)).1 % 16 * 16)
          else (outs.map (fun o => natBytes (db / 8) o.1)).flatten
        finish ((s.spStore core t b tg (packed.take dbytes)).launchFlags t f) vas (sp.pos + cnt) elems
      | .error g, _ => s.spNotYet core n g
      | .ok _, .error g => s.spNotYet core n g
  | _ => s

/-! ### The events -/

/-- Whether spindles work now: the module is on and not frozen for a snapshot (R519). -/
def State.spRuns (s : State) : Bool := s.power.on && s.fe.frozen.isNone

/-- The next read of a spindle arrives, is converted and written (R243 to R249). -/
def State.spTake (s : State) (core n key : Nat) (t : Tile) (sp : Spindle) : State :=
  match sp.phase, sp.prog with
  | .start, .stream addr => s.spStart core n addr t sp
  | .run, .stream _ =>
    if sp.desc.dest = 0 ∧ sp.bufOpen = false then
      if sp.started < sp.hdr.nbuf then
        let sp1 := { sp with started := sp.started + 1, bufOpen := true }
        (s.setSpindle core n sp1).spRun core n key t sp1
      else
        s.setSpindle core n
          (({ sp with phase := .waitEmpt, met := false } : Spindle).see sp.hdr.emptt (s.ltCount core key sp.hdr.emptt))
    else s.spRun core n key t sp
  | .start, _ => s.setSpindle core n { sp with phase := .run }
  | .run, _ => s.spMove core n key t sp
  | _, _ => s

/-- A spindle's read that comes in the beat in which a fault stopped its tile: where it is a spindle fault, it adds 1 to
MORE and does nothing else (R260). -/
def State.spLate (s : State) (core n : Nat) : State :=
  match s.goneNow core with
  | none => s
  | some g =>
    match NMap.find n g.spindles with
    | none => s
    | some sp =>
      let s1 := s.updCore core (fun k => { k with tiles := NMap.ins g.key g.tile k.tiles, spindles := g.spindles })
      let faulted := sp.busy && ((s1.spTake core n g.key g.tile sp).tile? core g.key).isNone
      if faulted then
        (s.updCore core (fun k => { k with gone := some { g with spindles := NMap.del n g.spindles } })).moreFault core g.tile
          g.tag (spRecord 0) 0
      else s

/-- SPINDLE_READ_DATA: the next read of a spindle arrives. -/
def execSpindleReadData (core n : Nat) (s : State) : Host.Outcome State Fault Refusal :=
  if s.spRuns = false then okay s
  else match s.spTile core, NMap.find n (s.core core).spindles with
    | some (key, t), some sp => okay (s.spTake core n key t sp)
    | none, _ => okay (s.spLate core n)
    | _, _ => okay s

/-- SPINDLE_BUFFER_TAKE: the EMPTT wait is satisfied; the spindle subtracts 1 and starts the next buffer (R249). -/
def execSpindleBufferTake (core n : Nat) (s : State) : Host.Outcome State Fault Refusal :=
  match s.spTile core, NMap.find n (s.core core).spindles with
  | some (key, _), some sp =>
    if sp.phase = .waitEmpt ∧ sp.met = true then
      let s1 := s.setSpindle core n { sp with phase := .run, met := false, bufOpen := true, started := sp.started + 1 }
      okay (s1.localApply core key sp.hdr.emptt (.depart 1))
    else okay s
  | _, _ => okay s

/-- SPINDLE_FULLT_RAISE: an ended buffer raises FULLT, one at a time and in order (R249). -/
def execSpindleFulltRaise (core n : Nat) (s : State) : Host.Outcome State Fault Refusal :=
  match s.spTile core, NMap.find n (s.core core).spindles with
  | some (key, _), some sp =>
    if sp.raised < sp.ended then
      let fl := satAdd 31 1 sp.fills sp.fillsat
      let s1 := s.setSpindle core n { sp with raised := sp.raised + 1, fills := fl.1, fillsat := fl.2 }
      okay ((s1.localApply core key sp.hdr.fullt (.arrive 1)).wakeLocal core key sp.hdr.emptt)
    else okay s
  | _, _ => okay s

/-- A spindle whose final wait is met subtracts the buffers, writes its status block and finishes (R249, R257). -/
def State.spFinish (s : State) (core n : Nat) : State :=
  match s.spTile core, NMap.find n (s.core core).spindles with
  | some (key, t), some sp =>
    let c := Nat.min sp.started sp.hdr.nbuf
    if sp.phase = .final ∧ sp.raised = sp.ended ∧ (sp.met = true ∨ c ≤ s.ltCount core key sp.hdr.emptt) then
      let s1 := if c = 0 then s else s.localApply core key sp.hdr.emptt (.depart c)
      let sp1 := { sp with phase := .finished, met := false }
      if sp.hdr.status = 0 then s1.setSpindle core n sp1
      else match s1.statusAt core key t.ctx sp.hdr.status with
        | .ok tg => (s1.putStatus core t sp.hdr.status tg (statusBytes sp1 1 0 (sp.hdr.ndesc - 1) 0 s.nowN)).setSpindle core n sp1
        | .error (.wait va) => (s.pageRequest t.ctx va).setSpindle core n { sp with pageWait := some va }
        | .error (.bad d _) => s1.spFault core n (if d = 1 then 4 else 2) sp.hdr.status true
    else s
  | _, _ => s

/-- SPINDLE_FINISH. -/
def execSpindleFinish (core n : Nat) (s : State) : Host.Outcome State Fault Refusal := okay (s.spFinish core n)

end Sys2Proof.Machine
end

