-- ==== Sys2Proof/Machine/Threads.lean ====
section
/-! DEFINITION. EXIT, the end of groups and tiles, and repacking (R54, R62 to R68, R93, R107, R111, R155, R251). -/

namespace Sys2Proof.Machine

/-! ### End of a tile (R111, R251) -/

/-- The spindles of a matrix tile that wait only in their final wait finish, where EMPTT holds enough (R251). -/
def State.finishSpindles (s : State) (core : Nat) : State :=
  (NMap.keys (s.core core).spindles).foldl (fun st n => st.spFinish core n) s

/-- The lowest local tumbler of a tile that is not zero. -/
def Tile.lowestTumbler (t : Tile) : Option Nat := (t.lt.find? (fun nl => nl.2.count != 0)).map (·.1)

/-- Record of a tile-contract fault (R104, R108, R111). -/
def contractFault (t : Tile) (pc : DWord) : Option FaultInfo :=
  match t.lowestTumbler with
  | some n => some { cls := 7, detail := 0, lane := 0, addr := n, pc := pc }
  | none => if t.openMark then some { cls := 7, detail := 1, lane := 0, addr := 0, pc := pc } else none

/-- The last group of a tile has ended at `pc`: spindles finish or fault, the contract is checked, and the tile ends or
its context faults (R54, R111, R251). -/
def State.tileEnd (s : State) (core key index : Nat) (pc : DWord) : State :=
  match s.tile? core key with
  | none => s
  | some t0 =>
    let s1 := if t0.matrix then s.finishSpindles core else s
    match s1.tile? core key with
    | none =>
      -- a status block that could not be written has faulted the tile: the check of R111 adds to MORE (log 123)
      match contractFault t0 pc with
      | some f => s1.moreFault core t0 (s.launchTag t0.launch) f index
      | none => s1
    | some t =>
      let late := if t.matrix then (s1.core core).spindles.filter (fun ns => ns.2.busy) else []
      let broken := contractFault t pc
      match late, broken with
      | (_, _) :: more, b =>
        -- every spindle in another state than its final wait faults: one is recorded, each other adds 1 to MORE
        let s2 := late.foldl (fun st ns => st.writeStatus core key t ns.2 2 7 ns.2.di 0) s1
        let s3 := s2.faultTile core key (spRecord 0) 0 (NMap.keys late)
        let s4 := more.foldl (fun st _ => st.moreFault core t (s1.launchTag t.launch) (spRecord 0) 0) s3
        match b with
        | some f => s4.moreFault core t (s1.launchTag t.launch) f index
        | none => s4
      | [], some f => s1.faultTile core key f index
      | [], none =>
        ((s1.tileGone core key none).updLaunch t.launch (fun l => { l with ended := l.ended + 1 })).haspSettleAll

/-- A group that holds no thread any more ends: its flags and its stores pass to the tile's launch, an open region of it
is closed and marked, its place is freed, and its tile ends with the last one (R54, R93, R106, R155). -/
def State.groupEnd (s : State) (g : Site) (pc : DWord) : State :=
  match s.group? g with
  | none => s
  | some x =>
    match s.tile? g.core x.tile with
    | none => s
    | some t =>
      let mine := match (s.core g.core).region with
        | some r => r.place == g.place
        | none => false
      let s1 := s.updCore g.core (fun k =>
        let k1 := { k with groups := NMap.del g.place k.groups, orphans := k.orphans ++ orphansOf t.ctx t.launch t.plan.ways x }
        if mine then { k1 with region := none, acc := [] } else k1)
      let s2 := s1.updTile g.core x.tile (fun t => { t with openMark := t.openMark || mine })
      let s3 := s2.updLaunch t.launch (fun l => { l.absorb x with flags := l.flags ||| x.fflags })
      if ((s3.core g.core).groupsOf x.tile).isEmpty then s3.tileEnd g.core x.tile x.index pc else s3.haspSettleAll

/-! ### EXIT (R54, R62) -/

/-- The group without the threads of some lanes. -/
def Group.retire (x : Group) (lanes : LaneMask) : Group :=
  { x with active := x.active &&& ~~~lanes, threads := x.threads &&& ~~~lanes
           tids := x.tids.filter (fun lt => !lanes.getLsbD lt.1)
           resv := x.resv.filter (fun lr => !lanes.getLsbD lr.1)
           stack := x.stack.map (fun e => { e with mask := e.mask &&& ~~~lanes }) }

/-- Whether an operation of a group on a local tumbler has not taken effect yet (R328, R333). -/
def State.localPosted (s : State) (g : Site) : Bool := (s.core g.core).ltq.any (fun o => o.place == g.place)

/-- EXIT: the threads of the lanes with a true guard retire; a group without threads ends once its loads, atomics, matrix
instructions and posted operations on local tumblers are done (log 15). -/
def execExit (site : Site) (e : Enc) (s : State) : Host.Outcome State Fault Refusal :=
  okay (s.issue site e (fun _ _ => { rsv := plainRsv e })
    (fun x => decide (x.threads &&& ~~~x.guard e ≠ 0) ||
      (x.loads.isEmpty && x.atoms.isEmpty && x.fence.isNone && !s.matrixBusy site && !s.localPosted site))
    (fun x lanes =>
      let y := x.retire lanes
      if y.threads = 0 then .fin ((s.setGroup site y).groupEnd site x.pc) else s.put site y))

/-! ### REPACK (R64 to R68) -/

/-- A refusal condition of R67 for a group. -/
def State.repackRefused (s : State) (g : Site) (x : Group) : Bool :=
  (match (s.core g.core).region with | some r => r.place == g.place | none => false) || !x.resv.isEmpty || x.halted

/-- The registers of thread lane `a` of one group moved into lane `b` of another (R65). -/
def Group.moveThread (src dst : Group) (a b : Nat) : Group :=
  let t := (src.t.filter (fun rv => rv.1 / 256 == a)).foldl (fun m rv => NMap.ins (b * 256 + rv.1 % 256) rv.2 m)
    (dst.t.filter (fun rv => rv.1 / 256 != b))
  let bit (m : LaneMask) : LaneMask := if m.getLsbD a then maskOf [b] else 0
  let p := (List.range 7).foldl (fun (m : NMap LaneMask) i =>
    NMap.put 0 (i + 1) ((NMap.findD 0 (i + 1) m &&& ~~~maskOf [b]) ||| bit (NMap.findD 0 (i + 1) src.p)) m) dst.p
  { dst with t := t, p := p, tids := NMap.ins b (NMap.findD 0 a src.tids) dst.tids
             threads := dst.threads ||| maskOf [b], active := dst.active ||| maskOf [b] }

/-- A merge: the donor's threads, rising, into the receiver's vacant lanes, rising (R65). The receiver and what is left
of the donor. -/
def mergeThreads (recv don : Group) : Group × Group :=
  let vacant := (List.range 32).filter (fun l => !recv.threads.getLsbD l)
  let pairs := (lanesOf don.threads).zip vacant
  (pairs.foldl (fun r p => don.moveThread r p.1 p.2) recv, don.retire (maskOf (pairs.map (·.1))))

/-- The parked groups of a tile at a PC that no refusal condition holds back, the oldest first (R56, R64). -/
def State.parkedAt (s : State) (g : Site) (tile : Nat) (pc : DWord) : List (Nat × Group) :=
  ((s.core g.core).groupsOf tile).filter (fun pg =>
    pg.1 != g.place && pg.2.wait == .parked && pg.2.pc == pc && !s.repackRefused ⟨g.core, pg.1⟩ pg.2)

/-- Two groups start to merge: the one with more threads, or of two equals the one with the lower index, receives; both
wait (R65, R66). -/
def State.startMerge (s : State) (g h : Site) (x y : Group) : State :=
  let first := decide (popcount x.threads > popcount y.threads) ||
    (popcount x.threads == popcount y.threads && decide (x.index < y.index))
  let (r, rs, d, ds) := if first then (x, g, y, h) else (y, h, x, g)
  let (r1, d1) := mergeThreads r d
  let s1 := s.setGroup rs { r1 with wait := .merging ds.place true, bpSkip := false, pcWritten := false }
  let s2 := s1.setGroup ds { d1 with wait := .merging rs.place false, bpSkip := false, pcWritten := false }
  s2.countCtx (s.ctxOf g) 9 1

/-- REPACK: a no-op, a merge with the oldest parked group at the same PC, or parking (R64, R504). A thread's accesses
keep their order across a merge, so it issues once the group's own are done (log 16). -/
def execRepack (site : Site) (e : Enc) (s : State) : Host.Outcome State Fault Refusal :=
  okay (s.issue site e
    (fun _ _ => { ops := [(.none, e.d), (.none, e.a), (.none, e.b)], rsv := e.type != 0 || field e.imm 23 8 != 0 })
    (fun x => x.loads.isEmpty && x.atoms.isEmpty && x.fence.isNone && x.sb.isEmpty && (s.pendingP site x).isEmpty)
    (fun x _ =>
      let refused : Done := .step (s.countCtx (s.ctxOf site) 10 1)
      if x.stepping then refused
      else if x.threads = BitVec.allOnes 32 ∨ x.stack ≠ [] then .step s
      else if s.repackRefused site x then refused
      else match (s.parkedAt site x.tile x.pc).foldl (fun (o : Option (Nat × Group)) pg =>
          match o with
          | some q => if pg.2.index < q.2.index then some pg else some q
          | none => some pg) none with
        | some (p, y) => .fin (s.startMerge site ⟨site.core, p⟩ x y)
        | none => if field e.imm 7 0 = 0 then .step s else .wait (s.setGroup site { x with wait := .parked })))

/-- REPACK_WAIT_EXPIRY: a parked group completes REPACK as a no-op (R64). -/
def execRepackWaitExpiry (site : Site) (s : State) : Host.Outcome State Fault Refusal :=
  match s.group? site with
  | some x => if x.wait = .parked then okay (s.endWait site) else okay s
  | none => okay s

/-- The faults that a tile raised while two of its groups merged: the groups' in place order, then the others; the
first is taken and each other adds 1 to MORE (R107, R108). -/
def State.takeLate (s : State) (core key : Nat) : State :=
  match s.tile? core key with
  | none => s
  | some t =>
    let own : List LateFault := ((s.core core).groupsOf key).filterMap (fun pg =>
      if pg.2.halted then none else pg.2.pending.map (fun f => { info := f, group := pg.2.index }))
    match own ++ t.late with
    | [] => s
    | f :: rest => rest.foldl (fun st r => st.moreFault core t (s.launchTag t.launch) r.info r.group)
        (s.faultTile core key f.info f.group f.but.toList)

/-- MERGE_COMPLETE: both groups go on at the next instruction, a donor without threads ends, and a fault that the tile
raised meanwhile is taken (R65, R66, R107). -/
def execMergeComplete (site : Site) (s : State) : Host.Outcome State Fault Refusal :=
  match s.group? site with
  | none => okay s
  | some x =>
    match x.wait with
    | .merging other recv =>
      let o : Site := ⟨site.core, other⟩
      let (r, d) := if recv then (site, o) else (o, site)
      let s1 := s.endWait r
      let s2 := match s1.group? d with
        | some y => if y.threads = 0 then s1.groupEnd d y.pc else s1.endWait d
        | none => s1
      okay (if s2.merging site.core x.tile then s2 else s2.takeLate site.core x.tile)
    | _ => okay s

end Sys2Proof.Machine
end

