-- ==== Sys2Proof/Machine/FrontEnd.lean ====
section
/-! DEFINITION. The front end: doorbells and the fetch of descriptors, the start of commands in ring order, and their
completion (R359, R374 to R386, R389 to R392, R397, R401, R406, R407). -/

namespace Sys2Proof.Machine

/-! ### Which command may start (R383, R405) -/

/-- The descriptor of a command as the number of its bits, and its opcode. -/
def Cmd.op (m : Cmd) : Nat := field m.desc 31 24

/-- Whether a command is still to be started. -/
def Cmd.waitsStart (m : Cmd) : Bool := m.state == .fetched

/-- Whether an opcode behaves as if ORD were set (R383). -/
def ordLike (op : Nat) : Bool := [5, 7, 8, 9, 10, 0x10, 0x11].contains op

/-- The command of a ring that its own ring lets start, where its opcode is one of `ops`: every earlier one has started, none
of them is a WAIT that still holds the ring, and with ORD all of them have completed (R383). -/
def Ring.next (r : Ring) (ops : List Nat) : Option Cmd :=
  match findIdx Cmd.waitsStart 0 r.cmds with
  | none => none
  | some (i, m) =>
    let before := r.cmds.take i
    if ops.contains m.op = false then none
    else if before.any (fun b => b.op == 6 && b.state == .waiting) then none
    else if (bitAt m.desc 33 || ordLike m.op) && !before.isEmpty then none
    else some m

/-- Whether the admin ring has a command that may start: it is served ahead of every context ring (R405). -/
def State.adminBusy (s : State) : Bool := s.feServes && (s.fe.admin.next [0, 0x10, 0x11]).isSome

/-- The command of a ring that may start now, where its opcode is one of `ops` (R383, R405). -/
def State.startable (s : State) (id : RingId) (ops : List Nat) : Option (Ring × Cmd) :=
  if s.feServes = false ∨ (id ≠ .admin ∧ s.adminBusy = true) then none
  else match s.ring? id with
    | none => none
    | some r => (r.next ops).map (fun m => (r, m))

/-! ### Fetch (R376 to R382) -/

/-- Whether a stamp is current for a count (R377). -/
def stampOk (r : Ring) (n d : Nat) : Bool :=
  nfield d 15 0 == n % 2 ^ 16 && nfield d 16 16 == phaseOf n r.rlog2

/-- What a fetched descriptor becomes: a fetched command with its launch and pins, or one that ends with a failure before
any part of it runs (R369, R378, R392). A page it needs, or the loss of its context, comes first. -/
def State.checkCmd (s : State) (id : RingId) (n : Nat) (d : BitVec 512) : Chk (Cmd × Option (Launch × List Nat)) :=
  let base : Cmd := { count := n, desc := d, tag := s.tagNow, start := s.nowN }
  let ends (st det info : Nat) : Chk (Cmd × Option (Launch × List Nat)) :=
    .ok ({ base with state := .ended st det (BitVec.ofNat 64 info) 0 }, none)
  let take (k : Chk (Launch × List Nat)) : Chk (Cmd × Option (Launch × List Nat)) :=
    match k with
    | .ok (l, pins) => .ok ({ base with pins := pins }, some (l, pins))
    | .fail st det info => ends st det info
    | .page va => .page va
    | .fault x va => .fault x va
  let op := field d 31 24
  let known := decide (op ≤ 10) || op == 0x10 || op == 0x11
  if field d 20 17 ≠ 1 then ends 6 0 0
  else if known = false then ends 7 24 0
  else match id with
    | .admin => if op = 0 ∨ op ≥ 0x10 then .ok (base, none) else ends 7 24 0
    | .ring c r =>
      if op ≥ 0x10 then ends 15 0 0
      else if op = 1 then take (s.checkLaunch c r n d)
      else if 2 ≤ op ∧ op ≤ 4 then take (s.checkMove c r n op d)
      else if op = 9 then
        match s.checkHandle c (field d 159 128) 128 with
        | .ok _ => .ok (base, none)
        | .fail st det info => ends st det info
        | .page va => .page va
        | .fault x va => .fault x va
      else .ok (base, none)

/-- What reading the descriptor at HEAD comes to. -/
inductive Fetched where
  | stale
  | miss (k : Chk Unit)
  | got (s : State)

/-- The descriptor at HEAD read and, with a current stamp, taken: its handles pinned, its launch put with the others,
HEAD moved on, the fetch traced (R374, R377, R514). -/
def State.fetchOne (s : State) (id : RingId) (r : Ring) : Fetched :=
  match s.ringNat id (r.rbase + 64 * (r.head % 2 ^ r.rlog2)) 64 with
  | .page va => .miss (.page va)
  | .fault x va => .miss (.fault x va)
  | .fail _ _ _ => .stale
  | .ok d =>
    if stampOk r r.head d = false then .stale
    else match s.checkCmd id r.head (BitVec.ofNat 512 d) with
      | .page va => .miss (.page va)
      | .fault x va => .miss (.fault x va)
      | .fail _ _ _ => .stale
      | .ok (m, l) => match s.canPin (ringCtx id) m.pins with
       | .page va => .miss (.page va)
       | .fault x va => .miss (.fault x va)
       | .fail _ _ _ => .stale
       | .ok _ =>
        let s1 := m.pins.foldl (fun st i => st.pin (ringCtx id) i) s
        let (s2, m) : State × Cmd := match l with
          | none => (s1, m)
          | some (x, _) =>
            ({ s1 with fe := { s1.fe with launches := NMap.ins s1.fe.nextKey x s1.fe.launches, nextKey := s1.fe.nextKey + 1
                                          lnum := if m.op = 1 then (s1.fe.lnum + 1) % 2 ^ 32 else s1.fe.lnum } },
              { m with launch := some s1.fe.nextKey })
        let s3 := s2.updRing id (fun x => { x with
          head := (r.head + 1) % 2 ^ 32, tries := 0, reread := false, pageWait := none, cmds := x.cmds ++ [m] })
        .got (s3.trace 5 (s.ringWard id) (ringCtx id) 0 0 (r.head % 2 ^ 16 + ringNum id * 2 ^ 16 + m.op * 2 ^ 19))

/-- Descriptors fetched in count order while the window has room (R380). A ninth stale read sets WAITDB; with DBERR set the
ring waits for the next change (R381). -/
def State.fetchLoop (s : State) (id : RingId) : Nat → State
  | 0 => s
  | fuel + 1 =>
    match s.ring? id with
    | none => s
    | some r =>
      if r.head = r.tail ∨ r.window = 0 ∨ r.waitdb ∨ r.dberr then s
      else match s.fetchOne id r with
        | .got t => t.fetchLoop id fuel
        | .miss k => s.ringMiss id k
        | .stale => s.updRing id (fun x =>
            if x.tries ≥ 8 then { x with waitdb := true, reread := false, pageWait := none }
            else { x with tries := x.tries + 1, reread := true, pageWait := none })

/-- The fetch goes on, and what changed is written in the ring table; a context ring is left for later while the admin ring
has a command to start (R405). -/
def State.fetchMore (s : State) (id : RingId) : State :=
  if s.fetches id = false then s
  else if id ≠ .admin ∧ s.adminBusy = true then s.updRing id (fun x => { x with dbOwed := true })
  else (s.fetchLoop id 32).syncRing id

/-- The doorbell line read: its values checked, TAIL and CHEAD taken, the count of tries restarted (R375, R380, R381). On a
missing page it is read again once the page has been answered (R576). -/
def State.readDoorbell (s : State) (id : RingId) : State :=
  match s.ring? id with
  | none => s
  | some r =>
    let later (va : Nat) : State := (s.ringPage id va).updRing id (fun x => { x with dbOwed := true })
    match s.ringCanWrite id (s.ringEntry id + 48) 9, s.ringNat id r.dbell 8 with
    | .ok _, .ok v =>
      let tail := v % 2 ^ 32
      let chead := v / 2 ^ 32
      let bad := decide ((tail + 2 ^ 32 - r.head) % 2 ^ 32 > 2 ^ r.rlog2) ||
        decide ((r.ctail + 2 ^ 32 - chead) % 2 ^ 32 > 2 ^ r.clog2)
      if bad then
        let s1 := s.updRing id (fun x => { x with
          dberr := true, waitdb := false, tries := 0, reread := false, pageWait := none, dbOwed := false })
        let s2 := match id with
          | .admin => s1
          | .ring c _ => s1.countCtx c 15 1
        s2.syncRing id
      else
        (s.updRing id (fun x => { x with tail := tail, chead := chead, dberr := false, waitdb := false, tries := 0
                                         reread := false, pageWait := none, dbOwed := false })).fetchMore id
    | .ok _, .page va => later va
    | .page va, _ => later va
    | .ok _, .fault x va => s.ringMiss id (.fault x va)
    | .ok _, .fail _ _ _ => s
    | k, _ => s.ringMiss id k

/-- A doorbell line that is still to be read read, or the fetch of a ring that waits for a page taken up again. -/
def State.resumeRing (s : State) (id : RingId) : State :=
  match s.ring? id with
  | none => s
  | some r =>
    if s.fetches id = false then s
    else if r.dbOwed then s.readDoorbell id
    else if r.pageWait.isSome then s.fetchMore id else s

/-- The context rings left for later served again (R405). -/
def State.serveOwed (s : State) : State :=
  if s.adminBusy then s
  else s.fe.ctxs.foldl (fun st nc => nc.2.rings.foldl (fun st ir =>
    if ir.2.dbOwed && ir.2.pageWait.isNone then st.resumeRing (.ring nc.1 ir.1) else st) st) s

/-- DOORBELL_CHANGE: the line is read, a context ring's once the admin ring has no command to start (R380, R405). -/
def execDoorbellChange (ring : RingId) (s : State) : Host.Outcome State Fault Refusal :=
  if s.fetches ring = false then okay s
  else if ring ≠ .admin ∧ s.adminBusy = true then okay (s.updRing ring (fun x => { x with dbOwed := true }))
  else okay (s.readDoorbell ring)

/-- DESCRIPTOR_REREAD: the descriptor is read again 250 ns after a stale stamp, or once a page it waits for has been
answered (R380, R576). -/
def execDescriptorReread (ring : RingId) (s : State) : Host.Outcome State Fault Refusal :=
  match s.ring? ring with
  | none => okay s
  | some r =>
    if s.fetches ring && r.dbOwed then okay (s.readDoorbell ring)
    else if s.fetches ring && (r.reread || r.pageWait.isSome) then
      match s.ringCanWrite ring (s.ringEntry ring + 48) 9 with
      | .ok _ => okay (s.fetchMore ring)
      | k => okay (s.ringMiss ring k)
    else okay s

/-! ### Commands as they start (R383, R384) -/

/-- A command of a ring changed. -/
def State.updCmd (s : State) (id : RingId) (count : Nat) (f : Cmd → Cmd) : State :=
  s.updRing id (fun r => { r with cmds := r.cmds.map (fun m => if m.count = count then f m else m) })

/-- A command ended with a status, DETAIL and INFO. -/
def State.endCmd (s : State) (id : RingId) (count st det info : Nat) : State :=
  s.updCmd id count (fun m => { m with state := .ended st det (BitVec.ofNat 64 info) 0 })

/-- A command that a piece of work decides: it goes on with a value, ends with a failure, or waits for a page. -/
def State.onChk (s : State) {α : Type} (id : RingId) (count : Nat) (k : Chk α) (go : α → State) : State :=
  match k with
  | .ok a => go a
  | .page va => s.pageRequest (ringCtx id) va
  | .fault x va => (s.sawPage (ringCtx id) va).feFault (ringCtx id) x va
  | .fail st det info => (s.sawPage (ringCtx id) info).endCmd id count st det info

/-- NOP_COMMAND: it completes OK once started (R392). -/
def execNopCommand (ring : RingId) (s : State) : Host.Outcome State Fault Refusal :=
  match s.startable ring [0] with
  | some (_, m) => okay (s.endCmd ring m.count 0 0 0)
  | none => okay s

/-! ### Commands that place tiles (R343, R384) -/

/-- Hasp lines bound by a launch that starts: one state for each (R343). -/
def bindHasps (key : Nat) (hs : NMap (List (Nat × Nat))) (m : NMap Hasp) : NMap Hasp :=
  hs.foldl (fun m h => NMap.ins h.1 { launch := key, cores := h.2 } m) m

/-- Whether every hasp line of a launch is free here (R343). -/
def State.haspsFree (s : State) (l : Launch) : Bool := l.hasps.all (fun h => !NMap.has h.1 s.hasps)

/-- The other modules of a launch's span. -/
def State.peersOf (s : State) (l : Launch) : List Nat := ((l.chain.map (·.1)).eraseDups).filter (· != s.here)

/-- Indexes of the tiles whose own core lies on a module (R344). -/
def Launch.tilesAt (l : Launch) (m : Nat) : List Nat :=
  (List.range l.total).filter (fun t => match l.homeCore t with
    | some c => c.1 == m
    | none => false)

/-- Whether the hasp lines of a launch are free on the other modules of its span, which no message tells the front end,
so that it is open (R343, log 129). -/
def State.farFree (s : State) (l : Launch) : Bool :=
  l.hasps.isEmpty || (s.peersOf l).isEmpty || Config.freeBool s.free

/-- Tiles of a launch with hasp lines that no core of its span is left for: they end with the die (R31, R234). -/
def Launch.homeless (l : Launch) : List Nat :=
  if l.hasps.isEmpty then [] else (List.range l.total).filter (fun t => (l.homeCore t).isNone)

/-- A tile-placing command starts: its hasp lines are bound, the members of its span are told, and its tiles may be
placed (R343, R344, R384, R456). -/
def State.startLaunch (s : State) (id : RingId) (m : Cmd) : State :=
  match m.launch with
  | none => s
  | some k =>
    match s.launch? k with
    | none => s
    | some l =>
      if (s.ctx l.ctx).state ≠ .resident then s
      else if s.haspsFree l = false then s
      else if s.farFree l = false then { s with free := s.free + 1 }
      else
        let peers := s.peersOf l
        let s1 : State := { s with hasps := bindHasps k l.hasps s.hasps
                                   free := s.free + if l.hasps.isEmpty || peers.isEmpty then 0 else 1 }
        let s2 := s1.updLaunch k (fun l => { l with
          go := true, fenced := l.homeless.length, ended := l.homeless.length, out := peers.map (fun p => (p, if l.hasps.isEmpty then 0 else (l.tilesAt p).length))
          pool := if l.hasps.isEmpty then [] else l.tilesAt s1.here, next := if l.hasps.isEmpty then 0 else l.total })
        let s3 := peers.foldl (fun st p => st.sendTo p (.place l.scid l.fields) 0 (s.ctx l.ctx).ward) s2
        s3.updCmd id m.count (fun m => { m with state := .started })

/-- The command that starts, of an opcode that places tiles. -/
def State.startMoves (s : State) (ring : RingId) (op : Nat) : State :=
  match s.startable ring [op] with
  | some (_, m) => s.startLaunch ring m
  | none => s

/-- LAUNCH: starts, its checks made at fetch (R393, R394). -/
def execLaunch (ring : RingId) (s : State) : Host.Outcome State Fault Refusal := okay (s.startMoves ring 1)

/-- COPY (R398, R399). -/
def execCopy (ring : RingId) (s : State) : Host.Outcome State Fault Refusal := okay (s.startMoves ring 2)

/-- CONVERT (R398, R399). -/
def execConvert (ring : RingId) (s : State) : Host.Outcome State Fault Refusal := okay (s.startMoves ring 3)

/-- FILL (R398, R399). -/
def execFill (ring : RingId) (s : State) : Host.Outcome State Fault Refusal := okay (s.startMoves ring 4)

/-! ### Completion (R386, R389, R390, R397) -/

/-- Whether a launch places no more tiles. -/
def Launch.stops (l : Launch) : Bool :=
  l.cancelled || l.hostReset || l.faulted || l.memFault.isSome || l.spanLost

/-- Whether a tile of a launch is on a core. -/
def State.tileOut (s : State) (k : Nat) : Bool :=
  s.cores.any (fun ck => ck.2.tiles.any (fun t => t.2.launch == k))

/-- Whether a store or an atomic of a launch's ended groups is still under way (R386). -/
def State.storeOut (s : State) (k : Nat) : Bool :=
  s.cores.any (fun ck => ck.2.orphans.any (fun o => o.launch == k))

/-- Whether every module of a launch's span has refused to place its tiles (R458). -/
def Launch.noTaker (l : Launch) : Bool := !l.refused.isEmpty && l.chain.all (fun c => l.refused.contains c.1)

/-- Whether every tile of a launch has ended or been stopped, those of other members included (R397, R457). -/
def State.launchOver (s : State) (k : Nat) (l : Launch) : Bool :=
  !s.tileOut k &&
    (l.stops || l.noTaker || (decide (l.next ≥ l.total) && l.pool.isEmpty && l.replays.isEmpty)) && l.out.all (fun o => o.2 == 0)

/-- The status, DETAIL and INFO of a launch that is over, the first of R390 that applies. -/
def Launch.status (l : Launch) : Nat × Nat × Nat :=
  if l.faulted then (2, 0, 0)
  else if l.hostReset then (5, 0, 0)
  else if l.cancelled then (1, 0, 0)
  else match l.peerLost with
    | some o => (14, 0, o)
    | none =>
      if l.fenced ≠ 0 then (4, 0, l.fenced)
      else if l.failed ≠ 0 then (3, 0, l.failed)
      else match l.memFault with
        | some (cause, va) => (13, cause, va)
        | none => (0, 0, 0)

/-- Lines brought to their controllers from whichever die's LLC holds them dirty, a clean copy kept in E (R294, R311,
R386). -/
def State.finalAll (s : State) (lines : List Nat) : State :=
  lines.foldl (fun st l =>
    let s1 := st.acceptSent l
    match (s1.holders l).find? (fun h => h.2.st == .m && h.1 != 10) with
    | some (stop, c) =>
      (s1.setCache stop (NMap.ins l { c with st := .e, tag := 0 } (s1.cacheOf stop))).memAccept l
        ((List.range 128).map (fun i => (i, c.bytes.getD i 0))) c.poison c.tag
    | none => s1) s

/-- Whether a tile still runs that started under another plan than a PARTITION has written (R290). -/
def State.oldPlans (s : State) (d : BitVec 512) : Bool :=
  s.cores.any (fun ck => ck.2.tiles.any (fun kt =>
    let p := (s.ctx kt.2.ctx).plan
    decide (field d 133 128 ≤ p) && decide (p < field d 133 128 + field d 139 134) && kt.2.plan != s.plan p))

/-- What a command completes with, where it may complete now: status, DETAIL, INFO and flags, and the state in which,
with DONE, its writes have reached their final endpoints. -/
def State.completion (s : State) (m : Cmd) : Option (Nat × Nat × Nat × BitVec 5 × State) :=
  match m.launch with
  | none => match m.state with
    | .ended st det info fl => some (st, det, info.toNat, fl, s)
    | .started => if m.op = 0x10 ∧ s.oldPlans m.desc = false then some (0, 0, 0, 0, s) else none
    | _ => none
  | some k =>
    if s.tileOut k || s.storeOut k then none
    else match s.launch? k, m.state with
      | none, .ended st det info fl => some (st, det, info.toNat, fl, s)
      | none, _ => none
      | some l, x =>
        if bitAt m.desc 34 && !l.winDone.isEmpty then none
        else
          let s1 := if bitAt m.desc 34 then s.finalAll l.dirtied else s
          let fl : BitVec 5 := if m.op = 1 ∨ m.op = 3 then l.flags else 0
          match x with
          | .ended st det info _ => if l.out.all (fun o => o.2 == 0) then some (st, det, info.toNat, fl, s1) else none
          | x =>
            if (x = .started ∨ l.stops) ∧ s.launchOver k l = true then (let r := l.status; some (r.1, r.2.1, r.2.2, fl, s1)) else none

/-- Whether no command of a context is fetched. -/
def Ctx.quiet (c : Ctx) : Bool := c.rings.all (fun r => r.2.cmds.isEmpty)

/-! ### Slots (R360, R364) -/

/-- The slot of a context in another state, from now on; the time it was resident counts as it leaves that (R371). -/
def State.slotTo (s : State) (n st : Nat) : State :=
  let c := s.ctx n
  let x := s.slot c.slot
  let s1 := if x.state = 2 ∧ st ≠ 2 then
      s.updCtx n (fun c => { c with usage := { c.usage with resns := c.usage.resns.add 48 (s.nowN - x.since) } }) else s
  s1.setSlot c.slot (if st = 0 then { since := s.nowN } else
    { x with ctx := n, state := st, ward := c.ward, since := s.nowN, want := none })

/-- The eviction of a context that holds a slot begins, for another context or none: no new tile is placed (R361, R364). A
faulted one stays faulted. -/
def State.startEviction (s : State) (n : Nat) (want : Option Nat) : State :=
  if (s.ctx n).holdsSlot s.fe.slots n = false ∨ (s.slot (s.ctx n).slot).state = 3 then s
  else
    let s0 := s.slotTo n 3
    let s1 : State := { s0 with fe := { s0.fe with slots := NMap.modify (s.ctx n).slot (fun x => { x with want := want }) s0.fe.slots } }
    (s1.updCtx n (fun c => { c with state := if c.state = .faulted then .faulted else .evicting })).syncCtx n

/-- A context that is leaving and whose commands have all completed is evicted, and goes off once it holds no slot (R359
steps 3 and 4). -/
def State.settleOff (s : State) (ctx : Nat) : State :=
  let c := s.ctx ctx
  if c.leaving = false ∨ c.quiet = false then s
  else if c.holdsSlot s.fe.slots ctx then s.startEviction ctx none
  else
    (s.updCtx ctx (fun c => { c with state := .off, cause := 0, slot := 0, leaving := false, rings := [], map := []
                                     mapRead := false, mapAsk := [], owedPins := [], owedFaults := [] })).syncCtx ctx

/-- A launch that is over taken out: its hasp lines are free, and what it pinned for a peer is unpinned (R343, R369). -/
def State.dropLaunch (s : State) (k : Nat) : State :=
  let s1 := match s.launch? k with
    | some l => l.pins.foldl (fun (st : State) i => st.unpin l.ctx i) s
    | none => s
  { s1 with fe := { s1.fe with launches := NMap.del k s1.fe.launches }
            hasps := s1.hasps.filter (fun h => h.2.launch != k) }

/-- A command that is over reported: counters, entry, MSI, trace; its handles are unpinned and its launch is taken out
(R386, R387, R391, R517). With `force`, an entry that waits for a page is dropped. -/
def State.completeCmd (s : State) (ring : RingId) (count : Nat) (force : Bool) : State :=
  match s.ring? ring with
  | none => s
  | some r =>
    match r.cmds.find? (fun m => m.count == count) with
    | none => s
    | some m =>
      match s.completion m with
      | none => s
      | some (st, det, info, fl, s1) =>
        let faulted : Bool := match ring with
          | .admin => false
          | .ring c _ => (s.ctx c).state == .faulted
        let ready : Chk Unit :=
          (s1.ringCanWrite ring r.nextEntry 32).bind fun _ =>
          (s1.ringCanWrite ring (s1.ringEntry ring + 48) 9).bind fun _ => s1.canPin (ringCtx ring) m.pins
        let last (st1 : State) : State :=
          let a := match m.launch with | some k => st1.dropLaunch k | none => st1
          match ring with
          | .admin => a
          | .ring c _ => a.settleOff c
        let lost : State := m.pins.foldl (fun st i => st.unpin (ringCtx ring) i)
          (s1.updRing ring (fun x => { x with cmds := x.cmds.filter (fun y => y.count != count) }))
        match ready, force with
        | .ok _, _ =>
          let s2 := s1.postEntry ring m 0 st det fl info (bitAt m.desc 32)
          let s3 := m.pins.foldl (fun st i => st.unpin (ringCtx ring) i) s2
          last (s3.trace 6 (s.ringWard ring) (ringCtx ring) 0 0 (count % 2 ^ 16 + ringNum ring * 2 ^ 16 + st * 2 ^ 19))
        | .page va, false => s1.ringPage ring va
        | .page _, true => last lost
        -- the entry is lost; a context that is not yet faulted is faulted (R576)
        | k, _ => last (if faulted then lost else lost.ringMiss ring k)

/-- Whether a ring has a command of a count fetched and not completed. -/
def State.holdsCmd (s : State) (ring : RingId) (count : Nat) : Bool :=
  match s.ring? ring with
  | some r => r.cmds.any (fun m => m.count == count)
  | none => false

/-- COMMAND_COMPLETION: a command that is over, with its writes visible, is reported, and its ring is fetched on (R386). -/
def execCommandCompletion (ring : RingId) (count : Nat) (s : State) : Host.Outcome State Fault Refusal :=
  if s.power.on = false ∨ s.fe.frozen.isSome then okay s
  else if s.holdsCmd ring count = false then okay s
  else
    let t := s.completeCmd ring count false
    okay (if t.holdsCmd ring count then t else if ring = .admin then (t.fetchMore ring).serveOwed else t.fetchMore ring)

/-! ### Failover (R406, R407) -/

/-- FRONT_END_TAKEOVER: the mirror on B1 takes the failed front end's work over with all it had recorded, and the keeper
raises event 5. The entries it rewrites are identical; which of them it cannot confirm, and so whose MSI it sends again,
is open: at most one for each ring. -/
def execFrontEndTakeover (s : State) : Host.Outcome State Fault Refusal :=
  if s.fe.mirror ∨ s.power.on = false ∨ s.stage ≠ .ready then okay s
  else
    let s1 : State := { s with fe := { s.fe with mirror := true } }
    let s2 := s1.fe.lastMsi.foldl (fun st m =>
      let (i, sd) := st.draw
      if Config.freeBool i ∧ sd.epochClosed = false then sd.msi m.2.1 m.2.2 else sd) s1
    okay (s2.keeperEvent 5 0)

end Sys2Proof.Machine
end

