-- ==== Sys2Proof/Machine/Shares.lean ====
section
/-! DEFINITION. Shares: the share list, placement of granules, copies and zeroing, departures, and the SHARE command
(R273 to R279, R362 to R364, R402). -/

namespace Sys2Proof.Machine

/-! ### The share list (R273, R363) -/

/-- The run that an entry of the share list or of SHARE describes; `slot` is its place in the list. -/
def runOf (e slot : Nat) : ShareRun :=
  { vbase := nfield e 63 21 * 2 ^ 21, lbase := nfield e 127 85 * 2 ^ 21, ngran := nfield e 139 128
    scratch := e.testBit 144, rdonly := e.testBit 145, die := nfield e 148 146, anydie := e.testBit 149, slot := slot }

/-- The entry of the list that describes a run: its reserved bits read zero. -/
def ShareRun.entry (r : ShareRun) : Nat :=
  r.vbase + r.lbase * 2 ^ 64 + r.ngran * 2 ^ 128 + b2n r.scratch * 2 ^ 144 + b2n r.rdonly * 2 ^ 145 + r.die * 2 ^ 146 +
    b2n r.anydie * 2 ^ 149

/-- One past the last virtual address of a run. -/
def ShareRun.vend (r : ShareRun) : Nat := r.vbase + r.ngran * 2 ^ 21

/-- Whether two runs overlap. -/
def ShareRun.meets (a b : ShareRun) : Bool := decide (a.vbase < b.vend) && decide (b.vbase < a.vend)

/-- Whether `n` bytes from an address are canonical throughout. -/
def canonicalRange (a n : Nat) : Bool :=
  canonical a && canonical (a + n - 1) && decide (a + n ≤ 2 ^ 64) && a / 2 ^ 63 == (a + n - 1) / 2 ^ 63

/-- Whether an entry describes a run as R273 requires. -/
def ShareRun.ok (r : ShareRun) : Bool :=
  decide (1 ≤ r.ngran) && decide (r.ngran ≤ 2688) && (r.scratch || r.lbase == r.vbase) &&
    canonicalRange r.vbase (r.ngran * 2 ^ 21) && canonicalRange r.lbase (r.ngran * 2 ^ 21)

/-- `n` entries of 32 bytes at addresses of a context. -/
def entriesAt (read : Nat → Chk Nat) (a : Nat) : Nat → Chk (List Nat)
  | 0 => .ok []
  | n + 1 => (read a).bind fun e => (entriesAt read (a + 32) n).bind fun es => .ok (e :: es)

/-- The runs of a context's share list, with their slots. -/
def State.shareList (s : State) (ctx : Nat) : Chk (List ShareRun) :=
  (entriesAt (fun a => s.chkTable ctx a 32) (s.ctx ctx).slist 256).bind fun es =>
    .ok (((List.range 256).map (fun i => runOf (es.getD i 0) i)).filter (fun r => r.ngran != 0))

/-- An entry of the share list written. -/
def State.putShare (s : State) (ctx slot e : Nat) : State :=
  s.feStore ctx s.tagNow ((s.ctx ctx).slist + 32 * slot) (natBytes 32 e)

/-! ### Placement (R279, R362, R269) -/

/-- Granules of a die's share pool. -/
def State.poolSize (s : State) (die : Nat) : Nat := 192 * NMap.findD 0 die s.ms.shareways

/-- Granules taken on all dies, by die × 4,096 + granule. -/
def State.granulesTaken (s : State) : List Nat :=
  (s.fe.ctxs.map (fun nc => (nc.2.shares.map (fun r => NMap.vals r.placed)).flatten)).flatten

/-- Granules that the contexts of a ward hold. -/
def State.wardGranules (s : State) (ward : Nat) : Nat :=
  ((s.fe.ctxs.filter (fun nc => nc.2.ward == ward)).map (fun nc => (nc.2.shares.map (fun r => r.placed.length)).sum)).sum

/-- The lowest free granule of a die that is not fenced. -/
def State.freeGranule (s : State) (die : Nat) : Option Nat :=
  if s.fenced die then none
  else ((List.range (s.poolSize die)).find? (fun g => !s.granulesTaken.contains (die * 4096 + g))).map (die * 4096 + ·)

/-- The granule a run's next granule goes to: on its die, or with ANYDIE on the others in ascending order. -/
def State.pickGranule (s : State) (r : ShareRun) : Option Nat :=
  match s.freeGranule r.die with
  | some g => some g
  | none => if r.anydie then ((List.range 8).filter (· != r.die)).findSome? s.freeGranule else none

/-- The LPDDR5X page that a page of a run's LBASE range is mapped to, readable and writable (R273, R274). -/
def State.backPage (s : State) (ctx a : Nat) : Option Nat :=
  let c := s.ctx ctx
  let page : Target → Option Nat
    | .cache pa => some (pa / 4096)
    | .uncached pa => some (pa / 4096)
    | _ => none
  match s.translate c.pasid c.plan a .write, s.translate c.pasid c.plan a .read with
  | .ok _, .ok t => page t
  | _, _ => none

/-- The run with its LBASE range translated (R274). -/
def State.withBacks (s : State) (ctx : Nat) (r : ShareRun) : ShareRun :=
  { r with backs := (List.range (r.ngran * 512)).filterMap (fun i => (s.backPage ctx (r.lbase + 4096 * i)).map (fun p => (i, p))) }

/-- Whether the region of granule `i` of a run was mapped throughout; a granule whose region is not stays unplaced
(R274). -/
def ShareRun.mapped (r : ShareRun) (i : Nat) : Bool := (List.range 512).all (fun j => NMap.has (512 * i + j) r.backs)

/-- A line of a run copied from its region into a granule, poison with it (R274, R291). -/
def State.copyLine (s : State) (r : ShareRun) (off key : Nat) : State :=
  match r.behind off with
  | none => s
  | some pa =>
    let d := s.coherentLine (lineOf pa)
    { s with ms := { s.ms with sram := putBytes s.ms.sram key (s.cohRead pa 128)
                               sramPoison := if d.poison then addNew key s.ms.sramPoison else s.ms.sramPoison } }

/-- A granule zeroed, its marks taken away. -/
def State.zeroGranule (s : State) (key : Nat) : State :=
  let inside (k : Nat) : Bool := decide (key ≤ k) && decide (k < key + 2 ^ 21)
  { s with ms := { s.ms with sram := s.ms.sram.filter (fun kb => !inside kb.1)
                             stamps := s.ms.stamps.filter (fun kb => !inside kb.1)
                             sramPoison := s.ms.sramPoison.filter (fun k => !inside k) } }

/-- Where a granule's bytes lie in the bonded SRAM. -/
def granuleKey (g : Nat) : Nat := g / 4096 * sramBytes + g % 4096 * 2 ^ 21

/-- A placed granule filled: zeroed, and copied from the region of a backed share (R274, R279). -/
def State.fillGranule (s : State) (r : ShareRun) (i g : Nat) : State :=
  let s1 := s.zeroGranule (granuleKey g)
  if r.scratch then s1
  else (List.range 16384).foldl (fun st j =>
    st.copyLine r (i * 2 ^ 21 + 128 * j) (granuleKey g + 128 * j)) s1

/-- The runs of a context with `f` applied to the one in a slot of the list. -/
def Ctx.updShare (c : Ctx) (slot : Nat) (f : ShareRun → ShareRun) : Ctx :=
  { c with shares := c.shares.map (fun r => if r.slot = slot then f r else r) }

/-- Granule `i` of a run placed and filled, within the ward's limit, where a die has room. -/
def State.placeGranule (s : State) (ctx : Nat) (r : ShareRun) (i : Nat) : State :=
  let c := s.ctx ctx
  if s.wardGranules c.ward ≥ 8 * c.gran8 ∨ r.mapped i = false then s
  else match s.pickGranule r with
    | none => s
    | some g => (s.updCtx ctx (fun c => c.updShare r.slot (fun r => { r with placed := NMap.ins i g r.placed }))).fillGranule
        r i g

/-- GRANS of a context's slot brought up to date (R360). -/
def State.syncGrans (s : State) (ctx : Nat) : State :=
  let c := s.ctx ctx
  if c.holdsSlot s.fe.slots ctx then
    s.setSlot c.slot { s.slot c.slot with grans := (c.shares.map (fun r => r.placed.length)).sum }
  else s

/-- A run made resident: its LBASE range translated, its granules placed and filled, then served from the bonded SRAM
(R262, R274). -/
def State.placeRun (s : State) (ctx : Nat) (r : ShareRun) : State :=
  let r := s.withBacks ctx r
  let s0 := s.translated ctx (if r.rdonly then .read else .write) ((NMap.keys r.backs).map (fun i => r.lbase + 4096 * i))
  let s1 := s0.updCtx ctx (fun c => { c with shares := c.shares ++ [{ r with resident := true, filled := false, placed := [] }] })
  let s2 := (List.range r.ngran).foldl (fun st i => st.placeGranule ctx r i) s1
  (s2.updCtx ctx (fun c => c.updShare r.slot (fun r => { r with filled := true }))).syncGrans ctx

/-! ### Departure (R278) -/

/-- The target an access under way to a departing run goes to: the memory behind it. -/
def ShareRun.off (r : ShareRun) (va : Nat) (t : Target) : Target :=
  match t with
  | .share _ _ _ =>
    if r.vbase ≤ va ∧ va < r.vend then
      match r.behind (va - r.vbase) with
      | some pa => .cache pa
      | none => t
    else t
  | t => t

/-- The accesses of a group with their targets replaced. -/
def Group.retarget (x : Group) (f : Nat → Target → Target) : Group :=
  { x with loads := x.loads.map (fun l => { l with lanes := l.lanes.map (fun a => { a with tgt := f a.va a.tgt }) })
           sb := x.sb.map (fun e => { e with tgt := f e.va e.tgt })
           atoms := x.atoms.map (fun a => { a with tgt := f a.va a.tgt }) }

/-- The same for a store or an atomic left to complete. -/
def Orphan.retarget (o : Orphan) (f : Nat → Target → Target) : Orphan :=
  { o with store := o.store.map (fun e => { e with tgt := f e.va e.tgt })
           atom := o.atom.map (fun a => { a with tgt := f a.va a.tgt }) }

/-- The pages of a queued MLOAD or drain with their targets replaced. -/
def MInstr.retarget (m : MInstr) (f : Nat → Target → Target) : MInstr :=
  match m with
  | .mload b fm va co k p pages => .mload b fm va co k p (pages.map (fun q => (q.1, f q.1 q.2)))
  | .mdrain fm a rm va co p c pages => .mdrain fm a rm va co p c (pages.map (fun q => (q.1, f q.1 q.2)))
  | m => m

/-- The accesses under way of a context's tiles on a core with their targets replaced. -/
def Core.retarget (k : Core) (ctx : Nat) (f : Nat → Target → Target) : Core :=
  let mine (key : Nat) : Bool := match NMap.find key k.tiles with
    | some t => t.ctx == ctx
    | none => false
  let entry (m : MEntry) : MEntry :=
    match NMap.find m.place k.groups with
    | some x => if mine x.tile then { m with instr := m.instr.retarget f } else m
    | none => m
  { k with groups := NMap.mapVals (fun _ x => if mine x.tile then x.retarget f else x) k.groups
           orphans := k.orphans.map (fun o => if o.ctx = ctx then o.retarget f else o)
           queue := k.queue.map entry, running := k.running.map entry }

/-- The lines of a run's region that writes are under way to. -/
def State.regionWrites (s : State) (r : ShareRun) : List Nat :=
  let pages := NMap.vals r.backs
  ((s.coh.sent.filter (fun w => pages.contains (w.line / 4096))).map (·.line)).eraseDups

/-- The reservations of a core's groups on granules that satisfy `p` lost (R313). -/
def Core.loseResv (k : Core) (p : Granule → Bool) : Core :=
  { k with groups := NMap.mapVals (fun _ x => { x with resv := x.resv.filter (fun lr => !p lr.2) }) k.groups }

/-- A run leaves residency: accesses go to its region, its write-throughs are accepted, reservations on it are lost, and
its granules are free (R278). -/
def State.departRun (s : State) (ctx : Nat) (r : ShareRun) : State :=
  let s1 := { s with cores := NMap.mapVals (fun _ (k : Core) => k.retarget ctx r.off) s.cores }
  let s2 := if r.scratch then s1 else (s.regionWrites r).foldl (fun st l => st.acceptSent l) s1
  let taken := NMap.vals r.placed
  let held : Granule → Bool
    | .share die a => taken.contains (die * 4096 + a / 2 ^ 21)
    | _ => false
  let s3 := { s2 with cores := NMap.mapVals (fun _ (k : Core) => k.loseResv held) s2.cores }
  (s3.updCtx ctx (fun c => { c with shares := c.shares.filter (fun q => q.slot != r.slot) })).syncGrans ctx

/-- Every run of a context leaves residency (R364). -/
def State.departAll (s : State) (ctx : Nat) : State :=
  (s.ctx ctx).shares.foldl (fun st r => st.departRun ctx r) s

/-! ### SHARE (R402) -/

/-- The entries that a SHARE names, read and bounded (R402). -/
def State.shareEntries (s : State) (ctx : Nat) (d : BitVec 512) : Chk (List Nat) :=
  let a := field d 191 128
  let n := field d 200 192
  (Chk.need (decide (a % 32 = 0) && canonical a) 9 128 0).bind fun _ =>
  (Chk.need (decide (1 ≤ n) && decide (n ≤ 256)) 9 192 0).bind fun _ =>
  entriesAt (fun x => s.chkRead ctx x 32 128) a n

/-- Whether the entries of a share list in some slots can be written. -/
def State.slotsWritable (s : State) (ctx : Nat) (slots : List Nat) : Chk Unit :=
  slots.foldl (fun k i => k.bind (fun _ => s.chkCanWrite ctx ((s.ctx ctx).slist + 32 * i) 32)) (.ok ())

/-- Whether the runs of a list are pairwise apart. -/
def apart : List ShareRun → Bool
  | [] => true
  | r :: rs => !rs.any r.meets && apart rs

/-- The runs a SHARE adds, each with the list slot it takes (R363, R402). -/
def State.shareRuns (s : State) (ctx : Nat) (d : BitVec 512) : Chk (List ShareRun) :=
  (s.shareEntries ctx d).bind fun es =>
  (s.shareList ctx).bind fun old =>
  let new := es.map (fun e => runOf e 0)
  (Chk.need (new.all ShareRun.ok && apart (new ++ old)) 9 128 0).bind fun _ =>
  let empty := (List.range 256).filter (fun i => !old.any (fun r => r.slot == i))
  (Chk.need (decide (new.length ≤ empty.length)) 16 0 0).bind fun _ =>
  (s.slotsWritable ctx (empty.take new.length)).bind fun _ =>
  .ok ((new.zip empty).map (fun re => { re.1 with slot := re.2 }))

/-- SHARE with REL clear: the runs join the share list, and of a resident context they are placed and filled (R402). -/
def execShare (ring : RingId) (s : State) : Host.Outcome State Fault Refusal :=
  match s.startable ring [7] with
  | none => okay s
  | some (_, m) =>
    if bitAt m.desc 201 then okay s
    else
      let ctx := ringCtx ring
      okay (s.onChk ring m.count (s.shareRuns ctx m.desc) (fun rs =>
        let s1 := rs.foldl (fun st r => st.putShare ctx r.slot r.entry) s
        let s2 := if (s.ctx ctx).state = .resident then rs.foldl (fun st r => st.placeRun ctx r) s1 else s1
        s2.endCmd ring m.count 0 0 0))

/-- The runs a SHARE with REL names; one that names no run, or a run already named, fails (R402). -/
def State.releaseRuns (s : State) (ctx : Nat) (d : BitVec 512) : Chk (List ShareRun) :=
  (s.shareEntries ctx d).bind fun es =>
  (s.shareList ctx).bind fun old =>
  let named := es.map (fun e => (runOf e 0).vbase)
  (Chk.need (named.all (fun v => old.any (fun r => r.vbase == v)) && decide (named.eraseDups.length = named.length))
    9 128 0).bind fun _ =>
  let rs := old.filter (fun r => named.contains r.vbase)
  (s.slotsWritable ctx (rs.map (·.slot))).bind fun _ => .ok rs

/-- SHARE with REL set: the named runs leave residency and their list entries are cleared (R278, R363, R402). -/
def execShareRelease (ring : RingId) (s : State) : Host.Outcome State Fault Refusal :=
  match s.startable ring [7] with
  | none => okay s
  | some (_, m) =>
    if bitAt m.desc 201 = false then okay s
    else
      let ctx := ringCtx ring
      okay (s.onChk ring m.count (s.releaseRuns ctx m.desc) (fun rs =>
        let s1 := rs.foldl (fun st r =>
          match (st.ctx ctx).shares.find? (fun q => q.slot == r.slot) with
          | some q => st.departRun ctx q
          | none => st) s
        let s2 := rs.foldl (fun st r => st.putShare ctx r.slot 0) s1
        s2.endCmd ring m.count 0 0 0))

end Sys2Proof.Machine
end

