-- ==== Sys2Proof/Machine/Sync.lean ====
section
/-! DEFINITION. The sync instructions, the end of fences and TWAIT timeouts, and the host's answers to page requests
(R84, R99, R135 to R138, R310, R311, R316, R325 to R333, R345 to R347). -/

namespace Sys2Proof.Machine

/-! ### Fields (R135) -/

/-- AU and AREG, BU and BREG, IDIMM, LOC, DEC, VIMM, PDST and TO. -/
def syAu (e : Enc) : Bool := e.srcA.getLsbD 7
def syAreg (e : Enc) : Nat := field e.srcA 5 0
def syBu (e : Enc) : Bool := e.srcB.getLsbD 7
def syBreg (e : Enc) : Nat := field e.srcB 5 0
def syIdimm (e : Enc) : Nat := field e.imm 11 0
def syLoc (e : Enc) : Bool := e.imm.getLsbD 12
def syDec (e : Enc) : Bool := e.imm.getLsbD 13
def syVimm (e : Enc) : Nat := field e.imm 23 14
def syPdst (e : Enc) : Nat := field e.dst 2 0
def syTo (e : Enc) : Nat := field e.dst 6 3

/-- The identifier, used whole, and the count or value, bits [31:0] (R137). -/
def Group.syId (x : Group) (e : Enc) : Nat := if syAu e then (x.ru (syAreg e)).toNat else syIdimm e
def Group.syVal (x : Group) (e : Enc) : Nat := if syBu e then (x.ru (syBreg e)).toNat % 2 ^ 32 else syVimm e

/-- The fields a sync instruction uses beside its identifier: LOC, DEC, the value, PDST and TO. -/
structure SyUse where
  loc  : Bool := false
  dec  : Bool := false
  val  : Bool := false
  pdst : Bool := false
  tmo  : Bool := false

/-- A reserved value stands in a field (R135, R142). -/
def syRsv (u : SyUse) (e : Enc) : Bool :=
  e.type != 0 || e.srcA.getLsbD 6 || e.dst.getLsbD 7 ||
  (if syAu e then syIdimm e != 0 else syAreg e != 0) ||
  (if u.val then e.srcB.getLsbD 6 || (if syBu e then syVimm e != 0 else syBreg e != 0)
   else e.srcB != 0 || syVimm e != 0) ||
  (!u.loc && syLoc e) || (!u.dec && syDec e) || (!u.pdst && syPdst e != 0) || (!u.tmo && syTo e != 0)

/-- Decoding of a sync instruction; `limit` bounds the identifier of HASP and the fences (R136, R137). -/
def syDecode (u : SyUse) (limit : Option Nat) (e : Enc) (x : Group) : Dec :=
  { ops := if u.pdst then [(.p, syPdst e)] else []
    rsv := syRsv u e
    extra := match limit with
      | some n => if x.syId e < n then [] else [0]
      | none => [] }

/-! ### Tumbler identifiers (R324 to R327, R137) -/

/-- What an identifier names: a local tumbler, one of this module's or a peer's global tumblers, or a misuse. -/
inductive TumTgt where
  | loc (id : Nat)
  | global (n : Nat)
  | remote (peer n : Nat)
  | unmapped
  | foreign (remote : Bool) (peer n : Nat)
  deriving DecidableEq, Repr, Inhabited

/-- The tumbler an identifier names for a context. -/
def State.tumTarget (s : State) (ctx : Nat) (loc : Bool) (id : Nat) : TumTgt :=
  if loc then (if id < 48 then .loc id else .unmapped)
  else match NMap.find id (s.ctx ctx).map with
    | none => .unmapped
    | some m =>
      if m.foreign then .foreign m.remote m.peer m.index
      else if m.remote then .remote m.peer m.index else .global m.index

/-- The span context identifier of a context, from its entry of the span context table (R455). -/
def State.scidOf (s : State) (ctx : Nat) : Nat :=
  if s.span.sctab = 0 then 0 else s.cohNat (s.span.sctab + 4 * ctx) 4 % 65536

/-- M of a foreign tumbler set: here, or by a message that its module will refuse (R326, R333, log 24). -/
def State.markForeign (s : State) (ctx : Nat) (remote : Bool) (peer n : Nat) : State :=
  if remote then s.sendTo peer (.tarrive n (s.scidOf ctx) .mark) 0 (s.ctx ctx).ward
  else s.setTum n { s.tum n with m := true }

/-- An operation of a group sent to the tumbler it names: posted, or held in the group's wait. A misuse faults with the
identifier as its address (R108, R326). -/
def State.tumSend (s : State) (g : Site) (x : Group) (lanes : LaneMask) (loc : Bool) (id : Nat) (op : TumOp)
    (post : State → Done) (wait : State → Nat → Done) : Done :=
  let ctx := s.ctxOf g
  let posted := match op with | .arrive _ => true | .depart _ => true | _ => false
  match s.tumTarget ctx loc id with
  | .unmapped => .fault 6 0 (lowestLane lanes) id
  | .foreign r p n => .faulted (s.markForeign ctx r p n) 6 1 (lowestLane lanes) id
  | .loc i =>
    let s1 := s.updCore g.core (fun k => { k with ltq := k.ltq ++ [{ tile := x.tile, id := i, op := op, place := g.place }] })
    if posted then post s1 else wait s1 0
  | .global n =>
    let go (t : State) : State := { t with tumq := t.tumq ++ [⟨.group g, n, op⟩] }
    if posted then s.committed g x (fun t => post (go t)) else wait (go s) n
  | .remote p n =>
    let (id, s1) := s.newTx p
    let go (t : State) (tx : Nat) : State := t.sendTo p (.tarrive n (s.scidOf ctx) op) tx (s.ctx ctx).ward
    if posted then s.committed g x (fun t => post (go t 0)) else wait (go s1 id) (65536 + id)

/-! ### TARRIVE, TWAIT, TTEST -/

/-- TARRIVE: a posted addition or subtraction (R329, R333); on a global tumbler it commits the tile first (R224). -/
def execTarrive (site : Site) (e : Enc) (s : State) : Host.Outcome State Fault Refusal :=
  okay (s.issue site e
    (fun x _ => syDecode { loc := true, dec := true, val := true } none e x)
    (fun x => s.syncReady site x)
    (fun x lanes =>
      let op := if syDec e then TumOp.depart (x.syVal e) else TumOp.arrive (x.syVal e)
      s.tumSend site x lanes (syLoc e) (x.syId e) op (fun t => .step t) (fun t _ => .step t)))

/-- The time a timeout code sets, none for no timeout (R138). -/
def twaitDeadline (now t : Nat) : Option Nat := if t = 0 then none else some (now + 2 ^ (t + 9))

/-- TWAIT: the group waits until the count reaches the value or the timeout elapses (R137, R138, R331). -/
def execTwait (site : Site) (e : Enc) (s : State) : Host.Outcome State Fault Refusal :=
  okay (s.issue site e
    (fun x _ => syDecode { loc := true, val := true, pdst := true, tmo := true } none e x)
    (fun x => s.syncReady site x)
    (fun x lanes =>
      let v := x.syVal e
      s.tumSend site x lanes (syLoc e) (x.syId e) (.wait v) (fun t => .step t) (fun t n =>
        .wait (t.updGroup site (fun y => { y with
          wait := .twait (syLoc e) (x.syId e) n v (syPdst e) (twaitDeadline s.nowN (syTo e)) })))))

/-- TTEST: the group waits for the result, whether the count is at least the value (R329, R333). -/
def execTtest (site : Site) (e : Enc) (s : State) : Host.Outcome State Fault Refusal :=
  okay (s.issue site e
    (fun x _ => syDecode { loc := true, val := true, pdst := true } none e x)
    (fun x => s.syncReady site x)
    (fun x lanes =>
      let v := x.syVal e
      s.tumSend site x lanes (syLoc e) (x.syId e) (.test v) (fun t => .step t) (fun t n =>
        .wait (t.updGroup site (fun y => { y with wait := .ttest (syLoc e) (x.syId e) n v (syPdst e) })))))

/-- TWAIT_TIMEOUT: a TWAIT whose timeout has elapsed on the timebase writes false; the wait leaves the unit (R138). -/
def execTwaitTimeout (site : Site) (s : State) : Host.Outcome State Fault Refusal :=
  match (s.group? site).map (fun x => x.wait) with
  | some (Wait.twait _ _ _ _ _ (some d)) =>
    if s.nowN < d ∨ s.fe.frozen.isSome then okay s
    else
      let mine (src : TumSrc) : Bool := src == .group site
      let isWait (op : TumOp) : Bool := match op with | .wait _ => true | _ => false
      let s1 : State := { s with
        waiters := s.waiters.filter (fun w => !mine w.src)
        tumq := s.tumq.filter (fun q => !(mine q.src && isWait q.op)) }
      let s2 := s1.updCore site.core (fun k => { k with
        ltq := k.ltq.filter (fun (o : LocalOp) => !(o.place == site.place && isWait o.op)) })
      okay (s2.endTumWait site false)
  | _ => okay s

/-! ### HASP (R345 to R347) -/

/-- The launch and the linear index of a group's tile. -/
def State.launchTile (s : State) (g : Site) (x : Group) : Nat × Nat :=
  match s.tile? g.core x.tile with
  | some t => (t.launch, t.index)
  | none => (0, 0)

/-- Decoding of HASP: the line must be bound in the tile's LAUNCH to a span that holds the tile's core (R137, R345). -/
def State.haspDec (s : State) (g : Site) (e : Enc) (x : Group) : Dec :=
  let d := syDecode {} (some 16) e x
  { d with extra := d.extra ++
      (if (s.haspOf (s.launchTile g x).1 (s.launchTile g x).2 (x.syId e)).isSome then [] else [0]) }

/-- HASP: the group arrives at the current generation of the line, after its tile has committed, and waits until that
generation resolves. -/
def execHasp (site : Site) (e : Enc) (s : State) : Host.Outcome State Fault Refusal :=
  okay (s.issue site e
    (fun x _ => s.haspDec site e x)
    (fun x => s.syncReady site x)
    (fun x _ => s.committed site x (fun t =>
      let i := (s.launchTile site x).2
      match t.haspOf (s.launchTile site x).1 i (x.syId e) with
      | none => .stall
      | some h =>
        let line := x.syId e
        let t1 : State := { t with hasps := NMap.ins line { h with arrived := addNew (i, x.index) h.arrived } t.hasps }
        let t2 := t1.updGroup site (fun y => { y with wait := .hasp line h.gen, bpSkip := false, pcWritten := false })
        .wait (t2.haspSettle line 2))))

/-! ### Fences (R310, R311) -/

/-- FENCE.ORD: later accesses are held until FENCE_COMPLETE; the group scope waits for nothing. -/
def execFenceOrd (site : Site) (e : Enc) (s : State) : Host.Outcome State Fault Refusal :=
  okay (s.issue site e
    (fun x _ => syDecode {} (some 5) e x)
    (fun x => s.orderReady site x)
    (fun x lanes =>
      if x.syId e = 0 then .step s
      else s.put site { x with order := x.order + 1
                               fence := some { done := false, scope := x.syId e, order := x.order
                                               lane := lowestLane lanes } }))

/-- FENCE.DONE: the group waits for FENCE_COMPLETE. -/
def execFenceDone (site : Site) (e : Enc) (s : State) : Host.Outcome State Fault Refusal :=
  okay (s.issue site e
    (fun x _ => syDecode {} (some 5) e x)
    (fun x => s.orderReady site x)
    (fun x lanes => .wait (s.setGroup site { x with
      order := x.order + 1, wait := .fenceDone
      fence := some { done := true, scope := x.syId e, order := x.order, lane := lowestLane lanes } })))

/-- The L1 and the instruction cache of a core invalidated whole (R296, R574). -/
def State.dropL1 (s : State) (core : Nat) : State := s.updCore core (fun k => { k with l1 := [], icache := [] })

/-- The lines a group's stores dirtied brought to their final endpoint: what is under way to the controller is
accepted, and a line the die's LLC still holds dirty is written back and kept clean in E (R311). None while another
agent has taken a line over dirty, or dirty data of it are on their way to its home. -/
def State.finalLines (s : State) (core : Nat) (lines : List Nat) : Option State :=
  let stop := stopOfDie (dieOfCore core)
  if lines.any (fun l => (s.holders l).any (fun h => h.1 != stop && h.2.st == .m) || (s.inFlight l).isSome) then none
  else some (lines.foldl (fun st l =>
    let s1 := st.acceptSent l
    match NMap.find l (s1.cacheOf stop) with
    | some c =>
      if c.st = .m then
        let s2 := s1.setCache stop (NMap.ins l { c with st := .e, tag := 0 } (s1.cacheOf stop))
        s2.memAccept l ((List.range 128).map (fun i => (i, c.bytes.getD i 0))) c.poison c.tag
      else s1
    | none => s1) s)

/-- Whether every access before the group's fence has performed or become visible; stores to span windows count only in
the span scope (R310). -/
def Group.fenceMet (x : Group) (f : FenceWait) : Bool :=
  x.loads.all (fun l => decide (f.order ≤ l.order)) &&
    x.sb.all (fun e => decide (f.order ≤ e.order) || (isWindow e.tgt && f.scope != 4))

/-- FENCE_COMPLETE: a fence whose waits are satisfied ends. A die scope or wider invalidates the L1; FENCE.DONE also
brings the group's stores to their final endpoints, and one of span scope that waited on an undeliverable store raises
the delivery fault (R310, R311, R316). -/
def execFenceComplete (site : Site) (s : State) : Host.Outcome State Fault Refusal :=
  match s.group? site with
  | none => okay s
  | some x =>
    match x.fence with
    | none => okay s
    | some f =>
      if x.fenceMet f = false then okay s
      else if f.done = false then
        let s1 := s.setGroup site { x with fence := none }
        okay (if f.scope ≥ 2 then s1.dropL1 site.core else s1)
      else if f.scope = 4 ∧ ¬ x.winDone.isEmpty then okay s
      else match s.finalLines site.core x.dirtied with
        | none => okay s
        | some s1 =>
          let s2 := s1.updGroup site (fun y => { y with fence := none, dirtied := [] })
          let s3 := if f.scope ≥ 2 then s2.dropL1 site.core else s2
          match (if f.scope = 4 then x.undeliv else none) with
          | some (_, a) =>
            okay ((s3.updGroup site (fun y => { y with undeliv := none })).raise site
              { cls := 5, detail := 0, lane := f.lane, addr := a, pc := x.pc })
          | none => okay (s3.endWait site)

end Sys2Proof.Machine
end

