-- ==== Sys2Proof/Machine/Commands.lean ====
section
/-! DEFINITION. The commands that place no tiles: SIGNAL and WAIT, BIND and UNBIND, QUERY, PARTITION (R285, R290, R325,
R326, R334, R338 to R341, R367 to R371, R400 to R405). -/

namespace Sys2Proof.Machine

/-! ### Tumblers that a command names (R325, R326, R401) -/

/-- Whether a map entry passes the check of SHARED against a tumbler of this module (R324, R325). -/
def State.ownerOk (s : State) (ctx n : Nat) (shared : Bool) : Bool :=
  (s.tum n).ward == (s.ctx ctx).ward && (shared || (s.tum n).owner == ctx)

/-- The decoded entry `i` of a tumbler map; `foreign` is still to be found. -/
def tmapOf (e : Nat) : Option TmapEntry :=
  if e.testBit 30 then
    some { index := nfield e 15 0, peer := nfield e 27 16, remote := e.testBit 28, shared := e.testBit 29, foreign := false }
  else none

/-- Entry `i` of a context's tumbler map, read from memory; the loss of the map faults the context (log 28). -/
def State.tmapRead (s : State) (ctx i : Nat) : Chk (Option TmapEntry) :=
  (s.chkTable ctx ((s.ctx ctx).tmap + 4 * i) 4).bind fun e => .ok (tmapOf e)

/-- What a command's identifier comes to: a tumbler here or on a peer, a misuse, or a check still to be asked of a peer
or under way. -/
inductive RingTum where
  | global (n : Nat)
  | remote (peer n : Nat)
  | unmapped
  | foreign (remote : Bool) (peer n : Nat)
  | ask (peer n : Nat) (shared : Bool)
  | asked
  deriving DecidableEq, Repr, Inhabited

/-- The tumbler a command's identifier names: from the context's map while it is resident, otherwise from the entry in
memory, checked now (R325). -/
def State.ringTum (s : State) (ctx : Nat) (m : Cmd) (i : Nat) : Chk RingTum :=
  if (s.ctx ctx).state = .resident then
    .ok (match s.tumTarget ctx false i with
      | .global n => .global n
      | .remote p n => .remote p n
      | .foreign r p n => .foreign r p n
      | _ => .unmapped)
  else
    (s.tmapRead ctx i).bind fun e => .ok (match e with
      | none => .unmapped
      | some e =>
        if e.remote then
          match m.answer, m.ask with
          | some true, _ => .remote e.peer e.index
          | some false, _ => .foreign true e.peer e.index
          | none, some _ => .asked
          | none, none => .ask e.peer e.index e.shared
        else if s.ownerOk ctx e.index e.shared then .global e.index else .foreign false 0 e.index)

/-- A command goes on with the tumbler its identifier names, or ends with BADTUMBLER; a check of a peer is asked first.
`det` and `info` say where the identifier stands (R401). -/
def State.onTum (s : State) (id : RingId) (m : Cmd) (i det info : Nat) (go : Option Nat → Nat → State) : State :=
  let ctx := ringCtx id
  s.onChk id m.count (s.ringTum ctx m i) (fun r =>
    match r with
    | .global n => go none n
    | .remote p n => go (some p) n
    | .unmapped => s.endCmd id m.count 11 det info
    | .foreign r p n => (s.markForeign ctx r p n).endCmd id m.count 11 det info
    | .ask p n sh =>
      let (tx, s1) := s.newTx p
      (s1.sendTo p (.tmapchk n (s.scidOf ctx) sh) tx (s.ctx ctx).ward).updCmd id m.count (fun m => { m with ask := some tx })
    | .asked => s)

/-- An operation of the front end on a tumbler here or on a peer. -/
def State.feTum (s : State) (id : RingId) (peer : Option Nat) (n : Nat) (op : TumOp) (tx : Nat := 0) : State :=
  match peer with
  | none => s.tumOperate (.ring id) n op
  | some p => s.sendTo p (.tarrive n (s.scidOf (ringCtx id)) op) tx (s.ringWard id)

/-! ### Operands of SIGNAL and WAIT (R400) -/

/-- Whether a SIGNAL or WAIT names a tumbler, its identifier, its fence record, and its value. -/
def Cmd.tgt (m : Cmd) : Bool := bitAt m.desc 128
def Cmd.tid (m : Cmd) : Nat := field m.desc 143 132
def Cmd.fence (m : Cmd) : Nat := field m.desc 255 192
def Cmd.val (m : Cmd) : Nat := if m.tgt then field m.desc 287 256 else field m.desc 319 256
def Cmd.timeout (m : Cmd) : Nat := field m.desc 323 320

/-- The 16 bytes of a fence record (R338). -/
def State.fenceRecord (s : State) (ctx a : Nat) : Chk Nat :=
  (Chk.need (decide (a % 16 = 0) && canonical a) 9 192 0).bind fun _ => s.chkRead ctx a 16 192

/-- Whether a structure that a command names can be written; otherwise BADRANGE with the field and the address (R576). -/
def State.chkWrite (s : State) (ctx va n field : Nat) : Chk Unit :=
  match s.feCanWrite ctx va n with
  | .ok _ => .ok ()
  | .error (.wait a) => .page a
  | .error (.bad _ a) => .fail 9 field a

/-- A signal of value `v` to a fence record that holds `rcd`, bound to a tumbler (R339). -/
def State.signalFence (s : State) (id : RingId) (m : Cmd) (rcd v : Nat) (peer : Option Nat) (n : Nat) : State :=
  let ctx := ringCtx id
  let value := nfield rcd 63 0
  if v ≤ value then
    (s.feStore ctx m.tag m.fence (natBytes 16 (rcd ||| 2 ^ 81))).feTum id peer n .mark
  else
    let new := rcd - value + v
    (s.feStore ctx m.tag m.fence (natBytes 16 (if v = 2 ^ 64 - 1 then new ||| 2 ^ 80 else new))).feTum id peer n (.arrive 1)

/-- SIGNAL (R401). -/
def execSignal (ring : RingId) (s : State) : Host.Outcome State Fault Refusal :=
  match s.startable ring [5] with
  | none => okay s
  | some (_, m) =>
    let ctx := ringCtx ring
    if m.tgt then
      okay (s.onTum ring m m.tid 132 0 (fun p n => (s.feTum ring p n (.arrive m.val)).endCmd ring m.count 0 0 0))
    else
      let rcd : Chk Nat := (s.fenceRecord ctx m.fence).bind fun r => (s.chkWrite ctx m.fence 16 192).bind fun _ => .ok r
      okay (s.onChk ring m.count rcd (fun r =>
        s.onTum ring m (nfield r 75 64) 0xFFFF m.fence (fun p n =>
          (s.signalFence ring m r m.val p n).endCmd ring m.count 0 0 0)))

/-! ### WAIT (R334, R340, R401) -/

/-- The tumbler of a fence wait armed one above its count, or at its next arrival where nothing lies above it; a peer's
in that form too (R334, log 29). -/
def State.armFence (s : State) (id : RingId) (m : Cmd) (peer : Option Nat) (n : Nat) : State :=
  match peer with
  | none =>
    let c := (s.tum n).count
    let v := if c = tumTop then 2 ^ 32 else c + 1
    ({ s with waiters := s.waiters ++ [⟨.fence id, n, v⟩] } : State).rearm n
  | some p =>
    let (tx, s1) := s.newTx p
    (s1.feTum id peer n (.wait (2 ^ 32)) tx).updCmd id m.count (fun m => { m with ask := some tx })

/-- A fence WAIT that has read the record: over, or armed for the next signal (R340). -/
def State.waitFence (s : State) (id : RingId) (m : Cmd) (rcd : Nat) (peer : Option Nat) (n : Nat) : State :=
  let value := nfield rcd 63 0
  if m.val ≤ value then s.endCmd id m.count 0 0 value
  else (s.updCmd id m.count (fun m => { m with state := .waiting, seen := BitVec.ofNat 64 value, bound := some (peer, n)
                                               ask := none })).armFence id m peer n

/-- WAIT: over at once where its condition holds, otherwise it holds its ring (R331, R340, R383, R401). -/
def execWait (ring : RingId) (s : State) : Host.Outcome State Fault Refusal :=
  match s.startable ring [6] with
  | none => okay s
  | some (_, m) =>
    let ctx := ringCtx ring
    let begin (st : State) : State := st.updCmd ring m.count (fun m => { m with start := s.nowN })
    if m.tgt then
      okay (s.onTum ring m m.tid 132 0 (fun p n =>
        let s1 := (begin s).updCmd ring m.count (fun m => { m with state := .waiting, bound := some (p, n), ask := none })
        match p with
        | none => (s1.feTum ring none n (.wait m.val)).rearm n
        | some o =>
          let (tx, s2) := s1.newTx o
          (s2.feTum ring p n (.wait m.val) tx).updCmd ring m.count (fun m => { m with ask := some tx })))
    else
      okay (s.onChk ring m.count (s.fenceRecord ctx m.fence) (fun r =>
        s.onTum ring m (nfield r 75 64) 0xFFFF m.fence (fun p n => (begin s).waitFence ring m r p n)))

/-- The WAIT that holds a ring. -/
def Ring.waiting (r : Ring) : Option Cmd := r.cmds.find? (fun m => m.op == 6 && m.state == .waiting)

/-- Whether a ring's WAIT still waits at the tumbler unit of this module. -/
def State.ringWaits (s : State) (id : RingId) : Bool :=
  s.waiters.any (fun w => w.src == .ring id || w.src == .fence id)

/-- FENCE_WAIT_REREAD: the arm of a fence WAIT has fired and the record is read again (R340). An arm on a peer's tumbler
may have fired unseen, so that record may be read again at any time (log 29). -/
def execFenceWaitReread (ring : RingId) (s : State) : Host.Outcome State Fault Refusal :=
  match (if s.feServes then s.ring? ring else none) with
  | none => okay s
  | some r =>
    match r.waiting with
    | none => okay s
    | some m =>
      match m.bound with
      | none => okay s
      | some (p, n) =>
        if m.tgt ∨ s.ringWaits ring then okay s
        else okay (s.onChk ring m.count (s.fenceRecord (ringCtx ring) m.fence) (fun rcd => s.waitFence ring m rcd p n))

/-- The waits of one ring at the tumbler unit taken off, and the arms set again. -/
def State.dropWait (s : State) (id : RingId) : State :=
  let mine (w : TumWaiter) : Bool := w.src == .ring id || w.src == .fence id
  ((s.waiters.filter mine).map (·.tumbler)).foldl (fun st n => st.rearm n)
    ({ s with waiters := s.waiters.filter (fun w => !mine w) } : State)

/-- WAIT_TIMEOUT: a WAIT whose timeout has elapsed before its condition held completes with TIMEOUT (R401). A fence WAIT
whose arm has fired reads its record first. -/
def execWaitTimeout (ring : RingId) (s : State) : Host.Outcome State Fault Refusal :=
  match s.ring? ring with
  | none => okay s
  | some r =>
    match r.waiting with
    | none => okay s
    | some m =>
      if m.timeout = 0 ∨ s.fe.frozen.isSome ∨ s.nowN < m.start + 2 ^ (m.timeout + 19) then okay s
      else if m.ask.isNone ∧ s.ringWaits ring = false then okay s
      else okay ((s.dropWait ring).endCmd ring m.count 12 0 m.seen.toNat)

/-! ### BIND and UNBIND (R367, R368, R403) -/

/-- Entry of a handle table that a BIND may take, with the handle it makes. -/
def State.bindEntry (s : State) (ctx : Nat) (d : BitVec 512) : Chk (Nat × Nat) :=
  let i := field d 147 128
  let base := field d 255 192
  let size := field d 319 256
  (Chk.need (decide (i < 2 ^ (s.ctx ctx).hlog2)) 8 128 i).bind fun _ =>
  (Chk.need (canonical base && (decide (size = 0) || canonicalRange base size)) 9 192 0).bind fun _ =>
  (Chk.need (decide (size ≠ 0)) 9 256 0).bind fun _ =>
  (s.handle ctx i).bind fun e =>
  (Chk.need (nfield e 141 140 == 0) 16 0 0).bind fun _ =>
  (s.chkCanWrite ctx ((s.ctx ctx).handleAt i) 32).bind fun _ =>
  .ok (base + size * 2 ^ 64 + nfield e 139 128 * 2 ^ 128 + 2 ^ 140 + b2n (bitAt d 320) * 2 ^ 176,
       i + nfield e 139 128 * 2 ^ 20)

/-- BIND: a free entry is bound, and INFO returns its handle (R368, R403). -/
def execBind (ring : RingId) (s : State) : Host.Outcome State Fault Refusal :=
  match s.startable ring [8] with
  | none => okay s
  | some (_, m) =>
    let ctx := ringCtx ring
    okay (s.onChk ring m.count (s.bindEntry ctx m.desc) (fun eh =>
      (s.putHandle ctx (eh.2 % 2 ^ 20) eh.1).endCmd ring m.count 0 0 eh.2))

/-- UNBIND: the entry, checked at fetch, is freeing, and free at once where nothing pins it; INFO is its PINS (R368,
R403). -/
def execUnbind (ring : RingId) (s : State) : Host.Outcome State Fault Refusal :=
  match s.startable ring [9] with
  | none => okay s
  | some (_, m) =>
    let ctx := ringCtx ring
    let i := field m.desc 159 128 % 2 ^ 20
    let entry : Chk Nat := (s.handle ctx i).bind fun e =>
      (s.chkCanWrite ctx ((s.ctx ctx).handleAt i) 32).bind fun _ => .ok e
    okay (s.onChk ring m.count entry (fun e =>
      let pins := nfield e 175 144
      let e1 := e - nfield e 141 140 * 2 ^ 140 + 2 * 2 ^ 140
      (s.putHandle ctx i (if pins = 0 then freeHandle e1 else e1)).endCmd ring m.count 0 0 pins))

/-! ### QUERY (R371, R404) -/

/-- Number and sum of SIZE of the bound and freeing entries from index `i`, among `n`. -/
def State.boundHandles (s : State) (ctx : Nat) : Nat → Nat → Chk (Nat × Nat)
  | _, 0 => .ok (0, 0)
  | i, n + 1 =>
    (s.handle ctx i).bind fun e =>
    (s.boundHandles ctx (i + 1) n).bind fun r =>
    .ok (if nfield e 141 140 = 1 ∨ nfield e 141 140 = 2 then (r.1 + 1, r.2 + nfield e 127 64) else r)

/-- The usage counts of a context as they stand now: times under way included. -/
def State.usageNow (s : State) (ctx : Nat) : Usage :=
  let c := s.ctx ctx
  let under := (s.cores.map (fun ck => match NMap.find ctx ck.2.since with
    | some t => s.nowN - t
    | none => 0)).sum
  { c.usage with
    corens := c.usage.corens.add 48 under
    resns := if c.holdsSlot s.fe.slots ctx && (s.slot c.slot).state == 2 then
      c.usage.resns.add 48 (s.nowN - (s.slot c.slot).since) else c.usage.resns }

/-- A value in a field of `n` bits; a value that does not fit leaves the field open (R371 states none). -/
def fitOr (n v free : Nat) : Nat := if v < 2 ^ n then v else Config.freeNat free % 2 ^ n

/-- The 128 bytes of a usage record; `hs` is the number and size of the handles. -/
def State.usageRecord (s : State) (ctx : Nat) (hs : Nat × Nat) : List Byte :=
  let c := s.ctx ctx
  let u := s.usageNow ctx
  let slot (x : SatCount) : Nat := SatCount.slot x
  let runs := if c.state = .resident then c.shares else []
  let backed := ((runs.filter (fun r => !r.scratch)).map (fun r => r.placed.length)).sum
  let scratch := ((runs.filter (fun r => r.scratch)).map (fun r => r.placed.length)).sum
  let unplaced := (runs.map (fun r => r.ngran - r.placed.length)).sum
  natBytes 128 (slot u.tiles + slot u.corens * 2 ^ 64 + slot u.mbeats * 2 ^ 128 + slot u.resns * 2 ^ 192 +
    slot u.overruns * 2 ^ 256 + fitOr 48 hs.2 s.free * 2 ^ 320 + backed % 2 ^ 16 * 2 ^ 384 + scratch % 2 ^ 16 * 2 ^ 400 +
    fitOr 16 unplaced (s.free + 1) * 2 ^ 416 + hs.1 % 2 ^ 21 * 2 ^ 448 + s.nowN * 2 ^ 512)

/-- QUERY: the usage record is written to DEST (R371, R404). -/
def execQuery (ring : RingId) (s : State) : Host.Outcome State Fault Refusal :=
  match s.startable ring [10] with
  | none => okay s
  | some (_, m) =>
    let ctx := ringCtx ring
    let a := field m.desc 191 128
    let work : Chk (Nat × Nat) :=
      (Chk.need (decide (a % 128 = 0) && canonical a) 9 128 0).bind fun _ =>
      (s.chkWrite ctx a 128 128).bind fun _ => s.boundHandles ctx 0 (2 ^ (s.ctx ctx).hlog2)
    okay (s.onChk ring m.count work (fun hs =>
      let s1 := s.feStore ctx m.tag a (s.usageRecord ctx hs)
      ({ s1 with free := s1.free + 2 } : State).endCmd ring m.count 0 0 0))

/-! ### PARTITION (R285, R290, R405) -/

/-- Entry of the ward table (R354); ward 0 is bound to plan 0. -/
def State.wardEntry (s : State) (w : Nat) : Nat :=
  if w = 0 ∨ s.fe.wardbase = 0 then 0 else s.cohNat (s.fe.wardbase + 16 * w) 16

/-- A plan as its 8 bytes spell it (R285). -/
def planOf (v : Nat) : Plan :=
  { regions := BitVec.ofNat 16 v, ways := BitVec.ofNat 16 (v / 2 ^ 16), valid := v.testBit 32 }

/-- Whether a ward is bound to a plan. -/
def State.planBound (s : State) (p : Nat) : Bool :=
  (List.range 1024).any (fun w => w != 0 && (s.wardEntry w).testBit 7 && nfield (s.wardEntry w) 5 0 == p)

/-- The plans that a PARTITION writes, by number, once its operands pass. -/
def State.partitionPlans (s : State) (d : BitVec 512) : Chk (NMap Plan) :=
  let first := field d 133 128
  let count := field d 139 134
  let src := field d 255 192
  (Chk.need (decide (1 ≤ first) && decide (first + count ≤ 64)) 9 128 0).bind fun _ =>
  (Chk.need (decide (1 ≤ count)) 9 134 0).bind fun _ =>
  (Chk.need (decide (src % 8 = 0) && s.isLpRange src (8 * count)) 9 192 src).bind fun _ =>
  let ps := (List.range count).map (fun i => (first + i, planOf (s.cohNat (src + 8 * i) 8)))
  (Chk.need (ps.all (fun p => p.2.valid || !s.planBound p.1)) 9 192 0).bind fun _ => .ok ps

/-- PARTITION: the plans are written; tiles that run keep the plan they started under, and the command completes once
they have ended (R290, R405). -/
def execPartition (ring : RingId) (s : State) : Host.Outcome State Fault Refusal :=
  match s.startable ring [0x10] with
  | none => okay s
  | some (_, m) =>
    okay (s.onChk ring m.count (s.partitionPlans m.desc) (fun ps =>
      let s1 : State := { s with fe := { s.fe with plans := ps.foldl (fun t p => NMap.put {} p.1 p.2 t) s.fe.plans } }
      s1.updCmd ring m.count (fun m => { m with state := .started })))

end Sys2Proof.Machine
end

