-- ==== Sys2Proof/Machine/Snapshot.lean ====
section
/-! DEFINITION. The hang snapshot: the freeze, the image and the end of the freeze (R405, R519 to R521). -/

namespace Sys2Proof.Machine

/-- Bytes of a snapshot (R520). -/
abbrev snapBytes : Nat := 23142400

/-- SNAPSHOT: the module freezes; the front end stops fetching and placing, cores and spindles stop issuing (R519). -/
def execSnapshot (ring : RingId) (s : State) : Host.Outcome State Fault Refusal :=
  match s.startable ring [0x11] with
  | none => okay s
  | some (_, m) =>
    let dest := field m.desc 191 128
    let size := field m.desc 255 192
    let check : Chk Unit :=
      (Chk.need (decide (dest % 4096 = 0) && s.isLpRange dest snapBytes) 9 128 dest).bind fun _ =>
      Chk.need (decide (snapBytes ≤ size)) 9 192 0
    okay (s.onChk ring m.count check (fun _ =>
      ({ s with fe := { s.fe with frozen := some s.nowN } } : State).updCmd ring m.count (fun m => { m with state := .started })))

/-! ### The image (R520, R521) -/

/-- A value of an image: offset, size in bytes, number. -/
abbrev Piece := Nat × Nat × Nat

/-- The ring entries. -/
def State.snapRings (s : State) : List Piece :=
  (s.fe.ctxs.map (fun nc => nc.2.rings.map (fun nr =>
    let r := nr.2
    (0x2000 + 16 * (8 * nc.1 + nr.1), 16, r.head % 2 ^ 32 + r.tail % 2 ^ 32 * 2 ^ 32 + r.ctail % 2 ^ 32 * 2 ^ 64 +
      r.cmds.length % 2 ^ 6 * 2 ^ 96 + b2n r.waitdb * 2 ^ 102 + b2n r.dberr * 2 ^ 103 + 2 ^ 104)))).flatten

/-- The 128 bits of a global tumbler (R321). -/
def Tumbler.bits (t : Tumbler) : Nat :=
  t.count + b2n t.s * 2 ^ 32 + b2n t.u * 2 ^ 33 + b2n t.m * 2 ^ 34 + b2n t.armed * 2 ^ 35 + b2n t.armNext * 2 ^ 36 +
    t.owner * 2 ^ 48 + t.ward * 2 ^ 64 + t.armV * 2 ^ 96

/-- The global tumblers, those that nothing has touched and nothing waits for left at zero. -/
def State.snapTumblers (s : State) : List Piece :=
  ((NMap.keys s.tums ++ s.waiters.map (·.tumbler)).eraseDups).map (fun n =>
    let ws := s.waiters.filter (fun w => w.tumbler == n)
    let rings := (ws.filter (fun w => w.src.isRing)).length
    (0x202000 + 32 * n, 32, (s.tum n).bits + (ws.length - rings) * 2 ^ 128 + rings * 2 ^ 160))

/-- The local tumblers of resident tiles. -/
def State.snapLocal (s : State) : List Piece :=
  (s.cores.map (fun ck => ((ck.2.tiles.filter (fun kt => decide (kt.1 < 48))).map (fun kt => kt.2.lt.map (fun nl =>
    (0x402000 + 8 * (48 * (48 * ck.1 + kt.1) + nl.1), 8,
      nl.2.count + b2n nl.2.s * 2 ^ 32 + b2n nl.2.u * 2 ^ 33)))).flatten)).flatten

/-- The credits: homes' retry entries and transactions, ports' credits and buffers. The free buffers of the ring stops
are open (log 30). -/
def State.snapCredits (s : State) : List Piece :=
  (List.range 128).map (fun i => (0x1182000 + 2 * i, 2, Config.freeNat (s.free + i) % 2 ^ 16)) ++
  (List.range 24).map (fun h => (0x1182100 + 4 * h, 4, (s.coh.retries.filter (fun r => s.homeOf r.line == h)).length +
    (s.coh.txns.filter (fun t => s.homeOf t.1 == h)).length * 2 ^ 16)) ++
  ((List.range 16).map (fun p => (List.range 8).map (fun v => (0x1182200 + 4 * (8 * p + v), 4,
    NMap.findD 0 v (s.port p).credits % 2 ^ 16 + (if (s.port p).up then vcBuffer v else 0) % 2 ^ 16 * 2 ^ 16)))).flatten

/-- STATE of a group entry. Whether a group with results under way is ready is open: that depends on its next
instruction (log 30). -/
def State.snapState (s : State) (g : Site) (x : Group) (i : Nat) : Nat :=
  if x.halted then 7
  else match x.wait with
    | .twait .. => 2
    | .hasp .. => 3
    | .fenceDone => 4
    | .page .. => 5
    | .parked => 6
    | .ttest .. => 8
    | .merging .. => 8
    | .none =>
      if x.haltReq.isSome ∨ x.pending.isSome then 8
      else if x.loads.isEmpty ∧ x.atoms.isEmpty ∧ x.fence.isNone ∧ s.matrixBusy g = false then 1
      else if Config.freeBool (s.free + 128 + i) then 1 else 8

/-- The 1,024 bits of a group entry (R521). -/
def State.snapGroup (s : State) (g : Site) (x : Group) (i : Nat) : Nat :=
  match s.tile? g.core x.tile with
  | none => 0
  | some t =>
    let ward := (s.ctx t.ctx).ward
    let head := s.snapState g x i + ward * 2 ^ 16
    if s.hasRight 2 ward = false then head + 2 ^ 4
    else
      let waits : Nat := match x.wait with
        | .twait l id _ v _ _ => if x.halted then 0 else id % 4096 * 2 ^ 200 + b2n l * 2 ^ 212 + v * 2 ^ 216
        | .hasp line _ => if x.halted then 0 else line * 2 ^ 200
        | _ => 0
      head + t.ctx * 2 ^ 26 + x.index % 64 * 2 ^ 40 + x.pc.toNat * 2 ^ 64 + x.active.toNat * 2 ^ 128 +
        x.threads.toNat * 2 ^ 160 + x.stack.length % 64 * 2 ^ 192 + waits + t.index % 2 ^ 32 * 2 ^ 256 +
        x.tile % 64 * 2 ^ 288

/-- The group entries, numbered for their draws. -/
def State.snapGroups (s : State) : List Piece :=
  let gs := (s.cores.map (fun ck => ck.2.groups.map (fun pg => ((⟨ck.1, pg.1⟩ : Site), pg.2)))).flatten
  ((List.range gs.length).zip gs).map (fun ig =>
    (0x1192000 + 128 * (48 * ig.2.1.core + ig.2.1.place), 128, s.snapGroup ig.2.1 ig.2.2 ig.1))

/-- The header, for a capture that took `len` nanoseconds. -/
def State.snapHeader (s : State) (len : Nat) : Nat :=
  s.nowN + snapBytes * 2 ^ 64 + s.span.epoch.toNat * 2 ^ 96 + s.hinge.epoch.toNat * 2 ^ 128 + s.here * 2 ^ 160 +
    s.fe.admin.head % 2 ^ 32 * 2 ^ 176 + len % 2 ^ 32 * 2 ^ 208

/-- A capture written from an address: zero but for its entries, the header last (R519, R520). -/
def State.writeSnapshot (s : State) (tag dest len : Nat) : State :=
  let pieces := s.snapRings ++ s.snapTumblers ++ s.snapLocal ++ s.snapCredits ++ s.snapGroups ++
    (List.range 64).map (fun i => (0x1000 + 64 * i, 64, bytesNat (slotBytes (s.slot i))))
  let s1 := s.cohWrite tag dest (List.replicate snapBytes 0)
  let s2 := pieces.foldl (fun st p => st.cohPut tag (dest + p.1) p.2.1 p.2.2) s1
  { s2.cohPut tag dest 4096 (s.snapHeader len) with free := s.free + 128 + 768 * 48 }

/-! ### The end of the freeze (R519) -/

/-- Whether the matrix instructions a core has issued are done, or held by a relay that cannot go on (log 31). -/
def Core.matrixDone (k : Core) : Bool :=
  k.running.all (·.held) && (k.queue.isEmpty || k.running.any (·.held))

/-- Deadlines and budgets put off by the length of the freeze. -/
def State.thaw (s : State) (len : Nat) : State :=
  let wait : Wait → Wait
    | .twait l id n v p (some d) => .twait l id n v p (some (d + len))
    | w => w
  let core (k : Core) : Core :=
    { k with groups := NMap.mapVals (fun _ x => { x with wait := wait x.wait }) k.groups
             tiles := NMap.mapVals (fun _ t => if t.haltedAt.isSome then t else { t with paused := t.paused + len }) k.tiles }
  let cmd (m : Cmd) : Cmd := if m.op = 6 ∧ m.state = .waiting then { m with start := m.start + len } else m
  let ctx (c : Ctx) : Ctx := { c with rings := NMap.mapVals (fun _ r => { r with cmds := r.cmds.map cmd }) c.rings }
  { s with cores := NMap.mapVals (fun _ k => core k) s.cores
           fe := { s.fe with frozen := none, ctxs := NMap.mapVals (fun _ c => ctx c) s.fe.ctxs } }

/-- SNAPSHOT_CAPTURE: issued matrix work is done, the state is captured and written, and the module goes on; the command
ends OK. The capture and its writing are one instant of the timebase here (R519). -/
def execSnapshotCapture (s : State) : Host.Outcome State Fault Refusal :=
  match s.fe.frozen, s.fe.admin.cmds.find? (fun m => m.op == 0x11 && m.state == .started) with
  | some t0, some m =>
    if s.cores.any (fun ck => !ck.2.matrixDone) then okay s
    else
      let len := s.nowN - t0
      let s1 := (s.writeSnapshot m.tag (field m.desc 191 128) len).thaw len
      okay (s1.endCmd .admin m.count 0 0 0)
  | _, _ => okay s

end Sys2Proof.Machine
end

