-- ==== Sys2Proof/Machine/Placement.lean ====
section
/-! DEFINITION. Placement of tiles on cores, replays, and budgets (R51 to R53, R74, R148, R227, R228, R237, R267, R290,
R327, R344, R360, R365, R366, R385, R388, R399, R469, R514). -/

namespace Sys2Proof.Machine

/-! ### Power domains of a core (R465, R469) -/

/-- A wake request for a domain out of handshake idle (R469). -/
def State.wake (s : State) (d : Nat) : State :=
  if s.domain d = .idle then s else { s with power := { s.power with waking := addNew d s.power.waking } }

/-- The half of a C-die that holds a logical core (R465). -/
def State.halfOf (s : State) (core : Nat) : Nat := 2 * dieOfCore core + s.positionOf core / 50

/-! ### Room on a core (R51 to R53, R148) -/

/-- Register blocks taken on a core. -/
def Core.blocks (k : Core) : Nat := (k.groups.map (fun pg => pg.2.alloc / 16)).sum

/-- The group places a tile of `n` groups takes: the lowest free ones, group 0 at one whose local tumblers no tile uses
(log 32). -/
def Core.places (k : Core) (n : Nat) : Option (List Nat) :=
  let free := (List.range 48).filter (fun p => !NMap.has p k.groups)
  match free.find? (fun p => !NMap.has p k.tiles) with
  | none => none
  | some p =>
    let rest := free.filter (· != p)
    if n ≤ rest.length + 1 then some (p :: rest.take (n - 1)) else none

/-- Whether a tile holds the core's array or spindles. -/
def Core.arrayTaken (k : Core) : Bool := k.tiles.any (fun kt => kt.2.matrix || kt.1 == 48)

/-- Whether the core has room for a tile of a launch, and a scheduling mode that fits (R52, R53, R148); a spindle tile fits
beside either mode (DESIGN CHOICE, log 128). -/
def Core.roomFor (k : Core) (l : Launch) : Bool :=
  match l.kind with
  | .launch =>
    let n := groupsPerTile l.fields
    (k.places n).isSome && decide (k.blocks + n * (2 + l.fields.regs) ≤ 192) &&
      k.tiles.all (fun kt => kt.1 == 48 || kt.2.oldest == l.fields.oldest) && !(l.fields.matrix && k.arrayTaken)
  | _ => !k.arrayTaken

/-- Whether a launch that binds hasp lines still has a tile to place on a core of this module (R344). -/
def State.coreReserved (s : State) (core : Nat) (but : Nat) : Bool :=
  s.fe.launches.any (fun kl => kl.1 != but && kl.2.go && !kl.2.stops && !kl.2.hasps.isEmpty &&
    (kl.2.pool ++ kl.2.replays.map (·.index)).any (fun t => kl.2.homeCore t == some (s.here, core)))

/-- Whether a core may take a new tile of a launch: on a die that is not fenced, in the launch's span, not being
retired, kept by no other launch, and with room. -/
def State.canTake (s : State) (core key : Nat) (l : Launch) : Bool :=
  decide (core < 768) && !s.fenced (dieOfCore core) && !(s.core core).retiring && !s.coreReserved core key &&
    (l.kind != .launch || l.chain.contains (s.here, core)) && (s.core core).roomFor l

/-! ### A tile placed (R74, R237, R267, R327, R365, R366) -/

/-- A thread group as it starts (R74): group `i` of a tile with `n` threads. -/
def startGroup (f : LaunchFields) (tile i : Nat) : Group :=
  let lanes := (List.range 32).filter (fun l => decide (32 * i + l < f.nthread))
  { tile := tile, index := i, alloc := 16 * (2 + f.regs), pc := f.pc, active := maskOf lanes, threads := maskOf lanes
    tids := lanes.map (fun l => (l, 32 * i + l)), u := NMap.put 0 0 f.args [] }

/-- What a spindle tile of a COPY, CONVERT or FILL does: its part of at most 2 MiB of destination (R399). A COPY, whose formats
are equal, counts bytes. -/
def moveProg (k : LaunchKind) (index : Nat) : SpProg :=
  match k with
  | .copy src dst len sfmt dfmt rm sat =>
    let sbits := if sfmt = dfmt then 8 else typeBits sfmt.toNat
    let per := 2 ^ 24 / (if sfmt = dfmt then 8 else typeBits dfmt.toNat)
    let first := index * per
    .move (src + sbits * first / 8) (dst + 2 ^ 21 * index) (Nat.min per (len - first)) sfmt dfmt rm sat
  | .fill dst len pattern => .fill (dst + 2 ^ 21 * index) (Nat.min (2 ^ 21) (len - 2 ^ 21 * index)) pattern
  | .launch => .none

/-- The array, stores and spindles of a core as a tile that owns them finds them: nothing it may read (R109). -/
def Core.freshArray (k : Core) (nonce : Nat) (sps : NMap Spindle) : Core :=
  { k.clearArray with chuck := [], stores := [], scales := [], fmts := [], ckstore := [], undef := nonce, spindles := sps
                      winreads := [] }

/-- The L1 dropped where the core's last tile was of another ward (R267) or another launch (log 33). -/
def State.enterCore (s : State) (core ward key : Nat) : State :=
  let k := s.core core
  let s1 := if k.lastWard = some ward ∧ k.lastLaunch = some key then s else s.dropL1 core
  s1.updCore core (fun k => { k with lastWard := some ward, lastLaunch := some key })

/-- A run of a tile of a launch placed on a core, with what its earlier runs left of it (R228, R232). The core has room. -/
def State.placeTile (s : State) (core key : Nat) (run : Replay) : State :=
  let index := run.index
  match s.launch? key with
  | none => s
  | some l =>
    let c := s.ctx l.ctx
    let f := l.fields
    let move := l.kind != .launch
    let places := if move then [48] else ((s.core core).places (groupsPerTile f)).getD []
    let tkey := places.headD 48
    let (nonce, s1) := s.draw
    let us := if f.budget ≠ 0 then f.budget else if c.budget ≠ 0 then c.budget else 200
    let tile : Tile :=
      { ctx := l.ctx, launch := key, index := index, mism := run.mism, coreBound := run.coreBound, lastAt := run.lastAt, oldest := f.oldest, matrix := f.matrix
        nthread := f.nthread, nonce := nonce, plan := s.plan c.plan, start := s.nowN, budget := us * 1000 }
    let groups := if move then [] else
      (List.range places.length).map (fun i => (places.getD i 0, startGroup f tkey i))
    let sps : NMap Spindle := if move then [(0, { prog := moveProg l.kind index, phase := .start })] else
      ((List.range 4).filter (fun n => l.sprogs.getD n 0 != 0)).map (fun n =>
        (n, { prog := .stream (l.sprogs.getD n 0), phase := .start }))
    let s2 := s1.enterCore core c.ward key
    let s3 := s2.updCore core (fun k =>
      let k1 := { k with tiles := NMap.ins tkey tile k.tiles
                         groups := groups.foldl (fun m pg => NMap.ins pg.1 pg.2 m) k.groups
                         since := if NMap.has l.ctx k.since then k.since else NMap.ins l.ctx s.nowN k.since }
      if move || f.matrix then k1.freshArray nonce sps else k1)
    let s3 : State := { s3 with power := { s3.power with recs := s3.power.recs.map (fun r =>
      if r.closed then r else { r with left := r.left ++ [(core, tkey)], tiles := r.tiles + 1 }) } }
    let s4 := s3.trace 1 c.ward l.ctx core 0 (index % 2 ^ 32 + l.count % 2 ^ 16 * 2 ^ 32 + l.ring * 2 ^ 48)
    s4.syncSlotOf l.ctx

/-! ### Which tile (R344, R361, R365, R385) -/

/-- The next new tile of a launch that a core may take: of one that binds hasp lines its own, otherwise the lowest not
handed out, or the first that the origin has handed to this module. -/
def State.nextTile (s : State) (core : Nat) (l : Launch) : Option Nat :=
  if !l.hasps.isEmpty then l.pool.find? (fun t => l.homeCore t == some (s.here, core))
  else if l.origin.isSome then l.pool.head?
  else if l.next < l.total then some l.next else none

/-- Whether a replay of a launch may be placed on a core now: on the core it is bound to, or where it may go elsewhere,
on the lowest core of the span that can take it (R228, R234). -/
def State.replayFits (s : State) (core key : Nat) (l : Launch) (r : Replay) : Bool :=
  s.canTake core key l && (match r.on with
    | some c => c == core
    | none => r.notOn != some core &&
        (List.range core).all (fun c => r.notOn == some c || !s.canTake c key l))

/-- A replay of a context that may be placed on a core now: launch, place in its list and replay (R227, R228). -/
def State.ctxReplay (s : State) (core ctx : Nat) : Option (Nat × Nat × Replay) :=
  s.fe.launches.findSome? (fun kl =>
    if kl.2.ctx = ctx ∧ kl.2.stops = false then
      (findIdx (fun r => s.replayFits core kl.1 kl.2 r) 0 kl.2.replays).map (fun ir => (kl.1, ir.1, ir.2))
    else none)

/-- Whether a launch may place a new tile on a core now: replays of its context come ahead of every tile not yet placed
(R227). -/
def State.launchReady (s : State) (core key : Nat) (l : Launch) : Bool :=
  l.go && !l.stops && s.canTake core key l && (s.nextTile core l).isSome &&
    !s.fe.launches.any (fun kl => kl.2.ctx == l.ctx && !kl.2.stops && !kl.2.replays.isEmpty)

/-- The launch of a context and ring that comes next: of those with a tile ready for the core, the earliest. -/
def State.ringLaunch (s : State) (core ctx ring : Nat) : Option (Nat × Launch) :=
  (s.fe.launches.filter (fun kl => kl.2.ctx == ctx && kl.2.ring == ring && s.launchReady core kl.1 kl.2)).head?

/-- The launch of a context that comes next on a core, its rings taken in turn (R385). -/
def State.ctxLaunch (s : State) (core ctx : Nat) : Option (Nat × Launch) :=
  let last := (s.ctx ctx).lastRing
  (List.range 8).findSome? (fun i => s.ringLaunch core ctx ((last + 1 + i) % 8))

/-- Whether a context may have tiles placed: resident and not leaving (R359, R364). -/
def Ctx.places (c : Ctx) : Bool := c.state == .resident && !c.leaving

/-- The context whose tile a core takes next: of the resident contexts with a tile or a replay ready, the highest
priority, and in turn among equals (R227, R365). -/
def State.coreCtx (s : State) (core : Nat) : Option Nat :=
  let ready := (s.fe.ctxs.filter (fun nc => nc.2.places &&
    ((s.ctxReplay core nc.1).isSome || (s.ctxLaunch core nc.1).isSome))).map (fun nc => (nc.1, nc.2.prio))
  let top := (ready.map (·.2)).foldl Nat.max 0
  let ids := (ready.filter (fun r => r.2 == top)).map (·.1)
  match ids.find? (fun n => decide (s.fe.lastCtx < n)) with
  | some n => some n
  | none => ids.head?

/-- The launch whose new tile a core takes next, none while a replay comes first. -/
def State.coreLaunch (s : State) (core : Nat) : Option (Nat × Launch) :=
  match s.coreCtx core with
  | none => none
  | some n => if (s.ctxReplay core n).isSome then none else s.ctxLaunch core n

/-! ### A LAUNCH served for a peer (R456, R457) -/

/-- Whether no tile of a batch is still to run or running here. -/
def State.batchDone (s : State) (k : Nat) (l : Launch) (b : Nat × List Nat) : Bool :=
  b.2.all (fun t => (s.findTile k t).isNone &&
    (l.stops || (!l.pool.contains t && !(l.replays.any (fun r => r.index == t)))))

/-- What TILEDONE says of a batch; counts that are not kept by batch go with the first. -/
def Launch.batchReport (l : Launch) (first : Bool) (b : Nat × List Nat) : BatchReport :=
  { ended := b.1, failed := if first then l.failed else 0, fencedDie := if first then l.fenced else 0, flags := l.flags }

/-- The TILEDONEs of batches that are done, to the origin; a fault is told with each, and if need be by itself. -/
def State.sendReports (s : State) (o : Nat) (l : Launch) (done : List (Nat × List Nat)) : State :=
  match done with
  | [] => if l.faulted then s.sendTo o (.tiledone l.fields.lnum (l.batchReport true (0, [])) true) else s
  | b :: bs => bs.foldl (fun st b => st.sendTo o (.tiledone l.fields.lnum (l.batchReport false b) l.faulted))
      (s.sendTo o (.tiledone l.fields.lnum (l.batchReport true b) l.faulted))

/-- TILEDONE for every batch that is done, its stores visible or, with DONE set, at their final endpoints; a LAUNCH that
gets no more tiles and has reported them all is over here (R457). -/
def State.reportServed (s : State) (k : Nat) : State :=
  match s.launch? k with
  | none => s
  | some l =>
    match l.origin with
    | none => s
    | some o =>
      if s.storeOut k || (l.fields.done && !l.winDone.isEmpty) then s
      else
        let done := l.batches.filter (s.batchDone k l)
        let left := l.batches.filter (fun b => !s.batchDone k l b)
        let s1 := if l.fields.done && !done.isEmpty then s.finalAll l.dirtied else s
        let s2 := s1.sendReports o l done
        let s3 := if done.isEmpty then s2 else s2.updLaunch k (fun l => { l with
          batches := left, failed := 0, fenced := 0, dirtied := if l.fields.done then [] else l.dirtied })
        if left.isEmpty && (l.noMore || l.stops) then s3.dropLaunch k else s3

/-- Every LAUNCH served here brought up to date. -/
def State.reportAll (s : State) : State := (NMap.keys s.fe.launches).foldl (fun st k => st.reportServed k) s

/-- Whether a served LAUNCH wants tiles for a core that is free for it: none handed to it waits, and the origin has not
been asked or has more. -/
def State.wantsTiles (s : State) (core key : Nat) (l : Launch) : Bool :=
  l.origin.isSome && l.go && !l.stops && l.hasps.isEmpty && l.pool.isEmpty && !l.pulled && !l.noMore &&
    (s.ctx l.ctx).places && s.canTake core key l

/-- PULL for every served LAUNCH that wants tiles for a core (R456). -/
def State.askTiles (s : State) (core : Nat) : State :=
  (s.fe.launches.filter (fun kl => s.wantsTiles core kl.1 kl.2)).foldl (fun st kl =>
    (st.updLaunch kl.1 (fun l => { l with pulled := true })).sendTo (kl.2.origin.getD 0) (.pull kl.2.fields.lnum)) s

/-- The next ready tile placed on a core with room; a core whose domain sleeps is woken first. -/
def State.placeNext (s : State) (core : Nat) : State :=
  match s.coreLaunch core with
  | none => s
  | some (key, l) =>
    if s.domain (s.halfOf core) ≠ .idle then s.wake (s.halfOf core)
    else match s.nextTile core l with
      | none => s
      | some t =>
        let s1 := s.updLaunch key (fun l =>
          if l.hasps.isEmpty && l.origin.isNone then { l with next := l.next + 1 }
          else { l with pool := l.pool.filter (· != t) })
        let s2 := (s1.updCtx l.ctx (fun c => { c with lastRing := l.ring })).placeTile core key { index := t, mism := 0, on := none }
        { s2 with fe := { s2.fe with lastCtx := l.ctx } }

/-- TILE_PLACE: the front end reports what it serves, asks for tiles, and places the next ready one on a core (R365,
R456, R457, R469). -/
def execTilePlace (core : Nat) (s : State) : Host.Outcome State Fault Refusal :=
  if s.power.on = false ∨ s.fe.frozen.isSome then okay s
  else
    let s1 := s.reportAll
    okay (if s1.feServes then (s1.askTiles core).placeNext core else s1)

/-- REPLAY_PLACE: a tile that waits for its replay is placed again, with a fresh budget, and counted, when it is its
context's turn on the core (R227, R228, R365, R517). -/
def execReplayPlace (launch core : Nat) (s : State) : Host.Outcome State Fault Refusal :=
  if s.feServes = false then okay s
  else match s.launch? launch with
    | none => okay s
    | some l =>
      match (if s.coreCtx core = some l.ctx then s.ctxReplay core l.ctx else none) with
      | none => okay s
      | some (k, i, r) =>
        if k ≠ launch then okay s
        else if s.domain (s.halfOf core) ≠ .idle then okay (s.wake (s.halfOf core))
        else
          let s1 := s.updLaunch launch (fun l => { l with replays := dropAt i l.replays })
          let s2 := (s1.placeTile core launch r).countCtx l.ctx 4 1
          okay { s2 with fe := { s2.fe with lastCtx := l.ctx } }

/-! ### Budgets (R366, R503, R519) -/

/-- Nanoseconds that count against a tile's budget. -/
def Tile.elapsed (t : Tile) (now : Nat) : Nat := (t.haltedAt.getD now) - t.start - t.paused

/-- BUDGET_OVERRUN: a tile has run for its budget; the context's count rises and an overrun entry is posted to the
command's ring (R366, R388). A tile that runs for a peer's LAUNCH has no command here and is counted only. -/
def execBudgetOverrun (core tile : Nat) (s : State) : Host.Outcome State Fault Refusal :=
  match s.tile? core tile with
  | none => okay s
  | some t =>
    if t.overrun ∨ t.elapsed s.nowN < t.budget ∨ s.fe.frozen.isSome then okay s
    else
      let s1 := (s.updTile core tile (fun t => { t with overrun := true })).updCtx t.ctx (fun c =>
        { c with usage := { c.usage with overruns := c.usage.overruns.add 48 1 } })
      match s.launch? t.launch with
      | none => okay s1
      | some l =>
        if l.origin.isSome then okay s1
        else
          let id := RingId.ring l.ctx l.ring
          match (s.ring? id).bind (fun r => r.cmds.find? (fun m => m.count == l.count)) with
          | some m => okay (s1.postOverrun id m (t.index % 2 ^ 32))
          | none => okay s1

/-- BUDGET_STOP: a tile has run for four times its budget and is stopped with a budget-stop fault, whose record carries
no lane, group, PC or address; in the beat in which another fault stopped the tile, it adds 1 to MORE (R106, R108,
R366). -/
def execBudgetStop (core tile : Nat) (s : State) : Host.Outcome State Fault Refusal :=
  let f : FaultInfo := { cls := 8, detail := 0, lane := 0, addr := 0, pc := 0 }
  if s.fe.frozen.isSome then okay s
  else match s.tile? core tile with
    | some t => okay (if t.elapsed s.nowN < 4 * t.budget then s else s.takeFault core tile f 0)
    | none => match s.goneNow core with
      | some g =>
        if g.key = tile ∧ 4 * g.tile.budget ≤ g.tile.elapsed s.nowN then
          okay ((s.updCore core (fun k => { k with gone := none })).moreFault core g.tile g.tag f 0)
        else okay s
      | none => okay s

end Sys2Proof.Machine
end

