-- ==== Sys2Proof/Machine/Retire.lean ====
section
/-! DEFINITION. Retirement of cores, the configuration record, and die fences (R31, R232 to R236, R278, R279, R343,
R344, R348, R468, R490, R516, R518). -/

namespace Sys2Proof.Machine

/-! ### Retirement (R232, R235) -/

/-- The lowest-numbered unused spare position of a die: mapped to no logical position and not retired. -/
def SpareMap.spare (m : SpareMap) : Option Nat :=
  if m.spares = 0 then none
  else (List.range 100).find? (fun p => !(NMap.vals m.map).contains p && !m.retired.getLsbD p)

/-- The spare map of a die changed, to be recorded by the keeper. -/
def State.setSpareMap (s : State) (die : Nat) (m : SpareMap) : State :=
  { s with sec := { s.sec with cfg := { s.sec.cfg with maps := NMap.ins die m s.sec.cfg.maps }
                               unrecorded := addNew die s.sec.unrecorded } }

/-- RETIREMENT: the last resident tile of a core being retired has ended, and the keeper moves its logical position onto
the die's lowest unused spare (R232). -/
def execRetirement (core : Nat) (s : State) : Host.Outcome State Fault Refusal :=
  let k := s.core core
  let die := dieOfCore core
  let m := s.spareMap die
  if k.retiring = false ∨ ¬ k.tiles.isEmpty ∨ m.fenced ∨ s.power.on = false then okay s
  else match m.spare with
    | none => okay s
    | some p =>
      let old := s.positionOf core
      let r := m.retires.add 16 1
      let m1 : SpareMap :=
        { m with map := NMap.ins (core % 96) p m.map, retired := m.retired ||| BitVec.ofNat 100 (2 ^ old)
                 spares := m.spares - 1, retires := r }
      let s1 := (s.setSpareMap die m1).updCore core (fun k =>
        { k.freshArray 0 [] with retiring := false, mismAt := [], l1 := [], icache := [], lastWard := none, lastLaunch := none })
      okay ((s1.countModule 1 1).keeperEvent 1 (core + old * 2 ^ 16 + p * 2 ^ 24))

/-- The copy of a configuration record in a bank that the keeper replaces: one that is not valid, otherwise the older
(R490). -/
def olderCopy : List CfgRecord → Nat
  | a :: b :: _ => if a.valid = false then 0 else if b.valid = false then 1 else if newer a.seq b.seq then 1 else 0
  | _ => 0

/-- A bank with a new configuration record in the place of the older copy. -/
def Bank.putCfg (b : Bank) (r : CfgRecord) : Bank :=
  if b.cfgs.length < 2 then { b with cfgs := b.cfgs ++ [r] } else { b with cfgs := modAt (fun _ => r) (olderCopy b.cfgs) b.cfgs }

/-- RETIREMENT_RECORD: the keeper writes a changed spare map into the signed configuration record (R233, R490). -/
def execRetirementRecord (die : Nat) (s : State) : Host.Outcome State Fault Refusal :=
  if s.sec.unrecorded.contains die = false ∨ s.power.on = false then okay s
  else
    let r : CfgRecord := { s.sec.cfg with seq := s.sec.cfg.seq + 1, valid := true }
    okay { s with sec := { s.sec with cfg := r, bankA := s.sec.bankA.putCfg r, bankB := s.sec.bankB.putCfg r
                                      unrecorded := [] } }

/-! ### The LLC of a die written back (R234, R467) -/

/-- Every line of a stop's cache given up, dirty ones accepted by their controllers. -/
def State.flushLLC (s : State) (stop : Nat) : State :=
  (NMap.keys (s.cacheOf stop)).foldl (fun st l => (st.evictLine stop l).acceptSent l) s

/-- Refused requests of a stop's agent taken back; where one had been called, the next waiter of its line is called (R302). -/
def State.dropRetries (s : State) (stop : Nat) : State :=
  let mine (r : Retry) : Bool := r.stop == stop && r.ticket == 0
  let gone := s.coh.retries.filter mine
  let s1 : State := { s with coh := { s.coh with
    retries := s.coh.retries.filter (fun r => !mine r), misses := s.coh.misses.filter (fun m => m.stop != stop) } }
  (gone.filter (·.called)).foldl (fun st r => st.callNext r.line) s1

/-- A store of a stopped group on a die whose LLC goes: it completes at its controller. -/
def State.finishStore (s : State) (core : Nat) (e : SbEntry) : State :=
  match e.tgt with
  | .cache pa => s.cohWriteLine e.tag (lineOf pa) e.bytes
  | _ => (s.acceptNow core e).getD s

/-- The stores that ended groups of a die left under way complete; window stores go on by themselves. -/
def State.finishOrphans (s : State) (die : Nat) : State :=
  let mine (o : Orphan) : Bool := match o.store with
    | some e => !isWindow e.tgt && s.awake e.tgt
    | none => false
  s.cores.foldl (fun st ck =>
    if dieOfCore ck.1 = die then
      let s1 := (ck.2.orphans.filter mine).foldl (fun st o => match o.store with
        | some e => st.finishStore ck.1 e
        | none => st) st
      s1.updCore ck.1 (fun k => { k with orphans := k.orphans.filter (fun o => !mine o) })
    else st) s

/-! ### Die fence (R234) -/

/-- A stopped tile of a fenced die that ends without replay (R234 step 4); it counts as arrived from now on (R348). -/
def State.endFenced (s : State) (key index : Nat) : State :=
  let s1 := s.updLaunch key (fun l => { l with fenced := l.fenced + 1, ended := l.ended + 1 })
  { s1 with hasps := NMap.mapVals (fun _ h => if h.launch = key then { h with gone := addNew index h.gone } else h) s1.hasps }

/-- The lowest core of a launch's span on this module that can take a tile of it. -/
def State.coreFor (s : State) (key : Nat) (l : Launch) : Option Nat :=
  (List.range 768).find? (fun c => s.canTake c key l)

/-- The replay of a tile of a fenced die on another core of its span: it counts no mismatch, and R228 still knows what
its earlier runs did. -/
def Tile.moved (t : Tile) : Replay :=
  { index := t.index, mism := t.mism, on := none, coreBound := t.coreBound, lastAt := t.lastAt }

/-- What becomes of a stopped tile of a fenced die: replayed on another core where it is neither committed nor
core-bound, of a launch with hasp lines only where a core has room now; otherwise it ends (R234). A span of one core
makes a tile core-bound (R228). -/
def State.rehome (s : State) (key : Nat) (t : Tile) : State :=
  match s.launch? key with
  | none => s
  | some l =>
    if t.committed || t.coreBound || decide (l.homes.length ≤ 1) && l.kind == .launch then s.endFenced key t.index
    else if l.hasps.isEmpty then
      s.updLaunch key (fun l => { l with replays := l.replays ++ [t.moved] })
    else match s.coreFor key l with
      | some c => (s.placeTile c key t.moved).countCtx l.ctx 4 1
      | none => s.endFenced key t.index

/-- The replays of a launch that wait for a core of a fenced die: those of core-bound tiles end, those of a launch with
hasp lines too unless a core has room now, and the others go elsewhere (R234). -/
def State.rehomeReplays (s : State) (die key : Nat) : State :=
  match s.launch? key with
  | none => s
  | some l =>
    let onDie (r : Replay) : Bool := match r.on with
      | some c => dieOfCore c == die
      | none => false
    (l.replays.filter onDie).foldl (fun st r =>
      let drop (st : State) : State :=
        st.updLaunch key (fun l => { l with replays := l.replays.filter (fun q => q.index != r.index) })
      if r.coreBound || (decide (l.homes.length ≤ 1) && l.kind == .launch) then (drop st).endFenced key r.index
      else if l.hasps.isEmpty then
        st.updLaunch key (fun l => { l with replays := l.replays.map (fun q => if q.index = r.index then { q with on := none } else q) })
      else match st.coreFor key ((st.launch? key).getD l) with
        | some c => ((drop st).placeTile c key { r with on := none }).countCtx l.ctx 4 1
        | none => (drop st).endFenced key r.index) s

/-- The tiles of launches with hasp lines that were still to be placed on a core of a fenced die end with it (log 34). -/
def State.dropHomes (s : State) (die key : Nat) : State :=
  match s.launch? key with
  | none => s
  | some l =>
    let lost := if l.hasps.isEmpty then [] else l.pool.filter (fun t => match l.homeCore t with
      | some c => c.1 == s.here && dieOfCore c.2 == die
      | none => false)
    lost.foldl (fun st t => st.endFenced key t)
      (s.updLaunch key (fun l => { l with pool := l.pool.filter (fun t => !lost.contains t) }))

/-- The granules of a run that lie on a die placed again; accesses under way to them go to the memory behind (R278,
R279). -/
def State.moveGranules (s : State) (ctx die : Nat) (r : ShareRun) : State :=
  let moved := (r.placed.filter (fun ig => ig.2 / 4096 == die)).map (·.1)
  let f (va : Nat) (t : Target) : Target :=
    match t with
    | .share d _ _ => if d = die then r.off va t else t
    | t => t
  let s1 := { s with cores := NMap.mapVals (fun _ (k : Core) => k.retarget ctx f) s.cores }
  let s2 := s1.updCtx ctx (fun c => c.updShare r.slot (fun r => { r with placed := r.placed.filter (fun ig => ig.2 / 4096 != die) }))
  moved.foldl (fun st i => st.placeGranule ctx r i) s2

/-- Every granule of a die placed again. -/
def State.moveShares (s : State) (die : Nat) : State :=
  s.fe.ctxs.foldl (fun st nc => (nc.2.shares.foldl (fun st r => st.moveGranules nc.1 die r) st).syncGrans nc.1) s

/-- The tiles on a die, with their cores and keys. -/
def State.tilesOn (s : State) (die : Nat) : List (Nat × Nat × Tile) :=
  (s.cores.map (fun ck => if dieOfCore ck.1 = die then ck.2.tiles.map (fun kt => (ck.1, kt.1, kt.2)) else [])).flatten

/-- A launch whose span keeps the cores that satisfy `p`, in the same order (R31). One that has not started takes its
dispatch and hasp scope from those alone; in one that runs, the tiles of the cores that go keep their places (R343). -/
def Launch.shrink (l : Launch) (p : Nat × Nat → Bool) : Launch :=
  let l1 := { l with chain := l.chain.filter p }
  if l.go then l1
  else { l1 with homes := l.homes.filter p, hasps := NMap.mapVals (fun _ cs => cs.filter p) l.hasps }

/-- DIE_FENCE: the keeper fences a die: a retirement finds no spare, or the die is unusable. Its tiles are stopped, its
LLC is written back, its shares move, its spans shrink, the stopped tiles are replayed elsewhere or end, and its domains
go off (R31, R234, R279, R468). -/
def execDieFence (die : Nat) (s : State) : Host.Outcome State Fault Refusal :=
  if die ≥ 8 ∨ s.fenced die ∨ s.power.on = false ∨ s.stage ≠ .ready then okay s
  else
    let tiles := s.tilesOn die
    let keys := NMap.keys s.fe.launches
    let s1 := s.setSpareMap die { s.spareMap die with fenced := true }
    let s2 := tiles.foldl (fun st t => st.stopTile t.1 t.2.1 .fence) s1
    let s3 := ((s2.finishOrphans die).dropRetries (stopOfDie die)).flushLLC (stopOfDie die)
    let s4 : State := { s3 with coh := { s3.coh with txns := NMap.mapVals (fun _ t =>
      if t.stop = stopOfDie die then { t with way := 16 } else t) s3.coh.txns } }
    let s5 := s4.moveShares die
    let s6 : State := { s5 with fe := { s5.fe with launches := NMap.mapVals (fun _ l =>
      l.shrink (fun c => !(c.1 == s.here && dieOfCore c.2 == die))) s5.fe.launches } }
    let s7 := keys.foldl (fun st k => (st.rehomeReplays die k).dropHomes die k) s6
    let s8 := tiles.foldl (fun st t => st.rehome t.2.2.launch t.2.2) s7
    let s9 := s8.haspSettleAll
    let s10 := (List.range 768).foldl (fun st c =>
      if dieOfCore c = die ∧ (st.core c).retiring then st.updCore c (fun k => { k with retiring := false, mismAt := [] }) else st) s9
    let s11 : State := { s10 with power := { s10.power with
      domains := [2 * die, 2 * die + 1, 16 + die].foldl (fun m d => NMap.ins d DomState.off m) s10.power.domains
      waking := s10.power.waking.filter (fun d => !([2 * die, 2 * die + 1, 16 + die].contains d)) } }
    okay ((s11.countModule 2 1).keeperEvent 2 die)

end Sys2Proof.Machine
end

