-- ==== Sys2Proof/Machine/Window.lean ====
section
/-! DEFINITION. The set-up window: its registers, which accesses are errors, and how errors are reported (R10, R525,
R538 to R543). -/

namespace Sys2Proof.Machine

/-- A register of the set-up window; `n` numbers the registers of an array. -/
inductive SetReg where
  | idModuleId | idPart | idStage | idLevels | idFwver | idAccerr | idIdrec (n : Nat) | idSpare (n : Nat)
  | feCtl | feCtxbase | feSlotbase | feRingbase | feCtxon | feCtxoff
  | wdWardbase
  | mpShareways | mpHostplan | mpRapply | mpRegion (n : Nat)
  | tmSel | tmState0 | tmState1 | tmReset
  | spSpancfg | spSpanstat | spSpanctl | spLevels | spPortstat | spWintab | spWininv | spSctab | spTbload | spTbctl | spTbnow
  | pwCtl | pwStatus | pwDomstate | pwEnergy | pwExcbase
  | scCounter | scBootstat | scNonce | scTokaddr | scDbgstat | scTokrevoke | scColdrst | scBankstat | scBankseq
  | scUpdaddr | scUpdlen | scUpdctl | scUpdstat
  | dbStatus | dbGctl | dbGstat | dbHofset | dbHofclr | dbRsel | dbRdata | dbCsel | dbTrbase | dbTrsize | dbTrctl
  | dbTrward | dbTrstat | dbElbase | dbElcount | dbBpa (n : Nat) | dbBpc (n : Nat) | dbWpa (n : Nat) | dbWpc (n : Nat)
  | ctCtxbase | ctMcount (n : Nat)
  | rtBase (n : Nat) | rtLimit (n : Nat) | rtStatus
  | hgEpoch | hgStatus | hgHostrst | hgEpochopen | hgHartrun | hgHartrunhi | hgPoison
  deriving DecidableEq, Repr, Inhabited

/-- The single registers by offset (R545, R546, R548, R551). -/
def regTableA : List (Nat × SetReg) :=
  [(0x00000, .idModuleId), (0x00008, .idPart), (0x00010, .idStage), (0x00018, .idLevels), (0x00020, .idFwver),
   (0x00028, .idAccerr),
   (0x10000, .feCtl), (0x10008, .feCtxbase), (0x10010, .feSlotbase), (0x10018, .feRingbase), (0x10020, .feCtxon),
   (0x10028, .feCtxoff),
   (0x20000, .wdWardbase), (0x30000, .mpShareways), (0x30008, .mpHostplan), (0x30010, .mpRapply),
   (0x40000, .tmSel), (0x40008, .tmState0), (0x40010, .tmState1), (0x40018, .tmReset),
   (0x50000, .spSpancfg), (0x50008, .spSpanstat), (0x50010, .spSpanctl), (0x50018, .spLevels), (0x50020, .spPortstat),
   (0x50028, .spWintab), (0x50030, .spWininv), (0x50038, .spSctab), (0x50040, .spTbload), (0x50048, .spTbctl),
   (0x50050, .spTbnow),
   (0x60000, .pwCtl), (0x60008, .pwStatus), (0x60010, .pwDomstate), (0x60018, .pwEnergy), (0x60020, .pwExcbase)]

/-- The single registers by offset (R554, R556, R558). -/
def regTableB : List (Nat × SetReg) :=
  [(0x70000, .scCounter), (0x70008, .scBootstat), (0x70010, .scNonce), (0x70018, .scTokaddr), (0x70020, .scDbgstat),
   (0x70028, .scTokrevoke), (0x70030, .scColdrst), (0x70038, .scBankstat), (0x70040, .scBankseq), (0x70048, .scUpdaddr),
   (0x70050, .scUpdlen), (0x70058, .scUpdctl), (0x70060, .scUpdstat),
   (0x80000, .dbStatus), (0x80008, .dbGctl), (0x80010, .dbGstat), (0x80018, .dbHofset), (0x80020, .dbHofclr),
   (0x80028, .dbRsel), (0x80030, .dbRdata), (0x80038, .dbCsel), (0x80040, .dbTrbase), (0x80048, .dbTrsize),
   (0x80050, .dbTrctl), (0x80058, .dbTrward), (0x80060, .dbTrstat), (0x80068, .dbElbase), (0x80070, .dbElcount),
   (0x90000, .ctCtxbase), (0xA0100, .rtStatus),
   (0xB0000, .hgEpoch), (0xB0008, .hgStatus), (0xB0010, .hgHostrst), (0xB0018, .hgEpochopen), (0xB0020, .hgHartrun),
   (0xB0028, .hgHartrunhi), (0xB0030, .hgPoison)]

/-- The arrays of registers: first offset, number, register. -/
def regArrays : List (Nat × Nat × (Nat → SetReg)) :=
  [(0x01000, 512, .idIdrec), (0x02000, 128, .idSpare), (0x30100, 16, .mpRegion), (0x80100, 8, .dbBpa), (0x80140, 8, .dbBpc),
   (0x80180, 8, .dbWpa), (0x801C0, 8, .dbWpc), (0x90100, 32, .ctMcount), (0xA0000, 16, .rtBase), (0xA0080, 16, .rtLimit)]

/-- The register at an aligned offset, none for a reserved one. -/
def regAt (off : Nat) : Option SetReg :=
  match (regTableA ++ regTableB).find? (fun r => r.1 == off) with
  | some r => some r.2
  | none =>
    (regArrays.find? (fun a => decide (a.1 ≤ off) && decide (off < a.1 + 8 * a.2.1))).map (fun a => a.2.2 ((off - a.1) / 8))

/-- Whether a mode is M or HS (R542). -/
def privileged : HartMode → Bool
  | .m => true
  | .hs => true
  | _ => false

/-- Whether the block of an offset responds now (R487, R525): ID, SC, PW and SP from the keeper's start, the others once
the stage reads READY, and in a failed boot only ID and SC.BOOTSTAT. -/
def State.blockReady (s : State) (off : Nat) : Bool :=
  let b := off / 0x10000
  match s.stage with
  | .rom => false
  | .failed => b == 0 || off == 0x70008
  | .ready => true
  | _ => b == 0 || b == 5 || b == 6 || b == 7

/-- The KIND of the error that an access is, none for one that is made; of several the lowest (R543, log 35). -/
def State.gate (s : State) (req : Requester) (off width : Nat) (write : Bool) : Option Nat :=
  if width ≠ 8 ∨ off % 8 ≠ 0 then some 0
  else if (regAt off).isNone then some 1
  else if req.port = .host ∧ privileged req.mode = false ∧ ¬ (off < 0x10000 ∧ write = false) then some 2
  else if s.blockReady off = false then some 3
  else none

/-- An access error counted, and latched where none is (R543). -/
def State.accError (s : State) (req : Requester) (off kind : Nat) (write : Bool) : State :=
  let s1 := s.countModule 12 1
  if s.accerr.valid then s1
  else { s1 with accerr := { offset := off % 2 ^ 20, kind := kind, write := write, host := req.port == .host, valid := true } }

/-- What a write of a register comes to: done, or dropped with the KIND it is reported with (R543). -/
inductive RegW where
  | done (s : State)
  | drop (kind : Nat) (s : State)

/-- Whether accesses arrive from a port now: the host's come over the hinge, and none comes without power. -/
def State.portLive (s : State) (req : Requester) : Bool :=
  s.power.on && (if req.port = .control then !s.pins.perst && decide (s.pins.cpIn.length < 32) else s.hostRuns)

/-- An access of the control port taken through the port's FIFO; the entry stands for its packet, of which it holds the
offset (R39). -/
def State.cpTake (s : State) (req : Requester) (off : Nat) : State :=
  if req.port = .control then
    { s with pins := { s.pins with cpIn := fifoPush 32 s.pins.cpIn [BitVec.ofNat 512 off] } }
  else s

/-- What a read returns; to the control port it goes through the port's FIFO (R39). -/
def State.cpGive (s : State) (req : Requester) (v : DWord) : State :=
  { s with pins := { s.pins with
      rdata := v, cpOut := if req.port = .control then fifoPush 32 s.pins.cpOut [v.setWidth 512] else s.pins.cpOut } }

/-- A write access: refused with an error, or the register's own operation (R540 to R543). -/
def State.winWrite (s : State) (req : Requester) (off width : Nat) (op : State → RegW) : State :=
  if s.portLive req = false then s
  else match s.gate req off width true with
    | some k => (s.cpTake req off).accError req off k true
    | none => match op (s.cpTake req off) with
      | .done t => t
      | .drop k t => t.accError req off k true

/-- A read access: zero with an error, or what the register gives. -/
def State.winRead (s : State) (req : Requester) (off width : Nat) (op : State → DWord × State) : State :=
  if s.portLive req = false then s
  else match s.gate req off width false with
    | some k => ((s.cpTake req off).accError req off k false).cpGive req 0
    | none =>
      let (v, t) := op (s.cpTake req off)
      t.cpGive req v

end Sys2Proof.Machine
end

