-- ==== Sys2Proof/Machine/Residency.lean ====
section
/-! DEFINITION. Contexts and slots: the FE registers, activation and deactivation, residency and eviction, counters, and
the host's answers to page requests (R84, R325, R354 to R364, R371, R373, R514, R517, R546, R547, R575, R576). -/

namespace Sys2Proof.Machine

/-! ### FE.CTL (R405, R546, R547, R575) -/

/-- A ring as its 64-byte entry describes it (R373); counts start at zero with the activation (R374). -/
def ringOf (e : Nat) : Ring :=
  { rbase := nfield e 63 0, rlog2 := nfield e 68 64, clog2 := nfield e 73 69, ovirq := e.testBit 74
    dbell := nfield e 191 128, cbase := nfield e 255 192, msiaddr := nfield e 319 256, msidata := nfield e 351 320 }

/-- Whether a ring's sizes and interrupt identity are in range (R373). -/
def Ring.inRange (r : Ring) : Bool :=
  decide (6 ≤ r.rlog2) && decide (r.rlog2 ≤ 16) && decide (6 ≤ r.clog2) && decide (r.clog2 ≤ 16) &&
    (r.msiaddr == 0 || (decide (1 ≤ r.msidata) && decide (r.msidata ≤ 2047)))

/-- Whether a ring's addresses are aligned (R373). -/
def Ring.aligned (r : Ring) : Bool :=
  decide (r.rbase % 4096 = 0) && decide (r.dbell % 128 = 0) && decide (r.cbase % 4096 = 0) && decide (r.msiaddr % 4 = 0)

/-- Whether the admin ring's structures lie in LPDDR5X (log 36). -/
def State.ringInMemory (s : State) (r : Ring) : Bool :=
  s.isLpRange r.rbase (64 * 2 ^ r.rlog2) && s.isLpRange r.dbell 128 && s.isLpRange r.cbase (32 * 2 ^ r.clog2)

/-- A write of FE.CTL: setting EN checks the admin ring's entry, clearing it stops ring service (R547, R575). -/
def State.writeFeCtl (s : State) (v : DWord) : RegW :=
  let s0 : State := { s with fe := { s.fe with badring := s.fe.badring && !bitAt v 2 } }
  if bitAt v 0 then
    if s.fe.en then .done s0
    else
      let r := ringOf (s.cohNat s.fe.ringbase 64)
      let bases := [s.fe.ctxbase, s.fe.slotbase, s.fe.ringbase, s.fe.wardbase, s.fe.ctbase].all (· != 0)
      if bases && r.inRange && r.aligned && s.ringInMemory r then
        let s1 : State := { s0 with fe := { s0.fe with en := true, admin := r } }
        .done ((s1.syncRing .admin).readDoorbell .admin)
      else .done { s0 with fe := { s0.fe with badring := true } }
  else if s.fe.en then
    if s.fe.ctxs.all (fun nc => nc.2.state == .off) then .done { s0 with fe := { s0.fe with en := false, admin := {} } }
    else .drop 5 s
  else .done s0

/-- FE_CTL_EN. -/
def execFeCtlEn (req : Requester) (v : DWord) (s : State) : Host.Outcome State Fault Refusal :=
  okay (s.winWrite req 0x10000 8 (fun t => t.writeFeCtl v))

/-! ### Activation (R354, R356, R358) -/

/-- What a context descriptor and its ward's entry describe. -/
def ctxOfDesc (d we : Nat) : Ctx :=
  { ward := nfield d 9 0, pasid := nfield d 35 16, nring := nfield d 39 36
    prio := Nat.min (nfield d 42 40) (nfield we 30 28), ownPrio := nfield d 42 40, prqdis := d.testBit 43, pinned := d.testBit 44
    budget := nfield d 63 48, waketol := nfield d 87 64, ringtab := nfield d 191 128, faultrec := nfield d 255 192
    tmap := nfield d 319 256, htab := nfield d 383 320, hlog2 := nfield d 388 384, slist := nfield d 511 448
    plan := nfield we 5 0, wslots := nfield we 14 8, gran8 := nfield we 27 16 }

/-- Whether a reserved field of a descriptor is not zero. -/
def descReserved (d : Nat) : Bool :=
  nfield d 15 10 != 0 || nfield d 47 45 != 0 || nfield d 127 88 != 0 || nfield d 447 389 != 0 || nfield d 2047 526 != 0

/-- Whether a descriptor's addresses are aligned and canonical. -/
def Ctx.addressesOk (c : Ctx) : Bool :=
  let ok (a al : Nat) : Bool := decide (a % al = 0) && canonical a
  ok c.ringtab 64 && ok c.faultrec 64 && ok c.tmap 4096 && ok c.htab 4096 && ok c.slist 4096

/-- A ring's addresses canonical. -/
def Ring.canon (r : Ring) : Bool := canonical r.rbase && canonical r.dbell && canonical r.cbase

/-- The ring-table entries of a context that can be read, and an address that cannot. -/
def ringsAt (read : Nat → Chk Nat) (a : Nat) : Nat → Chk (List Ring × Option Nat)
  | 0 => .ok ([], none)
  | n + 1 =>
    let rest := ringsAt read (a + 64) n
    match read a with
    | .ok e => rest.bind fun r => .ok (ringOf e :: r.1, r.2)
    | .page va => .page va
    | .fault _ va => rest.bind fun r => .ok (r.1, some va)
    | .fail _ _ _ => rest.bind fun r => .ok (r.1, some a)

/-- The activation finds no process context, or reads the ring table (log 37). -/
def State.ringTable (s : State) (ctx : Nat) (c : Ctx) : Chk (List Ring × Option Nat) :=
  if s.io.serves c.pasid = false ∨ c.ringtab % 64 ≠ 0 ∨ canonical c.ringtab = false ∨ c.nring = 0 ∨ c.nring > 8 then .ok ([], none)
  else ringsAt (fun a => s.chkTable ctx a 64) c.ringtab c.nring

/-- The lowest cause for which an activation fails, zero where it passes (R358). -/
def State.activationCause (s : State) (d we : Nat) (c : Ctx) (rs : List Ring) (unread : Bool) : Nat :=
  if descReserved d then 1
  else if c.ward = 0 ∨ we.testBit 7 = false ∨ (s.plan c.plan).valid = false then 2
  else if c.nring = 0 ∨ c.nring > 8 ∨ (c.budget ≠ 0 ∧ (c.budget < 10 ∨ c.budget > 10000)) ∨ c.hlog2 > 20 ∨
      rs.any (fun r => !r.inRange) then 3
  else if c.addressesOk = false ∨ unread = true ∨ rs.any (fun r => !(r.aligned && r.canon)) then 4
  else if s.io.serves c.pasid = false then 5
  else 0

/-- A context activated from its descriptor and ward entry: invalid with its cause, waiting for a page of the ring table,
or idle with its rings subscribed to and its counts at zero (R358, R373, R380, R517). -/
def State.activate (s : State) (n : Nat) : State :=
  let d := s.cohNat (s.ctxAddr n) 256
  let we := s.wardEntry (nfield d 9 0)
  let c := ctxOfDesc d we
  let s1 := s.updCtx n (fun _ => { c with activating := true })
  let finish (rs : List Ring) (unread : Bool) : State :=
    match s1.activationCause d we c rs unread with
    | 0 =>
      let s2 := s1.updCtx n (fun _ => { c with
        state := .idle, rings := (List.range rs.length).map (fun i => (i, rs.getD i {})) })
      let s3 := (s2.syncCtx n).writeCounters n
      (List.range rs.length).foldl (fun st i => (st.syncRing (.ring n i)).readDoorbell (.ring n i)) s3
    | k => (s1.updCtx n (fun _ => { c with state := .invalid, cause := k })).syncCtx n
  match s1.ringTable n c with
  | .ok (rs, none) => finish rs false
  | .ok (rs, some va) => (finish rs true).sawPage n va
  | .page va => s1.pageRequest n va
  | _ => finish [] true

/-- A faulted context restarted: where its slot left it, its rings fetched from their heads (R358). -/
def State.restart (s : State) (n : Nat) : State :=
  let c := s.ctx n
  let st : CtxState := if c.holdsSlot s.fe.slots n then
      (match (s.slot c.slot).state with | 1 => .loading | 2 => .resident | _ => .evicting) else .idle
  let s1 := (s.updCtx n (fun c => { c with state := st })).syncCtx n
  (NMap.keys c.rings).foldl (fun t i => t.readDoorbell (.ring n i)) s1

/-- A write of FE.CTXON (R358). -/
def State.writeCtxon (s : State) (v : DWord) : RegW :=
  let n := field v 13 0
  if s.fe.en = false then .drop 5 s
  else match (s.ctx n).state with
    | .off => .done (s.activate n)
    | .invalid => .done (s.activate n)
    | .faulted => if (s.ctx n).leaving then .done s else .done (s.restart n)
    | _ => .done s

/-- FE_CTXON. -/
def execFeCtxon (req : Requester) (v : DWord) (s : State) : Host.Outcome State Fault Refusal :=
  okay (s.winWrite req 0x10020 8 (fun t => t.writeCtxon v))

/-! ### Deactivation (R359) -/

/-- The origins of the LAUNCHes that a context serves told that it places no further tile (R458, R459). -/
def State.refuseServed (s : State) (ctx : Nat) : State :=
  let mine := s.fe.launches.filter (fun kl => kl.2.ctx == ctx && kl.2.origin.isSome && !kl.2.cancelled)
  mine.foldl (fun st kl => match kl.2.origin with
    | some o => (st.updLaunch kl.1 (fun l => { l with cancelled := true, pool := [] })).sendTo o (.placeRefusal kl.2.fields.lnum)
    | none => st) s

/-- A write of FE.CTXOFF: fetching stops and the context's commands are cancelled; once they have completed it gives up its
slot, and it goes off once its tiles have ended (R359). -/
def State.writeCtxoff (s : State) (v : DWord) : RegW :=
  let n := field v 13 0
  if s.fe.en = false then .drop 5 s
  else match (s.ctx n).state with
    | .off => .done (if (s.ctx n).activating then s.updCtx n (fun _ => {}) else s)
    | .invalid => .done ((s.updCtx n (fun _ => {})).syncCtx n)
    | _ =>
      let s1 := ((s.updCtx n (fun c => { c.cancelAll with leaving := true })).dropRingWaits n).refuseServed n
      let s2 : State := { s1 with fe := { s1.fe with launches := NMap.mapVals (fun _ l =>
        if l.ctx = n then { l with cancelled := true } else l) s1.fe.launches } }
      .done (s2.settleOff n)

/-- FE_CTXOFF. -/
def execFeCtxoff (req : Requester) (v : DWord) (s : State) : Host.Outcome State Fault Refusal :=
  okay (s.winWrite req 0x10028 8 (fun t => t.writeCtxoff v))

/-! ### Who gets a slot (R361) -/

/-- Whether an opcode places tiles. -/
def placesTiles (op : Nat) : Bool := decide (1 ≤ op) && decide (op ≤ 4)

/-- Whether the next command of a ring places tiles: the first it has not started. -/
def Ring.nextPlaces (r : Ring) : Bool :=
  match r.cmds.find? Cmd.waitsStart with
  | some m => placesTiles m.op && !(r.cmds.any (fun b => b.op == 6 && b.state == .waiting))
  | none => false

/-- Whether a context needs a slot: its next command places tiles, or a peer's LAUNCH waits for it (R361, R456). -/
def State.needsSlot (s : State) (n : Nat) : Bool :=
  let c := s.ctx n
  c.state == .idle && !c.leaving &&
    (c.rings.any (fun r => r.2.nextPlaces) || s.fe.launches.any (fun kl => kl.2.ctx == n && kl.2.origin.isSome && !kl.2.stops))

/-- Whether a context has a fetched command that places tiles. -/
def State.hasTileCommand (s : State) (n : Nat) : Bool :=
  (s.ctx n).rings.any (fun r => r.2.cmds.any (fun m => placesTiles m.op && (m.state == .fetched || m.state == .started))) ||
    s.fe.launches.any (fun kl => kl.2.ctx == n && kl.2.origin.isSome && !kl.2.stops)

/-- Slots that the contexts of a ward hold. -/
def State.wardSlots (s : State) (w : Nat) : Nat := (s.fe.slots.filter (fun x => x.2.state != 0 && x.2.ward == w)).length

/-- The lowest free slot. -/
def State.freeSlot (s : State) : Option Nat := (List.range 64).find? (fun i => (s.slot i).state == 0)

/-- Whether a context may take a slot that is free: its ward is below its limit. -/
def State.mayTake (s : State) (n : Nat) : Bool := decide (s.wardSlots (s.ctx n).ward < (s.ctx n).wslots)

/-- Whether another context that waits comes before this one: higher priority, then lower number. -/
def State.outranked (s : State) (n : Nat) : Bool :=
  s.fe.ctxs.any (fun mc => mc.1 != n && s.needsSlot mc.1 && s.mayTake mc.1 &&
    (decide (mc.2.prio > (s.ctx n).prio) || (mc.2.prio == (s.ctx n).prio && decide (mc.1 < n))))

/-- The standing of a context that holds a slot: its priority, or below every priority (as a negative number). -/
def State.standing (s : State) (n : Nat) : Int :=
  if (s.ctx n).state = .faulted ∨ s.hasTileCommand n = false then -1 else ((s.ctx n).prio : Int)

/-- Whether a context may be evicted for another (R361). -/
def State.evictable (s : State) (n v : Nat) : Bool :=
  let c := s.ctx v
  let x := s.slot c.slot
  c.holdsSlot s.fe.slots v && (x.state == 2 || (c.state == .faulted && x.state == 1)) && !c.pinned &&
    decide (s.standing v < ((s.ctx n).prio : Int)) && (s.mayTake n || c.ward == (s.ctx n).ward)

/-- The better victim of two: lower standing, then the one whose last tile ended earlier, then the lower number. -/
def State.betterVictim (s : State) (a b : Nat) : Bool :=
  decide (s.standing a < s.standing b) || (s.standing a == s.standing b &&
    (decide ((s.ctx a).lastEnd < (s.ctx b).lastEnd) || ((s.ctx a).lastEnd == (s.ctx b).lastEnd && decide (a < b))))

/-- The victim for a context. -/
def State.victimFor (s : State) (n : Nat) : Option Nat :=
  ((NMap.keys s.fe.ctxs).filter (s.evictable n)).foldl (fun o v => match o with
    | some b => if s.betterVictim v b then some v else some b
    | none => some v) none

/-- MAKE_RESIDENT: a context that needs a slot takes the lowest free one, or a victim's eviction begins (R361, R362
event 1). While an eviction for it is under way no further victim is sought. -/
def execMakeResident (ctx : Nat) (s : State) : Host.Outcome State Fault Refusal :=
  if s.feServes = false ∨ s.needsSlot ctx = false ∨ s.outranked ctx then okay s
  else match s.freeSlot, s.mayTake ctx with
    | some i, true =>
      let s1 := (s.updCtx ctx (fun c => { c with state := .loading, slot := i, map := [], mapRead := false, mapAsk := [] }))
      okay ((s1.slotTo ctx 1).syncCtx ctx)
    | _, _ =>
      if s.fe.slots.any (fun x => x.2.state == 3 && x.2.want == some ctx) then okay s
      else match s.victimFor ctx with
        | some v => okay (s.startEviction v (some ctx))
        | none => okay s

/-- EVICTION_DONE: the last tile of the context has ended, its shares depart and its slot is empty (R364). A context
that was leaving goes off (R359). -/
def execEvictionDone (ctx : Nat) (s : State) : Host.Outcome State Fault Refusal :=
  let c := s.ctx ctx
  if c.holdsSlot s.fe.slots ctx = false ∨ (s.slot c.slot).state ≠ 3 ∨ ¬ (s.tilesOf ctx).isEmpty ∨ s.power.on = false ∨
      (c.leaving ∧ c.quiet = false) then okay s
  else
    let s1 := (s.departAll ctx).slotTo ctx 0
    let s2 := s1.updCtx ctx (fun c => { c with
      state := if c.state = .faulted then .faulted else .idle, slot := 0, map := [], mapRead := false, mapAsk := [] })
    okay ((s2.syncCtx ctx).settleOff ctx)

/-! ### Residency (R325, R362) -/

/-- The tumbler map from entry `i`, `n` entries: its VALID entries by identifier. -/
def State.mapFrom (s : State) (ctx : Nat) : Nat → Nat → Chk (NMap TmapEntry)
  | _, 0 => .ok []
  | i, n + 1 =>
    (s.tmapRead ctx i).bind fun e =>
    (s.mapFrom ctx (i + 1) n).bind fun m => .ok (match e with
      | some e => (i, e) :: m
      | none => m)

/-- A map read: its local entries checked, and the peers that its REMOTE entries name asked; one that is no member is
foreign at once (R325, R449). -/
def State.takeMap (s : State) (ctx : Nat) (m : NMap TmapEntry) : State :=
  let local1 := NMap.mapVals (fun _ e =>
    if e.remote then { e with foreign := !s.isMember e.peer || e.peer == s.here }
    else { e with foreign := !s.ownerOk ctx e.index e.shared }) m
  let s1 := s.updCtx ctx (fun c => { c with map := local1, mapRead := true, mapAsk := [] })
  (local1.filter (fun ie => ie.2.remote && !ie.2.foreign)).foldl (fun st ie =>
    let (tx, s2) := st.newTx ie.2.peer
    (s2.sendTo ie.2.peer (.tmapchk ie.2.index (s2.scidOf ctx) ie.2.shared) tx (s2.ctx ctx).ward).updCtx ctx (fun c =>
      { c with mapAsk := c.mapAsk ++ [(tx, ie.1)] })) s1

/-- The context becomes resident: its shares placed and filled (R274, R279, R362). -/
def State.becomeResident (s : State) (ctx : Nat) (runs : List ShareRun) : State :=
  let s1 := runs.foldl (fun st r => st.placeRun ctx r) s
  ((s1.slotTo ctx 2).updCtx ctx (fun c => { c with state := .resident })).syncCtx ctx

/-- RESIDENCY_COMPLETE: ward entry and tumbler map are read, peers answer for their entries, then the shares are placed
and the context is resident (R325, R354, R362). -/
def execResidencyComplete (ctx : Nat) (s : State) : Host.Outcome State Fault Refusal :=
  let c := s.ctx ctx
  if s.feServes = false ∨ c.state ≠ .loading ∨ c.leaving then okay s
  else
    let miss {α : Type} (k : Chk α) (go : α → State) : State :=
      match k with
      | .ok a => go a
      | .page va => s.pageRequest ctx va
      | .fault d va => (s.sawPage ctx va).feFault ctx d va
      | .fail _ _ _ => s
    if c.mapRead = false then
      let we := s.wardEntry c.ward
      -- while the ward may hold no context the residency waits (log 140)
      if we.testBit 7 = false then okay s
      else okay (miss (s.mapFrom ctx 0 4096) (fun m =>
        (s.updCtx ctx (fun c => { c with
          plan := nfield we 5 0, wslots := nfield we 14 8, gran8 := nfield we 27 16
          prio := Nat.min c.ownPrio (nfield we 30 28) })).takeMap ctx m))
    else if ¬ c.mapAsk.isEmpty then okay s
    else okay (miss (s.shareList ctx) (fun rs => s.becomeResident ctx rs))

/-! ### Counters (R514, R517) -/

/-- COUNTER_TABLE_WRITE: the entry of an activated context is written. -/
def execCounterTableWrite (ctx : Nat) (s : State) : Host.Outcome State Fault Refusal :=
  let c := s.ctx ctx
  if s.power.on ∧ s.fe.en ∧ c.state ≠ .off ∧ c.state ≠ .invalid ∧ s.fe.frozen = none then okay (s.writeCounters ctx) else okay s

/-- COUNTER_SAMPLE: with DB.TRCTL.SAMPLE set, each traced context emits a record of every slot that is not zero. -/
def execCounterSample (s : State) : Host.Outcome State Fault Refusal :=
  if s.dbg.sample = false then okay s
  else okay (s.fe.ctxs.foldl (fun st nc =>
    if nc.2.state = .off ∨ nc.2.state = .invalid then st
    else nc.2.counters.foldl (fun t ic =>
      if SatCount.slot ic.2 = 0 then t else t.trace 7 nc.2.ward nc.1 0 0 (ic.1 % 32 + SatCount.slot ic.2 * 2 ^ 32)) st) s)

/-! ### Page requests (R84) -/

/-- The groups of a process that wait for a page: place, address, lane. -/
def State.pageWaiters (s : State) (pasid page : Nat) : List (Site × Nat × Nat) :=
  (s.cores.map (fun ck => ck.2.groups.filterMap (fun pg =>
    match pg.2.wait with
    | .page va lane _ =>
      let site : Site := ⟨ck.1, pg.1⟩
      if va / 4096 = page ∧ (s.ctx (s.ctxOf site)).pasid = pasid then some (site, va, lane) else none
    | _ => none))).flatten

/-- The activations of a process that wait for a page taken up again (R576). -/
def State.resumeActivations (s : State) (pasid : Nat) : State :=
  (s.fe.ctxs.filter (fun nc => nc.2.activating && nc.2.pasid == pasid)).foldl (fun st nc => st.activate nc.1) s

/-- What the front end owes the contexts of a process once a page has been answered: doorbells to read, rings to fetch,
overrun entries, changes of PINS and fault records to write, activations (R358, R576). -/
def State.resumeFrontEnd (s : State) (pasid : Nat) : State :=
  let mine := (s.fe.ctxs.filter (fun nc => nc.2.pasid == pasid)).map (fun nc => (nc.1, NMap.keys nc.2.rings))
  (mine.foldl (fun st nr => ((nr.2.foldl (fun st r =>
    (st.resumeRing (.ring nr.1 r)).settleOverruns (.ring nr.1 r)) st).settlePins nr.1).settleFaults nr.1) s).resumeActivations pasid

/-- The faults of groups whose page request failed, in order of core and place: the first stops its tile and faults its context,
and one that is stopped with it adds 1 to MORE (R84, R108). -/
def State.failPages (s : State) (ws : List (Site × Nat × Nat)) : State :=
  ws.foldl (fun st w =>
    match s.group? w.1 with
    | none => st
    | some x =>
      let f : FaultInfo := { cls := 4, detail := 2, lane := w.2.2, addr := w.2.1, pc := x.pc }
      if x.halted then st.updGroup w.1 (fun x => { x with wait := .none, pending := some f })
      else match st.group? w.1, s.tile? w.1.core x.tile with
        | some y, _ => (st.setGroup w.1 { y with wait := .none }).raise w.1 f
        | none, some t => st.moreFault w.1.core t (s.launchTag t.launch) f x.index
        | none, none => st) s

/-- PAGE_REQUEST_RESPONSE: the host answers a page request. With success, the translation it has put in its tables is
there and the waiting accesses are retried; with failure, the waiting groups' accesses raise the memory fault, and the
front end and spindles find the page failed (R84, R256, R576). What the front end owes goes on. -/
def execPageRequestResponse (pasid va : Nat) (answer : Option Leaf) (s : State) : Host.Outcome State Fault Refusal :=
  let page := va / 4096
  if s.io.requests.contains (pasid, page) = false then okay s
  else
    let s1 : State := { s with io := { s.io with requests := s.io.requests.filter (· != (pasid, page)) } }
    let ws := s.pageWaiters pasid page
    match answer with
    | some l =>
      let s2 : State := { s1 with io := { s1.io with leaves := s1.io.leaves ++ [{ l with pasid := pasid }] } }
      okay ((ws.foldl (fun st w => st.updGroup w.1 (fun x => { x with wait := .none })) s2).resumeFrontEnd pasid)
    | none =>
      let others := s.cores.any (fun ck => ck.2.spindles.any (fun ns => ns.2.pageWait.isSome)) ||
        s.fe.ctxs.any (fun nc => nc.2.pasid == pasid)
      let s2 : State := if others then { s1 with io := { s1.io with failed := addNew (pasid, page) s1.io.failed } } else s1
      okay ((s2.failPages ws).resumeFrontEnd pasid)

end Sys2Proof.Machine
end

