-- ==== Sys2Proof/Machine/Hinge.lean ====
section
/-! DEFINITION. The host and the hinge: hinge-loss reset, epochs, kept contexts, retrains, IOMMU invalidations, and the MP
and TM registers that act (R265, R269, R278, R286, R323, R411, R414, R417 to R429, R459, R548 to R550, R559). -/

namespace Sys2Proof.Machine

/-! ### The host side goes (R421 events 1 and 2, R422, R559) -/

/-- A transaction of the host dropped: dirty data that an agent has given up for it goes to memory, and the next waiter
of its line is called (R302, R421). -/
def State.dropHostTxn (s : State) (line : Nat) (t : Txn) : State :=
  let put (st : State) (d : Option LineData) : State := match d with
    | some d => st.memAccept line ((List.range 128).map (fun i => (i, d.bytes.getD i 0))) d.poison d.tag
    | none => st
  let s1 := if t.granted then s else t.answers.foldl (fun st a => put st a.dirty) (put s t.dirty)
  s1.closeTxn line

/-- The host's caches discarded, its presence bits cleared, its requests and retry entries taken away (R421 event 2). -/
def State.dropHost (s : State) : State :=
  let mine := s.coh.txns.filter (fun t => t.2.stop == 10)
  let s1 := mine.foldl (fun st lt => st.dropHostTxn lt.1 lt.2) s
  let s2 := s1.dropRetries 10
  { s2 with coh := { s2.coh with
      caches := NMap.del 10 s2.coh.caches
      filter := s2.coh.filter.map (fun f => (f.1, f.2 &&& ~~~(BitVec.ofNat 11 (1 <<< 10)))) } }

/-- A command that a hinge-loss reset ends at once: one not started, or one that places no tiles (R421 event 3). -/
def Cmd.atReset (m : Cmd) : Cmd :=
  match m.state with
  | .ended _ _ _ _ => m
  | .fetched => { m with state := .ended 5 0 0 0 }
  | _ => if ([5, 6, 7, 8, 9, 10, 0x10, 0x11].contains m.op) = true then { m with state := .ended 5 0 0 0 } else m

/-- The commands of every ring under event 3; nothing of the front end waits at the tumblers any more, and a freeze for
a SNAPSHOT ends. -/
def State.resetCmds (s : State) : State :=
  let ring (r : Ring) : Ring := { r with cmds := r.cmds.map Cmd.atReset, reread := false, pageWait := none }
  let s1 : State := { s with
    fe := { s.fe with admin := ring s.fe.admin
                      ctxs := NMap.mapVals (fun _ (c : Ctx) => { c with rings := NMap.mapVals (fun _ r => ring r) c.rings }) s.fe.ctxs }
    waiters := s.waiters.filter (fun w => !w.src.isRing) }
  match s.fe.frozen with
  | some t0 => s1.thaw (s.nowN - t0)
  | none => s1

/-- The trigger of a hinge-loss reset: the epoch closes and the H-die goes into reset, its root ports' links into hot reset (R421
events 1 to 3). A trigger
during the sequence restarts nothing (R425). -/
def State.hingeTrigger (s : State) : State :=
  if s.hinge.quiescing ∨ s.stage ≠ .ready ∨ s.power.on = false then s
  else
    let h : Hinge := { s.hinge with
      up := false, quiescing := true, waitEpoch := false, hostInReset := true, since := s.nowN, tilesStopped := false
      hartrun := 1, hartrunHi := 0, poisonAddr := 0, poisonMore := false, poisonValid := false, aplic := [], imsic := []
      aplicRegs := [], mtimecmp := [], imsicFiles := [], harts := [], hostq := []
      rports := NMap.mapVals (fun _ _ => {}) s.hinge.rports }
    (({ s with hinge := h } : State).dropHost).resetCmds

/-- A write of HG.HOSTRST: any value but 0x4057 is dropped (R559). -/
def State.writeHostrst (s : State) (v : DWord) : RegW := if field v 15 0 = 0x4057 then .done s.hingeTrigger else .drop 4 s

/-- HG_HOSTRST: 0x4057 starts a hinge-loss reset; another value is dropped (R420, R425, R559). -/
def execHgHostrst (req : Requester) (v : DWord) (s : State) : Host.Outcome State Fault Refusal :=
  okay (s.winWrite req 0xB0010 8 (fun t => t.writeHostrst v))

/-- HINGE_LOSS_RESET: an admin request to the keeper, or an error of the H-die (R420). -/
def execHingeLossReset (cause : HingeCause) (s : State) : Host.Outcome State Fault Refusal :=
  match cause with
  | .adminRequest => okay s.hingeTrigger
  | .hdieError => okay s.hingeTrigger

/-- HINGE_ACK_TIMEOUT: stop 10 has acknowledged nothing for 100 µs (R420). -/
def execHingeAckTimeout (s : State) : Host.Outcome State Fault Refusal := okay s.hingeTrigger

/-! ### Tiles stopped (R421 event 5) -/

/-- Whether a tile runs for a context of this module. -/
def State.ownTile (s : State) (t : Tile) : Bool :=
  match s.launch? t.launch with
  | some l => l.origin.isNone
  | none => true

/-- HINGE_TILE_STOP: 1 ms after the trigger, the tiles of this module's contexts that still run are stopped, without
replay and without a fault record. -/
def execHingeTileStop (s : State) : Host.Outcome State Fault Refusal :=
  if s.hinge.quiescing = false ∨ s.hinge.tilesStopped ∨ s.nowN < s.hinge.since + 1000000 then okay s
  else
    let mine := (s.cores.map (fun ck => (ck.2.tiles.filter (fun kt => s.ownTile kt.2)).map (fun kt =>
      (ck.1, kt.1, kt.2.launch)))).flatten
    let s1 := mine.foldl (fun st t =>
      (st.stopTile t.1 t.2.1 .other).updLaunch t.2.2 (fun l => { l with hostReset := true })) s
    okay { s1 with hinge := { s1.hinge with tilesStopped := true } }

/-! ### Kept contexts (R423, R429) -/

/-- Whether `n` bytes at a virtual address of a context lie wholly in retained memory, page by page. -/
def State.keptRange (s : State) (ctx va n : Nat) : Bool :=
  (List.range ((va % 4096 + n + 4095) / 4096)).all (fun i =>
    match s.resolve ctx (if i = 0 then va else va / 4096 * 4096 + 4096 * i) .read with
    | .ok (.cache pa) => s.retained pa
    | .ok (.uncached pa) => s.retained pa
    | _ => false)

/-- Whether the front end keeps a context: every structure that R423 names lies wholly in retained regions. -/
def State.kept (s : State) (n : Nat) : Bool :=
  let c := s.ctx n
  s.retained (s.ctxAddr n) && s.keptRange n c.ringtab (64 * c.nring) &&
    c.rings.all (fun r => s.keptRange n r.2.rbase (64 * 2 ^ r.2.rlog2) && s.keptRange n r.2.dbell 128 &&
      s.keptRange n r.2.cbase (32 * 2 ^ r.2.clog2)) &&
    s.keptRange n c.htab (32 * 2 ^ c.hlog2) && s.keptRange n c.tmap 16384 && s.keptRange n c.faultrec 64 &&
    s.keptRange n c.slist 8192

/-- A context handled after the reset: kept as it is, or deactivated as by R359 (R423, R459). -/
def State.afterReset (s : State) (n : Nat) : State :=
  match (s.ctx n).state with
  | .off => s.updCtx n (fun c => { c with activating := false })
  | .invalid => (s.updCtx n (fun _ => {})).syncCtx n
  | _ =>
    if s.kept n then s
    else
      let s1 := (s.updCtx n (fun c => { c.cancelAll with leaving := true })).refuseServed n
      let s2 := (s1.dropRingWaits n).settleOff n
      if (s2.tilesOf n).isEmpty ∧ (s2.ctx n).holdsSlot s2.fe.slots n ∧ (s2.ctx n).quiet then
        let s3 := (s2.departAll n).slotTo n 0
        (s3.updCtx n (fun c => { c with slot := 0, map := [], mapRead := false, mapAsk := [] })).settleOff n
      else s2.settleOff n

/-! ### Events 6 to 8 (R411, R418, R421, R550) -/

/-- Whether a launch of this module still has a store or an atomic under way that only its own command can finish: an
atomic, a store to a span window, or a DONE launch's window stores (R386, R421). -/
def State.resetWaits (s : State) : Bool :=
  let own (k : Nat) : Bool := match s.launch? k with
    | some l => l.origin.isNone
    | none => true
  s.cores.any (fun ck => ck.2.orphans.any (fun o => own o.launch && (o.atom.isSome || (match o.store with
    | some e => isWindow e.tgt || !s.awake e.tgt
    | none => false))))

/-- The stores that stopped groups of this module's contexts left under way complete. -/
def State.settleOrphans (s : State) : State := (List.range 8).foldl (fun st d => st.finishOrphans d) s

/-- Dirty data of the closed epoch that a home holds for a transaction goes to its controller. -/
def State.settleTxn (s : State) (line : Nat) (t : Txn) (tag : Nat) : State :=
  let old (d : Option LineData) : Bool := match d with
    | some d => d.tag == tag
    | none => false
  let put (st : State) (d : Option LineData) : State := match d with
    | some d => st.memAccept line ((List.range 128).map (fun i => (i, d.bytes.getD i 0))) d.poison d.tag
    | none => st
  if t.granted then s
  else if old t.dirty ∨ t.answers.any (fun a => old a.dirty) then
    let s1 := t.answers.foldl (fun st a => if old a.dirty then put st a.dirty else st) (if old t.dirty then put s t.dirty else s)
    s1.updTxn line (fun t => { t with
      dirty := (if old t.dirty then none else t.dirty)
      answers := t.answers.map (fun a => if old a.dirty then { a with dirty := none } else a)
      memData := some (s1.memLine line) })
  else s

/-- Every LLC writes back the dirty lines of the closed epoch, and every write of that epoch is accepted or dropped
(events 6 and 8). -/
def State.settleEpoch (s : State) : State :=
  let tag := s.tagNow
  let dirty := (s.coh.caches.map (fun sc => (sc.2.filter (fun l => l.2.st == .m && l.2.tag == tag)).map (fun l =>
    (sc.1, l.1)))).flatten
  let s1 := dirty.foldl (fun st sl => (st.evictLine sl.1 sl.2).acceptSent sl.2) s
  let s2 := s1.coh.txns.foldl (fun st lt => st.settleTxn lt.1 lt.2 tag) s1
  (((s2.coh.sent.filter (fun w => w.tag == tag)).map (·.line)).eraseDups).foldl (fun st l => st.acceptSent l) s2

/-- Every command of a ring that is still fetched completes; a LAUNCH, COPY, CONVERT or FILL that is not over with
HOSTRESET (event 7). What cannot be written is dropped. -/
def State.completeAll (s : State) (id : RingId) : State :=
  match s.ring? id with
  | none => s
  | some r => r.cmds.foldl (fun st m =>
      match st.completion m with
      | some _ => st.completeCmd id m.count true
      | none =>
        let st1 := match m.launch with
          | some k => st.updLaunch k (fun l => { l with hostReset := true, out := [], winDone := [] })
          | none => st
        st1.completeCmd id m.count true) s

/-- The staged regions put in force where every group lies in one of them, no context is activated and no retention
entry is VALID; otherwise DROPPED is set (R550). With new regions every byte is undefined. -/
def State.applyRegions (s : State) : State :=
  if s.ms.arm = false then s
  else
    let once := (List.range 24).all (fun j =>
      ((List.range 16).filter (fun i => (NMap.findD 0 i s.ms.staged).getLsbD j)).length == 1)
    let idle := s.fe.ctxs.all (fun nc => nc.2.state == .off || nc.2.state == .invalid)
    let free := (List.range 16).all (fun n => !bitAt (NMap.findD 0 n s.hinge.rtBase) 0)
    if once && idle && free then
      let (n, s1) := s.draw
      { s1 with
        ms := { s1.ms with arm := false, inForce := s1.ms.staged, mem := { gen := n + 1, boot := s1.ms.mem.boot } }
        cores := NMap.mapVals (fun _ (k : Core) => { k with l1 := [], icache := [] }) s1.cores
        coh := { s1.coh with
          caches := [], sent := [], filter := [], backInv := [], atomBuf := []
          txns := NMap.mapVals (fun _ t => { t with dirty := none, memData := none
                                                    answers := t.answers.map (fun a => { a with dirty := none }) }) s1.coh.txns
          misses := s1.coh.misses.map (fun m => { m with accepted := true }) } }
    else { s with ms := { s.ms with arm := false, dropped := true } }

/-- A bank of the flash. -/
def Security.bank (x : Security) (b : Bool) : Bank := if b then x.bankB else x.bankA

/-- The object of a kind that a bank holds. -/
def Bank.obj (b : Bank) (kind : Nat) : Option FwObj := b.objs.find? (fun o => o.kind == kind)

/-- Whether a bank holds an object of a kind that is valid and not older than COUNTER (R481, R485). -/
def Security.usable (x : Security) (b : Bank) (kind : Nat) : Bool :=
  match b.obj kind with
  | some o => o.valid && decide (x.counter ≤ o.secver)
  | none => false

/-- SECVER and manifest digest of the object of a kind. -/
def Bank.secverOf (b : Bank) (kind : Nat) : BitVec 32 := ((b.obj kind).map (·.secver)).getD 0
def Bank.digestOf (b : Bank) (kind : Nat) : BitVec 384 := ((b.obj kind).map (·.digest)).getD 0

/-- Whether the booted bank holds a host boot image that may be used. -/
def State.bootImageOk (s : State) : Bool := s.sec.usable (s.sec.bank s.sec.bootedB) 4

/-- The host boot image as the memory names it: its manifest's digest in the booted bank. -/
def State.bootImage (s : State) : Nat := ((s.sec.bank s.sec.bootedB).digestOf 4).toNat + 1

/-- The keeper copies the host boot image into the host boot region; copies of its lines elsewhere are gone (R411). -/
def State.loadBoot (s : State) : State :=
  let keep (l : Nat) : Bool := !inBoot l
  let on : Granule → Bool
    | .line pa => inBoot pa
    | .raw pa => inBoot pa
    | _ => false
  { s with
    ms := { s.ms with mem := { s.ms.mem with
      boot := s.bootImage, cells := s.ms.mem.cells.filter (fun c => keep c.1), poison := s.ms.mem.poison.filter keep } }
    cores := NMap.mapVals (fun _ (k : Core) => k.loseResv on) s.cores
    coh := { s.coh with
      caches := NMap.mapVals (fun _ c => c.filter (fun l => keep l.1)) s.coh.caches
      sent := s.coh.sent.filter (fun w => keep w.line)
      misses := s.coh.misses.map (fun m => if s.coh.sent.any (fun w => inBoot w.line && w.victim == some (dieOfStop m.stop, m.line))
        then { m with accepted := true } else m)
      atomBuf := s.coh.atomBuf.filter keep
      peerResv := s.coh.peerResv.filter (fun r => !on r.2.2), holds := s.coh.holds.filter (fun g => !on g) } }

/-- A hart released from reset at its first address (R411). -/
def State.startHart (s : State) (h : Nat) : State :=
  s.updHart h (fun _ => { running := true, pc := Config.hartEntry s.ms.mem.boot h })

/-- The host boot image loaded where one may be used, and hart 0 released at its entry point (R411, R493). -/
def State.startHost (s : State) : State :=
  if s.bootImageOk then
    let s1 := s.loadBoot
    ({ s1 with sec := { s1.sec with measures := NMap.ins 4 ((s1.sec.bank s1.sec.bootedB).digestOf 4) s1.sec.measures }
               hinge := { s1.hinge with hostInReset := false } } : State).startHart 0
  else { s with hinge := { s.hinge with hostInReset := true } }

/-- HINGE_QUIESCED: tagged lines are written back, commands completed, contexts kept or deactivated, an armed interleave
applied, the boot image loaded and hart 0 released; the new epoch may be opened (R411, R421 events 6 to 8, R423,
R550). -/
def execHingeQuiesced (s : State) : Host.Outcome State Fault Refusal :=
  if s.hinge.quiescing = false ∨ s.hinge.tilesStopped = false ∨ s.resetWaits then okay s
  else
    let s1 := s.settleOrphans.settleEpoch
    let rings := (s1.fe.ctxs.map (fun nc => (NMap.keys nc.2.rings).map (fun r => RingId.ring nc.1 r))).flatten
    let s2 := (RingId.admin :: rings).foldl (fun st id => st.completeAll id) s1
    let s3 := (NMap.keys s2.fe.ctxs).foldl (fun st n => st.afterReset n) s2
    let s4 := s3.settleEpoch.applyRegions.startHost
    okay { s4 with hinge := { s4.hinge with quiescing := false, waitEpoch := true } }

/-! ### The new epoch (R424) -/

/-- A write of HG.EPOCHOPEN: while WAITEPOCH is set, the next epoch opens and the rings of the kept contexts and the
admin ring are read; at any other time nothing happens. -/
def State.writeEpochopen (s : State) (v : DWord) : RegW :=
  if s.hinge.waitEpoch ∧ bitAt v 0 then
    let s1 : State := { s with hinge := { s.hinge with epoch := s.hinge.epoch + 1, waitEpoch := false, up := true } }
    let rings := (s1.fe.ctxs.map (fun nc => (NMap.keys nc.2.rings).map (fun r => RingId.ring nc.1 r))).flatten
    .done ((RingId.admin :: rings).foldl (fun st id => if st.fetches id then st.readDoorbell id else st) s1)
  else .done s

/-- HG_EPOCHOPEN. -/
def execHgEpochopen (req : Requester) (v : DWord) (s : State) : Host.Outcome State Fault Refusal :=
  okay (s.winWrite req 0xB0018 8 (fun t => t.writeEpochopen v))

/-- Whether a hart is out of reset (R411, R559). -/
def Hinge.hartOn (h : Hinge) (n : Nat) : Bool := if n < 64 then h.hartrun.getLsbD n else h.hartrunHi.getLsbD (n - 64)

/-- The harts released: bits written 1 stay set, and a hart whose bit was 0 starts (R411, R559). -/
def State.writeHartrun (s : State) (hi : Bool) (v : DWord) : RegW :=
  let s1 : State := { s with hinge := (if hi then { s.hinge with hartrunHi := s.hinge.hartrunHi ||| v.setWidth 8 }
    else { s.hinge with hartrun := s.hinge.hartrun ||| v }) }
  .done (((List.range Config.harts).filter (fun n => s1.hinge.hartOn n && !s.hinge.hartOn n)).foldl (fun st n => st.startHart n) s1)

/-- HG_HARTRUN: HG.HARTRUN, or HG.HARTRUNHI. -/
def execHgHartrun (req : Requester) (hi : Bool) (v : DWord) (s : State) : Host.Outcome State Fault Refusal :=
  okay (s.winWrite req (if hi then 0xB0028 else 0xB0020) 8 (fun t => t.writeHartrun hi v))

/-! ### Retrains (R419) -/

/-- HINGE_RETRAIN: the hinge retrains its wires: RETRAIN is set and RETRAINS counts. -/
def execHingeRetrain (s : State) : Host.Outcome State Fault Refusal :=
  if s.hinge.retrain ∨ s.power.on = false then okay s
  else okay { s with hinge := { s.hinge with retrain := true, retrains := s.hinge.retrains.add 32 1 } }

/-- HINGE_RETRAIN_DONE: traffic resumes, and source 13 is raised. -/
def execHingeRetrainDone (s : State) : Host.Outcome State Fault Refusal :=
  if s.hinge.retrain = false then okay s
  else okay (({ s with hinge := { s.hinge with retrain := false } } : State).raiseAplic 13)

/-! ### IOMMU invalidations (R265, R278) -/

/-- The same leaf but for its A and D bits. -/
def leafSame (a b : Leaf) : Bool := { a with acc := b.acc, dirty := b.dirty } == b

/-- What the host changed in its tables before the invalidation: leaves taken away, and those of processes or of a device
made invalid, stay in the translation caches (R263, R265). -/
def Iommu.change (i : Iommu) (u : PtUpdate) : Iommu :=
  let dev := u.device.getD i.dev
  let valid := (i.valid.filter (fun p => !u.validOff.contains p) ++ u.validOn).eraseDups
  let taken (l : Leaf) : Bool := u.removed.any (fun r => leafSame r l)
  let gone := i.leaves.filter (fun l => taken l || (i.serves l.pasid && !(dev.valid && valid.contains l.pasid)))
  { i with dev := dev, valid := valid, stale := (i.stale ++ gone).eraseDups
           leaves := i.leaves.filter (fun l => !taken l) ++ u.added }

/-- Two ranges that meet; of size zero, the first is everything. -/
def meets (at1 size at2 n : Nat) : Bool := size == 0 || (decide (at1 < at2 + n) && decide (at2 < at1 + size))

/-- Whether an invalidation of a process, or of all, over a range of virtual addresses covers a leaf. -/
def covers (pasid : Option Nat) (va size : Nat) (l : Leaf) : Bool :=
  (match pasid with | none => true | some p => p == l.pasid) && meets va size l.va l.size

/-- Whether an invalidation over a range of guest-physical addresses covers a leaf (R265). -/
def coversG (gpa size : Nat) (l : Leaf) : Bool := meets gpa size l.gpa l.size

/-- The leaves that an invalidation covers: the translation caches' that the tables do not hold are on their way out. -/
def Iommu.invalidate (i : Iommu) (cov : Leaf → Bool) : Iommu :=
  { i with invalidated := (i.invalidated ++ i.stale.filter cov).eraseDups }

/-- Whether a run's backing lies under a leaf that an invalidation covers, in the tables or in a translation cache, at pages of
its own that the invalidation covers (R278). -/
def Iommu.backCovered (i : Iommu) (cov : Leaf → Bool) (pasid : Nat) (r : ShareRun) : Bool :=
  (i.leaves ++ i.stale).any (fun l =>
    let lo := Nat.max l.va r.lbase
    let hi := Nat.min (l.va + l.size) (r.lbase + r.ngran * 2 ^ 21)
    l.pasid == pasid && decide (lo < hi) &&
      cov { l with va := lo, pa := l.pa + (lo - l.va), gpa := l.gpa + (lo - l.va), size := hi - lo })

/-- The runs whose backing an invalidation covers leave residency: those whose LBASE range meets it, and those whose pages do
(R278). -/
def State.departCovered (s : State) (cov : Leaf → Bool) : State :=
  s.fe.ctxs.foldl (fun st nc => nc.2.shares.foldl (fun st r =>
    if s.io.backCovered cov nc.2.pasid r then st.departRun nc.1 r else st) st) s

/-- The root port of a number (R414). -/
def State.rport (s : State) (p : Nat) : RootPort := NMap.findD {} p s.hinge.rports

/-- A root port with `f` applied. -/
def State.updRport (s : State) (p : Nat) (f : RootPort → RootPort) : State :=
  { s with hinge := { s.hinge with rports := NMap.ins p (f (s.rport p)) s.hinge.rports } }

/-- An invalidation at the accelerator side's IOMMU, or at a root port's own, after what the host changed there: a device
context put in takes a root port's IOMMU out of its Bare mode (R265, R278, R414). -/
def State.invalidate (s : State) (port : Option Nat) (cov : Leaf → Bool) (u : PtUpdate) : State :=
  match port with
  | none => ({ s with io := (s.io.change u).invalidate cov } : State).departCovered cov
  | some p => s.updRport p (fun r => { r with io := (r.io.change u).invalidate cov, bare := r.bare && u.device.isNone })

/-- IOTINVAL_VMA: first-stage translations invalidated. -/
def execIotinvalVma (pasid : Option Nat) (va : IoAddr) (size : Nat) (upd : PtUpdate) (s : State) : Host.Outcome State Fault Refusal :=
  if s.hostRuns = false then okay s else okay (s.invalidate va.port (covers pasid va.addr size) upd)

/-- IOTINVAL_GVMA: second-stage translations of a range of guest-physical addresses invalidated, of every process. -/
def execIotinvalGvma (gpa : IoAddr) (size : Nat) (upd : PtUpdate) (s : State) : Host.Outcome State Fault Refusal :=
  if s.hostRuns = false then okay s else okay (s.invalidate gpa.port (coversG gpa.addr size) upd)

/-- The process and address of every access that has translated and not reached its endpoint. -/
def State.underWay (s : State) : List (Nat × Nat) :=
  (s.cores.map (fun ck =>
    (ck.2.groups.map (fun pg =>
      let p := (s.ctx (s.ctxOf ⟨ck.1, pg.1⟩)).pasid
      ((pg.2.loads.map (fun l => l.lanes.map (·.va))).flatten ++ pg.2.sb.map (·.va) ++
        (pg.2.atoms.filter (fun a => a.result.isNone)).map (·.va)).map (fun va => (p, va)))).flatten ++
    (ck.2.orphans.map (fun o =>
      ((o.store.map (·.va)).toList ++ (o.atom.map (·.va)).toList).map (fun va => ((s.ctx o.ctx).pasid, va)))).flatten ++
    ((ck.2.queue ++ ck.2.running).map (fun m =>
      let p := (s.ctx (s.ctxOf ⟨ck.1, m.place⟩)).pasid
      match m.instr with
      | .mload _ _ _ _ _ _ pages => pages.map (fun q => (p, q.1 * 4096))
      | .mdrain _ _ _ _ _ _ _ pages => pages.map (fun q => (p, q.1 * 4096))
      | _ => [])).flatten)).flatten

/-- The translation caches without what was invalidated (R265). -/
def Iommu.fenced (i : Iommu) : Iommu :=
  { i with stale := i.stale.filter (fun l => !i.invalidated.contains l), invalidated := [] }

/-- The root ports' IOMMUs as an IOFENCE.C finds them: the row is the accelerator side's, so which of the ports have
completed one of their own is open (R265, R414, log 49). An inbound DMA is never under way between two commands. -/
def State.portsFenced (s : State) : State :=
  let done (p : Nat × RootPort) : Nat × RootPort :=
    if Config.freeBool (s.free + p.1) then (p.1, { p.2 with io := p.2.io.fenced }) else p
  { s with free := s.free + 2, hinge := { s.hinge with rports := s.hinge.rports.map done } }

/-- IOFENCE_C: once no access that uses an invalidated translation is under way, no new one uses it (R265). -/
def execIofenceC (s : State) : Host.Outcome State Fault Refusal :=
  if s.hostRuns = false then okay s
  else if s.underWay.any (fun pv => s.io.invalidated.any (fun l =>
      l.pasid == pv.1 && decide (l.va / 4096 * 4096 ≤ pv.2) && decide (pv.2 < l.va + l.size))) then okay s
  else okay ({ s with io := s.io.fenced } : State).portsFenced

/-! ### MP and TM registers that act (R269, R286, R323, R549) -/

/-- S of a die in a value of MP.SHAREWAYS. -/
def waysOf (v : DWord) (die : Nat) : Nat := v.toNat / 2 ^ (4 * die) % 16

/-- Whether a share is resident on a die. -/
def State.shareOn (s : State) (die : Nat) : Bool := s.granulesTaken.any (fun g => g / 4096 == die)

/-- The LLC of a die loses the ways that the pool takes: their lines leave, and no fill waits for one. -/
def State.setWays (s : State) (die n : Nat) : State :=
  let stop := stopOfDie die
  let gone := (s.cacheOf stop).filter (fun l => decide (16 - n ≤ l.2.way) && !l.2.transient)
  let s1 := gone.foldl (fun st l => (st.evictLine stop l.1).acceptSent l.1) s
  let far (st w : Nat) : Nat := if st = stop ∧ 16 - n ≤ w then 16 else w
  { s1 with
    ms := { s1.ms with shareways := NMap.put 0 die n s1.ms.shareways }
    coh := { s1.coh with txns := NMap.mapVals (fun _ t => { t with way := far t.stop t.way }) s1.coh.txns
                         retries := s1.coh.retries.map (fun r => { r with way := far r.stop r.way })
                         misses := s1.coh.misses.map (fun m => { m with way := far m.stop m.way }) } }

/-- A write of MP.SHAREWAYS (R549). -/
def State.writeShareways (s : State) (v : DWord) : RegW :=
  if (List.range 8).any (fun d => waysOf v d == 15) then .drop 4 s
  else if (List.range 8).any (fun d => waysOf v d != NMap.findD 0 d s.ms.shareways && s.shareOn d) then .drop 5 s
  else .done ((List.range 8).foldl (fun st d =>
    if waysOf v d = NMap.findD 0 d st.ms.shareways then st else st.setWays d (waysOf v d)) s)

/-- MP_SHAREWAYS. -/
def execMpShareways (req : Requester) (v : DWord) (s : State) : Host.Outcome State Fault Refusal :=
  okay (s.winWrite req 0x30000 8 (fun t => t.writeShareways v))

/-- A write of MP.HOSTPLAN: a plan whose VALID is clear is refused (R286, R549). -/
def State.writeHostplan (s : State) (v : DWord) : RegW :=
  if (s.plan (field v 5 0)).valid then .done { s with ms := { s.ms with hostplan := field v 5 0 } } else .drop 4 s

/-- MP_HOSTPLAN. -/
def execMpHostplan (req : Requester) (v : DWord) (s : State) : Host.Outcome State Fault Refusal :=
  okay (s.winWrite req 0x30008 8 (fun t => t.writeHostplan v))

/-- RESET of a global tumbler: COUNT, OWNER and WARD written, S, U and M cleared; a pending arm that the new count
reaches fires, and so does every wait (R323, R331). -/
def State.tumReset (s : State) (n : Nat) (v : DWord) : State :=
  let t := s.tum n
  let t1 : Tumbler := { t with count := field v 31 0, s := false, u := false, m := false, owner := field v 45 32, ward := field v 55 46 }
  (s.setTum n t1).settleTum n (t.armed && t.armNext && decide (t.armV ≤ t1.count))

/-- TM_RESET. -/
def execTmReset (req : Requester) (v : DWord) (s : State) : Host.Outcome State Fault Refusal :=
  okay (s.winWrite req 0x40018 8 (fun t => .done (t.tumReset t.ms.tmSel v)))

end Sys2Proof.Machine
end

