-- ==== Sys2Proof/Machine/Bringup.lean ====
section
/-! DEFINITION. Bring-up and resets: cold starts, the boot of the mask ROM and the keeper, power down, the control port,
and signed objects (R411, R479 to R487, R490, R511, R523 to R534, R563). -/

namespace Sys2Proof.Machine

/-! ### What a cold reset keeps (R529, R531) -/

/-- The part of the security state that flash and PUF hold. -/
def Security.flash (x : Security) : Security :=
  { ident := x.ident, bankA := x.bankA, bankB := x.bankB, counter := x.counter, counterOk := x.counterOk
    nonces := x.nonces }

/-- The module after its rails have gone down and come up: everything at its reset value but flash, cables, straps and
what the wires outside hold. -/
def State.cold (s : State) : State :=
  { State.reset with
    pending := s.pending, free := s.free, outbox := s.outbox
    sec := s.sec.flash
    ports := NMap.mapVals (fun _ (p : Port) => { seated := p.seated }) s.ports
    pins := { perst := s.pins.perst, i3cStatic := s.pins.i3cStatic, i3cAddr := s.pins.i3cStatic, ibi := s.pins.ibi
              alert := s.power.tripLatch }
    power := { swarn := s.power.swarn, tripLatch := s.power.tripLatch, tripBefore := s.power.tripBefore, pwrEn := s.power.pwrEn } }

/-- The rails down (R529). -/
def State.railsDown (s : State) : State :=
  let c := s.cold
  { c with power := { c.power with on := false } }

/-- A cold reset: the rails go down and R523 runs from event 1, to the release of B0 (R530, R532). -/
def State.coldReset (s : State) : State := if s.power.on then s.cold else s

/-- A cold start; a trip that took the rails down is a trip before this boot (R523, R570, R571). -/
def State.coldStart (s : State) : State :=
  let c := s.cold
  let t := s.power.tripLatch
  let c1 : State := { c with power := { c.power with on := true, pwrEn := true, tripLatch := false, tripBefore := t } }
  { c1 with pins := { c1.pins with alert := t } }

/-- PWR_EN_RISE: a cold start, 100 ms after the last fall at the earliest (R523, R563). -/
def execPwrEnRise (s : State) : Host.Outcome State Fault Refusal :=
  if s.power.pwrEn ∧ (s.power.on ∨ s.power.tripLatch) then okay s
  else if s.power.sinceFall < 100000000 then okay { s with power := { s.power with riseOwed := true } }
  else okay s.coldStart

/-- A rise that came within 100 ms of the fall takes effect when they are over (R563). -/
def State.settleRise (s : State) : State :=
  if s.power.riseOwed ∧ 100000000 ≤ s.power.sinceFall then s.coldStart else s

/-- POWER_DOWN: PWR_EN falls, or the 54 V input is lost: every rail goes down and nothing is written back first (R529,
R563). -/
def execPowerDown (s : State) : Host.Outcome State Fault Refusal :=
  let d := s.railsDown
  okay { d with power := { d.power with pwrEn := false, sinceFall := 0 } }

/-- A write of SC.COLDRST: any value but 0xC01D is dropped (R555). -/
def State.writeColdrst (s : State) (v : DWord) : RegW := if field v 15 0 = 0xC01D then .done s.coldReset else .drop 4 s

/-- SC_COLDRST: 0xC01D starts a cold reset; another value is dropped (R530, R555). -/
def execScColdrst (req : Requester) (v : DWord) (s : State) : Host.Outcome State Fault Refusal :=
  okay (s.winWrite req 0x70030 8 (fun t => t.writeColdrst v))

/-- WATCHDOG_EXPIRY: the keeper's firmware has not refreshed its watchdog for 100 ms (R530). -/
def execWatchdogExpiry (s : State) : Host.Outcome State Fault Refusal := okay s.coldReset

/-! ### Boot (R484 to R487, R490, R534) -/

/-- The newer of two bank sequence numbers or record copies, under half-range comparison (R444, R490, R533). -/
def Bank.newerThan (a b : Bank) : Bool := newer a.seq b.seq

/-- The mask ROM's choice of the first bank: a trial bank with tries left, its TRIES counted; otherwise the newer of the
committed ones, a trial bank given up (R534). True is bank B. -/
def Security.firstBank (x : Security) : Bool × Security :=
  let trial (b : Bank) : Bool := b.state == 1
  let go (b : Bank) : Bool := trial b && decide (b.tries < 3)
  if go x.bankA then (false, { x with bankA := { x.bankA with tries := x.bankA.tries + 1 } })
  else if go x.bankB then (true, { x with bankB := { x.bankB with tries := x.bankB.tries + 1 } })
  else
    let a : Bank := if trial x.bankA then { x.bankA with state := 0 } else x.bankA
    let b : Bank := if trial x.bankB then { x.bankB with state := 0 } else x.bankB
    let second : Bool := b.state == 2 && (a.state != 2 || b.newerThan a)
    (second, { x with bankA := a, bankB := b })

/-- The copy of the configuration record that a boot from a bank uses: the valid one with the newer SEQ (R490). -/
def Bank.cfg? (b : Bank) : Option CfgRecord :=
  (b.cfgs.filter (·.valid)).foldl (fun o r => match o with
    | some q => if newer r.seq q.seq then some r else some q
    | none => some r) none

/-- The steps of R486 on a bank: none where all succeed, otherwise the cause of R487; a front-end or PHY image that fails
has no cause of its own (log 38). -/
def Security.bankFails (x : Security) (b : Bank) (free : Nat) : Option Nat :=
  if x.counterOk = false then some 5
  else if b.ident = false then some 1
  else if x.ident.keysMatch = false then some 2
  else match b.obj 1 with
    | none => some 3
    | some o =>
      if o.valid = false then some 3
      else if o.secver < x.counter then some 4
      else if b.cfg?.isNone then some 6
      else if x.usable b 2 && x.usable b 3 then none
      else some (Config.freeNat free % 16)

/-- What runs and has been measured after a boot from a bank (R486, R490, R493). -/
def Security.bootFrom (x : Security) (second : Bool) : Security :=
  let b := x.bank second
  let r := b.cfg?.getD {}
  { x with booted := true, bootedB := second, fromBuffer := false, bootCause := 0, cfg := r, unrecorded := []
           fwKeeper := b.secverOf 1, fwFront := b.secverOf 2
           measures := [(1, b.digestOf 1), (2, b.digestOf 2), (3, b.digestOf 3), (5, Config.cfgDigest r.seq.toNat)] }

/-- KEEPER_START: the mask ROM tries the banks; the keeper of the first that passes starts, its images and records
verified, and the control port becomes configuration-ready. Where both fail the module waits for a recovery image
(R486, R487, R523 events 4 and 5). -/
def execKeeperStart (s : State) : Host.Outcome State Fault Refusal :=
  if s.power.on = false ∨ s.stage ≠ .rom then okay s
  else
    let (first, x) := s.sec.firstBank
    let s0 : State := { s with free := s.free + 3, pins := { s.pins with cpReady := true } }
    match x.bankFails (x.bank first) s.free, x.bankFails (x.bank (!first)) (s.free + 1) with
    | none, _ => okay { s0 with stage := .keeper, sec := x.bootFrom first }
    | some _, none => okay { s0 with stage := .keeper, sec := x.bootFrom (!first) }
    | some a, some b =>
      let old := s.alertBits
      let cause := if Config.freeBool (s.free + 2) then a else b
      okay (({ s0 with stage := .failed, sec := { x with booted := false, bootCause := cause } } : State).driveAlert old)

/-! ### Ready (R411, R511, R523 event 9) -/

/-- The trace reserve as the keeper sets it: any 4 KiB-aligned range of LPDDR5X (R511, log 39). -/
def State.traceReserve (s : State) : State :=
  let cap := (s.lpEnd - Config.lpBase) / 4096
  let b := Config.freeNat s.free % cap
  let n := Config.freeNat (s.free + 1) % (cap - b + 1)
  { s with free := s.free + 2, dbg := { s.dbg with trbase := Config.lpBase + 4096 * b, trsize := 4096 * n } }

/-- MEMINIT_DONE: memory is initialised and the host released; the stage reads READY. -/
def execMeminitDone (s : State) : Host.Outcome State Fault Refusal :=
  if s.power.on = false ∨ ¬ (s.stage = .keeper ∨ s.stage = .training ∨ s.stage = .meminit) then okay s
  else okay ({ s.traceReserve with stage := .ready } : State).startHost

/-- ID.STAGE as it is read: between the keeper's start and READY the module passes through three stages, and how far it
has come is open (R524). -/
def State.seeStage (s : State) : State :=
  let (i, s1) := s.draw
  match s.stage with
  | .keeper => { s1 with stage := if Config.freeNat i % 3 = 0 then .keeper else if Config.freeNat i % 3 = 1 then .training else .meminit }
  | .training => { s1 with stage := if Config.freeNat i % 2 = 0 then .training else .meminit }
  | _ => s

/-- The value of a stage (R524). -/
def Stage.code : Stage → Nat
  | .rom => 0 | .keeper => 1 | .training => 2 | .meminit => 3 | .ready => 4 | .failed => 5

/-! ### The control port (R525, R530) -/

/-- CONTROL_PORT_RESET: the endpoint's configuration space, BAR and link are reset, messages in flight discarded; with
PERST_N low it stays in reset. -/
def execControlPortReset (cause : CpCause) (s : State) : Host.Outcome State Fault Refusal :=
  let s1 : State := { s with pins := { s.pins with cpTrained := false, cpRetry := false, cpIn := [], cpOut := [] }, sec := { s.sec with resp := .none } }
  match cause with
  | .perst => okay { s1 with pins := { s1.pins with perst := true } }
  | .hotReset => okay s1
  | .linkDown => okay s1
  | .flr => okay s1

/-- PERST_N_RELEASE: the endpoint leaves reset and trains its link. -/
def execPerstNRelease (s : State) : Host.Outcome State Fault Refusal :=
  okay { s with pins := { s.pins with perst := false, cpTrained := s.power.on } }

/-- CONFIG_REQUEST: answered with Request Retry Status before the port is configuration-ready. -/
def execConfigRequest (s : State) : Host.Outcome State Fault Refusal :=
  if s.power.on = false ∨ s.pins.perst then okay s
  else okay { s with pins := { s.pins with cpRetry := !s.pins.cpReady } }

/-! ### Signed objects (R479 to R482, R485) -/

/-- `n` bytes from offset `o` of an object that `rd` reads. -/
def objBytes (rd : Nat → Byte) (o n : Nat) : List Byte := (List.range n).map (fun i => rd (o + i))

/-- A number of `n` bytes of a manifest. -/
def objNat (rd : Nat → Byte) (o n : Nat) : Nat := bytesNat (objBytes rd o n)

/-- Fields of a manifest (R479). -/
def objKind (rd : Nat → Byte) : Nat := objNat rd 0 1
def objSecver (rd : Nat → Byte) : Nat := objNat rd 4 4
def objBodylen (rd : Nat → Byte) : Nat := objNat rd 8 8
def objDigest (rd : Nat → Byte) : BitVec 384 := BitVec.ofNat 384 (objNat rd 32 48)

/-- A digest as the number its bytes spell, first byte lowest. -/
def sha384Of (bs : List Byte) : BitVec 384 := Config.sha384 bs

/-- Whether an object is valid for a signer's key hash (R481). -/
def objValid (rd : Nat → Byte) (keyHash : BitVec 384) : Bool :=
  let msg := objBytes rd 0 2064
  Config.ed25519 (objBytes rd 80 32) msg (objBytes rd 2064 64) &&
    Config.mldsa65 (objBytes rd 112 1952) msg (objBytes rd 2128 3309) &&
    decide (objBodylen rd ≤ 251650048) && objDigest rd == sha384Of (objBytes rd 8192 (objBodylen rd)) &&
    sha384Of (objBytes rd 80 1984) == keyHash

/-- Whether a root-signed object is valid: under the root key set that its KEYSET names (R480, R485). -/
def rootValid (rd : Nat → Byte) : Bool := objValid rd (Config.rootKeyHash (objSecver rd / 2 ^ 30))

/-- SHA-384 of an object's manifest (R493). -/
def manifestDigest (rd : Nat → Byte) : BitVec 384 := sha384Of (objBytes rd 0 8192)

/-! ### Recovery (R487, R539) -/

/-- A byte of the recovery buffer. -/
def State.recoveryByte (s : State) (a : Nat) : Byte := NMap.findD 0 a s.sec.recovery

/-- A write of SC.BOOTSTAT: LEN is taken; GO verifies the keeper image in the recovery buffer and runs it. -/
def State.writeBootstat (s : State) (v : DWord) : RegW :=
  let s1 : State := { s with sec := { s.sec with bootLen := (v >>> 32).setWidth 32 } }
  if bitAt v 4 = false ∨ s.stage ≠ .failed then .done s1
  else
    let rd := s1.recoveryByte
    let whole := decide (8192 + objBodylen rd ≤ s1.sec.bootLen.toNat) && decide (s1.sec.bootLen.toNat ≤ 2 ^ 28)
    if objKind rd ≠ 1 ∨ whole = false ∨ rootValid rd = false then .done { s1 with sec := { s1.sec with bootCause := 3 } }
    else if objSecver rd < s1.sec.counter.toNat then .done { s1 with sec := { s1.sec with bootCause := 4 } }
    else
      let old := s1.alertBits
      let b := s1.sec.bankA
      let r := (b.cfg?.orElse (fun _ => s1.sec.bankB.cfg?)).getD {}
      let x : Security := { s1.sec with
        booted := true, fromBuffer := true, bootCause := 0, cfg := r, unrecorded := []
        fwKeeper := BitVec.ofNat 32 (objSecver rd), fwFront := b.secverOf 2
        measures := [(1, manifestDigest rd), (2, b.digestOf 2), (3, b.digestOf 3), (5, Config.cfgDigest r.seq.toNat)] }
      .done (({ s1 with stage := .keeper, sec := x } : State).driveAlert old)

/-- SC_BOOTSTAT_GO. -/
def execScBootstatGo (req : Requester) (v : DWord) (s : State) : Host.Outcome State Fault Refusal :=
  okay (s.winWrite req 0x70008 8 (fun t => t.writeBootstat v))

end Sys2Proof.Machine
end

