-- ==== Sys2Proof/Machine/Debugger.lean ====
section
/-! DEFINITION. The debugger: halting, resuming and stepping groups, halt on fault, the items of a halted group,
breakpoint and watchpoint registers, and the trace registers (R500 to R513, R556, R557). -/

namespace Sys2Proof.Machine

/-! ### Status bits (R500, R507) -/

/-- DB.STATUS.DENIED, NOTHALTED or BADSEL set. -/
def State.setDenied (s : State) : State := { s with dbg := { s.dbg with denied := true } }
def State.setNotHalted (s : State) : State := { s with dbg := { s.dbg with nothalted := true } }
def State.setBadsel (s : State) : State := { s with dbg := { s.dbg with badsel := true } }

/-- The group that DB.GCTL selects. -/
def State.selected (s : State) : Site := ⟨s.dbg.selCore, s.dbg.selPlace⟩

/-! ### Halt, resume, step (R501 to R506) -/

/-- The groups that an operation of DB.GCTL acts on: the selected one, or with TILE all of its tile on that core. -/
def State.gctlGroups (s : State) (g : Site) (tile : Bool) : List Site :=
  match s.group? g with
  | none => []
  | some x => if tile then ((s.core g.core).groupsOf x.tile).map (fun pg => ⟨g.core, pg.1⟩) else [g]

/-- A halt asked for: a group halts where it stands, waiting or at its next instruction boundary, once its matrix
instructions in flight are done; a group that is merging or testing a tumbler halts as that ends (R70, R502). -/
def State.askHalt (s : State) (g : Site) : State :=
  match s.group? g with
  | none => s
  | some x =>
    if x.halted then s
    else match x.wait with
      | .merging _ _ => s.updGroup g (fun x => { x with haltReq := some ⟨1, 0, 0, 0, x.pc.toNat⟩ })
      | .ttest _ _ _ _ _ => s.updGroup g (fun x => { x with haltReq := some ⟨1, 0, 0, 0, x.pc.toNat⟩ })
      | _ => s.halt g 1 0 0 0 x.pc.toNat

/-- A tile's budget advances again once none of its groups is halted (R503). -/
def State.budgetOn (s : State) (core key : Nat) : State :=
  if ((s.core core).groupsOf key).any (fun pg => pg.2.halted) then s
  else s.updTile core key (fun t => match t.haltedAt with
    | some h => { t with paused := t.paused + (s.nowN - h), haltedAt := none }
    | none => t)

/-- A halted group goes on, for one instruction where it is stepped: it pops its stack before the next fetch (R60), and
one that was parked completes REPACK as a no-op, unless the debugger has written its PC (R67). A pending fault proceeds,
unless the debugger has written the PC since the halt (R504, R505). -/
def State.resume (s : State) (g : Site) (step : Bool) : State :=
  match s.group? g with
  | none => s
  | some x =>
    if x.halted = false then s
    else
      let y : Group := { x with halted := false, stepping := step, pending := none, repackHeld := false
                                pcWritten := x.pcWritten && x.wait != .none }
      let s1 := (s.setGroup g (if x.wait = .none then y.popAll 33 else y)).budgetOn g.core x.tile
      match x.pending with
      | some f => if x.pcWritten then s1 else s1.takeFault g.core x.tile f x.index
      | none => if x.repackHeld && !x.pcWritten then s1.complete g none else s1

/-- A write of DB.GCTL: the selector is taken, and OP acts where a token grants the right for the group's ward. -/
def State.writeGctl (s : State) (v : DWord) : RegW :=
  let s0 : State := { s with dbg := { s.dbg with selCore := field v 9 0, selPlace := field v 15 10 } }
  let op := field v 17 16
  let g := s0.selected
  if op = 0 then .done s0
  else if (s0.group? g).isNone then .done (if s0.someRight 0 then s0 else s0.setDenied)
  else if s0.hasRight 0 (s0.wardOf g) = false then .done s0.setDenied
  else
    let gs := s0.gctlGroups g (bitAt v 18)
    .done (gs.foldl (fun st h => if op = 1 then st.askHalt h else st.resume h (op == 3)) s0)

/-- DB_GCTL_HALT. -/
def execDbGctlHalt (req : Requester) (v : DWord) (s : State) : Host.Outcome State Fault Refusal :=
  okay (s.winWrite req 0x80008 8 (fun t => t.writeGctl v))

/-- DB_GCTL_RESUME. -/
def execDbGctlResume (req : Requester) (v : DWord) (s : State) : Host.Outcome State Fault Refusal :=
  okay (s.winWrite req 0x80008 8 (fun t => t.writeGctl v))

/-- DB_GCTL_STEP. -/
def execDbGctlStep (req : Requester) (v : DWord) (s : State) : Host.Outcome State Fault Refusal :=
  okay (s.winWrite req 0x80008 8 (fun t => t.writeGctl v))

/-- DB.GSTAT: whether a group holds the selected place, halted or stepping, its context and ward (R501, R556). -/
def State.gstat (s : State) : DWord :=
  match s.group? s.selected with
  | none => 0
  | some x => BitVec.ofNat 64 (1 + 2 * b2n x.halted + 4 * b2n x.stepping + s.ctxOf s.selected * 2 ^ 16 +
      s.wardOf s.selected * 2 ^ 30)

/-! ### Halt on fault (R505) -/

/-- A write of DB.HOFSET or DB.HOFCLR. -/
def State.writeHof (s : State) (v : DWord) (on : Bool) : RegW :=
  let w := field v 9 0
  if s.hasRight 0 w = false then .done s.setDenied
  else .done { s with dbg := { s.dbg with hof := if on then addNew w s.dbg.hof else s.dbg.hof.filter (· != w) } }

/-- DB_HOFSET. -/
def execDbHofset (req : Requester) (v : DWord) (s : State) : Host.Outcome State Fault Refusal :=
  okay (s.winWrite req 0x80018 8 (fun t => t.writeHof v true))

/-- DB_HOFCLR. -/
def execDbHofclr (req : Requester) (v : DWord) (s : State) : Host.Outcome State Fault Refusal :=
  okay (s.winWrite req 0x80020 8 (fun t => t.writeHof v false))

/-! ### The items of a halted group (R507) -/

/-- The fields of DB.RSEL. -/
def selSpace (r : DWord) : Nat := field r 3 0
def selIndex (r : DWord) : Nat := field r 11 4
def selLane (r : DWord) : Nat := field r 16 12
def selCell (r : DWord) : Nat := field r 26 17
def selAcc (r : DWord) : Nat := field r 28 27
def selWord (r : DWord) : Nat := field r 31 29

/-- An address that may be absent, all ones where it is. -/
def orOnes (x : Option DWord) : Nat := (x.getD (BitVec.allOnes 64)).toNat

/-- The control items of a group. -/
def Group.control (x : Group) (i : Nat) : Option Nat :=
  match i with
  | 0 => some x.pc.toNat
  | 1 => some x.active.toNat
  | 2 => some x.threads.toNat
  | 3 => some x.stack.length
  | 4 => some x.fflags.toNat
  | 5 => some x.frm.toNat
  | 6 => some x.index
  | 7 => some (match x.pending with
    | some f => f.cls % 2 ^ 8 + f.detail % 2 ^ 8 * 2 ^ 8 + f.lane % 2 ^ 5 * 2 ^ 16
    | none => 0)
  | 8 => some (orOnes x.crpc)
  | _ => none

/-- The predicates of a lane, p0 to p7. -/
def Group.predByte (x : Group) (lane : Nat) : Nat := ((List.range 8).map (fun n => b2n ((x.rp n).getLsbD lane) * 2 ^ n)).sum

/-- A word of an entry of the reconvergence stack, counted from the bottom. -/
def Group.stackWord (x : Group) (i w : Nat) : Option Nat :=
  match x.stack.reverse[i]? with
  | none => none
  | some e => match w with
    | 0 => some e.pc.toNat
    | 1 => some (orOnes e.rpc)
    | 2 => some e.mask.toNat
    | _ => none

/-- The bits of a wide word (R182). -/
def wideBits (w : WideWord) : Nat :=
  w.x.toNat + b2n w.sticky * 2 ^ 320 + b2n w.pinf * 2 ^ 321 + b2n w.ninf * 2 ^ 322 + b2n w.qnan * 2 ^ 323 +
    b2n w.inv * 2 ^ 324

/-- The bits of a set state (R183). -/
def AccSet.bits (a : AccSet) : Nat :=
  (a.anchor % 2 ^ 16).toNat + b2n a.valid * 2 ^ 16 + b2n a.unset * 2 ^ 17 + b2n a.fast * 2 ^ 18 +
    a.raises % 2 ^ 16 * 2 ^ 32 + b2n a.raisesat * 2 ^ 48

/-- Whether a group's matrix region is open. -/
def State.inRegion (s : State) (g : Site) : Bool :=
  match (s.core g.core).region with
  | some r => r.place == g.place
  | none => false

/-- The item that DB.RSEL selects of a group, none where SPACE is reserved or the item is out of range. -/
def State.item (s : State) (g : Site) (x : Group) (r : DWord) : Option Nat :=
  let i := selIndex r
  match selSpace r with
  | 0 => if i < x.alloc then some (x.rt (selLane r) i).toNat else none
  | 1 => if i < 64 then some (x.ru i).toNat else none
  | 2 => some (x.predByte (selLane r))
  | 3 => x.control i
  | 4 => x.stackWord i (selWord r)
  | 5 =>
    match s.tile? g.core x.tile with
    | some t => if i < 48 then
        let l := NMap.findD {} i t.lt
        some (l.count + b2n l.s * 2 ^ 32 + b2n l.u * 2 ^ 33) else none
    | none => none
  | 6 =>
    let a := NMap.findD {} (selAcc r) (s.core g.core).acc
    if s.inRegion g ∧ selWord r < 6 then
      some (wideBits (NMap.findD {} (selCell r) a.words) / 2 ^ (64 * selWord r) % 2 ^ 64) else none
  | 7 => if s.inRegion g then some (NMap.findD {} (selAcc r) (s.core g.core).acc).bits else none
  | _ => none

/-- A group with the predicates of a lane replaced. -/
def Group.putPreds (x : Group) (lane v : Nat) : Group :=
  (List.range 8).foldl (fun y n => y.wp n (maskOf [lane]) (if v.testBit n then maskOf [lane] else 0)) x

/-- A group with a writable item replaced; the others are left. -/
def Group.putItem (x : Group) (r v : DWord) : Group :=
  let i := selIndex r
  match selSpace r with
  | 0 => x.wt (selLane r) i (v.setWidth 32)
  | 1 => x.wu i v
  | 2 => x.putPreds (selLane r) v.toNat
  | 3 =>
    match i with
    | 0 => { x with pc := v, pcWritten := true }
    | 4 => { x with fflags := v.setWidth 5 }
    | 5 => { x with frm := v.setWidth 2 }
    | _ => x
  | _ => x

/-- The halted group that an access of DB.RDATA reaches, or the status bit that the access sets. -/
def State.rdataGroup (s : State) : Except State Group :=
  match s.group? s.selected with
  | none => .error (if s.someRight 0 then s.setNotHalted else s.setDenied)
  | some x =>
    if s.hasRight 0 (s.wardOf s.selected) = false then .error s.setDenied
    else if x.halted = false then .error s.setNotHalted
    else .ok x

/-- A read of DB.RDATA. -/
def State.readRdata (s : State) : DWord × State :=
  match s.rdataGroup with
  | .error t => (0, t)
  | .ok x => match s.item s.selected x s.dbg.rsel with
    | some v => (BitVec.ofNat 64 v, s)
    | none => (0, s.setBadsel)

/-- A write of DB.RDATA: an item that is not writable stays, and a PC that is not aligned is refused. -/
def State.writeRdata (s : State) (v : DWord) : RegW :=
  match s.rdataGroup with
  | .error t => .done t
  | .ok x =>
    let r := s.dbg.rsel
    if (s.item s.selected x r).isNone then .done s.setBadsel
    else if selSpace r = 3 ∧ selIndex r = 0 ∧ field v 2 0 ≠ 0 then .drop 4 s
    else .done (s.setGroup s.selected (x.putItem r v))

/-- DB_RDATA: a read, or a write of a value. -/
def execDbRdata (req : Requester) (wr : Option DWord) (s : State) : Host.Outcome State Fault Refusal :=
  match wr with
  | none => okay (s.winRead req 0x80030 8 State.readRdata)
  | some v => okay (s.winWrite req 0x80030 8 (fun t => t.writeRdata v))

/-! ### Breakpoints and watchpoints (R508) -/

/-- The cores whose registers DB.CSEL makes a write reach. -/
def State.cselCores (s : State) : List Nat :=
  if s.dbg.csel = 0x3FF then List.range 768 else if s.dbg.csel < 768 then [s.dbg.csel] else []

/-- Breakpoint or watchpoint `n` of a core. -/
def Core.bpoint (k : Core) (watch : Bool) (n : Nat) : Breakpoint := NMap.findD {} n (if watch then k.wps else k.bps)

/-- The core with one of them replaced. -/
def Core.setBpoint (k : Core) (watch : Bool) (n : Nat) (b : Breakpoint) : Core :=
  if watch then { k with wps := NMap.put {} n b k.wps } else { k with bps := NMap.put {} n b k.bps }

/-- Whether a token grants the debugger an enabled breakpoint or watchpoint's ward; one that is not enabled concerns no
ward, and some token's right will do (log 6). -/
def State.mayBreak (s : State) (ctl : DWord) : Bool := if bitAt ctl 0 then s.hasRight 0 (field ctl 10 1) else s.someRight 0

/-- The bits of an address and of a control register that are not reserved. -/
def bpAddrMask (watch : Bool) : DWord := if watch then BitVec.allOnes 64 else 0x01FFFFFFFFFFFFF8
def bpCtlMask (watch : Bool) : DWord := if watch then 0xFFFFF else 0x7FF

/-- A write of DB.BPA, DB.BPC, DB.WPA or DB.WPC on the selected cores, where the rights cover the old and the new
ward. -/
def State.writeBp (s : State) (watch ctl : Bool) (n : Nat) (v : DWord) : RegW :=
  let new (b : Breakpoint) : Breakpoint :=
    if ctl then { b with ctl := v &&& bpCtlMask watch } else { b with addr := v &&& bpAddrMask watch }
  let ok := s.cselCores.all (fun c =>
    let b := (s.core c).bpoint watch n
    s.mayBreak b.ctl && s.mayBreak (new b).ctl)
  if ok then .done (s.cselCores.foldl (fun st c => st.updCore c (fun k => k.setBpoint watch n (new (k.bpoint watch n)))) s)
  else .done s.setDenied

/-- A read of one of them on the selected core; with every core selected it reads zero. -/
def State.readBp (s : State) (watch ctl : Bool) (n : Nat) : DWord :=
  if s.dbg.csel < 768 then
    let b := (s.core s.dbg.csel).bpoint watch n
    if ctl then b.ctl else b.addr
  else 0

/-! ### Trace (R511 to R513, R557, R575) -/

/-- A write of DB.TRWARD. -/
def State.writeTrward (s : State) (v : DWord) : RegW :=
  let w := field v 9 0
  if s.hasRight 1 w = false then .drop 5 s.setDenied
  else .done { s with dbg := { s.dbg with
    wards := if bitAt v 10 then addNew w s.dbg.wards else s.dbg.wards.filter (· != w) } }

/-- DB_TRWARD. -/
def execDbTrward (req : Requester) (v : DWord) (s : State) : Host.Outcome State Fault Refusal :=
  okay (s.winWrite req 0x80058 8 (fun t => t.writeTrward v))

/-- The open block closed, its header written once more (R512). -/
def State.traceClose (s : State) : State :=
  if s.dbg.blockOpen then
    let s1 := s.cohWrite 0 (s.traceBlock s.dbg.block) s.traceHeader
    { s1 with dbg := { s1.dbg with blockOpen := false } }
  else s

/-- A write of DB.TRCTL: tracing starts at the first block of the reserve, or stops. -/
def State.writeTrctl (s : State) (v : DWord) : RegW :=
  let modes (st : State) : State := { st with dbg := { st.dbg with wrap := bitAt v 1, sample := bitAt v 2 } }
  if bitAt v 0 then
    if s.dbg.tren then .done (modes s)
    else if s.dbg.trbase = 0 ∨ s.dbg.trsize = 0 then .drop 5 s
    else
      let d : Debug := { s.dbg with tren := true, full := false, blockOpen := false, block := 0, nrec := 0, bseq := 0, lost := {} }
      .done (modes { s with dbg := d })
  else
    let s1 := if s.dbg.tren then s.traceClose else s
    .done (modes { s1 with dbg := { s1.dbg with tren := false } })

/-- DB_TRCTL. -/
def execDbTrctl (req : Requester) (v : DWord) (s : State) : Host.Outcome State Fault Refusal :=
  okay (s.winWrite req 0x80050 8 (fun t => t.writeTrctl v))

end Sys2Proof.Machine
end

