-- ==== Sys2Proof/Machine/Sfu.lean ====
section
/-! DEFINITION. The functions of the special-function pipe (R91): fixed-point evaluation far below an ulp, and the
result a free pattern within the accuracy bound (log 21). -/

namespace Sys2Proof.Machine

/-- The integer square root, found from bit `n` down. -/
def isqrtFrom (v : Nat) : Nat → Nat → Nat
  | 0, r => r
  | n + 1, r => if (r + 2 ^ n) * (r + 2 ^ n) ≤ v then isqrtFrom v n (r + 2 ^ n) else isqrtFrom v n r

/-- A dyadic magnitude m × 2^q. -/
structure Mag where
  m : Nat
  q : Int
  deriving DecidableEq, Repr, Inhabited

/-- The square root to far below an ulp: the low bit stands for a nonzero remainder. -/
def sqrtMag (a : Mag) : Mag :=
  let k : Nat := if a.q % 2 = 0 then 128 else 129
  let v := a.m * 2 ^ k
  let r := isqrtFrom v 160 0
  { m := 2 * r + (if r * r = v then 0 else 1), q := (a.q - k) / 2 - 1 }

/-- The reciprocal to far below an ulp: the low bit stands for a nonzero remainder. -/
def recipMag (a : Mag) : Mag :=
  let r := 2 ^ 256 / a.m
  { m := 2 * r + (if r * a.m = 2 ^ 256 then 0 else 1), q := -a.q - 257 }

/-- ln 2 and π in units of 2^−128. -/
def ln2Fix : Nat := 0xb17217f7d1cf79abc9e3b39803f2f6af
def piFix : Nat := 0x3243f6a8885a308d313198a2e03707344

/-- The sum of t^k / k! from a term on, all in units of 2^−128. -/
def expSeries (t : Nat) : Nat → Nat → Nat → Nat
  | 0, _, _ => 0
  | n + 1, k, term => term + expSeries t n (k + 1) (term * t / ((k + 1) * 2 ^ 128))

/-- 2^x of a signed value; the exponent is held within the range where the result over- or underflows. -/
def exp2Mag (neg : Bool) (a : Mag) : Mag :=
  let big := decide ((Nat.log2 a.m : Int) + a.q > 8)
  let x : Int := if big then (if neg then -400 else 400) * 2 ^ 128
    else (if neg then -1 else 1) * ((unitsOf a.m a.q (-128)).1 : Int)
  let i := x / 2 ^ 128
  let f := (x % 2 ^ 128).toNat
  { m := expSeries (f * ln2Fix / 2 ^ 128) 40 0 (2 ^ 128), q := i - 128 }

/-- Bits of the base-2 logarithm of y in [1, 2), y in units of 2^−160: the next `n` fraction bits after `acc`. -/
def log2Bits : Nat → Nat → Nat → Nat
  | 0, _, acc => acc
  | n + 1, y, acc =>
    let z := y * y / 2 ^ 160
    if z ≥ 2 ^ 161 then log2Bits n (z / 2) (2 * acc + 1) else log2Bits n z (2 * acc)

/-- The base-2 logarithm in units of 2^−96. -/
def log2Fix (a : Mag) : Int :=
  let l := Nat.log2 a.m
  let y := if l ≤ 160 then a.m * 2 ^ (160 - l) else a.m / 2 ^ (l - 160)
  ((l : Int) + a.q) * 2 ^ 96 + log2Bits 96 y 0

/-- The alternating sum of r^k / k! over every second k, all in units of 2^−128. -/
def trigSeries (r : Nat) : Nat → Nat → Int → Int
  | 0, _, _ => 0
  | n + 1, k, term => term - trigSeries r n (k + 2) (term * r / 2 ^ 128 * r / (2 ^ 128 * ((k + 1) * (k + 2) : Nat)))

/-- Sine or cosine of a signed value of at most 2^20, in units of 2^−128. -/
def trigFix (cosine neg : Bool) (a : Mag) : Int :=
  let r := (unitsOf a.m a.q (-128)).1 % (2 * piFix)
  if cosine then trigSeries r 40 0 (2 ^ 128)
  else (if neg then -1 else 1) * trigSeries r 40 1 r

/-- A signed fixed-point number as sign and magnitude. -/
def fixMag (v : Int) (q : Int) : Bool × Mag := (decide (v < 0), { m := v.natAbs, q := q })

/-- Whether an FP32 pattern lies within `k` × 2^b of a signed magnitude, a thousandth of the bound left out. -/
def within (pat : Nat) (neg : Bool) (a : Mag) (k : Nat) (b : Int) : Bool :=
  match fmtF32.decode pat with
  | .fin n m q =>
    let u := min (min q a.q) b
    decide ((inUnits n m q u - inUnits neg a.m a.q u).natAbs * 1024 ≤ (inUnits false k b u).natAbs * 1023)
  | _ => false

/-- The result of a function whose value is about ± a: the free pattern where the bound of `k` × 2^b allows it,
otherwise the rounded value. `exact` says that ± a is the value itself (R89, R91, R92). -/
def sfuResult (code : Nat) (inp : Word) (rm : Rm) (ftz : Bool) (neg : Bool) (a : Mag) (exact : Bool) (k : Nat)
    (b : Int) : Nat × FFlags :=
  let r := fmtF32.round rm false false neg a.m a.q
  let pat := (Config.sfuPattern code inp 0).toNat
  let ok := (r.2 &&& FFlags.of == 0) && within pat neg a k b
  let bits := if ok then pat else r.1
  if r.2 &&& FFlags.of != 0 then r
  else
    match fmtF32.decode bits with
    | .fin n m q =>
      let same := exact && within bits neg a 0 0
      let tiny := fmtF32.tiny m q || (m == 0 && !same)
      let fl := if same then 0 else FFlags.nx ||| (if tiny then FFlags.uf else 0)
      if ftz && fmtF32.tiny m q then (fmtF32.signed n 0, FFlags.uf ||| FFlags.nx) else (bits, fl)
    | _ => r

/-- The exponent of an ulp of FP32 at a magnitude. -/
def ulpExp (a : Mag) : Int := if a.m = 0 then -149 else max ((Nat.log2 a.m : Int) + a.q - 23) (-149)

/-- A result under .ftz: a subnormal one becomes a zero of its sign, with UF and NX (R89). -/
def ftzOut (ftz : Bool) (r : Nat × FFlags) : Nat × FFlags :=
  match fmtF32.decode r.1 with
  | .fin n m q => if ftz && fmtF32.tiny m q then (fmtF32.signed n 0, r.2 ||| FFlags.uf ||| FFlags.nx) else r
  | _ => r

/-- The result where the manual states none: a free pattern and free flags, a NaN made canonical, a subnormal one
replaced under .ftz (R89, R90, log 21). -/
def sfuOpen (code : Nat) (ftz : Bool) (inp : Word) : Nat × FFlags :=
  let pat := (Config.sfuPattern code inp 1).toNat
  ftzOut ftz (match fmtF32.decode pat with | .nan _ => fmtF32.canonNan | _ => pat, Config.sfuFlags code inp 1)

/-- Sine or cosine of a value beyond 2^20, an infinity among them: a free pattern in [−1, 1] with NX (R89, R91). -/
def trigFar (code : Nat) (ftz : Bool) (inp : Word) : Nat × FFlags :=
  let pat := (Config.sfuPattern code inp 2).toNat
  ftzOut ftz (pat / 2 ^ 31 % 2 * 2 ^ 31 + pat % 2 ^ 31 % 0x3F800001, FFlags.nx)

/-- The functions of an infinity: sine and cosine lie in [−1, 1], the square root of +∞ is +∞ (R91); the manual states no
other. -/
def sfuInf (code : Nat) (ftz neg : Bool) (inp : Word) : Nat × FFlags :=
  if 5 ≤ code then trigFar code ftz inp
  else if code = 2 ∧ neg = false then (fmtF32.infBits false, 0)
  else sfuOpen code ftz inp

/-- Whether a magnitude is a power of two. -/
def isPow2 (m : Nat) : Bool := m != 0 && 2 ^ Nat.log2 m == m

/-- FSFU of one lane: reciprocal, reciprocal square root, square root, exp2, log2, sine, cosine by code (R91, R126). -/
def sfu (code : Nat) (rm : Rm) (ftz : Bool) (inp : Word) : Nat × FFlags :=
  match fmtF32.flushIn ftz (fmtF32.decode inp.toNat) with
  | .nan s => fmtF32.nanOf s
  | .inf neg => sfuInf code ftz neg inp
  | .fin neg m q =>
    let a : Mag := { m := m, q := q }
    match code with
    | 0 =>
      if m = 0 then sfuOpen code ftz inp
      else
        let r := recipMag a
        sfuResult code inp rm ftz neg r (isPow2 m) 1 (ulpExp r)
    | 1 =>
      if m = 0 ∨ neg then sfuOpen code ftz inp
      else
        let r := recipMag (sqrtMag a)
        sfuResult code inp rm ftz false r (isPow2 m && ((Nat.log2 m : Int) + q) % 2 == 0) 1 (ulpExp r)
    | 2 =>
      if m = 0 then (fmtF32.signed neg 0, 0)
      else if neg then sfuOpen code ftz inp
      else
        let r := sqrtMag a
        fmtF32.round rm ftz false false r.m r.q
    | 3 =>
      let r := exp2Mag neg a
      sfuResult code inp rm ftz false r (decide (m = 0) || (unitsOf m q 0).2.1 == 0) 2 (ulpExp r)
    | 4 =>
      if m = 0 ∨ neg then sfuOpen code ftz inp
      else
        let (n, r) := fixMag (log2Fix a) (-96)
        sfuResult code inp rm ftz n r (isPow2 m) 2 (ulpExp r)
    | _ =>
      if decide (m ≠ 0) && (decide ((Nat.log2 m : Int) + q > 20) ||
          (decide ((Nat.log2 m : Int) + q = 20) && !isPow2 m)) then
        trigFar code ftz inp
      else
        let (n, r) := fixMag (trigFix (code == 6) neg a) (-128)
        sfuResult code inp rm ftz n r (decide (m = 0)) 1 (-21)

end Sys2Proof.Machine
end

