-- ==== Sys2Proof/Machine/Floating.lean ====
section
/-! DEFINITION. Floating and conversion instructions (R87 to R95, R122 to R127). -/

namespace Sys2Proof.Machine

/-- Decoding of a floating register form with `n` sources, which rounds and flushes or not: RM and FTZ are zero where it
does not use them (R122 to R126, R142). -/
def fltDec (types subs : List Nat) (n : Nat) (toPred : Bool) (e : Enc) (rounds : Bool := true) (flushes : Bool := true) :
    Dec :=
  let wide := e.type == 6
  { ops := [(if toPred then .p else regKind wide, e.d), (srcKind e.ka wide, e.a),
            (if 2 ≤ n then srcKind e.kb wide else .none, e.b), (if 3 ≤ n then srcKind e.kc wide else .none, e.c)]
    rsv := !types.contains e.type.toNat || !subs.contains e.sub || bitAt e.mods 3 || decide (e.rm > 4) ||
      (!rounds && e.rm != 0) || (!flushes && e.ftz) ||
      field e.mods 11 8 != 0 || (decide (n < 2) && e.kb) || (decide (n < 3) && e.kc) }

/-- The format of a floating instruction's TYPE: FP64 or FP32. -/
def fltFmt (e : Enc) : Fmt := if e.type = 6 then fmtF64 else fmtF32

/-- A source's bits in a lane. -/
def Group.fsrc (x : Group) (e : Enc) (k : Bool) (n lane : Nat) : Nat :=
  if e.type = 6 then (x.src2 k n lane).toNat else (x.src k n lane).toNat

/-- The OR of flags over lanes. -/
def orFlags (f : Nat → FFlags) (ls : List Nat) : FFlags := ls.foldl (fun a l => a ||| f l) 0

/-- A floating result written in the lanes of the guard, its flags ORed into sr.fflags (R92). -/
def Group.outF (x : Group) (e : Enc) (lanes : LaneMask) (f : Nat → Nat × FFlags) : Group :=
  let ls := lanesOf lanes
  let y := if e.type = 6 then x.wts2 e.d (fun l => BitVec.ofNat 64 (f l).1) ls
    else x.wts e.d (fun l => BitVec.ofNat 32 (f l).1) ls
  y.raiseFlags (orFlags (fun l => (f l).2) ls)

/-- A two-source floating operation, which uses RM and FTZ or not. -/
def State.flt2 (s : State) (g : Site) (e : Enc) (f : Fmt → Rm → Bool → Nat → Nat → Nat × FFlags) (rounds : Bool := true)
    (flushes : Bool := true) : State :=
  s.issueReg g e (fun _ _ => fltDec [6, 7] [0] 2 false e rounds flushes) (fun x lanes =>
    x.outF e lanes (fun l => f (fltFmt e) (x.rmOf e.rm) e.ftz (x.fsrc e e.ka e.a l) (x.fsrc e e.kb e.b l)))

/-- A one-source operation on the sign bit alone, which sets no flag (R87). -/
def State.flt1 (s : State) (g : Site) (e : Enc) (f : Fmt → Nat → Nat) : State :=
  s.issueReg g e (fun _ _ => fltDec [6, 7] [0] 1 false e false false) (fun x lanes =>
    x.outF e lanes (fun l => (f (fltFmt e) (x.fsrc e e.ka e.a l), 0)))

/-- FADD (R87). -/
def execFadd (site : Site) (e : Enc) (s : State) : Host.Outcome State Fault Refusal := okay (s.flt2 site e Fmt.add)

/-- FSUB (R87). -/
def execFsub (site : Site) (e : Enc) (s : State) : Host.Outcome State Fault Refusal := okay (s.flt2 site e Fmt.sub)

/-- FMUL (R87). -/
def execFmul (site : Site) (e : Enc) (s : State) : Host.Outcome State Fault Refusal := okay (s.flt2 site e Fmt.mul)

/-- FMA (R87). -/
def execFma (site : Site) (e : Enc) (s : State) : Host.Outcome State Fault Refusal :=
  okay (s.issueReg site e (fun _ _ => fltDec [6, 7] [0] 3 false e) (fun x lanes =>
    x.outF e lanes (fun l => (fltFmt e).fma (x.rmOf e.rm) e.ftz (x.fsrc e e.ka e.a l) (x.fsrc e e.kb e.b l)
      (x.fsrc e e.kc e.c l))))

/-- FMIN, minimumNumber (R87, R121). -/
def execFmin (site : Site) (e : Enc) (s : State) : Host.Outcome State Fault Refusal :=
  okay (s.flt2 site e (fun f _ ftz a b => f.minmax true ftz a b) false)

/-- FMAX, maximumNumber (R87, R121). -/
def execFmax (site : Site) (e : Enc) (s : State) : Host.Outcome State Fault Refusal :=
  okay (s.flt2 site e (fun f _ ftz a b => f.minmax false ftz a b) false)

/-- FCMP (R125). -/
def execFcmp (site : Site) (e : Enc) (s : State) : Host.Outcome State Fault Refusal :=
  okay (s.issueReg site e (fun _ _ => fltDec [6, 7] [0, 1, 2, 3, 4, 5, 6, 7] 2 true e false) (fun x lanes =>
    let r := fun l => (fltFmt e).cmp e.sub e.ftz (x.fsrc e e.ka e.a l) (x.fsrc e e.kb e.b l)
    (x.outP e lanes (fun l => (r l).1)).raiseFlags (orFlags (fun l => (r l).2) (lanesOf lanes))))

/-- The sign bit of a format. -/
def Fmt.signBit (f : Fmt) : Nat := 2 ^ (f.width - 1)

/-- FABS (R87). -/
def execFabs (site : Site) (e : Enc) (s : State) : Host.Outcome State Fault Refusal :=
  okay (s.flt1 site e (fun f a => a % f.signBit))

/-- FNEG (R87). -/
def execFneg (site : Site) (e : Enc) (s : State) : Host.Outcome State Fault Refusal :=
  okay (s.flt1 site e (fun f a => a ^^^ f.signBit))

/-- FCPYS: the magnitude of A with the sign of B (R87). -/
def execFcpys (site : Site) (e : Enc) (s : State) : Host.Outcome State Fault Refusal :=
  okay (s.flt2 site e (fun f _ _ a b => (a % f.signBit + b / f.signBit % 2 * f.signBit, 0)) false false)

/-- FSFU (R91, R126). -/
def execFsfu (site : Site) (e : Enc) (s : State) : Host.Outcome State Fault Refusal :=
  okay (s.issueReg site e (fun _ _ => fltDec [7] [0, 1, 2, 3, 4, 5, 6] 1 false e) (fun x lanes =>
    x.outF e lanes (fun l => sfu e.sub (x.rmOf e.rm) e.ftz (x.srcA e l))))

/-! ### CVT (R94, R95, R127) -/

/-- Elements a narrow format has in 32 bits; 1 for a side of 32 or 64 bits. -/
def elemsOf (type : Nat) : Nat := 32 / Nat.min 32 (typeBits type)

/-- Whether a TYPE code is a 64-bit format. -/
def type64 (type : Nat) : Bool := typeBits type == 64

/-- Decoding of CVT. -/
def cvtDec (e : Enc) : Dec :=
  let dst := e.type.toNat
  let bad := fun t => t == 4 || t == 5 || t == 15
  { ops := [(regKind (type64 dst), e.d), (srcKind e.ka (type64 e.sub), e.a), (.none, e.b), (.none, e.c)]
    rsv := bad dst || bad e.sub || e.sub == dst || bitAt e.mods 3 || decide (e.rm > 4) || e.kb || e.kc ||
      decide (e.part ≥ Nat.max (elemsOf dst) (elemsOf e.sub)) }

/-- Element `i` of a 32-bit word, of `w` bits. -/
def elemGet (w i v : Nat) : Nat := v / 2 ^ (w * i) % 2 ^ w

/-- A 32-bit word with element `i` replaced. -/
def elemPut (w i v x : Nat) : Nat := v - elemGet w i v * 2 ^ (w * i) + x % 2 ^ w * 2 ^ (w * i)

/-- CVT of one lane: the destination's bits and the flags. `old` is what the destination register holds. -/
def cvtLane (e : Enc) (rm : Rm) (src old : Nat) : Nat × FFlags :=
  let st := e.sub
  let dt := e.type.toNat
  let a := if elemsOf st = 1 then src else elemGet (typeBits st) (e.part % elemsOf st) src
  let r := convertBits st dt rm e.ftz e.sat a
  if elemsOf dt = 1 then r else (elemPut (typeBits dt) (e.part % elemsOf dt) old r.1, r.2)

/-- CVT (R94, R95, R127). -/
def execCvt (site : Site) (e : Enc) (s : State) : Host.Outcome State Fault Refusal :=
  okay (s.issueReg site e (fun _ _ => cvtDec e) (fun x lanes =>
    let ls := lanesOf lanes
    let r := fun l =>
      cvtLane e (x.rmOf e.rm) (if type64 e.sub then (x.src2 e.ka e.a l).toNat else (x.srcA e l).toNat)
        (x.rt l e.d).toNat
    let y := if type64 e.type.toNat then x.wts2 e.d (fun l => BitVec.ofNat 64 (r l).1) ls
      else x.wts e.d (fun l => BitVec.ofNat 32 (r l).1) ls
    y.raiseFlags (orFlags (fun l => (r l).2) ls)))

end Sys2Proof.Machine
end

