-- ==== Sys2Proof/Machine/HomeAtomic.lean ====
section
/-! DEFINITION. Atomic requests at their endpoint: the home's atomic unit and its buffer, the controllers, and the response
to the group (R97, R275, R282, R294, R300 to R304, R314). -/

namespace Sys2Proof.Machine

/-! ### At the endpoint (R275, R294, R303) -/

/-- A line put in its home's atomic buffer of 64 lines, most recently used last (R303). -/
def State.bufferLine (s : State) (line : Nat) : State :=
  let home := s.homeOf line
  let kept := s.coh.atomBuf.filter (· != line)
  let mine := kept.filter (fun l => s.homeOf l == home)
  let kept := if mine.length ≥ 64 then kept.filter (· != mine.headD 0) else kept
  { s with coh := { s.coh with atomBuf := kept ++ [line] } }

/-- Whether a line's home can take a request now: no transaction is open for the line and no refused request waits for it
(R300, R302). -/
def State.lineFree (s : State) (line : Nat) : Bool :=
  !NMap.has line s.coh.txns && !(s.coh.retries.any (fun r => r.line == line))

/-- Whether the place that holds an LR's reservation on a granule delays its answer to other requests (R314). -/
def State.heldBack (s : State) (t : Target) : Bool :=
  s.coh.holds.contains (granuleOf t) || (match t with
    | .cache pa => (s.holders (lineOf pa)).any (fun h => h.2.hold)
    | _ => false)

/-- The presence bits of a region's stops that hold no line of it cleared (R298). -/
def State.clearEmpty (s : State) (line : Nat) : State :=
  let reg := s.regionOfLine line
  { s with coh := { s.coh with filter := s.coh.filter.map (fun f =>
      if f.1 = reg then (f.1, (List.range 11).foldl (fun b i =>
        if (s.cacheOf i).any (fun l => s.regionOfLine l.1 == reg) then b else b &&& ~~~(BitVec.ofNat 11 (1 <<< i))) f.2)
      else f) } }

/-- What executing a request answers: the state, the old value of each lane, and whether the data was poisoned. -/
abbrev AtomDone := State × List (Nat × DWord) × Bool

/-- A request read, combined and written at its endpoint; nothing is written where the data is poisoned or `dry` says so
(R102, R282, log 22). No target of an atomic is a window or a device here. -/
def State.runAtom (s : State) (nonce : Nat) (op : AtomOp) (width : Nat) (signed : Bool) (tag : Nat) (t : Target)
    (lanes : List (Nat × DWord × DWord)) (dry : Bool) : AtomDone :=
  let run (bs : List Byte) := atomRun op width signed (bytesNat bs) lanes
  match t with
  | .cache pa =>
    let s1 := s.flushLine (lineOf pa)
    if dry || s1.ms.mem.poison.contains (lineOf pa) then
      (s1.bufferLine (lineOf pa), [], s1.ms.mem.poison.contains (lineOf pa))
    else
      let r := run (s1.ms.mem.readN pa width)
      ((s1.cohWrite tag pa (natBytes width r.1)).bufferLine (lineOf pa), r.2, false)
  | .uncached pa =>
    if dry || s.ms.mem.poison.contains (lineOf pa) then (s, [], s.ms.mem.poison.contains (lineOf pa))
    else
      let r := run (s.ms.mem.readN pa width)
      (s.targetWrite t tag (natBytes width r.1), r.2, false)
  | .share die a _ =>
    if dry || s.sramBad die a then (s, [], s.sramBad die a)
    else
      let r := run (s.scratchView nonce t (s.sramReadN die a width))
      ((s.targetWrite t tag (natBytes width r.1)).killResv (fun _ => true) (granuleOf t), r.2, false)
  | _ => (s, [], false)

/-- A request executed in one step for an agent that holds it in a buffer of its own until its endpoint can take it: a peer
through Amixis, or the host (R301, R320, R452; log 137). None while the endpoint cannot. -/
def State.doAtom (s : State) (nonce : Nat) (op : AtomOp) (width : Nat) (signed : Bool) (tag : Nat) (t : Target)
    (lanes : List (Nat × DWord × DWord)) : Option AtomDone :=
  if s.awake t = false ∨ s.heldBack t then none
  else match t with
  | .cache pa =>
    if s.lineFree (lineOf pa) = false ∨ s.domain (s.memDomain pa) ≠ .idle then none
    else some ((s.clearEmpty (lineOf pa)).runAtom nonce op width signed tag t lanes false)
  | .uncached _ => some (s.runAtom nonce op width signed tag t lanes false)
  | .share _ _ _ => some (s.runAtom nonce op width signed tag t lanes false)
  | _ => none

/-- The next event of a core's request at its endpoint: the state, the request's ticket, and what it answers once it
has executed. A cacheable line in the home's atomic buffer is there for it; otherwise the home opens a transaction with its
own atomic unit as requester, or refuses the request with a retry entry, and the request executes when every marked stop has
answered and the data is there (R300 to R303). -/
def State.atomTurn (s : State) (stop nonce : Nat) (op : AtomOp) (r : AtomReq) (dry : Bool) : State × Nat × Option AtomDone :=
  let run (st : State) : AtomDone := st.runAtom nonce op r.width r.signed r.tag r.tgt r.lanes dry
  match r.tgt with
  | .cache pa =>
    let line := lineOf pa
    if s.domain (s.memDomain pa) ≠ .idle then (s, r.asked, none)
    else if r.asked = 0 then
      if s.coh.atomBuf.contains line && s.lineFree line then (s, 0, some (run s))
      else if s.outstanding stop ≥ 256 then (s, 0, none)
      else
        let n := s.coh.ticket + 1
        (({ s with coh := { s.coh with ticket := n } } : State).homeRequest stop line .own 16 n, n, none)
    else match NMap.find line s.coh.txns with
      | some t =>
        if t.ticket = r.asked ∧ t.toSnoop.isEmpty ∧ t.toAnswer.isEmpty ∧ (t.dirty.isSome ∨ t.memData.isSome) then
          let d := run s
          (s, r.asked, some (d.1.closeTxn line, d.2))
        else (s, r.asked, none)
      | none => (s, r.asked, none)
  | .uncached _ => (s, 0, if s.awake r.tgt = false ∨ s.heldBack r.tgt then none else some (run s))
  | .share _ _ _ => (s, 0, if s.awake r.tgt = false ∨ s.heldBack r.tgt then none else some (run s))
  | _ => (s, 0, none)

/-- Whether the data of a request are poisoned, as far as this module can see. -/
def State.atomBad (s : State) (r : AtomReq) : Bool :=
  r.poison || (r.result.isNone && (match s.targetRead r.tgt 1 with
    | some (_, p) => p
    | none => false))

/-- HOME_ATOMIC: the next event of request `idx` of a group at its endpoint; a place of 48 or more names an orphan of the
core, to which nothing returns. Where an address of the atomic holds poisoned data, none of its requests writes any more
(R102, log 22). -/
def execHomeAtomic (site : Site) (idx : Nat) (s : State) : Host.Outcome State Fault Refusal :=
  let stop := stopOfDie (dieOfCore site.core)
  match s.group? site with
  | some x =>
    match x.atoms[idx]? with
    | some r =>
      match r.op, r.result with
      | some op, none =>
        let marked := x.atoms.map (fun q => { q with poison := s.atomBad q })
        let dry := marked.any (·.poison)
        match s.atomTurn stop (s.nonceOf site.core x) op r dry with
        | (_, _, some (s1, vals, bad)) => okay (s1.updGroup site (fun y => { y with
            atoms := modAt (fun q => { q with result := some vals, poison := q.poison || bad }) idx marked }))
        | (s1, n, none) => okay (s1.updGroup site (fun y => { y with
            atoms := modAt (fun q => { q with asked := n }) idx y.atoms }))
      | _, _ => okay s
    | none => okay s
  | none =>
    if site.place < 48 then okay s
    else match (s.core site.core).orphans[idx]? with
      | some { atom := some r, .. } =>
        match r.op with
        | some op =>
          match s.atomTurn stop 0 op r false with
          | (_, _, some (s1, _, _)) => okay (s1.updCore site.core (fun k => { k with orphans := dropAt idx k.orphans }))
          | (s1, n, none) => okay (s1.updCore site.core (fun k => { k with
              orphans := modAt (fun o => { o with atom := some { r with asked := n } }) idx k.orphans }))
        | none => okay s
      | _ => okay s

/-! ### The response (R304) -/

/-- The register or predicate that a request's results are written into. -/
def Group.writeAtom (x : Group) (r : AtomReq) : Group :=
  match r.op, r.result with
  | some _, some vals =>
    vals.foldl (fun y lv => if r.width = 8 then y.wt2 lv.1 r.dst lv.2 else y.wt lv.1 r.dst (lv.2.setWidth 32)) x
  | none, some vals =>
    vals.foldl (fun y lv => y.wp r.dst (maskOf [lv.1]) (if lv.2 = 0 then 0 else BitVec.allOnes 32)) x
  | _, none => x

/-- ATOMIC_RESPONSE: with every request of the group's atomic answered, the old values return to its lanes; poisoned
data raises the precise memory fault, the group found as it was at the atomic (R102, R282, R304, R317). -/
def execAtomicResponse (site : Site) (s : State) : Host.Outcome State Fault Refusal :=
  match s.group? site with
  | none => okay s
  | some x =>
    if x.atoms.isEmpty || x.atoms.any (fun r => r.result.isNone) then okay s
    else
      match x.atoms.filter (fun r => r.poison) with
      | [] => okay (s.setGroup site { x.atoms.foldl Group.writeAtom x with atoms := [], snaps := [] })
      | r0 :: bad =>
        let lane (r : AtomReq) : Nat := (r.lanes.map (·.1)).headD 0
        let low := bad.foldl (fun m r => if lane r < m.1 then (lane r, r.va) else m) (lane r0, r0.va)
        okay ((s.backTo site x r0.order).raise site
          { cls := 4, detail := 6, lane := low.1, addr := low.2, pc := r0.pc })

end Sys2Proof.Machine
end

