-- ==== Sys2Proof/Machine/Power.lean ====
section
/-! DEFINITION. Power: domains and wakes, the cap and VCOMP, supply excursions, temperatures and trips, and management
over I3C (R34 to R37, R465 to R478, R548, R566 to R571). -/

namespace Sys2Proof.Machine

/-! ### Domains (R465 to R470) -/

/-- How deep a state is: its code in R466. -/
def DomState.code : DomState → Nat
  | .idle => 0 | .clamped => 1 | .logicOff => 2 | .off => 3

/-- Wake time of a state in µs (R466). -/
def DomState.wakeUs : DomState → Nat
  | .idle => 0 | .clamped => 5 | .logicOff => 40 | .off => 2000

/-- The states a domain may take, the deepest first (R465). -/
def domStates (d : Nat) : List DomState :=
  if d < 24 then [.off, .logicOff, .clamped, .idle]
  else if d = 26 ∨ d = 28 then [.logicOff, .clamped, .idle]
  else if d = 27 ∨ d = 29 then [.clamped, .idle]
  else [.idle]

/-- The die of a C-die half or an SRAM stack. -/
def domDie (d : Nat) : Nat := if d < 16 then d / 2 else d - 16

/-- Whether a context is mapped to every C-die (R468). -/
def State.wantsCores (s : State) (n : Nat) : Bool :=
  let c := s.ctx n
  c.state == .loading || c.state == .resident || (c.state == .idle && s.hasTileCommand n)

/-- Whether a context is activated (R357). -/
def Ctx.activated (c : Ctx) : Bool := c.state != .off && c.state != .invalid

/-- The wake tolerances in µs of the parties mapped to a domain (R468). -/
def State.tolerances (s : State) (d : Nat) : List Nat :=
  let all := s.fe.ctxs.filter (fun nc => nc.2.activated)
  if d < 24 then (all.filter (fun nc => s.wantsCores nc.1)).map (·.2.waketol)
  else if d = 26 ∨ d = 28 then s.power.hosttol :: all.map (·.2.waketol)
  else []

/-- The deepest state a domain may take whose wake time no mapped party's tolerance falls short of; off on a fenced die
(R468). -/
def State.domTarget (s : State) (d : Nat) : DomState :=
  if d < 24 ∧ s.fenced (domDie d) then .off
  else
    let fits (x : DomState) : Bool := (s.tolerances d).all (fun t => decide (x.wakeUs ≤ t))
    ((domStates d).find? fits).getD .idle

/-- The cores of a C-die half with a tile (R465, R467). -/
def State.halfBusy (s : State) (d : Nat) : Bool :=
  s.cores.any (fun ck => s.halfOf ck.1 == d && !ck.2.tiles.isEmpty)

/-- Whether an access to the granules of a die is under way. -/
def State.sramBusy (s : State) (die : Nat) : Bool :=
  let on : Target → Bool
    | .share d _ _ => d == die
    | _ => false
  s.cores.any (fun ck =>
    ck.2.groups.any (fun pg => pg.2.loads.any (fun l => l.lanes.any (fun a => on a.tgt)) || pg.2.sb.any (fun e => on e.tgt) ||
      pg.2.atoms.any (fun a => on a.tgt)) ||
    ck.2.orphans.any (fun o => (match o.store with | some e => on e.tgt | none => false) ||
      (match o.atom with | some a => on a.tgt | none => false)) ||
    (ck.2.queue ++ ck.2.running).any (fun m => match m.instr with
      | .mload _ _ _ _ _ _ pages => pages.any (fun q => on q.2)
      | .mdrain _ _ _ _ _ _ _ pages => pages.any (fun q => on q.2)
      | _ => false))

/-- Whether a request is under way at the homes of a stop's die, or one of the die's stores still wants its LLC. -/
def State.llcBusy (s : State) (die : Nat) : Bool :=
  let stop := stopOfDie die
  s.coh.txns.any (fun t => t.2.stop == stop || t.2.toAnswer.contains stop) || s.coh.retries.any (fun r => r.stop == stop) ||
    s.coh.misses.any (fun m => m.stop == stop) ||
    s.cores.any (fun ck => dieOfCore ck.1 == die && (!ck.2.tiles.isEmpty || ck.2.orphans.any (fun o => match o.store with
      | some e => e.tgt.cacheLine.isSome
      | none => false)))

/-- Whether a request is under way at a controller of a memory domain. -/
def State.memBusy (s : State) (d : Nat) : Bool :=
  s.coh.txns.any (fun t => s.memDomain t.1 == d) || s.coh.retries.any (fun r => s.memDomain r.line == d) ||
    s.coh.misses.any (fun m => s.memDomain m.line == d) || s.coh.sent.any (fun w => s.memDomain w.line == d) ||
    s.coh.backInv.any (fun b => (if b.region / 2 ^ 40 < 12 then 26 else 28) == d)

/-- The condition under which a domain leaves handshake idle, or goes deeper, for a state (R467). -/
def State.mayEnter (s : State) (d : Nat) (x : DomState) : Bool :=
  if d < 16 then !s.halfBusy d
  else if d < 24 then
    let die := d - 16
    decide (x.code ≤ (s.domain (2 * die)).code) && decide (x.code ≤ (s.domain (2 * die + 1)).code) &&
      !s.sramBusy die && !s.llcBusy die
  else if d = 26 ∨ d = 28 then !s.memBusy d && !s.span.en
  else !s.span.en

/-- A domain in a state. -/
def State.setDomain (s : State) (d : Nat) (x : DomState) : State :=
  { s with power := { s.power with domains := NMap.put .idle d x s.power.domains, waking := s.power.waking.filter (· != d) } }

/-- DOMAIN_ENTRY: the conditions have held for 10 µs, and the domain enters the state its tolerance allows; an SRAM
stack's LLC is written back and emptied first. A domain deeper than its tolerance allows is woken. No entry starts
during an excursion (R467, R468, R475). -/
def execDomainEntry (domain : Nat) (s : State) : Host.Outcome State Fault Refusal :=
  let x := s.domTarget domain
  let now := s.domain domain
  if s.power.on = false ∨ s.stage ≠ .ready ∨ domain ≥ 32 ∨ s.power.waking.contains domain then okay s
  else if x.code < now.code then okay (s.wake domain)
  else if x.code = now.code ∨ s.power.exc ∨ s.mayEnter domain x = false then okay s
  else
    let s1 := if 16 ≤ domain ∧ domain < 24 ∧ now = .idle then s.flushLLC (stopOfDie (domain - 16)) else s
    okay (s1.setDomain domain x)

/-- The caches of the cores of a half that has lost its logic emptied (R466, R470). -/
def State.wakeHalf (s : State) (d : Nat) : State :=
  { s with cores := NMap.mapVals (fun c (k : Core) =>
      if s.halfOf c = d then { k with l1 := [], icache := [], lastWard := none, lastLaunch := none } else k) s.cores }

/-- The granules of a stack that wakes from off: copied again from their backing, or zeroed (R470). -/
def State.wakeStack (s : State) (die : Nat) : State :=
  s.fe.ctxs.foldl (fun st nc => nc.2.shares.foldl (fun st r => r.placed.foldl (fun st ig =>
    if ig.2 / 4096 = die then st.fillGranule r ig.1 ig.2 else st) st) st) s

/-- WAKE_COMPLETE: a domain that a requester waits for is in handshake idle; what its state did not keep is restored as
R470 says. An access under way asks for memory and SRAM stacks by itself. -/
def execWakeComplete (domain : Nat) (s : State) : Host.Outcome State Fault Refusal :=
  let now := s.domain domain
  if s.power.on = false ∨ now = .idle ∨ (domain < 24 ∧ s.fenced (domDie domain)) ∨
      (domain < 16 ∧ s.power.waking.contains domain = false) then okay s
  else
    let s1 := s.setDomain domain .idle
    if domain < 16 then okay (if now = .clamped then s1 else s1.wakeHalf domain)
    else if domain < 24 then okay (if now = .off then s1.wakeStack (domain - 16) else s1)
    else okay s1

/-! ### The cap and VCOMP (R471 to R473, R570) -/

/-- A write of PW.CTL: out-of-range values are refused. -/
def State.writePwCtl (s : State) (v : DWord) : RegW :=
  let cap := field v 11 0
  let vset := field v 21 16
  if cap < 1000 ∨ 2800 < cap ∨ 60 < vset then .drop 4 s
  else .done { s with power := { s.power with cap := cap, op := (v >>> 12).setWidth 2, vset := vset, hosttol := field v 55 32 } }

/-- PW_CTL. -/
def execPwCtl (req : Requester) (v : DWord) (s : State) : Host.Outcome State Fault Refusal :=
  okay (s.winWrite req 0x60000 8 (fun t => t.writePwCtl v))

/-- The setpoint that PW.CTL requests, in steps of 5 mV above 0.55 V (R35, R471). -/
def Power.request (p : Power) : Nat :=
  match p.op.toNat with
  | 0 => 10
  | 1 => 34
  | 2 => 60
  | _ => p.vset

/-- A sensor of a reading (R569). -/
def sensor (t : Temps) (n : Nat) : Int := t.getD n 0

/-- The hottest junction: sensors 0 to 10. -/
def hottest (t : Temps) : Int := (List.range 11).foldl (fun m n => max m (sensor t n)) (sensor t 0)

/-- The cap in force: 1,000 W while SUPPLY_WARN_N is low (R472). -/
def Power.capNow (p : Power) : Nat := if p.swarn then 1000 else p.cap

/-- The highest setpoint up to `top` whose input power stays at or below a cap; 0.55 V meets every cap (R34, R472). -/
def setpointFor (draw cap : Nat) : Nat → Nat
  | 0 => 0
  | v + 1 => if Config.powerAt draw (v + 1) ≤ cap then v + 1 else setpointFor draw cap v

/-- VCOMP_CONTROL: every 10 µs the keeper takes the highest setpoint that the request, the cap and the junctions allow; what
power a setpoint draws, and how far a junction above 95 °C holds it back, is open. It holds the setpoint during an excursion
(R34, R472, R473, R475, R570). -/
def execVcompControl (power vin : Nat) (temps : Temps) (s : State) : Host.Outcome State Fault Refusal :=
  if s.power.on = false ∨ s.stage = .rom ∨ s.stage = .failed then okay s
  else
    let p := s.power
    let (i, s1) := s.draw
    let p1 : Power := { p with pin := power % 2 ^ 16, vin := vin % 2 ^ 16, temps := temps
                               energy := p.energy.add 63 (10 * power) }
    if p.exc then okay { s1 with power := p1 }
    else
      let req := p.request
      let limit := if hottest temps > 95 then Config.freeNat (i + 1) % (p.vnow + 1)
        else if p.therm ∧ hottest temps > 92 then Config.freeNat (i + 1) % (req + 1) else req
      let top := Nat.min req limit
      let v := setpointFor i p.capNow top
      okay { s1 with free := s1.free + 1
                     power := { p1 with vnow := v, caplim := decide (v < top)
                                        therm := decide (hottest temps > 95) || (decide (limit < req) && decide (v = limit)) } }

/-- SUPPLY_WARN: SUPPLY_WARN_N changes; while it is low the cap is 1,000 W (R472). -/
def execSupplyWarn (low : Bool) (s : State) : Host.Outcome State Fault Refusal :=
  okay { s with power := { s.power with swarn := low } }

/-! ### Supply excursions (R37, R474 to R477, R567) -/

/-- Warning and reset thresholds of a rail in mV; those of VCOMP follow the setpoint. -/
def railWarn (vnow rail : Nat) : Nat :=
  match rail with
  | 0 => 46000
  | 1 => if vnow ≥ 10 then 560 else 510 + 5 * vnow
  | 2 => 710 | 3 => 760 | 4 => 855 | 5 => 1000 | 6 => 855 | 7 => 1710 | 8 => 475 | 9 => 1710 | 10 => 3135
  | _ => 0
def railReset (rail : Nat) : Nat :=
  match rail with
  | 0 => 42000 | 1 => 500 | 2 => 670 | 3 => 720 | 4 => 810 | 5 => 950 | 6 => 810 | 7 => 1620 | 8 => 450 | 9 => 1620
  | 10 => 2970
  | _ => 0

/-- The record of an excursion begun, where PW.EXCBASE names an area: the tiles placed now are in flight (R477). -/
def State.openRecord (s : State) : List ExcRec :=
  if s.power.excbase = 0 then s.power.recs
  else
    let tiles := (s.cores.map (fun ck => (NMap.keys ck.2.tiles).map (fun k => (ck.1, k)))).flatten
    s.power.recs ++ [{ addr := s.power.excbase + 65536 * ((s.power.excno + 1).toNat % 16), left := tiles, tiles := tiles.length }]

/-- EXCURSION_OPEN: a rail is below its warning threshold and not below its reset threshold: an excursion opens, or the
open one notes a lower voltage of its rail. -/
def execExcursionOpen (rail mv : Nat) (s : State) : Host.Outcome State Fault Refusal :=
  if s.power.on = false ∨ rail > 10 ∨ mv ≥ railWarn s.power.vnow rail ∨ mv < railReset rail then okay s
  else
    let p := s.power
    let p1 : Power := { p with rails := NMap.ins rail mv p.rails }
    if p.exc then
      okay { s with power := (if rail = p.excRail ∧ mv < p.excMin then { p1 with excMin := mv } else p1) }
    else
      let old := s.alertBits
      okay (({ s with power := { p1 with
        exc := true, excno := p.excno + 1, excRail := rail, excMin := mv, excStart := s.nowN, recs := s.openRecord } } : State).driveAlert old)

/-- The 64 bytes of a record's header (R477). -/
def State.excHeader (s : State) (r : ExcRec) : List Byte :=
  natBytes 64 (s.power.excno.toNat + s.power.excRail * 2 ^ 32 + s.power.excMin % 2 ^ 16 * 2 ^ 40 + s.power.excStart * 2 ^ 64 +
    s.nowN * 2 ^ 128 + r.tiles % 2 ^ 32 * 2 ^ 192 + r.tail * 2 ^ 224)

/-- EXCURSION_CLOSE: every rail has been above its warning threshold for 10 µs: the header is written, the event raised,
EXC cleared and a scrub pass asked for on every die whose stack is not off. -/
def execExcursionClose (s : State) : Host.Outcome State Fault Refusal :=
  if s.power.exc = false then okay s
  else
    let old := s.alertBits
    let s1 := match s.power.recs.find? (fun r => !r.closed) with
      | none => s
      | some r => s.cohWrite 0 r.addr (s.excHeader r)
    let s2 := s1.keeperEvent 3 s1.power.excno.toNat
    let dies := (List.range 8).filter (fun d => s2.domain (16 + d) != .off)
    let p : Power := { s2.power with
      exc := false, rails := []
      recs := (s2.power.recs.map (fun r => { r with closed := true })).filter (fun r => !r.left.isEmpty) }
    let s3 : State := { s2 with
      power := p, ms := { s2.ms with fastScrub := dies.foldl (fun m d => addNew (32 + d) m) s2.ms.fastScrub } }
    okay (s3.driveAlert old)

/-- RAIL_RESET_THRESHOLD: a rail is below its reset threshold: a cold reset, and an open excursion is not reported
(R476). -/
def execRailResetThreshold (rail mv : Nat) (s : State) : Host.Outcome State Fault Refusal :=
  if rail ≤ 10 ∧ mv < railReset rail then okay s.coldReset else okay s

/-! ### Temperatures (R570) -/

/-- THERMAL_ALERT: HOT and COOL follow a reading; a condition clears 3 °C below its threshold, the difference below
22 K. -/
def execThermalAlert (temps : Temps) (s : State) : Host.Outcome State Fault Refusal :=
  if s.power.on = false then okay s
  else
    let p := s.power
    let out := sensor temps 12
    let diff := out - sensor temps 11
    let old := s.alertBits
    okay (({ s with power := { p with
      temps := temps
      hot := (decide (hottest temps ≥ 100) && p.vcomp == 0) || (p.hot && decide (hottest temps > 97))
      coolOut := decide (out ≥ 65) || (p.coolOut && decide (out > 62))
      coolDiff := decide (diff > 25) || (p.coolDiff && decide (diff ≥ 22)) } } : State).driveAlert old)

/-- THERMAL_TRIP: every rail goes down, TRIP is latched and ALERT_N held low until PWR_EN falls. -/
def execThermalTrip (temps : Temps) (s : State) : Host.Outcome State Fault Refusal :=
  if s.power.on ∧ (hottest temps ≥ 110 ∨ sensor temps 14 ≥ 105 ∨ sensor temps 13 ≥ 125) then
    let d := s.railsDown
    okay { d with power := { d.power with tripLatch := true }, pins := { d.pins with alert := true } }
  else okay s

/-! ### Management over I3C (R571) -/

/-- Byte `n` of the keeper's table. -/
def State.i3cByte (s : State) (n : Nat) : Byte :=
  if n = 0 then BitVec.ofNat 8 s.stage.code
  else if n = 1 then BitVec.ofNat 8 s.alertBits
  else if n = 2 then BitVec.ofNat 8 s.power.pin
  else if n = 3 then BitVec.ofNat 8 (s.power.pin / 256)
  else if n = 4 then BitVec.ofNat 8 s.power.vin
  else if n = 5 then BitVec.ofNat 8 (s.power.vin / 256)
  else if 0x10 ≤ n ∧ n ≤ 0x1E then BitVec.ofInt 8 (sensor s.power.temps (n - 0x10))
  else 0

/-- I3C_READ. -/
def execI3cRead (index : Nat) (s : State) : Host.Outcome State Fault Refusal :=
  if s.power.on = false then okay s
  else
    let s1 := if index = 0 then s.seeStage else s
    okay { s1 with pins := { s1.pins with i3cData := s1.i3cByte index } }

/-- I3C_WRITE: TRIP is cleared by writing 1 to it; every other write is ignored. -/
def execI3cWrite (index : Nat) (v : Byte) (s : State) : Host.Outcome State Fault Refusal :=
  if s.power.on ∧ index = 1 ∧ bitAt v 4 then
    okay (({ s with power := { s.power with tripBefore := false } } : State).driveAlert s.alertBits)
  else okay s

/-- SETDASA: the target at its static address takes a dynamic one. -/
def execSetdasa (static dynamic : BitVec 7) (s : State) : Host.Outcome State Fault Refusal :=
  if s.power.on ∧ static = s.pins.i3cStatic then okay { s with pins := { s.pins with i3cAddr := dynamic } } else okay s

end Sys2Proof.Machine
end

