-- ==== Sys2Proof/Machine/Security.lean ====
section
/-! DEFINITION. Debug tokens, firmware updates and attestation (R485, R491 to R500, R505, R533 to R537, R554, R555). -/

namespace Sys2Proof.Machine

/-! ### Nonces and tokens (R495 to R497, R555) -/

/-- A read of SC.NONCE: a fresh nonce, the previous one invalid. -/
def State.readNonce (s : State) : DWord × State :=
  let v := Config.freshNonce s.sec.nonces
  (v, { s with sec := { s.sec with nonce := some v, nonces := s.sec.nonces + 1 } })

/-- SC_NONCE. -/
def execScNonce (req : Requester) (s : State) : Host.Outcome State Fault Refusal :=
  okay (s.winRead req 0x70010 8 State.readNonce)

/-- A write of SC.TOKADDR: the check starts, none being under way. -/
def State.writeTokaddr (s : State) (v : DWord) : RegW :=
  if s.sec.result = 8 then .drop 5 s
  else .done { s with sec := { s.sec with tokAddr := field v 51 3 * 8, result := 8 } }

/-- SC_TOKADDR. -/
def execScTokaddr (req : Requester) (v : DWord) (s : State) : Host.Outcome State Fault Refusal :=
  okay (s.winWrite req 0x70018 8 (fun t => t.writeTokaddr v))

/-- A byte of an object at a physical address; outside LPDDR5X there is none. -/
def State.objByte (s : State) (a o : Nat) : Byte := if s.isLp (a + o) then s.cohByte (a + o) else 0

/-- The lowest free index of a token. -/
def Security.freeToken (x : Security) : Option Nat := (List.range 4).find? (fun i => !NMap.has i x.tokens)

/-- The result of a token's check, the first condition that fails in the order of R555, and the token (R496). -/
def State.checkToken (s : State) : Nat × Token :=
  let rd := s.objByte s.sec.tokAddr
  let kind := objKind rd
  let body := objNat rd 8192 64
  let t : Token := { wfirst := nfield body 137 128, wlast := nfield body 147 138, rights := BitVec.ofNat 4 (nfield body 151 148)
                     expiry := s.sec.keeperNs + nfield body 168 152 * 1000000000 }
  let vendor := kind == 0x20 && rootValid rd && decide (s.sec.counter.toNat ≤ objSecver rd)
  let owner := kind == 0x21 && objValid rd s.sec.cfg.ownerHash
  let r :=
    if !(vendor || owner) then 2
    else if nfield body 63 0 ≠ s.sec.ident.moduleId.toNat then 3
    else if s.sec.nonce ≠ some (BitVec.ofNat 64 (nfield body 127 64)) then 4
    else if t.wfirst > t.wlast then 5
    else if s.sec.freeToken.isNone then 6
    else if kind == 0x21 && (t.wfirst == 0 || t.rights.getLsbD 3) then 7
    else 1
  (r, t)

/-- TOKEN_CHECK_DONE: the keeper accepts or refuses the token. -/
def execTokenCheckDone (s : State) : Host.Outcome State Fault Refusal :=
  if s.sec.result ≠ 8 then okay s
  else
    match s.checkToken, s.sec.freeToken with
    | (1, t), some i =>
      let s1 : State := { s with sec := { s.sec with result := 1, lastToken := i, tokens := NMap.ins i t s.sec.tokens } }
      okay (s1.keeperEvent 9 i)
    | (r, _), _ => okay { s with sec := { s.sec with result := r } }

/-- A halted or stepped group whose ward no token covers any more goes on, its release logged (R497, R516). -/
def State.releaseGroup (s : State) (g : Site) : State :=
  match s.group? g with
  | none => s
  | some x =>
    if s.hasRight 0 (s.wardOf g) then s
    else if x.halted then (s.debugEvent g 64 2 0 0 x.pc.toNat).resume g false
    else s.setGroup g { x with stepping := false, haltReq := none }

/-- The breakpoints and watchpoints of a core whose wards no token covers cleared. -/
def State.clearBps (s : State) (k : Core) : Core :=
  { k with bps := k.bps.filter (fun b => s.mayBreak b.2.ctl), wps := k.wps.filter (fun b => s.mayBreak b.2.ctl) }

/-- A token ends: what only it covered is released, disarmed and cleared (R497, R505, R511). -/
def State.endToken (s : State) (i : Nat) : State :=
  if NMap.has i s.sec.tokens = false then s
  else
    let s1 : State := { s with sec := { s.sec with tokens := NMap.del i s.sec.tokens } }
    let s2 : State := { s1 with
      dbg := { s1.dbg with hof := s1.dbg.hof.filter (fun w => s1.hasRight 0 w)
                           wards := s1.dbg.wards.filter (fun w => s1.hasRight 1 w) }
      cores := NMap.mapVals (fun _ (k : Core) => s1.clearBps k) s1.cores }
    let gs : List Site := (s2.cores.map (fun ck => (NMap.keys ck.2.groups).map (fun p => (⟨ck.1, p⟩ : Site)))).flatten
    (gs.foldl (fun st g => st.releaseGroup g) s2).keeperEvent 9 (i + 2 ^ 8)

/-- SC_TOKREVOKE. -/
def execScTokrevoke (req : Requester) (v : DWord) (s : State) : Host.Outcome State Fault Refusal :=
  okay (s.winWrite req 0x70028 8 (fun t => .done (t.endToken (field v 1 0))))

/-- TOKEN_EXPIRY: a token's lifetime is over on the keeper's own oscillator. -/
def execTokenExpiry (idx : Nat) (s : State) : Host.Outcome State Fault Refusal :=
  match NMap.find idx s.sec.tokens with
  | some t => if t.expiry ≤ s.sec.keeperNs then okay (s.endToken idx) else okay s
  | none => okay s

/-- SC.DBGSTAT (R554). -/
def Security.dbgstat (x : Security) : DWord :=
  let active := (NMap.keys x.tokens).foldl (fun m i => m + 2 ^ i) 0
  let rights := x.tokens.foldl (fun (m : BitVec 4) t => m ||| t.2.rights) 0
  BitVec.ofNat 64 (x.result + x.lastToken % 4 * 2 ^ 4 + active % 16 * 2 ^ 8 + rights.toNat * 2 ^ 12)

/-! ### The TAP (R498) -/

/-- The instruction that the TAP carries out: what its register holds, but BYPASS for one beyond boundary scan unless a token
with RIGHTS [151] is active, which a vendor's alone can be (R495, R498). -/
def State.tapActs (s : State) : TapInstr :=
  match s.pins.tap with
  | .other c => if s.sec.tokens.any (fun t => t.2.rights.getLsbD 3) then .other c else .bypass
  | i => i

/-! ### Firmware updates (R533 to R537) -/

/-- The objects of an image set, read in steps of 8 KiB: kind, SECVER, manifest digest and whether each is valid; one
with a reserved KIND is absent. -/
def State.imageSet (s : State) (a len : Nat) : Nat → Nat → List FwObj
  | 0, _ => []
  | fuel + 1, off =>
    if off + 8192 > len then []
    else
      let rd := s.objByte (a + off)
      let kind := objKind rd
      if [1, 2, 3, 4, 0x10, 0x11, 0x20, 0x21].contains kind then
        let o : FwObj := { kind := kind, secver := BitVec.ofNat 32 (objSecver rd), digest := manifestDigest rd
                           valid := rootValid rd && decide (off + 8192 + objBodylen rd ≤ len) }
        o :: s.imageSet a len fuel (off + 8192 + (objBodylen rd + 8191) / 8192 * 8192)
      else s.imageSet a len fuel (off + 8192)

/-- Why an image set is refused: BADOBJ, OLDSVN, or zero where it is not (R535, R536). -/
def Security.setFails (x : Security) (os : List FwObj) : Nat :=
  if os.any (fun o => !o.valid) || !([1, 2, 3, 4].all (fun k => (os.filter (fun o => o.kind == k)).length == 1)) ||
      os.length != 4 then 3
  else if os.any (fun o => decide (o.secver < x.counter)) then 4
  else 0

/-- A bank of the flash replaced. -/
def Security.setBank (x : Security) (b : Bool) (v : Bank) : Security := if b then { x with bankB := v } else { x with bankA := v }

/-- START: the set is checked, and the bank that did not boot is invalid while it is written; ignored while BUSY. -/
def State.startUpdate (s : State) : State :=
  if s.sec.updstat = 1 then s
  else
    let len := s.sec.updlen.toNat
    let os := s.imageSet s.sec.updaddr len (len / 8192 + 1) 0
    let bad := s.sec.setFails os
    let x : Security := { s.sec with updstat := 1, updObjs := os, updFail := bad }
    let other := x.bank (!x.bootedB)
    { s with sec := if bad = 0 then x.setBank (!x.bootedB) { other with state := 0 } else x }

/-- COMMIT: the trial bank that runs is committed, and COUNTER rises to its keeper's SECVER; ignored at any other
time. -/
def State.commitUpdate (s : State) : State :=
  let x := s.sec
  let b := x.bank x.bootedB
  if x.fromBuffer ∨ x.booted = false ∨ b.state ≠ 1 ∨ s.stage ≠ .ready then s
  else
    let v := b.secverOf 1
    let c := if x.counter < v then v else x.counter
    { s with sec := { (x.setBank x.bootedB { b with state := 2 }) with counter := c, updstat := 6 } }

/-- A write of SC.UPDCTL. -/
def State.writeUpdctl (s : State) (v : DWord) : RegW :=
  let s1 := if bitAt v 0 then s.startUpdate else s
  .done (if bitAt v 1 then s1.commitUpdate else s1)

/-- SC_UPDCTL_START. -/
def execScUpdctlStart (req : Requester) (v : DWord) (s : State) : Host.Outcome State Fault Refusal :=
  okay (s.winWrite req 0x70058 8 (fun t => t.writeUpdctl v))

/-- SC_UPDCTL_COMMIT. -/
def execScUpdctlCommit (req : Requester) (v : DWord) (s : State) : Host.Outcome State Fault Refusal :=
  okay (s.winWrite req 0x70058 8 (fun t => t.writeUpdctl v))

/-- UPDATE_WRITE_DONE: the bank holds the set, the identity and configuration records and last its header; or the set
was refused, or the flash write failed (R535, R536). -/
def execUpdateWriteDone (ok : Bool) (s : State) : Host.Outcome State Fault Refusal :=
  let x := s.sec
  if x.updstat ≠ 1 then okay s
  else if x.updFail ≠ 0 then okay { s with sec := { x with updstat := x.updFail, updObjs := [] } }
  else if ok = false then okay { s with sec := { x with updstat := 5, updObjs := [] } }
  else
    let b : Bank := { seq := (x.bank x.bootedB).seq + 1, state := 1, tries := 0, objs := x.updObjs, ident := true
                      cfgs := [x.cfg, x.cfg] }
    okay { s with sec := { (x.setBank (!x.bootedB) b) with updstat := 2, updObjs := [] } }

/-! ### Attestation (R491 to R494) -/

/-- Whether the keeper answers SPDM over the control port now. -/
def State.spdmLive (s : State) : Bool :=
  s.power.on && !s.pins.perst && s.stage != .rom && s.stage != .failed

/-- An answer given, with the state the connection is in afterwards. -/
def State.respond (s : State) (st : SpdmStage) (r : SpdmResp) : Host.Outcome State Fault Refusal :=
  if s.spdmLive then okay { s with sec := { s.sec with spdm := st, resp := r } } else okay s

/-- An answer that needs the connection to have come as far as `need`; otherwise ERROR. -/
def State.respondAfter (s : State) (need : Bool) (st : SpdmStage) (r : SpdmResp) : Host.Outcome State Fault Refusal :=
  if need then s.respond st r else s.respond s.sec.spdm .error

/-- GET_VERSION: 1.3; the connection starts anew. -/
def execGetVersion (s : State) : Host.Outcome State Fault Refusal := s.respond .version (.version 1 3)

/-- GET_CAPABILITIES: CERT_CAP, CHAL_CAP and MEAS_CAP with signatures. -/
def execGetCapabilities (s : State) : Host.Outcome State Fault Refusal :=
  s.respondAfter (s.sec.spdm != .start) .caps (.capabilities true true true true)

/-- NEGOTIATE_ALGORITHMS: SHA-384 and Ed25519, each where the requester offers it. -/
def execNegotiateAlgorithms (hash384 ed25519 : Bool) (s : State) : Host.Outcome State Fault Refusal :=
  s.respondAfter (s.sec.spdm == .caps || s.sec.spdm == .algs) .algs (.algorithms hash384 ed25519)

/-- Whether algorithms have been negotiated. -/
def Security.ready (x : Security) : Bool := x.spdm == .algs

/-- A digest as bytes. -/
def digestBytes (d : BitVec 384) : List Byte := natBytes 48 d.toNat

/-- The measurement digest from which the alias keys are derived (R494). -/
def Security.aliasDigest (x : Security) : BitVec 384 :=
  Config.sha384 ([1, 2, 3].map (fun i => digestBytes (NMap.findD 0 i x.measures))).flatten

/-- Bytes of the certificate chain of a slot (R492). -/
def Security.chain (x : Security) (slot offset n : Nat) : List Byte :=
  (List.range n).map (fun i => Config.certByte x.aliasDigest slot (offset + i))

/-- GET_DIGESTS: the digests of both chains. -/
def execGetDigests (s : State) : Host.Outcome State Fault Refusal :=
  let d := s.sec.aliasDigest
  s.respondAfter s.sec.ready s.sec.spdm (.digests ([0, 1].map (fun slot =>
    Config.sha384 (s.sec.chain slot 0 (Config.certLength d slot)))))

/-- GET_CERTIFICATE: a part of the chain of slot 0 or 1, and what is left after it. -/
def execGetCertificate (slot offset len : Nat) (s : State) : Host.Outcome State Fault Refusal :=
  let total := Config.certLength s.sec.aliasDigest slot
  let n := Nat.min len (total - offset)
  s.respondAfter (s.sec.ready && decide (slot < 2) && decide (offset < total)) s.sec.spdm
    (.certificate slot (s.sec.chain slot offset n) (total - offset - n))

/-- CHALLENGE: both signatures of the alias keys over the transcript hash (R492). -/
def execChallenge (slot : Nat) (_nonce : BitVec 256) (s : State) : Host.Outcome State Fault Refusal :=
  let (i, s1) := s.draw
  let h := Config.transcriptHash i
  let d := s.sec.aliasDigest
  s1.respondAfter (s.sec.ready && decide (slot < 2)) s.sec.spdm
    (.challengeAuth slot h (Config.aliasEdSign d h) (Config.aliasMlSign d h))

/-- The bytes of a measurement (R493). -/
def Security.measurement (x : Security) (i : Nat) : List Byte :=
  if i = 6 then natBytes 4 x.counter.toNat
  else if i = 7 then natBytes 4 (Config.debugState x.tokens.length
    (x.tokens.foldl (fun (m : BitVec 4) t => m ||| t.2.rights) 0).toNat).toNat
  else digestBytes (NMap.findD 0 i x.measures)

/-- GET_MEASUREMENTS: one block, or with index 255 all of them, signed by both alias keys (R492, R493). -/
def execGetMeasurements (index : Nat) (slot : Nat) (_nonce : BitVec 256) (s : State) : Host.Outcome State Fault Refusal :=
  let (i, s1) := s.draw
  let h := Config.transcriptHash i
  let d := s.sec.aliasDigest
  let ids := if index = 255 then [1, 2, 3, 4, 5, 6, 7] else if 1 ≤ index ∧ index ≤ 7 then [index] else []
  s1.respondAfter (s.sec.ready && decide (slot < 2) && (index == 0 || !ids.isEmpty)) s.sec.spdm
    (.measurements (ids.map (fun j => (j, s.sec.measurement j))) h (Config.aliasEdSign d h) (Config.aliasMlSign d h))

end Sys2Proof.Machine
end

