-- ==== Sys2Proof/Machine/Routes.lean ====
section
/-! DEFINITION. The routes of a module span: up*/down* routing over the working links, the choice of the master, and the
ordinals of members (R442 to R444, R446, R448). -/

namespace Sys2Proof.Machine

/-! ### Working links (R446) -/

/-- The members of a roster that a member has a working link to: both ends list the link. -/
def neighbours (r : List RosterEntry) (m : Nat) : List Nat :=
  match r.find? (fun e => e.ord == m) with
  | none => []
  | some e => (r.filter (fun x => x.ord != m && e.links.contains x.ord && x.links.contains m)).map (·.ord)

/-- Members reached from some of them by one working link more, those first seen now with their distance. -/
def spread (r : List RosterEntry) (k : Nat) : Nat → List (Nat × Nat) → List (Nat × Nat)
  | 0, seen => seen
  | fuel + 1, seen =>
    let edge := (seen.filter (fun x => x.2 == k)).map (·.1)
    let new := ((edge.map (neighbours r)).flatten).eraseDups.filter (fun v => !seen.any (fun x => x.1 == v))
    if new.isEmpty then seen else spread r (k + 1) fuel (seen ++ new.map (fun v => (v, k + 1)))

/-- Distance of every member that can be reached from a root: the levels of the spanning tree. -/
def levels (r : List RosterEntry) (root : Nat) : List (Nat × Nat) := spread r 0 r.length [(root, 0)]

/-- Whether a hop goes up, toward the root: to a lower level, or to a lower ordinal of the same level. -/
def isUp (lv : List (Nat × Nat)) (u v : Nat) : Bool :=
  let d (m : Nat) : Nat := ((lv.find? (fun x => x.1 == m)).map (·.2)).getD (lv.length + 1)
  decide (d v < d u) || (d v == d u && decide (v < u))

/-! ### Legal routes: up hops, then down hops (R446) -/

/-- The members from which a destination can be reached within so many hops, as (member, may still go up), and the
longest-known distance: one round from the set of the round before. -/
def reachRound (r : List RosterEntry) (lv : List (Nat × Nat)) (s : List (Nat × Bool)) : List (Nat × Bool) :=
  (r.map (fun e =>
    let ns := neighbours r e.ord
    let up := ns.any (fun v => if isUp lv e.ord v then s.contains (v, true) else s.contains (v, false))
    let down := ns.any (fun v => !isUp lv e.ord v && s.contains (v, false))
    (if up then [(e.ord, true)] else []) ++ (if down then [(e.ord, false)] else []))).flatten

/-- Hops of the shortest legal route from a member to a destination and the neighbour it goes through, the lowest
ordinal among equals; none where there is no route. -/
def routeFrom (r : List RosterEntry) (lv : List (Nat × Nat)) (src : Nat) : Nat → Nat → List (Nat × Bool) → Option (Nat × Nat)
  | 0, _, _ => none
  | fuel + 1, k, s =>
    let via := (neighbours r src).filter (fun v => s.contains (v, isUp lv src v))
    match via.min? with
    | some v => some (v, k + 1)
    | none => routeFrom r lv src fuel (k + 1) (reachRound r lv s)

/-- A roster as its receiver gets it: every member with the route to it. A member that cannot be reached keeps itself
as the neighbour and no hops. -/
def rosterFor (r : List RosterEntry) (root me : Nat) : List RosterEntry :=
  let lv := levels r root
  r.map (fun e =>
    if e.ord = me then { e with via := me, hops := 0 }
    else match routeFrom r lv me r.length 0 [(e.ord, true), (e.ord, false)] with
      | some (v, k) => { e with via := v, hops := k }
      | none => { e with via := e.ord, hops := 0 })

/-! ### The master (R442) -/

/-- The lowest identity of a list of modules with their roles: of those with the role, or of all where none has it. -/
def pickMaster (ms : List (DWord × Bool)) : Option DWord :=
  let some1 := ms.filter (·.2)
  let pool := if some1.isEmpty then ms else some1
  (pool.map (fun m => m.1)).foldl (fun o i => match o with
    | none => some i
    | some j => some (if i.toNat < j.toNat then i else j)) none

/-! ### Ordinals (R443) -/

/-- The ordinal a joining module gets: of a lost member it replaces, the one it asks for where that is free, otherwise
the lowest free one; none where the span is full. -/
def ordinalFor (taken reserved : List Nat) (i : ModInfo) : Option Nat :=
  if taken.length ≥ 4096 then none
  else if i.replace && reserved.contains i.ord then some i.ord
  else if i.ord < 4096 ∧ ¬ taken.contains i.ord ∧ ¬ reserved.contains i.ord then some i.ord
  else (List.range 4096).find? (fun o => !taken.contains o && !reserved.contains o)

/-! ### Levels (R11, R462) -/

/-- The lower of two levels (R11). -/
def lowerLevel (a b : BitVec 8) : BitVec 8 := if a.toNat ≤ b.toNat then a else b

/-- The common levels of two parties, interface by interface. -/
def commonLevels (a b : Levels) : Levels :=
  { ring := lowerLevel a.ring b.ring, amixis := lowerLevel a.amixis b.amixis, spans := lowerLevel a.spans b.spans
    tumblers := lowerLevel a.tumblers b.tumblers, trace := lowerLevel a.trace b.trace }

/-- Whether every interface's level is at least another's. -/
def levelsAtLeast (a b : Levels) : Bool :=
  decide (b.ring.toNat ≤ a.ring.toNat) && decide (b.amixis.toNat ≤ a.amixis.toNat) && decide (b.spans.toNat ≤ a.spans.toNat) &&
    decide (b.tumblers.toNat ≤ a.tumblers.toNat) && decide (b.trace.toNat ≤ a.trace.toNat)

/-- The level of interface `i` (R553): ring format, Amixis, spans, tumblers, trace. -/
def levelOf (l : Levels) : Nat → BitVec 8
  | 0 => l.ring
  | 1 => l.amixis
  | 2 => l.spans
  | 3 => l.tumblers
  | _ => l.trace

/-- The levels with interface `i` at another level. -/
def setLevel (l : Levels) (i : Nat) (v : BitVec 8) : Levels :=
  match i with
  | 0 => { l with ring := v }
  | 1 => { l with amixis := v }
  | 2 => { l with spans := v }
  | 3 => { l with tumblers := v }
  | 4 => { l with trace := v }
  | _ => l

/-- The levels of this module (R12). -/
def ownLevels : Levels := { ring := 0x10, amixis := 0x10, spans := 0x10, tumblers := 0x10, trace := 0x10 }

/-! ### Epochs (R444) -/

/-- Whether epoch `a` is older than `b`: neither the same nor newer (R444). -/
def epochOlder (a b : BitVec 32) : Bool := a != b && !newer a b

end Sys2Proof.Machine
end

