-- ==== Sys2Proof/Machine/Members.lean ====
section
/-! DEFINITION. What a member does when its span changes: reports of served LAUNCHes, hasp messages, epochs, rosters, the
loss of a member and isolation (R349, R440 to R450, R456, R457, R462). -/

namespace Sys2Proof.Machine

/-! ### Messages to the span -/

/-- The other members. -/
def State.others (s : State) : List Nat := (s.span.roster.map (·.ord)).filter (· != s.span.ord)

/-- A message to every other member. -/
def State.toAll (s : State) (b : MsgBody) : State := s.others.foldl (fun st m => st.sendTo m b) s

/-! ### Hasp messages (R349, R445) -/

/-- Whether every member that takes part in a line has arrived, or has been declared lost (R349). -/
def State.farAllIn (s : State) (f : FarHasp) : Bool :=
  s.span.roster.all (fun r => f.members.contains r.ord || !Config.takesPart f.nonce r.ord)

/-- The master notes a member's arrival and releases the members once all have arrived. Which members take part in a
line that it has no tile of itself is open; it stays the same through the generations of a LAUNCH (R349, log 103). -/
def State.haspArrive (s : State) (line gen src : Nat) : State :=
  match NMap.find line s.hasps with
  | some h =>
    if h.modules.contains src then
      if gen = h.gen then
        ({ s with hasps := NMap.ins line { h with members := addNew src h.members } s.hasps } : State).haspSettle line 2
      else s
    else s
  | none =>
    let (i, s1) := s.draw
    let old := NMap.findD { gen := gen, nonce := i } line s.span.haspAll
    let f : FarHasp :=
      if old.gen = gen then { old with members := addNew src old.members }
      else { gen := gen, nonce := if gen = 0 then i else old.nonce, members := [src] }
    let s2 : State := { s1 with span := { s1.span with haspAll := NMap.ins line f s1.span.haspAll } }
    if s2.farAllIn f then f.members.foldl (fun st m => st.sendTo m (.hasprel line gen)) s2 else s2

/-- A member releases the generation it has reported; one already passed is ignored. -/
def State.haspReleased (s : State) (line gen : Nat) : State :=
  match NMap.find line s.hasps with
  | some h => if h.sent && gen == h.gen then (s.haspRelease line h).haspSettle line 2 else s
  | none => s

/-- A held message acted on. -/
def State.haspHeld (s : State) (m : HeldHasp) : State :=
  if m.rel then (if m.src = s.span.masterOrd then s.haspReleased m.line m.gen else s)
  else if s.span.master then s.haspArrive m.line m.gen m.src else s

/-! ### Epochs (R445) -/

/-- The span epoch changed, with its keeper event. -/
def State.toEpoch (s : State) (e : BitVec 32) : State :=
  if e = s.span.epoch then s else ({ s with span := { s.span with epoch := e } } : State).keeperEvent 7 e.toNat

/-- After the adoption of an epoch: a member sends its unresolved arrivals again, the master its last releases, and the
hasp messages held for the epoch are acted on. -/
def State.afterEpoch (s : State) : State :=
  let s1 := s.hasps.foldl (fun st nh =>
    let h := nh.2
    if h.modules.all (· == st.here) then st
    else if st.span.master then
      if h.gen = 0 then st
      else (h.modules.filter (fun m => m != st.here && st.reachable m)).foldl (fun t m => t.sendTo m (.hasprel nh.1 (h.gen - 1))) st
    else if h.sent then st.sendTo st.span.masterOrd (.hasparr nh.1 h.gen) else st) s
  let now := s1.span.held.filter (fun m => m.epoch == s1.span.epoch)
  let later := s1.span.held.filter (fun m => newer m.epoch s1.span.epoch)
  (now.foldl (fun st m => st.haspHeld m) ({ s1 with span := { s1.span with held := later } } : State)).haspSettleAll

/-! ### Window requests under way, and the drain of a level commit (R462, R527) -/

/-- Whether a group waits for an answer to a window request it has sent. -/
def Group.windowBusy (x : Group) : Bool :=
  x.loads.any (fun l => l.lanes.any (fun a => a.txid.isSome && a.reply.isNone)) || x.sb.any (fun e => e.sent) ||
    !x.winDone.isEmpty || x.atoms.any (fun a => a.txid.isSome && a.result.isNone)

/-- Whether this module waits for an answer to any window request. -/
def State.windowBusy (s : State) : Bool :=
  s.cores.any (fun ck => ck.2.groups.any (fun pg => pg.2.windowBusy) || ck.2.winreads.any (fun w => w.reply.isNone) ||
    ck.2.orphans.any (fun o => (match o.store with | some e => e.sent | none => false) ||
      (match o.atom with | some a => a.txid.isSome && a.result.isNone | none => false))) ||
    s.fe.launches.any (fun kl => !kl.2.winDone.isEmpty)

/-- Whether a group has an access to a span window that is not over. -/
def Group.windowOpen (x : Group) : Bool :=
  x.loads.any (fun l => l.lanes.any (fun a => isWindow a.tgt && a.reply.isNone)) || x.sb.any (fun e => isWindow e.tgt) ||
    !x.winDone.isEmpty || x.atoms.any (fun a => isWindow a.tgt && a.result.isNone)

/-- Whether any access of this module to a span window is not over. -/
def State.windowOpen (s : State) : Bool := s.windowBusy || s.cores.any (fun ck => ck.2.groups.any (fun pg => pg.2.windowOpen))

/-- SP.WININV writes are complete once no window access is outstanding (R451). -/
def State.settleInv (s : State) : State :=
  if s.span.invs.isEmpty || s.windowOpen then s else { s with span := { s.span with invs := [] } }

/-- A level commit begun by the master: LEVELPREP names the levels, and every member stops injecting. -/
def State.startCommit (s : State) (lv : Levels) : State :=
  ({ s with span := { s.span with prep := some (lv, []), stalled := true, replyOwed := true } } : State).toAll (.levelprep lv)

/-- The commit once every member has replied: the new epoch and levels go out, and a lowering that waited begins. -/
def State.commitLevels (s : State) : State :=
  match s.span.prep with
  | none => s
  | some (lv, replied) =>
    if s.span.roster.any (fun r => !replied.contains r.ord) then s
    else
      let s1 : State := { s with span := { s.span with levels := lv, prep := none, stalled := false, replyOwed := false } }
      let s2 := ((s1.toEpoch (s1.span.epoch + 1)).toAll (.levelcommit lv)).afterEpoch
      match s2.span.lowers with
      | [] => s2
      | (i, v) :: rest =>
        let s3 : State := { s2 with span := { s2.span with lowers := rest } }
        if v.toNat < (levelOf s3.span.levels i).toNat then s3.startCommit (setLevel s3.span.levels i v) else s3

/-- A member whose messages are all answered replies to LEVELPREP; the master counts itself. -/
def State.drained (s : State) : State :=
  if s.span.replyOwed = false ∨ s.windowBusy then s
  else
    let s1 : State := { s with span := { s.span with replyOwed := false } }
    if s1.span.master then
      ({ s1 with span := { s1.span with prep := s1.span.prep.map (fun p => (p.1, addNew s1.span.ord p.2)) } } : State).commitLevels
    else s1.sendTo s1.span.masterOrd .levelprepReply

/-- What follows an answer: reports, the drain, and the completion of SP.WININV writes. -/
def State.afterAnswer (s : State) : State := s.reportAll.drained.settleInv

/-! ### A roster published by the master (R441, R445, R446) -/

/-- The epoch raised and the roster sent to every member with its routes. -/
def State.publish (s : State) (r : List RosterEntry) : State :=
  let me := s.span.ord
  let s1 := ({ s with span := { s.span with roster := rosterFor r me me } } : State).toEpoch (s.span.epoch + 1)
  let s2 := s1.others.foldl (fun st m => st.sendTo m (.roster (rosterFor r me m) st.span.levels)) s1
  s2.afterEpoch.commitLevels

/-! ### Ordinals inside and outside a span (R396) -/

/-- The name of this module's cores in its LAUNCHes changed, as it enters or leaves a span. -/
def State.renameHere (s : State) (old new : Nat) : State :=
  let re (c : Nat × Nat) : Nat × Nat := if c.1 = old then (new, c.2) else c
  { s with
    fe := { s.fe with launches := NMap.mapVals (fun _ l => { l with
      chain := l.chain.map re, homes := l.homes.map re, hasps := NMap.mapVals (fun _ cs => cs.map re) l.hasps }) s.fe.launches }
    hasps := NMap.mapVals (fun _ h => { h with cores := h.cores.map re }) s.hasps }

/-! ### The loss of a member (R316, R317, R449) -/

/-- Whether a target lies in a window of a peer. -/
def Target.toPeer (t : Target) (p : Nat) : Bool :=
  match t with
  | .window q _ _ => q == p
  | _ => false

/-- A request to a lost peer answered: poisoned data, or an SC that fails (R317, R453). -/
def AtomReq.lost (a : AtomReq) : AtomReq :=
  if a.op.isSome then { a with result := some [], poison := true }
  else { a with result := some (a.lanes.map (fun l => (l.1, (0 : DWord)))) }

/-- A group's stores, loads, atomics and reservations to a lost peer, whose outstanding transactions are `txs`. -/
def Group.losePeer (x : Group) (p : Nat) (txs : List Nat) : Group :=
  let y := (x.sb.filter (fun e => e.tgt.toPeer p)).foldl (fun y e => y.noteUndelivered e.order e.va) x
  let y := (x.winDone.filter (fun w => txs.contains w.1)).foldl (fun y w => y.noteUndelivered w.2.1 w.2.2) y
  { y with
    sb := y.sb.filter (fun e => !e.tgt.toPeer p)
    winDone := y.winDone.filter (fun w => !txs.contains w.1)
    loads := y.loads.map (fun l => { l with lanes := l.lanes.map (fun a =>
      if a.tgt.toPeer p && a.reply.isNone then { a with reply := some (List.replicate l.width 0, true) } else a) })
    atoms := y.atoms.map (fun a => if a.tgt.toPeer p && a.result.isNone then a.lost else a)
    resv := y.resv.filter (fun lr => match lr.2 with | .window q _ => q != p | _ => true) }

/-- A store left by an ended group is to a peer. -/
def Orphan.storeTo (o : Orphan) (p : Nat) : Bool :=
  match o.store with
  | some e => e.tgt.toPeer p
  | none => false

/-- An atomic left by an ended group is to a peer. -/
def Orphan.atomTo (o : Orphan) (p : Nat) : Bool :=
  match o.atom with
  | some a => a.tgt.toPeer p
  | none => false

/-- A core's accesses to a lost peer end; undeliverable stores are counted for their contexts (R316, R317, R517). -/
def State.coreLosePeer (s : State) (c p : Nat) (txs : List Nat) : State :=
  let k := s.core c
  let counted := (k.groups.map (fun pg => (s.ctxOf ⟨c, pg.1⟩, (pg.2.sb.filter (fun e => e.tgt.toPeer p)).length +
      (pg.2.winDone.filter (fun w => txs.contains w.1)).length))) ++
    (k.orphans.filter (fun o => o.storeTo p)).map (fun o => (o.ctx, 1))
  let s1 := s.setCore c { k with
    groups := NMap.mapVals (fun _ x => x.losePeer p txs) k.groups
    orphans := k.orphans.filter (fun o => !o.storeTo p && !o.atomTo p)
    winreads := k.winreads.map (fun w =>
      if w.peer = p ∧ w.reply.isNone then { w with reply := some (List.replicate 128 0, true) } else w) }
  (counted.filter (fun x => x.2 != 0)).foldl (fun st x => st.countCtx x.1 14 x.2) s1

/-- A LAUNCH whose span includes a lost member: its tiles here are stopped, and the origin will complete it with
PEERLOST; where the origin itself is lost it is over here (R449). -/
def State.launchLosePeer (s : State) (k p : Nat) : State :=
  match s.launch? k with
  | none => s
  | some l =>
    if l.chain.any (fun c => c.1 == p) = false ∧ l.origin ≠ some p then s
    else
      let ts := (s.cores.map (fun ck => (ck.2.tiles.filter (fun kt => kt.2.launch == k)).map (fun kt => (ck.1, kt.1)))).flatten
      let s1 := ts.foldl (fun st t => st.stopTile t.1 t.2 .other) s
      if l.origin = some p then s1.dropLaunch k
      else s1.updLaunch k (fun l => { l with
        spanLost := true, peerLost := some (l.peerLost.getD p), out := NMap.del p l.out, pool := [] })

/-- A tumbler map entry that names a lost member (R449). -/
def TmapEntry.losePeer (e : TmapEntry) (p : Nat) : TmapEntry :=
  if e.remote && e.peer == p then { e with foreign := true } else e

/-- A command's question to a lost peer: the check fails, a wait at its tumbler is armed no more. -/
def Cmd.losePeer (m : Cmd) (txs : List Nat) : Cmd :=
  match m.ask with
  | some t => if txs.contains t then { m with ask := none, answer := if m.state = .fetched then some false else m.answer } else m
  | none => m

/-- Everything that a member does at the declared loss of another, the roster apart. -/
def State.peerGone (s : State) (p : Nat) : State :=
  let txs := (s.span.txids.filter (fun t => t.2 == p)).map (·.1)
  let s1 := (NMap.keys s.cores).foldl (fun st c => st.coreLosePeer c p txs) s
  let s2 : State := { s1 with
    span := { s1.span with txids := s1.span.txids.filter (fun t => t.2 != p), heard := NMap.del p s1.span.heard
                           memLevels := NMap.del p s1.span.memLevels }
    coh := { s1.coh with peerResv := s1.coh.peerResv.filter (fun r => r.1 != p) }
    waiters := s1.waiters.filter (fun w => match w.src with | .peer q _ => q != p | _ => true)
    tumq := s1.tumq.filter (fun q => match q.src, q.op with
      | .peer o _, .wait _ => o != p
      | .peer o _, .test _ => o != p
      | _, _ => true)
    fe := { s1.fe with
      ctxs := NMap.mapVals (fun _ c => { c with
        map := NMap.mapVals (fun _ e => e.losePeer p) c.map, mapAsk := c.mapAsk.filter (fun a => !txs.contains a.1)
        rings := NMap.mapVals (fun _ r => { r with cmds := r.cmds.map (fun m => m.losePeer txs) }) c.rings }) s1.fe.ctxs
      launches := NMap.mapVals (fun _ l => { l with winDone := l.winDone.filter (fun t => !txs.contains t) }) s1.fe.launches } }
  (NMap.keys s2.fe.launches).foldl (fun st k => st.launchLosePeer k p) s2

/-- The roster without a member, its ordinal reserved (R443, R449). -/
def State.loseMember (s : State) (p : Nat) : State :=
  let s1 := s.peerGone p
  let s2 : State := { s1 with span := { s1.span with
    roster := s1.span.roster.filter (fun r => r.ord != p), reserved := addNew p s1.span.reserved
    held := s1.span.held.filter (fun m => m.src != p) } }
  s2.haspSettleAll.afterAnswer

/-! ### Leaving the span (R448, R527) -/

/-- The module outside the span in a state of SP.SPANSTAT; every other member is as good as lost to it. -/
def State.outOfSpan (s : State) (st : SpanState) : State :=
  let s1 := s.others.foldl (fun t m => t.peerGone m) s
  let s2 := s1.renameHere s1.here 0
  { s2 with span := { s2.span with
      state := st, master := false, ord := 0, epoch := 0, levels := {}, roster := [], reserved := [], held := [], prep := none
      stalled := false, replyOwed := false, lowers := [], heard := [], memLevels := [], haspAll := [], known := []
      leaveSent := false } }

/-- The module's part of a span that can reach no more than half the roster stops serving it (R448). -/
def State.isolate (s : State) : State := (s.outOfSpan .isolated).haspSettleAll.reportAll

/-- Whether a part of the roster may go on without the others: more than half, or the half with the lowest identity
(R448). -/
def majority (r : List RosterEntry) (part : List Nat) : Bool :=
  let mine := r.filter (fun e => part.contains e.ord)
  decide (2 * mine.length > r.length) ||
    (2 * mine.length == r.length && (match (r.map (fun e => e.moduleId.toNat)).min? with
      | some i => mine.any (fun e => e.moduleId.toNat == i)
      | none => true))

/-! ### The master (R442, R447) -/

/-- The member that is master among those of a roster: its ordinal. -/
def masterOf (r : List RosterEntry) : Nat :=
  match pickMaster (r.map (fun e => (e.moduleId, e.role))) with
  | some i => ((r.find? (fun e => e.moduleId == i)).map (·.ord)).getD 0
  | none => 0

/-- The master role taken: this module hears of every member from now on. -/
def State.becomeMaster (s : State) : State :=
  { s with span := { s.span with
      master := true, masterOrd := s.span.ord, prep := none, stalled := false, replyOwed := false, haspAll := []
      heard := s.others.map (fun m => (m, s.nowN)) } }

/-- Members declared lost by the master: LOST and the new roster go out, or this part of the span stops serving (R447,
R448). -/
def State.declareLost (s : State) (ps : List Nat) : State :=
  let part := (s.span.roster.map (·.ord)).filter (fun m => !ps.contains m)
  if majority s.span.roster part = false then s.isolate
  else
    let s1 := ps.foldl (fun st p => st.loseMember p) s
    let s2 := s1.toEpoch (s1.span.epoch + 1)
    let s3 := ps.foldl (fun st p => st.toAll (.lost p)) s2
    let me := s3.span.ord
    let r := s3.span.roster.map (fun e => { e with links := e.links.filter (fun m => !ps.contains m) })
    let s4 : State := { s3 with span := { s3.span with roster := rosterFor r me me } }
    (s4.others.foldl (fun st m => st.sendTo m (.roster (rosterFor r me m) st.span.levels)) s4).afterEpoch.commitLevels

/-- A link that a member reports down taken out of its list. -/
def dropLink (r : List RosterEntry) (a b : Nat) : List RosterEntry :=
  r.map (fun e => if e.ord = a then { e with links := e.links.erase b } else e)

/-- The master hears that a link of member `a` to member `b` is down: the routes are computed anew, and a member whose
neighbours have all reported it is lost (R446, R447). -/
def State.linkLost (s : State) (a b : Nat) : State :=
  let r := dropLink s.span.roster a b
  let s1 : State := { s with span := { s.span with roster := r } }
  if b ≠ s.span.ord ∧ r.any (fun e => e.ord == b) ∧ r.all (fun e => e.ord == b || !e.links.contains b) then s1.declareLost [b]
  else s1.publish r

/-- A port of this module to another member went down: reported to the master (R446). -/
def State.reportLink (s : State) (port : Nat) (id : DWord) : State :=
  if s.inSpan = false then s
  else match s.span.roster.find? (fun e => e.moduleId == id && e.ord != s.span.ord) with
    | none => s
    | some e =>
      if s.span.master then s.linkLost s.span.ord e.ord
      else s.sendTo s.span.masterOrd (.linkdown port e.ord)

end Sys2Proof.Machine
end

