-- ==== Sys2Proof/Machine/Links.lean ====
section
/-! DEFINITION. Amixis ports and the link layer: cables, training and HELLO, lane failures and widths, sequence numbers,
retries and credits, and ports going down (R430 to R436, R446, R461, R516, R518, R565). -/

namespace Sys2Proof.Machine

/-! ### Widths (R432, R551) -/

/-- The width of a port as SP.PORTSTAT encodes it. -/
def Port.widthCode (p : Port) : Nat :=
  if p.up = false then 0
  else match p.lanes.length with
    | 4 => 3
    | 3 => 2
    | 2 => 1
    | _ => 0

/-- A change of a port's width counted and reported by the keeper. -/
def State.widthChanged (s : State) (n : Nat) : State :=
  (s.countModule 11 1).keeperEvent 6 (n + (s.port n).widthCode * 16)

/-- A port that is not trained; what it knows of its cable and of its failed lanes stays. -/
def Port.untrained (p : Port) : Port := { seated := p.seated, failed := p.failed }

/-- A port goes down: its flits are gone, the change is reported, and so is the link to another member (R432, R434, R435,
R446). -/
def State.portDown (s : State) (n : Nat) : State :=
  let p := s.port n
  if p.up = false then s
  else
    let s1 := (s.updPort n Port.untrained).widthChanged n
    match p.partner, p.foreign with
    | some i, false => s1.reportLink n i.moduleId
    | _, _ => s1

/-! ### Cables (R565) -/

/-- CABLE_PRESENT: a change of a port's CBLPRS_N. A cable seated anew lets failed lanes train again (R432). -/
def execCablePresent (port : Nat) (seated : Bool) (s : State) : Host.Outcome State Fault Refusal :=
  if (s.port port).seated = seated then okay s
  else if seated then okay (s.updPort port (fun p => { p with seated := true, failed := [] }))
  else
    let s1 := s.portDown port
    okay (s1.updPort port (fun _ => {}))

/-! ### Training (R431, R461, R523 event 7) -/

/-- Whether the Amixis ports run: powered, and past the boot's keeper stage. -/
def State.portsRun (s : State) : Bool :=
  s.power.on && (s.stage == .training || s.stage == .meminit || s.stage == .ready)

/-- The SPANID this module tells and compares with: that of the span it forms or belongs to. -/
def State.mySpanId (s : State) : BitVec 32 :=
  match s.span.state with
  | .forming => s.span.spanId
  | .member => s.span.spanId
  | .leaving => s.span.spanId
  | _ => s.span.cfgSpanId

/-- What this module tells of itself (R440, R441). -/
def State.myInfo (s : State) : ModInfo :=
  { moduleId := s.sec.ident.moduleId, master := s.span.cfgMaster, replace := s.span.replace, ord := s.span.cfgOrd
    levels := ownLevels
    links := (List.range 16).filterMap (fun n =>
      let p := s.port n
      if p.up && !p.foreign then p.partner.map (·.moduleId) else none) }

/-- A message out of a port to its partner, whatever the span. -/
def State.sendPort (s : State) (n : Nat) (b : MsgBody) : State :=
  s.send { dst := 0, port := some n, epoch := if s.inSpan then s.span.epoch else 0, body := b }

/-- Our HELLO out of a port. -/
def State.sendHello (s : State) (n : Nat) : State := s.sendPort n (.hello s.mySpanId s.myInfo)

/-- HELLO: the partner's identity and levels are taken, and ours go out while the port trains. The port runs Amixis at
the common level; a partner of another SPANID makes it foreign (R431, R461). -/
def execHello (port : Nat) (spanId : BitVec 32) (info : ModInfo) (s : State) : Host.Outcome State Fault Refusal :=
  if s.portsRun = false ∨ (s.port port).seated = false then okay s
  else
    let s1 := s.updPort port (fun p => { p with
      partnerSpan := spanId, partner := some info, level := lowerLevel ownLevels.amixis info.levels.amixis
      foreign := spanId != s.mySpanId })
    okay (if (s.port port).trained then s1 else s1.sendHello port)

/-- Credits for the partner's receive buffers, as granted when training ends (R436). -/
def initialCredits : NMap Nat := (List.range 6).map (fun v => (v, vcBuffer v))

/-- A port in service on its good lanes, with the initial credits, the latency measured at training, its link at the start
(R45, R431, R433). -/
def Port.train (p : Port) (good : List Nat) (foreign : Bool) (latency : Nat) : Port :=
  { seated := p.seated, failed := p.failed, trained := true, up := true, foreign := foreign, lanes := good
    partner := p.partner, partnerSpan := p.partnerSpan, level := p.level, credits := initialCredits, latency := latency }

/-- The lanes of a mask that have not been taken out of use. -/
def Port.goodLanes (p : Port) (mask : Nat) : List Nat :=
  (List.range 4).filter (fun l => mask.testBit l && !p.failed.contains l)

/-- PORT_TRAINED: after the exchange of HELLO, training ends on the good lanes of the mask, two at least (R431, R432).
While a span forms, the module announces itself there too (R441). -/
def execPortTrained (port : Nat) (link : LinkTraining) (s : State) : Host.Outcome State Fault Refusal :=
  let p := s.port port
  let good := p.goodLanes link.lanes
  if s.portsRun = false ∨ p.seated = false ∨ p.trained ∨ p.partner.isNone ∨ good.length < 2 then okay s
  else
    let s1 := s.updPort port (fun p => p.train good p.foreign link.latency)
    if s1.span.state = .forming ∧ p.foreign = false then
      okay (s1.sendPort port (.announce (s1.span.known ++ [s1.myInfo])))
    else okay s1

/-- HELLO_TIMEOUT: no HELLO came within 20 ms of codeword lock: the port is trained and carries control messages only
(R431). -/
def execHelloTimeout (port : Nat) (s : State) : Host.Outcome State Fault Refusal :=
  let p := s.port port
  if s.portsRun = false ∨ p.seated = false ∨ p.partner.isSome ∨ (p.goodLanes 15).length < 2 then okay s
  else okay ((s.updPort port (fun p => p.train (p.goodLanes 15) true 0)).sendHello port)

/-! ### Lane failures (R432) -/

/-- LANE_FAILURE: a lane of a working port fails: it stays out of use, the port goes on with the others, their credits
and retry buffer as they are, or goes down with fewer than two. -/
def execLaneFailure (port lane : Nat) (s : State) : Host.Outcome State Fault Refusal :=
  let p := s.port port
  if s.portsRun = false ∨ p.up = false ∨ p.lanes.contains lane = false then okay s
  else
    let s1 := s.updPort port (fun p => { p with lanes := p.lanes.filter (· != lane), failed := addNew lane p.failed })
    okay (if p.lanes.length ≤ 2 then s1.portDown port else s1.widthChanged port)

/-! ### Acknowledgement, retry and credits (R433, R434, R436) -/

/-- Flits up to an acknowledged one leave the retry buffer; an ACK of none of them changes nothing. -/
def Port.acked (p : Port) (ack : BitVec 16) : Port :=
  if p.unacked.contains ack then
    { p with unacked := (p.unacked.dropWhile (· != ack)).drop 1, resend := p.resend - (p.unacked.takeWhile (· != ack)).length - 1 }
  else p

/-- A flit without a sequence number arrives: it acknowledges and returns credits (R433). -/
def Port.takeIdle (p : Port) (ack : BitVec 16) (cvc ccnt : Nat) : Port :=
  let q := p.acked ack
  ({ q with credits := NMap.ins cvc (Nat.min (vcBuffer cvc) (NMap.findD 0 cvc q.credits + ccnt)) q.credits } : Port).pump

/-- IDLE_FLIT. A receiver that waits for a retransmission drops it (R433, R434). -/
def execIdleFlit (port : Nat) (ack : BitVec 16) (cvc ccnt : Nat) (s : State) : Host.Outcome State Fault Refusal :=
  let p := s.port port
  if s.portsRun = false ∨ p.up = false ∨ p.dropping then okay s
  else okay (s.updPort port (fun p => p.takeIdle ack cvc ccnt))

/-- RETRY_REQUEST: the flits after the last good one are sent again; a flit retried eight times without success takes
the port down (R434). -/
def execRetryRequest (port : Nat) (ack : BitVec 16) (s : State) : Host.Outcome State Fault Refusal :=
  let p := (s.port port).acked ack
  if s.portsRun = false ∨ p.up = false ∨ p.dropping then okay s
  else match p.unacked with
    | [] => okay (s.updPort port (fun _ => p.pump))
    | q :: _ =>
      let n := if p.retryAt = some q then p.retries else 0
      if n ≥ 8 then okay (s.portDown port)
      else okay (s.updPort port (fun _ =>
        ({ p with retryAt := some q, retries := n + 1, resend := p.unacked.length } : Port).pump))

/-- UNCORRECTABLE_CODEWORD: the receiver drops its flits and those that follow, and asks for a retransmission after the
last good one (R434). -/
def execUncorrectableCodeword (port : Nat) (s : State) : Host.Outcome State Fault Refusal :=
  let p := s.port port
  if s.portsRun = false ∨ p.up = false then okay s
  else
    let s1 := s.updPort port (fun p => { p with dropping := true })
    okay { s1 with outbox := s1.outbox ++ [{ dst := 0, port := some port, body := .retryRequest p.rxSeq }] }

/-- PORT_DOWN_TIMEOUT: for 100 µs no lock, or no valid flit (R435). -/
def execPortDownTimeout (port : Nat) (s : State) : Host.Outcome State Fault Refusal :=
  if s.portsRun = false then okay s else okay (s.portDown port)

/-! ### Messages arriving (R431, R437, R439, R446) -/

/-- A message passed on to the member it is for, its source and transaction kept. -/
def State.forward (s : State) (hdr : MsgHdr) (b : MsgBody) : State :=
  s.send { dst := hdr.dst, src := some hdr.src, txid := hdr.txid, epoch := hdr.epoch, ward := hdr.ward, body := b }

/-- Whether a message can come in by its port: the port works, a foreign one carries control messages only, and the FIFO
from the PHY is not full (R39, R40). -/
def State.carries (s : State) (hdr : MsgHdr) (vc : Nat) : Bool :=
  let p := s.port hdr.port
  s.portsRun && p.up && (vc == 0 || !p.foreign) && decide (p.rxFifo.length < 64)

/-- A message's flits taken in order: a retransmission that was waited for has come (R434). -/
def State.tookFlits (s : State) (hdr : MsgHdr) (b : MsgBody) : State :=
  s.updPort hdr.port (fun p => { p with
    rxSeq := p.rxSeq + BitVec.ofNat 16 b.flits, dropping := false
    rxFifo := fifoPush 64 p.rxFifo ((seqsFrom p.rxSeq b.flits).map (fun q => q.setWidth 1024)) })

/-- A message received and acted on by `f`; for another member it is passed on (R446). Where `f` cannot take it yet it
stays in its buffer, and nothing happens. -/
def State.receive (s : State) (hdr : MsgHdr) (b : MsgBody) (f : State → Option State) : State :=
  if s.carries hdr b.vc = false then s
  else
    let s1 := s.tookFlits hdr b
    if s.inSpan && hdr.dst != s.span.ord then s1.forward hdr b
    else (f s1).getD s

/-- Whether a message comes from another current member. -/
def State.fromMember (s : State) (hdr : MsgHdr) : Bool := s.reachable hdr.src

/-- RESERVED_OP_MESSAGE: discarded and counted (R9, R439, R518). -/
def execReservedOpMessage (hdr : MsgHdr) (op : Byte) (s : State) : Host.Outcome State Fault Refusal :=
  let _ := op
  if s.portsRun && (s.port hdr.port).up then
    okay ((s.updPort hdr.port (fun p => { p with dropping := false })).countModule 10 1)
  else okay s

end Sys2Proof.Machine
end

