-- ==== Sys2Proof/Machine/Spans.lean ====
section
/-! DEFINITION. Module spans: formation, joining, rosters, heartbeats, losses, level commits, leaving, and the registers
SP.SPANCFG and SP.SPANCTL (R349, R440 to R449, R461 to R464, R525 to R527, R551 to R553). -/

namespace Sys2Proof.Machine

/-! ### Which messages count (R445) -/

/-- Whether a message is of an older epoch than this member's. -/
def State.stale (s : State) (hdr : MsgHdr) : Bool := epochOlder hdr.epoch s.span.epoch

/-- A message that any receiver acts on, whatever its destination and epoch: HELLO, ANNOUNCE, JOIN, and the refusal of a
JOIN. -/
def State.receiveAny (s : State) (hdr : MsgHdr) (b : MsgBody) (f : State → State) : State :=
  if s.carries hdr b.vc then f (s.tookFlits hdr b) else s

/-- A control message from a current member, not of an older epoch. -/
def State.control (s : State) (hdr : MsgHdr) (b : MsgBody) (f : State → State) : State :=
  s.receive hdr b (fun t => some (if t.fromMember hdr && !t.stale hdr then f t else t))

/-! ### Formation (R431, R441, R442, R526) -/

/-- The formation of a span, or the joining of one, begins: HELLO with the SPANID, ANNOUNCE on every trained port, and
JOIN through the lowest of them (log 60). The fabric domains wake. -/
def State.startForming (s : State) : State :=
  let id := s.span.cfgSpanId
  let s1 : State := { s with
    span := { s.span with state := .forming, spanId := id, master := false, reason := 0, ord := 0, epoch := 0, known := []
                          lastNews := s.nowN, leaveSent := false }
    ports := NMap.mapVals (fun _ p => { p with foreign := p.trained && (p.partner.isNone || p.partnerSpan != id) }) s.ports }
  let up := (List.range 16).filter (fun n => (s1.port n).up)
  let mine := up.filter (fun n => !(s1.port n).foreign)
  let s2 := up.foldl (fun st n => st.sendHello n) s1
  let s3 := mine.foldl (fun st n => st.sendPort n (.announce [st.myInfo])) s2
  let s4 := match mine with
    | n :: _ => s3.sendPort n (.join s3.myInfo)
    | [] => s3
  (s4.wake 27).wake 29

/-- ANNOUNCE: modules not heard of before are recorded, and all that are known are passed on to the other ports. -/
def execAnnounce (hdr : MsgHdr) (known : List ModInfo) (s : State) : Host.Outcome State Fault Refusal :=
  okay (s.receiveAny hdr (.announce known) (fun t =>
    if (t.port hdr.port).foreign ∨ ¬ (t.span.state = .forming ∨ t.inSpan) then t
    else
      let new := known.filter (fun i => i.moduleId != t.sec.ident.moduleId &&
        !(t.span.known.any (fun k => k.moduleId == i.moduleId)))
      if new.isEmpty then t
      else
        let t1 : State := { t with span := { t.span with known := t.span.known ++ new, lastNews := t.nowN } }
        ((List.range 16).filter (fun n => n != hdr.port && (t1.port n).up && !(t1.port n).foreign)).foldl
          (fun st n => st.sendPort n (.announce (st.span.known ++ [st.myInfo]))) t1))

/-- Modules in ascending order of identity. -/
def insertModule (i : ModInfo) : List ModInfo → List ModInfo
  | [] => [i]
  | x :: xs => if i.moduleId.toNat < x.moduleId.toNat then i :: x :: xs else x :: insertModule i xs

/-- Ordinals given to modules one after another (R443). -/
def giveOrdinals : List Nat → List ModInfo → List (Nat × ModInfo)
  | _, [] => []
  | taken, i :: is =>
    match ordinalFor taken [] i with
    | some o => (o, i) :: giveOrdinals (taken ++ [o]) is
    | none => giveOrdinals taken is

/-- The roster entries of modules with their ordinals; links by ordinal. -/
def entriesOf (ms : List (Nat × ModInfo)) : List RosterEntry :=
  ms.map (fun m => { ord := m.1, moduleId := m.2.moduleId, role := m.2.master, levels := m.2.levels
                     links := m.2.links.filterMap (fun id => (ms.find? (fun x => x.2.moduleId == id)).map (·.1)) })

/-- The span formed by its master: ordinals in ascending order of identity, the lowest levels, epoch 1 (R441, R443,
R462). -/
def State.formSpan (s : State) : State :=
  let all := (s.span.known ++ [s.myInfo]).foldl (fun l i => insertModule i l) []
  let ms := giveOrdinals [] all
  let me := ((ms.find? (fun m => m.2.moduleId == s.sec.ident.moduleId)).map (·.1)).getD 0
  let s1 := s.renameHere 0 me
  let s2 : State := { s1 with span := { s1.span with
    state := .member, ord := me, roster := entriesOf ms, levels := all.foldl (fun l i => commonLevels l i.levels) ownLevels
    memLevels := ms.map (fun m => (m.1, m.2.levels)) } }
  s2.becomeMaster.publish (entriesOf ms)

/-- MASTER_SELECT: 10 ms after the last new announcement the master is picked from the modules heard of; it forms the
span, and the others wait for its ROSTER. -/
def execMasterSelect (s : State) : Host.Outcome State Fault Refusal :=
  if s.portsRun = false ∨ s.span.state ≠ .forming ∨ s.nowN < s.span.lastNews + 10000000 then okay s
  else
    let all := (s.span.known ++ [s.myInfo]).map (fun i => (i.moduleId, i.master))
    okay (if pickMaster all = some s.sec.ident.moduleId then s.formSpan else s)

/-! ### Joining (R441, R443, R450, R463) -/

/-- The roster with a module admitted under an ordinal; its links count at both ends. -/
def State.withMember (s : State) (o : Nat) (i : ModInfo) : List RosterEntry :=
  let ls := i.links.filterMap (fun id => (s.span.roster.find? (fun r => r.moduleId == id)).map (·.ord))
  s.span.roster.map (fun r => { r with
    links := r.links.filter (· != o) ++ (ls.filter (· == r.ord)).map (fun _ => o) }) ++
    [{ ord := o, moduleId := i.moduleId, role := i.master, levels := i.levels, links := ls }]

/-- A JOIN at the master: refused for a level below a committed one or for want of an ordinal, otherwise admitted. One
from a module that is a member is not a new join. -/
def State.admitMember (s : State) (port : Nat) (i : ModInfo) : State :=
  if s.span.roster.any (fun r => r.moduleId == i.moduleId) then s
  else if levelsAtLeast i.levels s.span.levels = false then s.sendPort port (.joinRefusal .level)
  else match ordinalFor (s.span.roster.map (·.ord)) s.span.reserved i with
    | none => s.sendPort port (.joinRefusal .full)
    | some o =>
      let r := s.withMember o i
      let s1 : State := { s with span := { s.span with
        roster := r, reserved := s.span.reserved.filter (· != o), heard := NMap.ins o s.nowN s.span.heard
        memLevels := NMap.ins o i.levels s.span.memLevels } }
      s1.publish r

/-- JOIN: admitted or refused by the master; another member passes it on to the master. -/
def execJoin (hdr : MsgHdr) (info : ModInfo) (s : State) : Host.Outcome State Fault Refusal :=
  okay (s.receiveAny hdr (.join info) (fun t =>
    if t.inSpan = false ∨ (t.port hdr.port).foreign then t
    else if t.span.master then t.admitMember hdr.port info
    else t.sendTo t.span.masterOrd (.join info)))

/-- JOIN_REFUSAL: SP.SPANSTAT becomes refused, with the reason full or level. -/
def execJoinRefusal (hdr : MsgHdr) (reason : JoinReason) (s : State) : Host.Outcome State Fault Refusal :=
  okay (s.receiveAny hdr (.joinRefusal reason) (fun t =>
    if t.span.state = .forming then
      { t with span := { t.span with state := .refused, reason := match reason with | .full => 1 | .level => 2 } }
    else t))

/-! ### ROSTER (R441, R445, R446) -/

/-- The end of a leave: the module is out, and where EN was set meanwhile it forms or joins again (R527). -/
def State.leftSpan (s : State) : State :=
  let s1 := (s.outOfSpan .left).haspSettleAll.reportAll
  if s1.span.en then s1.startForming else s1

/-- A module that waits for a span joins it under the ordinal of the roster, and sends its first HEARTBEAT. -/
def State.enterSpan (s : State) (hdr : MsgHdr) (e : RosterEntry) (members : List RosterEntry) (lv : Levels) : State :=
  let s1 := s.renameHere 0 e.ord
  let s2 : State := { s1 with span := { s1.span with
    state := .member, ord := e.ord, master := false, masterOrd := hdr.src, roster := members, levels := lv
    reserved := [], masterHeard := s.nowN, lastBeat := s.nowN } }
  ((s2.toEpoch hdr.epoch).afterEpoch).sendTo hdr.src (.heartbeat ownLevels)

/-- A member adopts a roster: members that it leaves out are gone, and the routes, levels and epoch are the new ones. -/
def State.adoptRoster (s : State) (hdr : MsgHdr) (members : List RosterEntry) (lv : Levels) : State :=
  let gone := s.others.filter (fun m => !(members.any (fun r => r.ord == m)))
  let s1 := gone.foldl (fun st m => st.loseMember m) s
  let other := hdr.src != s.span.masterOrd
  let s2 : State := { s1 with span := { s1.span with
    roster := members, levels := lv, master := false, masterOrd := hdr.src, masterHeard := s.nowN
    reserved := s1.span.reserved.filter (fun o => !(members.any (fun r => r.ord == o)))
    prep := none, stalled := s1.span.stalled && !other, replyOwed := s1.span.replyOwed && !other } }
  (s2.toEpoch hdr.epoch).afterEpoch.reportAll

/-- ROSTER. -/
def execRoster (hdr : MsgHdr) (members : List RosterEntry) (levels : Levels) (s : State) : Host.Outcome State Fault Refusal :=
  okay (s.receive hdr (.roster members levels) (fun t =>
    let mine := members.find? (fun r => r.moduleId == t.sec.ident.moduleId)
    some (match t.span.state, mine with
    | .forming, some e => if (t.port hdr.port).foreign then t else t.enterSpan hdr e members levels
    | .member, some _ => if t.stale hdr then t else t.adoptRoster hdr members levels
    | .leaving, some _ => if t.stale hdr then t else t.adoptRoster hdr members levels
    | .member, none => if t.stale hdr then t else t.isolate
    | .leaving, none => if t.stale hdr then t else t.leftSpan
    | _, _ => t)))

/-! ### Heartbeats and losses (R447 to R449) -/

/-- HEARTBEAT: the master hears of a member and of its levels; a member hears of the master. A new master whose epoch a
survivor's is above takes that epoch plus 1 (R445). -/
def execHeartbeat (hdr : MsgHdr) (levels : Levels) (s : State) : Host.Outcome State Fault Refusal :=
  okay (s.control hdr (.heartbeat levels) (fun t =>
    if t.span.master then
      let t1 : State := { t with span := { t.span with
        heard := NMap.ins hdr.src t.nowN t.span.heard, memLevels := NMap.ins hdr.src levels t.span.memLevels } }
      if newer hdr.epoch t1.span.epoch then
        ({ t1 with span := { t1.span with epoch := hdr.epoch } } : State).publish t1.span.roster
      else t1
    else if hdr.src = t.span.masterOrd then { t with span := { t.span with masterHeard := t.nowN } }
    else t))

/-- HEARTBEAT_SEND: every 250 µs, a member to the master, the master to every member. -/
def execHeartbeatSend (s : State) : Host.Outcome State Fault Refusal :=
  if s.portsRun = false ∨ s.inSpan = false ∨ s.nowN < s.span.lastBeat + 250000 then okay s
  else
    let s1 : State := { s with span := { s.span with lastBeat := s.nowN } }
    okay (if s1.span.master then s1.toAll (.heartbeat ownLevels) else s1.sendTo s1.span.masterOrd (.heartbeat ownLevels))

/-- MEMBER_LOSS_TIMEOUT: no heartbeat of a member for 1.5 ms; the master declares it lost, and with it every other
member that is silent as long (R447, R448). -/
def execMemberLossTimeout (member : Nat) (s : State) : Host.Outcome State Fault Refusal :=
  let silent (m : Nat) : Bool := decide (NMap.findD 0 m s.span.heard + 1500000 ≤ s.nowN)
  if s.portsRun = false ∨ s.inSpan = false ∨ s.span.master = false ∨ s.reachable member = false ∨ silent member = false then okay s
  else okay (s.declareLost (s.others.filter silent))

/-- MASTER_LOSS_TIMEOUT: a member has heard no heartbeat of the master for 2 ms and declares it lost; the master is
chosen again (R442, R447, R448). -/
def execMasterLossTimeout (s : State) : Host.Outcome State Fault Refusal :=
  if s.portsRun = false ∨ s.inSpan = false ∨ s.span.master ∨ s.nowN < s.span.masterHeard + 2000000 then okay s
  else
    let old := s.span.masterOrd
    let part := (s.span.roster.map (·.ord)).filter (· != old)
    if majority s.span.roster part = false then okay s.isolate
    else
      let new := masterOf (s.span.roster.filter (fun r => r.ord != old))
      okay (if new = s.span.ord then s.becomeMaster.declareLost [old]
        else
          let s1 := s.loseMember old
          { s1 with span := { s1.span with masterOrd := new, masterHeard := s.nowN, stalled := false, replyOwed := false } })

/-- LOST: the member acts on the loss. One that is itself declared lost serves the span no longer; a leave under way
ends with it. -/
def execLost (hdr : MsgHdr) (member : Nat) (s : State) : Host.Outcome State Fault Refusal :=
  okay (s.control hdr (.lost member) (fun t =>
    if member = t.span.ord then (if t.span.state = .leaving then t.leftSpan else t.isolate)
    else if t.reachable member then t.loseMember member
    else t))

/-- LINKDOWN: at the master (R446). -/
def execLinkdown (hdr : MsgHdr) (a b : Nat) (s : State) : Host.Outcome State Fault Refusal :=
  okay (s.control hdr (.linkdown a b) (fun t => if t.span.master then t.linkLost hdr.src b else t))

/-! ### Leaving (R527) -/

/-- A member that has left, taken out by the master; it gets the roster without it. -/
def State.removeLeaver (s : State) (p : Nat) : State :=
  let port := s.routePort p
  let s1 := s.loseMember p
  let r := s1.span.roster.map (fun e => { e with links := e.links.filter (· != p) })
  let s2 := s1.publish r
  s2.send { dst := p, port := port, epoch := s2.span.epoch, body := .roster s2.span.roster s2.span.levels }

/-- LEAVE: the master removes the member; where the master itself leaves, the member chosen in its place does so. -/
def execLeave (hdr : MsgHdr) (s : State) : Host.Outcome State Fault Refusal :=
  okay (s.control hdr .leave (fun t =>
    if t.span.master then t.removeLeaver hdr.src
    else if hdr.src = t.span.masterOrd then
      let new := masterOf (t.span.roster.filter (fun r => r.ord != hdr.src))
      if new = t.span.ord then t.becomeMaster.removeLeaver hdr.src
      else { t with span := { t.span with masterOrd := new, masterHeard := t.nowN } }
    else t))

/-- Whether a store of this module to a span window is not yet at its final endpoint. -/
def State.windowStores (s : State) : Bool :=
  s.cores.any (fun ck => ck.2.groups.any (fun pg => pg.2.sb.any (fun e => isWindow e.tgt) || !pg.2.winDone.isEmpty) ||
    ck.2.orphans.any (fun o => match o.store with | some e => isWindow e.tgt | none => false)) ||
    s.fe.launches.any (fun kl => !kl.2.winDone.isEmpty)

/-- Whether a LAUNCH still joins this module to others: one it serves, or one of its own that runs on others. -/
def State.sharedLaunch (s : State) : Bool :=
  s.fe.launches.any (fun kl => kl.2.origin.isSome || (kl.2.go && kl.2.chain.any (fun c => c.1 != s.here)))

/-- LEAVE_DRAINED: the leaving module's shared tiles have ended and its window stores are done: it sends LEAVE, a master
to the member that is master after it; the last member is out at once. -/
def execLeaveDrained (s : State) : Host.Outcome State Fault Refusal :=
  if s.portsRun = false ∨ s.span.state ≠ .leaving ∨ s.span.leaveSent ∨ s.sharedLaunch ∨ s.windowStores then okay s
  else if s.others.isEmpty then okay s.leftSpan
  else
    let heir := if s.span.master then masterOf (s.span.roster.filter (fun r => r.ord != s.span.ord)) else s.span.masterOrd
    let s1 := s.sendTo heir .leave
    okay { s1 with span := { s1.span with leaveSent := true, master := false, masterOrd := heir, masterHeard := s.nowN } }

/-! ### Level commits (R462, R463) -/

/-- The levels that every member reports at least. -/
def State.reportedLevels (s : State) : Levels :=
  s.span.roster.foldl (fun l r => if r.ord = s.span.ord then l else commonLevels l (NMap.findD r.levels r.ord s.span.memLevels))
    ownLevels

/-- The levels a commit may raise the span to: an interface whose every report is above goes to the lowest report. -/
def State.raisedLevels (s : State) : Levels :=
  (List.range 5).foldl (fun l i =>
    if (levelOf l i).toNat < (levelOf s.reportedLevels i).toNat then setLevel l i (levelOf s.reportedLevels i) else l) s.span.levels

/-- LEVEL_COMMIT_START: at the master, where every member reports a level above a committed one. -/
def execLevelCommitStart (s : State) : Host.Outcome State Fault Refusal :=
  if s.portsRun = false ∨ s.inSpan = false ∨ s.span.master = false ∨ s.span.prep.isSome ∨ s.raisedLevels = s.span.levels then okay s
  else okay (s.startCommit s.raisedLevels).drained

/-- LEVELPREP: the member stops injecting and replies once its messages are answered. -/
def execLevelprep (hdr : MsgHdr) (levels : Levels) (s : State) : Host.Outcome State Fault Refusal :=
  okay (s.control hdr (.levelprep levels) (fun t =>
    if hdr.src = t.span.masterOrd then
      ({ t with span := { t.span with stalled := true, replyOwed := true } } : State).drained
    else t))

/-- LEVELPREP_REPLY: the master counts the reply and commits with the last. -/
def execLevelprepReply (hdr : MsgHdr) (s : State) : Host.Outcome State Fault Refusal :=
  okay (s.control hdr .levelprepReply (fun t =>
    ({ t with span := { t.span with prep := t.span.prep.map (fun p => (p.1, addNew hdr.src p.2)) } } : State).commitLevels))

/-- LEVELCOMMIT: the member adopts the epoch and the levels and resumes. -/
def execLevelcommit (hdr : MsgHdr) (levels : Levels) (s : State) : Host.Outcome State Fault Refusal :=
  okay (s.control hdr (.levelcommit levels) (fun t =>
    if hdr.src = t.span.masterOrd then
      (({ t with span := { t.span with levels := levels, stalled := false, replyOwed := false } } : State).toEpoch
        hdr.epoch).afterEpoch
    else t))

/-! ### Hasp messages (R349, R445) -/

/-- A hasp message by its epoch: an older one is discarded, a newer one held in the place of another of its line and
kind. -/
def State.haspMessage (s : State) (hdr : MsgHdr) (rel : Bool) (line gen : Nat) : State :=
  let m : HeldHasp := { line := line, rel := rel, src := hdr.src, gen := gen, epoch := hdr.epoch }
  if s.fromMember hdr = false ∨ s.stale hdr then s
  else if newer hdr.epoch s.span.epoch then
    match s.span.held.find? (fun x => x.line == line && x.rel == rel) with
    | some old =>
      if newer old.epoch m.epoch then s
      else { s with span := { s.span with held := s.span.held.filter (fun x => x != old) ++ [m] } }
    | none => { s with span := { s.span with held := s.span.held ++ [m] } }
  else s.haspHeld m

/-- HASPARR: a member's arrival at a generation, at the master. -/
def execHasparr (hdr : MsgHdr) (line gen : Nat) (s : State) : Host.Outcome State Fault Refusal :=
  okay (s.receive hdr (.hasparr line gen) (fun t => some (t.haspMessage hdr false line gen)))

/-- HASPREL: the master's release of a generation. -/
def execHasprel (hdr : MsgHdr) (line gen : Nat) (s : State) : Host.Outcome State Fault Refusal :=
  okay (s.receive hdr (.hasprel line gen) (fun t => some (t.haspMessage hdr true line gen)))

/-! ### SP.SPANCFG and SP.SPANCTL (R440, R525, R527, R552, R553) -/

/-- A write of SP.SPANCFG. A change of EN before READY is an access error; setting EN forms or joins a span, clearing it
in a member starts a leave. -/
def State.writeSpancfg (s : State) (v : DWord) : RegW :=
  let en := bitAt v 0
  if en ≠ s.span.en ∧ s.stage ≠ .ready then .drop 3 s
  else
    let s1 : State := { s with span := { s.span with
      en := en, cfgMaster := bitAt v 1, replace := bitAt v 2, cfgOrd := field v 15 4, cfgSpanId := v.extractLsb' 32 32 } }
    if en then
      match s.span.state with
      | .off => .done s1.startForming
      | .refused => .done s1.startForming
      | .isolated => .done s1.startForming
      | .left => .done s1.startForming
      | _ => .done s1
    else
      match s.span.state with
      | .member => .done { s1 with span := { s1.span with state := .leaving } }
      | .leaving => .done s1
      | .left => .done s1
      | _ => .done { s1 with span := { s1.span with state := .off, reason := 0, known := [] } }

/-- SPANCFG_EN_SET. -/
def execSpancfgEnSet (req : Requester) (v : DWord) (s : State) : Host.Outcome State Fault Refusal :=
  okay (s.winWrite req 0x50000 8 (fun t => t.writeSpancfg v))

/-- SPANCFG_EN_CLEAR. -/
def execSpancfgEnClear (req : Requester) (v : DWord) (s : State) : Host.Outcome State Fault Refusal :=
  okay (s.winWrite req 0x50000 8 (fun t => t.writeSpancfg v))

/-- A write of SP.SPANCTL, which acts on the master only: RELEASE of a reserved ordinal, LOWER of a committed level. A
lowering during a commit waits for its end. -/
def State.writeSpanctl (s : State) (v : DWord) : RegW :=
  let o := field v 15 4
  let lv := v.extractLsb' 16 8
  let i := field v 26 24
  if s.inSpan = false ∨ s.span.master = false then .drop 5 s
  else if bitAt v 0 && !(s.span.reserved.contains o) then .drop 4 s
  else if bitAt v 1 && (decide (i > 4) || decide (lv.toNat ≥ (levelOf s.span.levels i).toNat)) then .drop 4 s
  else
    let s1 : State := if bitAt v 0 then { s with span := { s.span with reserved := s.span.reserved.filter (· != o) } } else s
    if bitAt v 1 = false then .done s1
    else if s1.span.prep.isSome then .done { s1 with span := { s1.span with lowers := s1.span.lowers ++ [(i, lv)] } }
    else .done ((s1.startCommit (setLevel s1.span.levels i lv)).drained)

/-- SP_SPANCTL_RELEASE. -/
def execSpSpanctlRelease (req : Requester) (v : DWord) (s : State) : Host.Outcome State Fault Refusal :=
  okay (s.winWrite req 0x50010 8 (fun t => t.writeSpanctl v))

/-- SP_SPANCTL_LOWER. -/
def execSpSpanctlLower (req : Requester) (v : DWord) (s : State) : Host.Outcome State Fault Refusal :=
  okay (s.winWrite req 0x50010 8 (fun t => t.writeSpanctl v))

end Sys2Proof.Machine
end

