-- ==== Sys2Proof/Machine/Serve.lean ====
section
/-! DEFINITION. Launches over module spans: PLACE and its refusal, PULL, TILEDONE, and relay messages that arrive (R208,
R210, R455 to R459). -/

namespace Sys2Proof.Machine

/-! ### Serving contexts (R455) -/

/-- Entry `n` of the span context table; none is VALID while SP.SCTAB is zero (R575). -/
def State.scidEntry (s : State) (n : Nat) : Nat := if s.span.sctab = 0 then 0 else s.cohNat (s.span.sctab + 4 * n) 4

/-- The lowest context whose entry is VALID with an SCID. -/
def State.servingCtx (s : State) (scid : Nat) : Option Nat :=
  (List.range 16384).find? (fun n => nfield (s.scidEntry n) 15 0 == scid && (s.scidEntry n).testBit 16)

/-! ### PLACE (R456, R458) -/

/-- A peer's LAUNCH as a serving context reads it: its extension, span and handles at the same virtual addresses (R455). -/
def State.servedLaunch (s : State) (ctx src scid : Nat) (f : LaunchFields) : Chk Launch :=
  let walk := s.spanOf ctx f.spanRec.toNat
  (s.launchExt ctx f walk).bind fun x =>
  walk.bind fun w =>
  let chain := s.chainOf f.lnum w.ranges
  let l : Launch :=
    { ctx := ctx, ring := 0, count := 0, go := true, fields := f, origin := some src, scid := scid, chain := chain
      homes := chain, hasps := s.haspCores f.lnum w x.hspans, sprogs := x.sprogs, total := f.gx * f.gy * f.gz, pins := x.pins }
  .ok (if l.hasps.isEmpty then l else
    let mine := l.tilesAt s.here
    { l with pool := mine, noMore := true, batches := mine.map (fun t => (1, [t])) })

/-- A served LAUNCH put with the others, its handles pinned and its hasp lines bound. -/
def State.takeServed (s : State) (l : Launch) : State :=
  let s1 := l.pins.foldl (fun (st : State) i => st.pin l.ctx i) s
  { s1 with
    hasps := bindHasps s1.fe.nextKey l.hasps s1.hasps
    fe := { s1.fe with launches := NMap.ins s1.fe.nextKey l s1.fe.launches, nextKey := s1.fe.nextKey + 1 } }

/-- Whether a context can serve LAUNCHes of peers: activated, not faulted, not leaving. -/
def Ctx.serves (c : Ctx) : Bool :=
  !c.leaving && (c.state == .idle || c.state == .loading || c.state == .resident || c.state == .evicting)

/-- What becomes of a PLACE: it is taken or refused; it waits in its buffer, perhaps with a page asked for; or reading
what it names faults the serving context. -/
inductive Placed where
  | refuse
  | take (l : Launch)
  | wait
  | page (ctx va : Nat)
  | fault (ctx detail va : Nat)

/-- The decision on a PLACE. While the front end does not serve, or a hasp line of the LAUNCH is bound, it waits. -/
def State.onPlace (s : State) (src scid : Nat) (f : LaunchFields) : Placed :=
  if s.span.state = .leaving ∨ s.fe.en = false then .refuse
  else match s.servingCtx scid with
    | none => .refuse
    | some n =>
      if (s.ctx n).serves = false then .refuse
      else if s.feServes = false then .wait
      else match s.servedLaunch n src scid f with
        | .ok l => if s.haspsFree l then .take l else .wait
        | .page va => .page n va
        | .fault d va => .fault n d va
        | .fail _ _ _ => .refuse

/-- The effect of a PLACE, none while it waits in its buffer. -/
def State.placeMessage (s : State) (hdr : MsgHdr) (scid : Nat) (f : LaunchFields) : Option State :=
  match s.onPlace hdr.src scid f with
  | .refuse => some (s.sendTo hdr.src (.placeRefusal f.lnum))
  | .take l => some (s.takeServed l)
  | .wait => none
  | .page _ _ => none
  | .fault n d va => some (((s.sawPage n va).feFault n d va).sendTo hdr.src (.tiledone f.lnum {} true))

/-- PLACE. -/
def execPlace (hdr : MsgHdr) (scid : Nat) (fields : LaunchFields) (s : State) : Host.Outcome State Fault Refusal :=
  let ok (t : State) : Bool := t.fromMember hdr && !t.stale hdr
  let t := s.receive hdr (.place scid fields) (fun t => if ok t then t.placeMessage hdr scid fields else some t)
  if ok s && s.carries hdr 0 && hdr.dst == s.span.ord then
    match s.onPlace hdr.src scid fields with
    | .page n va => okay (s.pageRequest n va)
    | _ => okay t
  else okay t

/-! ### The origin (R456 to R458) -/

/-- The LAUNCH of an origin and number, as messages between modules name it. -/
def State.launchNamed (s : State) (origin lnum : Nat) : Option (Nat × Launch) :=
  s.fe.launches.find? (fun kl => kl.2.kind == .launch && kl.2.go && kl.2.origin.getD s.here == origin && kl.2.fields.lnum == lnum)

/-- PLACE_REFUSAL: the member gets no tiles, and the LAUNCH will complete with PEERLOST. -/
def execPlaceRefusal (hdr : MsgHdr) (lnum : Nat) (s : State) : Host.Outcome State Fault Refusal :=
  okay (s.control hdr (.placeRefusal lnum) (fun t =>
    match t.launchNamed t.here lnum with
    | none => t
    | some (k, _) => t.updLaunch k (fun l => { l with
        peerLost := some (l.peerLost.getD hdr.src), refused := addNew hdr.src l.refused
        out := if l.hasps.isEmpty then l.out else NMap.del hdr.src l.out })))

/-- The next batch of a LAUNCH: up to 64 linear indices. -/
def Launch.nextBatch (l : Launch) : List Nat :=
  if l.stops then [] else (List.range (Nat.min 64 (l.total - l.next))).map (fun i => l.next + i)

/-- A member's PULL answered by the origin; a LAUNCH that is over has no more indices. -/
def State.answerPull (s : State) (hdr : MsgHdr) (lnum : Nat) : State :=
  match s.launchNamed s.here lnum with
  | none => s.sendTo hdr.src (.batch lnum []) hdr.txid
  | some (k, l) =>
    let ts := l.nextBatch
    let s1 := s.updLaunch k (fun l => { l with
      next := l.next + ts.length, out := NMap.ins hdr.src (NMap.findD 0 hdr.src l.out + ts.length) l.out })
    s1.sendTo hdr.src (.batch lnum ts) hdr.txid

/-- The origin's answer taken by the member: the batch is to be placed, and an empty one is the last. -/
def State.takeBatch (s : State) (src lnum : Nat) (ts : List Nat) : State :=
  match s.launchNamed src lnum with
  | none => s
  | some (k, _) => (s.updLaunch k (fun l =>
      if ts.isEmpty then { l with pulled := false, noMore := true }
      else { l with pulled := false, batches := l.batches ++ [(ts.length, ts)], pool := if l.stops then [] else l.pool ++ ts })).reportServed k

/-- PULL: the request at the origin, or its answer at the member. -/
def execPull (hdr : MsgHdr) (lnum : Nat) (answer : Option (List Nat)) (s : State) : Host.Outcome State Fault Refusal :=
  match answer with
  | none => okay (s.control hdr (.pull lnum) (fun t => t.answerPull hdr lnum))
  | some ts => okay (s.control hdr (.batch lnum ts) (fun t => t.takeBatch hdr.src lnum ts))

/-- TILEDONE: the counts and flags of a batch are added; a fault of the serving context completes the LAUNCH with FAULT. -/
def execTiledone (hdr : MsgHdr) (lnum : Nat) (report : BatchReport) (faulted : Bool) (s : State) :
    Host.Outcome State Fault Refusal :=
  okay (s.control hdr (.tiledone lnum report faulted) (fun t =>
    match t.launchNamed t.here lnum with
    | none => t
    | some (k, _) => t.updLaunch k (fun l => { l with
        ended := l.ended + report.ended, failed := l.failed + report.failed, fenced := l.fenced + report.fencedDie
        flags := l.flags ||| report.flags, faulted := l.faulted || faulted
        out := if faulted then NMap.del hdr.src l.out
          else NMap.ins hdr.src (NMap.findD 0 hdr.src l.out - report.ended) l.out })))

/-! ### Relay (R208, R210, R437) -/

/-- A relay message put into the queue of the core that follows the sender's in its direction; none while that queue is
full, or while the LAUNCH is not known here. -/
def State.relayIn (s : State) (m : RelayMsg) : Option State :=
  match s.launchNamed m.origin m.lnum with
  | none => none
  | some (_, l) =>
    match chainNext l.chain m.dir (m.modOrd, m.core) with
    | none => none
    | some (o, c) => if o = s.here then ((s.core c).acceptRelay m).map (fun k => s.setCore c k) else none

/-- RELAY. -/
def execRelay (hdr : MsgHdr) (msg : RelayMsg) (s : State) : Host.Outcome State Fault Refusal :=
  okay (s.receive hdr (.relay msg) (fun t => if t.fromMember hdr then t.relayIn msg else some t))

end Sys2Proof.Machine
end

