-- ==== Sys2Proof/Machine/Windows.lean ====
section
/-! DEFINITION. Requests to span windows served for peers, their answers taken here, tumbler messages, SP.WININV and the
alignment of the timebase (R45, R294, R316, R317, R324 to R326, R333, R436 to R439, R451 to R453). -/

namespace Sys2Proof.Machine

/-! ### Requests of peers (R452, R453) -/

/-- The target of a window request at this module: the home agent's, or the controller's for an uncached page. -/
def windowTarget (pa : Nat) (cacheable : Bool) : Target := if cacheable then .cache pa else .uncached pa

/-- Whether `n` bytes from an address may be reached for the message's ward. -/
def State.windowAllowed (s : State) (hdr : MsgHdr) (pa n : Nat) : Bool :=
  let e := s.wardEntry hdr.ward
  let p := nfield e 5 0
  e.testBit 7 && s.isLpRange pa n && s.planReaches p pa && s.planReaches p (pa + n - 1)

/-- A request of `n` bytes checked, and performed or denied; `f` is none while the memory's domain sleeps or the line is
not free, and the request then stays in its buffer. -/
def State.serveWindow (s : State) (hdr : MsgHdr) (b : MsgBody) (pa n : Nat) (f : State → Option State) : State :=
  s.receive hdr b (fun t =>
    if t.fromMember hdr = false then some t
    else if t.windowAllowed hdr pa n = false then some ((t.countModule 9 1).sendTo hdr.src .deny hdr.txid hdr.ward)
    else if t.domain (t.memDomain pa) ≠ .idle then none
    else f t)

/-- Bytes of a window request's target, poisoned where any line of them is. -/
def State.windowBytes (s : State) (pa n : Nat) (cacheable : Bool) : List Byte × Bool :=
  let lines := (List.range ((pa % 128 + n + 127) / 128)).map (fun i => lineOf pa + 128 * i)
  if cacheable then (s.cohRead pa n, lines.any (fun l => (s.coherentLine l).poison))
  else (s.ms.mem.readN pa n, lines.any (fun l => s.ms.mem.poison.contains l))

/-- The answer to a request. -/
def State.answerTo (s : State) (hdr : MsgHdr) (b : MsgBody) : State := s.sendTo hdr.src b hdr.txid hdr.ward

/-- READ: answered with DATA, or with BULKDATA for a whole line, as the peer chooses (R436, R439). -/
def execRead (hdr : MsgHdr) (pa len : Nat) (cacheable : Bool) (s : State) : Host.Outcome State Fault Refusal :=
  okay (s.serveWindow hdr (.read pa len cacheable) pa len (fun t =>
    let (bs, p) := t.windowBytes pa len cacheable
    if len = 128 then
      let (i, t1) := t.draw
      some (t1.answerTo hdr (if Config.freeBool i then .bulkdata bs p else .data bs p))
    else some (t.answerTo hdr (.data bs p))))

/-- A write performed for a peer: visible and at its final endpoint once the controller has accepted it (R294). -/
def State.windowWrite (s : State) (hdr : MsgHdr) (pa : Nat) (bytes : List Byte) (cacheable wantDone : Bool) : State :=
  let s1 := (s.targetWrite (windowTarget pa cacheable) 0 bytes).answerTo hdr .visack
  if wantDone then s1.answerTo hdr .doneack else s1

/-- WRITE. -/
def execWrite (hdr : MsgHdr) (pa : Nat) (bytes : List Byte) (cacheable wantDone : Bool) (s : State) :
    Host.Outcome State Fault Refusal :=
  okay (s.serveWindow hdr (.write pa bytes cacheable wantDone) pa bytes.length (fun t =>
    some (t.windowWrite hdr pa bytes cacheable wantDone)))

/-- BULKWRITE. -/
def execBulkwrite (hdr : MsgHdr) (pa : Nat) (bytes : List Byte) (cacheable wantDone : Bool) (s : State) :
    Host.Outcome State Fault Refusal :=
  okay (s.serveWindow hdr (.bulkwrite pa bytes cacheable wantDone) pa bytes.length (fun t =>
    some (t.windowWrite hdr pa bytes cacheable wantDone)))

/-- The operands of a message as lanes, in their order. -/
def operandLanes (os : List (DWord × DWord)) : List (Nat × DWord × DWord) :=
  (List.range os.length).map (fun i => (i, (os.getD i (0, 0)).1, (os.getD i (0, 0)).2))

/-- ATOMIC: executed at the home or the controller; the old values go back (R294, R304). -/
def execAtomic (hdr : MsgHdr) (pa width : Nat) (op : AtomOp) (signed : Bool) (operands : List (DWord × DWord))
    (cacheable : Bool) (s : State) : Host.Outcome State Fault Refusal :=
  okay (s.serveWindow hdr (.atomic pa width op signed operands cacheable) pa width (fun t =>
    (t.doAtom 0 op width signed 0 (windowTarget pa cacheable) (operandLanes operands)).map (fun r =>
      r.1.answerTo hdr (.data ((r.2.1.map (fun lv => natBytes width lv.2.toNat)).flatten) r.2.2))))

/-- LR_MESSAGE: the data goes back, and the reservation of the peer's lane lies on the granule, in place of an earlier one
(R312). -/
def execLrMessage (hdr : MsgHdr) (pa width : Nat) (lane : PeerLane) (s : State) : Host.Outcome State Fault Refusal :=
  okay (s.serveWindow hdr (.lr pa width lane.who lane.cacheable) pa width (fun t =>
    let (bs, p) := t.windowBytes pa width lane.cacheable
    let kept := t.coh.peerResv.filter (fun r => !(r.1 == hdr.src && r.2.1 == lane.who))
    let t1 : State := { t with coh := { t.coh with
      peerResv := kept ++ [(hdr.src, lane.who, granuleOf (windowTarget pa lane.cacheable))] } }
    some (t1.answerTo hdr (.data bs p))))

/-- SC_MESSAGE: it succeeds while the reservation of the peer's lane lies on the granule, and ends it either way; the answer is 1 or 0 (R313, R314). -/
def execScMessage (hdr : MsgHdr) (pa : Nat) (bytes : List Byte) (lane : PeerLane) (s : State) :
    Host.Outcome State Fault Refusal :=
  okay (s.serveWindow hdr (.sc pa bytes lane.who lane.cacheable) pa bytes.length (fun t =>
    let tgt := windowTarget pa lane.cacheable
    let t1 : State := { t with coh := { t.coh with
      peerResv := t.coh.peerResv.filter (fun r => !(r.1 == hdr.src && r.2.1 == lane.who)) } }
    if t.coh.peerResv.contains (hdr.src, lane.who, granuleOf tgt) then
      some (((t1.targetWrite tgt 0 bytes).killResv (fun _ => true) (granuleOf tgt)).answerTo hdr (.data [1] false))
    else some (t1.answerTo hdr (.data [0] false))))

/-! ### Answers (R317, R439, R453) -/

/-- An answer to a request that is outstanding. -/
def State.answered (s : State) (hdr : MsgHdr) (b : MsgBody) (f : State → State) : State :=
  s.receive hdr b (fun t => some (if t.fromMember hdr && t.hasTx hdr.txid hdr.src then f t else t))

/-- The lanes of a group's load that a transaction answers, given the line: the group's own earlier stores that are not
visible yet lie over it (R308). -/
def Group.loadReply (x : Group) (l : PendLoad) (tx : Nat) (bytes : List Byte) (poison : Bool) : PendLoad :=
  { l with lanes := l.lanes.map (fun a =>
      if a.txid = some tx ∧ a.reply.isNone then
        { a with reply := some (x.forward l.order a.tgt ((bytes.drop (lineOff a.tgt)).take l.width), poison) } else a) }

/-- A request of an atomic or SC answered: the old value of each lane, which for a combined operand the one old value and
the lower lanes' operands give (R304), or whether the SC succeeded. -/
def AtomReq.reply (r : AtomReq) (tx : Nat) (bytes : List Byte) (poison : Bool) : AtomReq :=
  if r.txid = some tx ∧ r.result.isNone then
    if poison && r.op.isSome then { r with result := some [], poison := true }
    else
      let val (i : Nat) : Nat := bytesNat (if r.op.isSome then (bytes.drop (i * r.width)).take r.width else bytes)
      let each : List (Nat × DWord) :=
        (List.range r.lanes.length).map (fun i => ((r.lanes.getD i (0, 0, 0)).1, BitVec.ofNat 64 (val i)))
      match r.op with
      | some op => { r with result := some (if combines op then (atomRun op r.width r.signed (val 0) r.lanes).2 else each) }
      | none => { r with result := some each }
  else r

/-- Whether an orphan is an atomic of a transaction. -/
def Orphan.isAtom (o : Orphan) (tx : Nat) : Bool :=
  match o.atom with
  | some a => a.txid == some tx
  | none => false

/-- Data for every access of this module that a transaction stands for. -/
def State.takeData (s : State) (tx : Nat) (bytes : List Byte) (poison : Bool) : State :=
  { s with cores := NMap.mapVals (fun _ k => { k with
      groups := NMap.mapVals (fun _ x => { x with
        loads := x.loads.map (fun l => x.loadReply l tx bytes poison), atoms := x.atoms.map (fun r => r.reply tx bytes poison) }) k.groups
      winreads := k.winreads.map (fun w => if w.txid = tx ∧ w.reply.isNone then { w with reply := some (bytes, poison) } else w)
      orphans := k.orphans.filter (fun o => !o.isAtom tx) }) s.cores }

/-- DATA. -/
def execData (hdr : MsgHdr) (bytes : List Byte) (poison : Bool) (s : State) : Host.Outcome State Fault Refusal :=
  okay (s.answered hdr (.data bytes poison) (fun t =>
    ((t.takeData hdr.txid bytes poison).endTx hdr.txid hdr.src).afterAnswer))

/-- BULKDATA. -/
def execBulkdata (hdr : MsgHdr) (bytes : List Byte) (poison : Bool) (s : State) : Host.Outcome State Fault Refusal :=
  okay (s.answered hdr (.bulkdata bytes poison) (fun t =>
    ((t.takeData hdr.txid bytes poison).endTx hdr.txid hdr.src).afterAnswer))

/-- Whether a store entry waits for a transaction, and the entry without it. -/
def SbEntry.waitsFor (e : SbEntry) (tx : Nat) : Bool := e.txids.contains tx
def SbEntry.without (e : SbEntry) (tx : Nat) : SbEntry := { e with txids := e.txids.filter (· != tx) }

/-- Whether a store entry's writes have all been answered. -/
def SbEntry.acked (e : SbEntry) : Bool := e.sent && e.txids.isEmpty

/-- A group's store entry without a transaction that is over; the entry goes with its last write. -/
def Group.sbWithout (x : Group) (tx : Nat) : Group :=
  { x with sb := (x.sb.map (fun f => if f.waitsFor tx then f.without tx else f)).filter (fun f => !f.acked) }

/-- A group's window store of a transaction visible at the peer (R316): the entry goes with its last write. -/
def Group.visAck (x : Group) (tx : Nat) : Group :=
  match x.sb.find? (fun e => e.waitsFor tx) with
  | none => x
  | some e => { x.sbWithout tx with winDone := x.winDone ++ [(tx, e.order, e.va)] }

/-- Whether an orphan's store waits for a transaction. -/
def Orphan.waitsFor (o : Orphan) (tx : Nat) : Bool :=
  match o.store with
  | some e => e.waitsFor tx
  | none => false

/-- The stores of a core's ended groups without those that a transaction completes. -/
def Core.orphanAck (k : Core) (tx : Nat) : Core :=
  { k with orphans := (k.orphans.map (fun o => { o with store := o.store.map (fun e => e.without tx) })).filter (fun o =>
      match o.store with
      | some e => !e.acked
      | none => true) }

/-- A write visible at the peer, of whichever group, running or ended. -/
def State.takeVis (s : State) (tx : Nat) : State :=
  let ls := (s.cores.map (fun ck => (ck.2.orphans.filter (fun o => o.waitsFor tx)).map (·.launch))).flatten
  let s1 : State := { s with cores := NMap.mapVals (fun _ k =>
    let k1 := if k.orphans.any (fun o => o.waitsFor tx) then k.orphanAck tx else k
    { k1 with groups := NMap.mapVals (fun _ x => x.visAck tx) k1.groups }) s.cores }
  ls.foldl (fun (st : State) k => st.updLaunch k (fun l => { l with winDone := addNew tx l.winDone })) s1

/-- A write at its final endpoint. -/
def State.takeDone (s : State) (tx : Nat) : State :=
  { s with
    cores := NMap.mapVals (fun _ k => { k with
      groups := NMap.mapVals (fun _ x => { x with winDone := x.winDone.filter (fun w => w.1 != tx) }) k.groups }) s.cores
    fe := { s.fe with launches := NMap.mapVals (fun _ l => { l with winDone := l.winDone.filter (· != tx) }) s.fe.launches } }

/-- VISACK. -/
def execVisack (hdr : MsgHdr) (s : State) : Host.Outcome State Fault Refusal :=
  okay (s.answered hdr .visack (fun t => (t.takeVis hdr.txid).afterAnswer))

/-- DONEACK. -/
def execDoneack (hdr : MsgHdr) (s : State) : Host.Outcome State Fault Refusal :=
  okay (s.answered hdr .doneack (fun t =>
    (((t.takeVis hdr.txid).takeDone hdr.txid).endTx hdr.txid hdr.src).afterAnswer))

/-- A group whose store of a transaction is denied: undeliverable (R316). -/
def Group.storeDenied (x : Group) (tx : Nat) : Group :=
  match x.sb.find? (fun e => e.waitsFor tx) with
  | some e => (x.sbWithout tx).noteUndelivered e.order e.va
  | none => x

/-- A group after a denial: its store is undeliverable, its load reads poison, its atomic too, its SC fails. -/
def Group.denied (x : Group) (tx : Nat) : Group :=
  let y := x.storeDenied tx
  { y with
    loads := y.loads.map (fun l => { l with lanes := l.lanes.map (fun a =>
      if a.txid = some tx ∧ a.reply.isNone then { a with reply := some (List.replicate l.width 0, true) } else a) })
    atoms := y.atoms.map (fun a => if a.txid = some tx ∧ a.result.isNone then a.lost else a) }

/-- A denied request completes as to a lost peer; an undeliverable store is counted for its context (R316, R453, R517). -/
def State.takeDenial (s : State) (tx : Nat) : State :=
  let stores := (s.cores.map (fun ck =>
    ((ck.2.groups.filter (fun pg => pg.2.sb.any (fun e => e.waitsFor tx))).map (fun pg => s.ctxOf ⟨ck.1, pg.1⟩)) ++
      (ck.2.orphans.filter (fun o => o.waitsFor tx)).map (·.ctx))).flatten
  let s1 : State := { s with cores := NMap.mapVals (fun _ k =>
    let k1 := if k.orphans.any (fun o => o.waitsFor tx) then k.orphanAck tx else k
    { k1 with
      groups := NMap.mapVals (fun _ x => x.denied tx) k1.groups
      winreads := k1.winreads.map (fun w =>
        if w.txid = tx ∧ w.reply.isNone then { w with reply := some (List.replicate 128 0, true) } else w)
      orphans := k1.orphans.filter (fun o => !o.isAtom tx) }) s.cores }
  stores.foldl (fun (st : State) c => st.countCtx c 14 1) s1

/-- DENY. -/
def execDeny (hdr : MsgHdr) (s : State) : Host.Outcome State Fault Refusal :=
  okay (s.answered hdr .deny (fun t => ((t.takeDenial hdr.txid).endTx hdr.txid hdr.src).afterAnswer))

/-! ### Tumbler messages (R325, R326, R333) -/

/-- TARRIVE_MESSAGE: an operation on a tumbler of the message's ward joins those on their way to the unit. One of another
ward sets M, is reported to this module's keeper and does nothing else (R333); what its TTEST reads is open, and its TWAIT does not end. -/
def execTarriveMessage (hdr : MsgHdr) (tumbler scid : Nat) (op : TumOp) (s : State) : Host.Outcome State Fault Refusal :=
  okay (s.receive hdr (.tarrive tumbler scid op) (fun t => some (
    if t.fromMember hdr = false then t
    else if (t.tum tumbler).ward = hdr.ward ∨ op = .mark then
      { t with tumq := t.tumq ++ [⟨.peer hdr.src hdr.txid, tumbler, op⟩] }
    else
      let t0 : State := { t with dbg := { t.dbg with misuse := t.dbg.misuse ++ [(hdr.src, tumbler)] } }
      let t1 := t0.setTum tumbler { t.tum tumbler with m := true }
      match op with
      | .test _ =>
        let (i, t2) := t1.draw
        t2.sendTo hdr.src (.twake (Config.freeBool i)) hdr.txid hdr.ward
      | _ => t1)))

/-- TMAPCHK: the check of a REMOTE entry, its owner being the context that serves the SCID here (R324, R325, log 62). -/
def execTmapchk (hdr : MsgHdr) (tumbler scid : Nat) (shared : Bool) (s : State) : Host.Outcome State Fault Refusal :=
  okay (s.receive hdr (.tmapchk tumbler scid shared) (fun t => some (
    if t.fromMember hdr = false then t
    else
      let u := t.tum tumbler
      let own := shared || t.servingCtx scid == some u.owner
      t.sendTo hdr.src (.twake (u.ward == hdr.ward && own)) hdr.txid hdr.ward)))

/-- A command after the answer to what it asked a peer: the check of its identifier, or the end of its wait. -/
def Cmd.woken (m : Cmd) (tx : Nat) (outcome : Bool) : Cmd :=
  if m.ask ≠ some tx then m
  else match m.state with
    | .fetched => { m with ask := none, answer := some outcome }
    | .waiting => if m.tgt && outcome then { m with ask := none, state := .ended 0 0 m.seen 0 } else { m with ask := none }
    | _ => { m with ask := none }

/-- A context after the answer: its commands, and the check of a map entry, foreign where it failed. -/
def Ctx.woken (c : Ctx) (tx : Nat) (outcome : Bool) : Ctx :=
  { c with
    rings := NMap.mapVals (fun _ r => { r with cmds := r.cmds.map (fun m => m.woken tx outcome) }) c.rings
    map := (c.mapAsk.filter (fun a => a.1 == tx)).foldl (fun m a =>
      NMap.modify a.2 (fun e => { e with foreign := e.foreign || !outcome }) m) c.map
    mapAsk := c.mapAsk.filter (fun a => a.1 != tx) }

/-- The groups that wait for a peer's answer. -/
def State.tumGroups (s : State) (tx : Nat) : List Site :=
  (s.cores.map (fun ck => ck.2.groups.filterMap (fun pg =>
    match pg.2.wait with
    | .twait _ _ n _ _ _ => if n = 65536 + tx then some (⟨ck.1, pg.1⟩ : Site) else none
    | .ttest _ _ n _ _ => if n = 65536 + tx then some (⟨ck.1, pg.1⟩ : Site) else none
    | _ => none))).flatten

/-- TWAKE: the answer to a TWAIT or TTEST on a peer's tumbler, a ring's WAIT, or a check. -/
def execTwake (hdr : MsgHdr) (outcome : Bool) (s : State) : Host.Outcome State Fault Refusal :=
  okay (s.answered hdr (.twake outcome) (fun t =>
    let t1 := (t.tumGroups hdr.txid).foldl (fun st g => st.endTumWait g outcome) (t.endTx hdr.txid hdr.src)
    ({ t1 with fe := { t1.fe with ctxs := NMap.mapVals (fun _ c => c.woken hdr.txid outcome) t1.fe.ctxs } } : State).afterAnswer))

/-! ### SP.WININV (R451) -/

/-- A write of SP.WININV: complete at once where no window access is outstanding. -/
def State.writeWininv (s : State) (v : DWord) : State :=
  ({ s with span := { s.span with invs := addNew (field v 9 0) s.span.invs } } : State).settleInv

/-- SP_WININV. -/
def execSpWininv (req : Requester) (v : DWord) (s : State) : Host.Outcome State Fault Refusal :=
  okay (s.winWrite req 0x50030 8 (fun t => .done (t.writeWininv v)))

/-- What one step does while no command waits: a nanosecond passes, SP.WININV writes complete, and a rise of PWR_EN that came
early takes effect (R563, log 2). -/
def State.idle (s : State) : State := s.tick.settleInv.settleRise

/-! ### TBSYNC (R45) -/

/-- TBSYNC: a member takes the offset of its timebase from the master's value, the latencies of the links that the message
crossed before, and that of the last link, each measured at its training, and slews (R45, log 105). -/
def execTbsync (hdr : MsgHdr) (time : DWord) (before : Nat) (s : State) : Host.Outcome State Fault Refusal :=
  okay (s.receive hdr (.tbsync time) (fun t => some (
    if t.inSpan ∧ t.span.master = false ∧ hdr.src = t.span.masterOrd then
      { t with time := { t.time with slew := signedOf 64 ((time - t.time.now).toNat + before + (t.port hdr.port).latency) } }
    else t)))

end Sys2Proof.Machine
end

