-- ==== Sys2Proof/Machine/Registers.lean ====
section
/-! DEFINITION. Every register of the set-up window read and written, and the recovery buffer (R7, R10, R488, R500, R518,
R538 to R559, R575). -/

namespace Sys2Proof.Machine

/-! ### Identity (R235, R488, R545) -/

/-- PART of a module. -/
def Identity.part (x : Identity) : Nat := if x.small then 0x0768 else 0x1536

/-- The 128 bits of a die entry. -/
def DieEntry.bits (e : DieEntry) : Nat :=
  e.lot.toNat + e.wafer.toNat * 2 ^ 48 + e.x.toNat * 2 ^ 56 + e.y.toNat * 2 ^ 64 + e.site.toNat * 2 ^ 72

/-- The body of the identity record, HELPER read as zero. -/
def Identity.bits (x : Identity) : Nat :=
  x.moduleId.toNat + x.part * 2 ^ 64 +
    ((List.range 11).map (fun d => (NMap.findD {} d x.dies).bits * 2 ^ (256 + 128 * d))).sum + x.devKeyHash.toNat * 2 ^ 1664

/-- The 1,024 bits of a spare map. -/
def SpareMap.bits (m : SpareMap) : Nat :=
  ((List.range 96).map (fun n => NMap.findD 0 n m.map * 2 ^ (8 * n))).sum + m.retired.toNat * 2 ^ 768 + m.spares * 2 ^ 868 +
    b2n m.fenced * 2 ^ 872 + m.retires.n * 2 ^ 880 + b2n m.retires.sat * 2 ^ 896

/-- ID.ACCERR (R543). -/
def AccErr.bits (e : AccErr) : Nat :=
  e.offset + e.kind * 2 ^ 20 + b2n e.write * 2 ^ 23 + b2n e.host * 2 ^ 24 + b2n e.valid * 2 ^ 63

/-! ### Status registers -/

/-- A value of SP.SPANSTAT.STATE (R552). -/
def SpanState.code : SpanState → Nat
  | .off => 0 | .forming => 1 | .member => 2 | .refused => 3 | .isolated => 4 | .leaving => 5 | .left => 6

/-- SP.SPANCFG (R440). -/
def Span.cfgBits (x : Span) : Nat :=
  b2n x.en + 2 * b2n x.cfgMaster + 4 * b2n x.replace + x.cfgOrd * 2 ^ 4 + x.cfgSpanId.toNat * 2 ^ 32

/-- SP.SPANSTAT (R552). -/
def Span.statBits (x : Span) : Nat :=
  x.state.code + 8 * b2n x.master + (if x.state = .refused then x.reason else 0) * 2 ^ 4 + x.ord * 2 ^ 16 + x.epoch.toNat * 2 ^ 32

/-- Levels in the layout of ID.LEVELS (R545). -/
def levelBits (l : Levels) : Nat :=
  l.ring.toNat + l.amixis.toNat * 2 ^ 8 + l.spans.toNat * 2 ^ 16 + l.tumblers.toNat * 2 ^ 24 + l.trace.toNat * 2 ^ 32

/-- SP.PORTSTAT (R551). -/
def State.portStat (s : State) : Nat :=
  ((List.range 16).map (fun p =>
    let x := s.port p
    (x.widthCode + 4 * b2n x.foreign + 8 * b2n x.trained) * 2 ^ (4 * p))).sum

/-- PW.CTL, PW.STATUS and PW.DOMSTATE (R471, R473). -/
def Power.ctlBits (x : Power) : Nat := x.cap + x.op.toNat * 2 ^ 12 + x.vset * 2 ^ 16 + x.hosttol * 2 ^ 32
def Power.statBits (x : Power) : Nat :=
  x.vnow + b2n x.caplim * 2 ^ 6 + b2n x.therm * 2 ^ 7 + b2n x.swarn * 2 ^ 8 + b2n x.exc * 2 ^ 9 + x.excno.toNat * 2 ^ 32
def State.domStat (s : State) : Nat := ((List.range 32).map (fun d => (s.domain d).code * 2 ^ (2 * d))).sum

/-- SC.DBGSTAT, SC.BANKSTAT (R554). -/
def Security.dbgBits (x : Security) : Nat :=
  x.result + x.lastToken * 2 ^ 4 + ((x.tokens.map (fun t => 2 ^ t.1)).sum) * 2 ^ 8 +
    (x.tokens.foldl (fun (r : BitVec 4) t => r ||| t.2.rights) 0).toNat * 2 ^ 12
def Security.bankBits (x : Security) : Nat :=
  b2n x.bootedB + x.bankA.state.toNat * 2 + x.bankA.tries * 2 ^ 3 + x.bankB.state.toNat * 2 ^ 5 + x.bankB.tries * 2 ^ 7

/-- HG.STATUS, HG.POISON (R558). -/
def Hinge.statBits (x : Hinge) : Nat :=
  b2n x.up + 2 * b2n x.retrain + 4 * b2n x.quiescing + 8 * b2n x.waitEpoch + x.retrains.n * 2 ^ 16 + b2n x.retrains.sat * 2 ^ 48
def Hinge.poisonBits (x : Hinge) : Nat := x.poisonAddr + b2n x.poisonMore * 2 ^ 62 + b2n x.poisonValid * 2 ^ 63

/-- RT.STATUS.BAD: the VALID entries that are ignored (R427). -/
def State.rtBad (s : State) : Nat :=
  ((List.range 16).map (fun n => b2n (bitAt (NMap.findD 0 n s.hinge.rtBase) 0 && !s.retEntryOk n) * 2 ^ n)).sum

/-! ### Reads -/

/-- A module counter, zero with DENIED set unless a token grants right [150] (R500, R518). -/
def State.readMcount (s : State) (n : Nat) : DWord × State :=
  if s.sec.tokens.any (fun t => t.2.rights.getLsbD 2) then
    (BitVec.ofNat 64 (SatCount.slot (NMap.findD {} n s.mcount)), s)
  else (0, s.setDenied)

/-- The value of a register whose read has no effect. -/
def State.regValue (s : State) : SetReg → Nat
  | .idModuleId => s.sec.ident.moduleId.toNat
  | .idPart => s.sec.ident.part
  | .idStage => s.stage.code
  | .idLevels => levelBits ownLevels
  | .idFwver => s.sec.fwKeeper.toNat + s.sec.fwFront.toNat * 2 ^ 32
  | .idAccerr => s.accerr.bits
  | .idIdrec n => s.sec.ident.bits / 2 ^ (64 * n) % 2 ^ 64
  | .idSpare n => (s.spareMap (n / 16)).bits / 2 ^ (64 * (n % 16)) % 2 ^ 64
  | .feCtl => b2n s.fe.en + 2 * b2n s.fe.mirror + 4 * b2n s.fe.badring
  | .feCtxbase => s.fe.ctxbase
  | .feSlotbase => s.fe.slotbase
  | .feRingbase => s.fe.ringbase
  | .wdWardbase => s.fe.wardbase
  | .mpShareways => ((List.range 8).map (fun d => NMap.findD 0 d s.ms.shareways * 2 ^ (4 * d))).sum
  | .mpHostplan => s.ms.hostplan
  | .mpRapply => b2n s.ms.arm + 2 * b2n s.ms.dropped
  | .mpRegion n => (NMap.findD 0 n s.ms.staged).toNat
  | .tmSel => s.ms.tmSel
  | .tmState0 => (s.tum s.ms.tmSel).bits % 2 ^ 64
  | .tmState1 => (s.tum s.ms.tmSel).bits / 2 ^ 64
  | .spSpancfg => s.span.cfgBits
  | .spSpanstat => s.span.statBits
  | .spLevels => if s.inSpan then levelBits s.span.levels else 0
  | .spPortstat => s.portStat
  | .spWintab => s.span.wintab
  | .spSctab => s.span.sctab
  | .spTbload => s.time.load.toNat
  | .spTbctl => b2n s.time.arm + 2 * b2n s.time.reflost
  | .spTbnow => s.time.now.toNat
  | .pwCtl => s.power.ctlBits
  | .pwStatus => s.power.statBits
  | .pwDomstate => s.domStat
  | .pwEnergy => s.power.energy.n + b2n s.power.energy.sat * 2 ^ 63
  | .pwExcbase => s.power.excbase
  | .scCounter => s.sec.counter.toNat
  | .scBootstat => s.sec.bootCause + s.sec.bootLen.toNat * 2 ^ 32
  | .scDbgstat => s.sec.dbgBits
  | .scBankstat => s.sec.bankBits
  | .scBankseq => s.sec.bankA.seq.toNat + s.sec.bankB.seq.toNat * 2 ^ 32
  | .scUpdaddr => s.sec.updaddr
  | .scUpdlen => s.sec.updlen.toNat
  | .scUpdstat => s.sec.updstat
  | .dbStatus => b2n s.dbg.denied + 2 * b2n s.dbg.nothalted + 4 * b2n s.dbg.badsel
  | .dbGctl => s.dbg.selCore + s.dbg.selPlace * 2 ^ 10
  | .dbGstat => s.gstat.toNat
  | .dbRsel => s.dbg.rsel.toNat
  | .dbCsel => s.dbg.csel
  | .dbTrbase => s.dbg.trbase
  | .dbTrsize => s.dbg.trsize
  | .dbTrctl => b2n s.dbg.tren + 2 * b2n s.dbg.wrap + 4 * b2n s.dbg.sample
  | .dbTrstat => b2n s.dbg.full + s.dbg.nrec * 2 + s.dbg.bseq.toNat * 2 ^ 32
  | .dbElbase => s.dbg.elbase
  | .dbElcount => s.dbg.elcount.toNat
  | .dbBpa n => (s.readBp false false n).toNat
  | .dbBpc n => (s.readBp false true n).toNat
  | .dbWpa n => (s.readBp true false n).toNat
  | .dbWpc n => (s.readBp true true n).toNat
  | .ctCtxbase => s.fe.ctbase
  | .rtBase n => (NMap.findD 0 n s.hinge.rtBase).toNat
  | .rtLimit n => (NMap.findD 0 n s.hinge.rtLimit).toNat
  | .rtStatus => s.rtBad
  | .hgEpoch => s.hinge.epoch.toNat
  | .hgStatus => s.hinge.statBits
  | .hgHartrun => s.hinge.hartrun.toNat
  | .hgHartrunhi => s.hinge.hartrunHi.toNat
  | .hgPoison => s.hinge.poisonBits
  | _ => 0

/-- A read of a register: its value, and what the read does. A write-only register reads zero (R7). -/
def State.readReg (s : State) (r : SetReg) : DWord × State :=
  match r with
  | .idStage => let t := s.seeStage; (BitVec.ofNat 64 t.stage.code, t)
  | .scNonce => s.readNonce
  | .dbRdata => s.readRdata
  | .ctMcount n => s.readMcount n
  | r => (BitVec.ofNat 64 (s.regValue r), s)

/-! ### Writes -/

/-- A base register written with an address whose structure measures `n` bytes: refused where that does not lie wholly in
LPDDR5X, or where `locked` says that it takes no writes now (R547, R557, R575, log 35). -/
def State.writeBase (s : State) (a n : Nat) (locked : Bool) (f : State → State) : RegW :=
  if a ≠ 0 ∧ s.isLpRange a n = false then .drop 4 s
  else if locked then .drop 5 s
  else .done (f s)

/-- The address in bits [51:lo] of a value; the other bits are reserved. -/
def baseOf (v : DWord) (lo : Nat) : Nat := field v 51 lo * 2 ^ lo

/-- A write of DB.TRBASE or DB.TRSIZE: the reserve that the two name together lies in LPDDR5X (R557, R575). A register
that is zero names none (log 63). -/
def State.writeTrace (s : State) (base size : Nat) : RegW :=
  s.writeBase (if size = 0 then 0 else base) size s.dbg.tren (fun t =>
    { t with dbg := { t.dbg with trbase := base, trsize := size } })

/-- The fields of a bit-wise write-1-to-clear register: kept where the value has a 0. -/
def w1c (old : Bool) (v : DWord) (i : Nat) : Bool := old && !bitAt v i

/-- A write of a register. A read-only register or a counter keeps its value (R7). -/
def State.writeReg (s : State) (r : SetReg) (v : DWord) : RegW :=
  match r with
  | .idAccerr => .done { s with accerr := { s.accerr with valid := w1c s.accerr.valid v 63 } }
  | .feCtl => s.writeFeCtl v
  | .feCtxbase => s.writeBase (baseOf v 12) 0x400000 s.fe.en (fun t => { t with fe := { t.fe with ctxbase := baseOf v 12 } })
  | .feSlotbase => s.writeBase (baseOf v 12) 0x1000 s.fe.en (fun t => { t with fe := { t.fe with slotbase := baseOf v 12 } })
  | .feRingbase => s.writeBase (baseOf v 6) 64 s.fe.en (fun t => { t with fe := { t.fe with ringbase := baseOf v 6 } })
  | .feCtxon => s.writeCtxon v
  | .feCtxoff => s.writeCtxoff v
  | .wdWardbase => s.writeBase (baseOf v 12) 0x4000 s.fe.en (fun t => { t with fe := { t.fe with wardbase := baseOf v 12 } })
  | .mpShareways => s.writeShareways v
  | .mpHostplan => s.writeHostplan v
  | .mpRapply => .done { s with ms := { s.ms with arm := bitAt v 0, dropped := w1c s.ms.dropped v 1 } }
  | .mpRegion n => .done { s with ms := { s.ms with staged := NMap.put 0 n (v.setWidth 24) s.ms.staged } }
  | .tmSel => .done { s with ms := { s.ms with tmSel := field v 15 0 } }
  | .tmReset => .done (s.tumReset s.ms.tmSel v)
  | .spSpancfg => s.writeSpancfg v
  | .spSpanctl => s.writeSpanctl v
  | .spWintab => s.writeBase (baseOf v 12) 0x2000 false (fun t => { t with span := { t.span with wintab := baseOf v 12 } })
  | .spWininv => .done (s.writeWininv v)
  | .spSctab => s.writeBase (baseOf v 12) 0x10000 false (fun t => { t with span := { t.span with sctab := baseOf v 12 } })
  | .spTbload => .done { s with time := { s.time with load := v } }
  | .spTbctl => .done { s with time := { s.time with arm := bitAt v 0, reflost := w1c s.time.reflost v 1 } }
  | .pwCtl => s.writePwCtl v
  | .pwExcbase => s.writeBase (baseOf v 16) 0x100000 false (fun t => { t with power := { t.power with excbase := baseOf v 16 } })
  | .scBootstat => s.writeBootstat v
  | .scTokaddr => s.writeTokaddr v
  | .scTokrevoke => .done (s.endToken (field v 1 0))
  | .scColdrst => s.writeColdrst v
  | .scUpdaddr => .done { s with sec := { s.sec with updaddr := baseOf v 13 } }
  | .scUpdlen => .done { s with sec := { s.sec with updlen := v.setWidth 32 } }
  | .scUpdctl => s.writeUpdctl v
  | .dbStatus => .done { s with dbg := { s.dbg with
      denied := w1c s.dbg.denied v 0, nothalted := w1c s.dbg.nothalted v 1, badsel := w1c s.dbg.badsel v 2 } }
  | .dbGctl => s.writeGctl v
  | .dbHofset => s.writeHof v true
  | .dbHofclr => s.writeHof v false
  | .dbRsel => .done { s with dbg := { s.dbg with rsel := v &&& 0xFFFFFFFF } }
  | .dbRdata => s.writeRdata v
  | .dbCsel => .done { s with dbg := { s.dbg with csel := field v 9 0 } }
  | .dbTrbase => s.writeTrace (baseOf v 12) s.dbg.trsize
  | .dbTrsize => s.writeTrace s.dbg.trbase (baseOf v 12)
  | .dbTrctl => s.writeTrctl v
  | .dbTrward => s.writeTrward v
  | .dbElbase => s.writeBase (baseOf v 12) 0x1000 false (fun t => { t with dbg := { t.dbg with elbase := baseOf v 12 } })
  | .dbBpa n => s.writeBp false false n v
  | .dbBpc n => s.writeBp false true n v
  | .dbWpa n => s.writeBp true false n v
  | .dbWpc n => s.writeBp true true n v
  | .ctCtxbase => s.writeBase (baseOf v 12) 0x400000 s.fe.en (fun t => { t with fe := { t.fe with ctbase := baseOf v 12 } })
  | .rtBase n => .done { s with hinge := { s.hinge with rtBase := NMap.put 0 n (v &&& 0xFFFFFFFE00001) s.hinge.rtBase } }
  | .rtLimit n => .done { s with hinge := { s.hinge with rtLimit := NMap.put 0 n (v &&& 0xFFFFFFFE00000) s.hinge.rtLimit } }
  | .hgHostrst => s.writeHostrst v
  | .hgEpochopen => s.writeEpochopen v
  | .hgHartrun => s.writeHartrun false v
  | .hgHartrunhi => s.writeHartrun true v
  | .hgPoison => .done { s with hinge := { s.hinge with
      poisonMore := w1c s.hinge.poisonMore v 62, poisonValid := w1c s.hinge.poisonValid v 63 } }
  | _ => .done s

/-- A write, and a read, of the window at an offset. -/
def State.regWrite (s : State) (req : Requester) (offset width : Nat) (v : DWord) : State :=
  s.winWrite req offset width (fun t =>
    match regAt offset with
    | some r => t.writeReg r v
    | none => .done t)
def State.regRead (s : State) (req : Requester) (offset width : Nat) : State :=
  s.winRead req offset width (fun t =>
    match regAt offset with
    | some r => t.readReg r
    | none => (0, t))

/-! ### The two commands -/

/-- Whether an access reaches the recovery buffer: through the control port, while boot has failed (R539). -/
def State.inRecovery (s : State) (req : Requester) (off : Nat) : Bool :=
  s.stage == .failed && req.port == .control && s.portLive req && decide (0x10000000 ≤ off) && decide (off < 0x20000000)

/-- The recovery buffer with bytes written. -/
def State.putRecovery (s : State) (a : Nat) (bs : List Byte) : State :=
  { s with sec := { s.sec with recovery := putBytes s.sec.recovery a bs } }

/-- REGISTER_WRITE: the register at an offset, an access error, or the recovery buffer; nothing of the device lies
beyond the window (R538). -/
def execRegisterWrite (req : Requester) (offset width : Nat) (v : DWord) (s : State) : Host.Outcome State Fault Refusal :=
  if s.inRecovery req offset then okay (s.putRecovery (offset - 0x10000000) (natBytes width v.toNat))
  else if 0x100000 ≤ offset then okay s
  else okay (s.regWrite req offset width v)

/-- REGISTER_READ: the value is in `pins.rdata`, zero for an access that is an error. -/
def execRegisterRead (req : Requester) (offset width : Nat) (s : State) : Host.Outcome State Fault Refusal :=
  if s.inRecovery req offset then
    let bs := (List.range width).map (fun i => s.recoveryByte (offset - 0x10000000 + i))
    okay { s with pins := { s.pins with rdata := BitVec.ofNat 64 (bytesNat bs) } }
  else if 0x100000 ≤ offset then okay s
  else okay (s.regRead req offset width)

end Sys2Proof.Machine
end

