-- ==== Sys2Proof/Machine/HostMap.lean ====
section
/-! DEFINITION. The host memory map: the devices in it, the host cores' accesses, the root ports and their inbound DMA (R294,
R318, R320, R409 to R416). -/

namespace Sys2Proof.Machine

/-! ### The devices of the map (R410) -/

/-- A range of the host map other than LPDDR5X; the number is the address within it, with the domain, window or port. -/
inductive HostDev where
  | mirror (off : Nat)
  | mtimer (off : Nat)
  | aplic (dom off : Nat)
  | imsic (off : Nat)
  | port (n : Nat)
  deriving DecidableEq, Repr, Inhabited

/-- The ranges: first address, end, device. -/
def hostRanges : List (Nat × Nat × (Nat → HostDev)) :=
  [(0x10000000, 0x10100000, .mirror), (0x11000000, 0x11010000, .mtimer),
   (0x12000000, 0x12008000, .aplic 0), (0x12010000, 0x12018000, .aplic 1),
   (0x14000000, 0x14048000, .imsic), (0x18000000, 0x18240000, .imsic),
   (0x20000000, 0x30000000, fun _ => .port 0), (0x30000000, 0x40000000, fun _ => .port 1),
   (0x40000000, 0x60000000, fun _ => .port 0), (0x60000000, 0x80000000, fun _ => .port 1),
   (0x800000000000, 0x900000000000, fun _ => .port 0), (0x900000000000, 0xA00000000000, fun _ => .port 1)]

/-- The device that `n` bytes from an address lie in. -/
def hostDevice (pa n : Nat) : Option HostDev :=
  (hostRanges.find? (fun r => decide (r.1 ≤ pa) && decide (pa + n ≤ r.2.1))).map (fun r => r.2.2 (pa - r.1))

/-- The mode of a hart, as the set-up window sees it (R542). -/
def Hart.mode (h : Hart) : HartMode :=
  if h.priv = 3 then .m else if h.virt then (if h.priv = 1 then .vs else .vu) else if h.priv = 1 then .hs else .u

/-! #### MTIMER: a compare value of 8 bytes for each hart, and mtime at 0x7FF8 (PRESUMED as in the ACLINT, log 139) -/

/-- The 8-byte register at an offset of the MTIMER. -/
def State.mtimerReg (s : State) (off : Nat) : Nat :=
  if off = 0x7FF8 then s.timeCopy 10
  else if off / 8 < Config.harts then (NMap.findD 0 (off / 8) s.hinge.mtimecmp).toNat else 0

/-- Bytes stored in the MTIMER; mtime and what is not a compare value take none (R410). -/
def State.mtimerWrite (s : State) (off : Nat) (bs : List Byte) : State :=
  if off / 8 < Config.harts then
    let old := natBytes 8 (s.mtimerReg (off / 8 * 8))
    let new := overlay old ((List.range bs.length).map (fun i => (off % 8 + i, bs.getD i 0)))
    { s with hinge := { s.hinge with mtimecmp := NMap.ins (off / 8) (BitVec.ofNat 64 (bytesNat new)) s.hinge.mtimecmp } }
  else s

/-! #### APLIC (PRESUMED as in the RISC-V AIA, log 139) -/

/-- Whether a source is one of 1 to 31 and belongs to a domain. -/
def State.aplicHas (s : State) (dom n : Nat) : Bool := decide (1 ≤ n) && decide (n < 32) && s.aplicDom n == dom

/-- The pending sources of a domain as bits. -/
def State.aplicBits (s : State) (dom : Nat) : Nat :=
  ((s.hinge.aplic.filter (s.aplicHas dom)).map (fun n => 2 ^ n)).sum

/-- A 32-bit register of an APLIC domain as software reads it: domaincfg with MSI delivery fixed, sourcecfg, setip, setie,
target and genmsi; anything else zero. -/
def State.aplicRead (s : State) (dom off : Nat) : Nat :=
  if off = 0 then 0x80000004 + s.aplicReg dom 0
  else if off = 0x1C00 ∨ off = 0x1D00 then s.aplicBits dom
  else if off = 0x1E00 ∨ off = 0x3000 ∨ (off < 0x80 ∧ s.aplicHas dom (off / 4) ∨ dom = 0 ∧ off < 0x80) ∨
      (0x3004 ≤ off ∧ off < 0x3080 ∧ s.aplicHas dom ((off - 0x3000) / 4)) then s.aplicReg dom off
  else 0

/-- The sources that a write raises, clears, enables or disables: the bits of `v`, or the one source that `v` names. -/
def aplicNamed (one : Bool) (v : Nat) : List Nat := (List.range 32).filter (fun n => if one then n == v else v.testBit n)

/-- A 32-bit register of an APLIC domain written. -/
def State.aplicWrite (s : State) (dom off v : Nat) : State :=
  let mine (one : Bool) : List Nat := (aplicNamed one v).filter (s.aplicHas dom)
  let raise (one : Bool) : State := (mine one).foldl (fun st n => st.raiseAplic n) s
  let clear (one : Bool) : State :=
    { s with hinge := { s.hinge with aplic := s.hinge.aplic.filter (fun n => !(mine one).contains n) } }
  let enable (one on : Bool) : State :=
    s.setAplic dom 0x1E00 (((List.range 32).filter (fun n => if (mine one).contains n then on else (s.aplicReg dom 0x1E00).testBit n)).map
      (fun n => 2 ^ n)).sum
  let s1 : State :=
    if off = 0 then s.setAplic dom 0 (v / 2 ^ 8 % 2 * 2 ^ 8)
    else if 4 ≤ off ∧ off < 0x80 then
      if dom = 0 then s.setAplic 0 off (if v.testBit 10 then 0x400 else v % 8)
      else if s.aplicHas 1 (off / 4) then s.setAplic 1 off (v % 8) else s
    else if off = 0x1C00 then raise false
    else if off = 0x1CDC ∨ off = 0x2000 then raise true
    else if off = 0x1D00 then clear false
    else if off = 0x1DDC then clear true
    else if off = 0x1E00 then enable false true
    else if off = 0x1EDC then enable true true
    else if off = 0x1F00 then enable false false
    else if off = 0x1FDC then enable true false
    else if off = 0x3000 then
      (s.setAplic dom off (v / 2 ^ 18 % 2 ^ 14 * 2 ^ 18 + v % 2048)).msi (aplicFile dom (v / 2 ^ 18 % 2 ^ 14 * 2 ^ 18)) (v % 2048)
    else if 0x3004 ≤ off ∧ off < 0x3080 ∧ s.aplicHas dom ((off - 0x3000) / 4) then
      s.setAplic dom off (v % 2 ^ 32 - v % 2 ^ 12 + v % 2048)
    else s
  (List.range 32).foldl (fun st n => st.aplicDeliver n) s1

/-! ### Host accesses (R318, R320, R410, R416) -/

/-- Bytes that the spec does not give, as a device or a root port answers. -/
def State.deviceBytes (s : State) (pa n : Nat) : State × List Byte :=
  ((s.draw).2, (List.range n).map (fun i => Config.undefByte s.free (pa + i)))

/-- A read of a device by a hart: the set-up window's mirror, the MTIMER with the H-die's copy of the timebase, an APLIC
domain; an interrupt file reads zero, and what lies behind a root port is open. -/
def State.hostDevRead (s : State) (h pa n : Nat) : HostDev → State × List Byte
  | .mirror off =>
    let t := s.regRead { port := .host, mode := (s.hart h).mode } off n
    (t, natBytes n t.pins.rdata.toNat)
  | .mtimer off => (s.seeTime 10, ((natBytes 8 (s.mtimerReg (off / 8 * 8))).drop (off % 8)).take n)
  | .aplic dom off => (s, ((natBytes 4 (s.aplicRead dom (off / 4 * 4))).drop (off % 4)).take n)
  | .imsic _ => (s, List.replicate n 0)
  | .port _ => s.deviceBytes pa n

/-- The bytes put in the FIFO to a root port's PHY (R39). -/
def State.rportOut (s : State) (p : Nat) (bs : List Byte) : State :=
  s.updRport p (fun r => { r with outq := fifoPush 64 r.outq [BitVec.ofNat 512 (bytesNat bs)] })

/-- A write of a device by a hart; one to a root port's window goes out by the port. -/
def State.hostDevWrite (s : State) (h pa : Nat) (bs : List Byte) : HostDev → State
  | .mirror off => s.regWrite { port := .host, mode := (s.hart h).mode } off bs.length (BitVec.ofNat 64 (bytesNat bs))
  | .mtimer off => s.mtimerWrite off bs
  | .aplic dom off => if off % 4 = 0 ∧ bs.length = 4 then s.aplicWrite dom off (bytesNat bs) else s
  | .imsic _ => if pa % 4096 = 0 ∧ bs.length = 4 then s.msi pa (bytesNat bs) else s
  | .port p => (s.mmioWrite pa bs).rportOut p bs

/-- A hart's access of a device. An atomic, LR or SC reads it. -/
def State.hostDevAccess (s : State) (h : Nat) (a : HostAcc) (d : HostDev) : State :=
  match a with
  | .store pa bs => (s.hostDevWrite h pa bs d).hostGives []
  | a =>
    let (t, bs) := s.hostDevRead h (hostPa a) (hostLen a) d
    t.hostGives bs

/-- A hart's access to uncached memory, made at the controller (R264, R320). -/
def State.hostUncached (s : State) (h : Nat) (a : HostAcc) : State :=
  let pa := hostPa a
  let n := hostLen a
  let t := Target.uncached pa
  let bad := (hostPieces a).any (fun p => s.ms.mem.poison.contains (lineOf p.1))
  let write (bs : List Byte) : State := (s.targetWrite t s.tagNow bs).killResv (fun _ => true) (granuleOf t)
  match a with
  | .store _ bs => (write bs).hostGives []
  | .sc _ bs =>
    if (s.hart h).resv = some (lineOf pa) then ((write bs).updHart h (fun x => { x with resv := none })).hostGives (natBytes 4 0)
    else (s.updHart h (fun x => { x with resv := none })).hostGives (natBytes 4 1)
  | .atomic _ w op sgn b c =>
    if bad then s.hostPoison pa .atomic
    else
      let old := s.ms.mem.readN pa w
      (write (natBytes w (atomNew op w sgn (bytesNat old) b.toNat c.toNat))).hostGives old
  | .lr _ _ =>
    if bad then s.hostPoison pa .load
    else (s.updHart h (fun x => { x with resv := some (lineOf pa) })).hostGives (s.ms.mem.readN pa n)
  | a => if bad then s.hostPoison pa (hostKindOf a) else s.hostGives (s.ms.mem.readN pa n)

/-- HOST_MEMORY_ACCESS: an access of a hart that is out of reset and has none outstanding. Outside the map, or outside the
host plan's REGIONS, an access fault; a device; uncached memory at its controller once that is awake and no LR's holder delays
it; or cacheable memory, line by line, as far as the host's caches hold it. The harts' accesses take effect in the order of
these commands, which is their order in memory (R318). Each passes issue beats of the hart (R286, R409, R410, R416). -/
def execHostMemoryAccess (hart : Nat) (acc : HostAcc) (uncached : Bool) (s : State) : Host.Outcome State Fault Refusal :=
  let pa := hostPa acc
  let n := hostLen acc
  if s.hostRuns = false ∨ s.hinge.hartOn hart = false ∨ n = 0 ∨ s.hinge.hostq.any (fun q => q.hart == hart) then okay s
  else
    let s0 := (s.draw).2.updHart hart (fun h => { h with cycles := h.cycles + 1 + BitVec.ofNat 64 (Config.freeNat s.free) })
    let fault : State := { s0 with hinge := { s0.hinge with hostFault := some (hostKindOf acc), hostData := [] } }
    if s.isLpRange pa n then
      if (s.hostReaches pa && s.hostReaches (pa + n - 1)) = false then okay fault
      else if uncached then
        if s.awake (.uncached pa) = false ∨ s.heldBack (.uncached pa) then okay s else okay (s0.hostUncached hart acc)
      else
        let q : HostReq := { hart := hart, acc := acc, rest := hostPieces acc }
        let (s1, left) := s0.hostStep q q.rest
        okay { s1 with hinge := { s1.hinge with hostq := s1.hinge.hostq ++ left.toList } }
    else match hostDevice pa n with
      | some d => okay (s0.hostDevAccess hart acc d)
      | none => okay fault

/-! ### Root ports: inbound DMA (R412, R414 to R416) -/

/-- Where an address of a requester goes at a port's IOMMU: as it is in Bare mode, otherwise where a leaf that permits the
access maps it (R414). -/
def RootPort.map (r : RootPort) (draw rid va : Nat) (w : Bool) : Option Nat :=
  if r.bare then some va
  else match r.io.leafOf draw rid va with
    | some l => if leafPermits l (if w then .write else .read) then some (l.pa + (va - l.va)) else none
    | none => none

/-- The physical addresses of `n` bytes from an address of a requester, in pieces of one page each; none where one does not
map. `fuel` bounds the pieces. -/
def RootPort.pieces (r : RootPort) (draw rid va : Nat) (w : Bool) (n : Nat) : Nat → Option (List (Nat × Nat))
  | 0 => if n = 0 then some [] else none
  | fuel + 1 =>
    if n = 0 then some []
    else
      let m := Nat.min n (4096 - va % 4096)
      match r.map draw rid va w, r.pieces draw rid (va + m) w (n - m) fuel with
      | some pa, some ps => some ((pa, m) :: ps)
      | _, _ => none

/-- Whether a piece of an inbound DMA reaches LPDDR5X of the host plan's REGIONS (R286, R415). -/
def State.dmaReaches (s : State) (p : Nat × Nat) : Bool :=
  s.isLpRange p.1 p.2 && s.hostReaches p.1 && s.hostReaches (p.1 + p.2 - 1)

/-- A port after a DMA: entries in the FIFO from its PHY, the A and D bits of what it translated. -/
def RootPort.took (r : RootPort) (rid va n : Nat) (w : Bool) (bs : List Byte) : RootPort :=
  let pages := (List.range ((va % 4096 + n + 4095) / 4096)).map (fun i => if i = 0 then va else va / 4096 * 4096 + 4096 * i)
  { r with inq := fifoPush 64 r.inq ((List.range ((bs.length + 63) / 64)).map (fun i =>
             BitVec.ofNat 512 (bytesNat ((bs.drop (64 * i)).take 64))))
           io := if r.bare then r.io else pages.foldl (fun i a => i.mark rid a w) r.io }

/-- Whether a port carries traffic: its link is up, and the FIFO from its PHY is not full (R39, R40, R414). -/
def State.rportLive (s : State) (p : Nat) : Bool := (s.rport p).width != 0 && decide ((s.rport p).inq.length < 64)

/-- Bytes written piece by piece through the homes. -/
def State.dmaPut (s : State) (tag : Nat) (bs : List Byte) : List (Nat × Nat) → State
  | [] => s
  | (pa, n) :: ps => (s.cohWrite tag pa (bs.take n)).dmaPut tag (bs.drop n) ps

/-- The state with the last DMA answered: data, EP, unsupported request. -/
def State.dmaGives (s : State) (bs : List Byte) (ep ur : Bool) : State :=
  { s with hinge := { s.hinge with dmaData := bs, dmaEp := ep, dmaUr := ur } }

/-- DMA_WRITE: bytes of a root port's device, translated by the port's IOMMU, written through the homes with the current
epoch's tag; an MSI where they go to an interrupt file; anywhere else an unsupported request. -/
def execDmaWrite (port : Nat) (dst : DmaAddr) (bytes : List Byte) (s : State) : Host.Outcome State Fault Refusal :=
  let n := bytes.length
  if s.hostRuns = false ∨ s.rportLive port = false ∨ n = 0 then okay s
  else
    let s0 := (s.draw).2
    match (s.rport port).pieces s.free dst.rid dst.va true n (n / 4096 + 2) with
    | none => okay (s0.dmaGives [] false true)
    | some ps =>
      let s1 := (s0.updRport port (fun r => r.took dst.rid dst.va n true bytes)).dmaGives [] false false
      match ps, (ps.head?.map (fun p => hostDevice p.1 p.2)).join with
      | [(pa, 4)], some (.imsic off) => okay (if off % 4096 = 0 then s1.msi pa (bytesNat bytes) else s0.dmaGives [] false true)
      | ps, _ => okay (if ps.all s.dmaReaches then s1.dmaPut s.tagNow bytes ps else s0.dmaGives [] false true)

/-- Whether a line of a range is poisoned. -/
def State.rangeBad (s : State) (pa n : Nat) : Bool :=
  (List.range ((pa % 128 + n + 127) / 128)).any (fun i => (s.coherentLine (lineOf pa + 128 * i)).poison)

/-- DMA_READ: the bytes as the homes give them, EP set where a line is poisoned, or an unsupported request. -/
def execDmaRead (port : Nat) (src : DmaAddr) (len : Nat) (s : State) : Host.Outcome State Fault Refusal :=
  if s.hostRuns = false ∨ s.rportLive port = false ∨ len = 0 then okay s
  else
    let s0 := (s.draw).2
    match (s.rport port).pieces s.free src.rid src.va false len (len / 4096 + 2) with
    | none => okay (s0.dmaGives [] false true)
    | some ps =>
      if ps.all s.dmaReaches then
        let bs := (ps.map (fun p => s.cohRead p.1 p.2)).flatten
        okay (((s0.updRport port (fun r => r.took src.rid src.va len false [])).rportOut port bs).dmaGives bs
          (ps.any (fun p => s.rangeBad p.1 p.2)) false)
      else okay (s0.dmaGives [] false true)

/-! ### Root-port events (R413, R414) -/

/-- Whether a link may have a width: x16, x8, x4, x2, x1, or down (R414). -/
def linkWidth (w : Nat) : Bool := [0, 1, 2, 4, 8, 16].contains w

/-- ROOT_PORT_LINK_EVENT: INTA to INTD of a port raise sources 3 to 6 or 7 to 10; AER, DPC and link events 11 or 12. A link
event leaves the link trained to a width, or down; DPC takes it down (R413, R414). -/
def execRootPortLinkEvent (port : Nat) (ev : RpEvent) (s : State) : Host.Outcome State Fault Refusal :=
  if port ≥ 2 ∨ s.hostRuns = false then okay s
  else match ev with
    | .int pin => if pin < 4 then okay (s.raiseAplic (3 + 4 * port + pin)) else okay s
    | .aer => okay (s.raiseAplic (11 + port))
    | .dpc => okay ((s.updRport port (fun r => { r with width := 0, inq := [], outq := [] })).raiseAplic (11 + port))
    | .link w =>
      if linkWidth w then
        okay ((s.updRport port (fun r => { r with
          width := w, inq := if w = 0 then [] else r.inq, outq := if w = 0 then [] else r.outq })).raiseAplic (11 + port))
      else okay s

end Sys2Proof.Machine
end

