-- ==== Sys2Proof/Machine/Dispatch.lean ====
section
/-! DEFINITION. The meaning of each command: one arm per row of the table of operations and events. -/

namespace Sys2Proof.Machine

def exec (i : Instr) (s : State) : Host.Outcome State Fault Refusal :=
  match i with
  | .add site e => Sys2Proof.Machine.execAdd site e s
  | .sub site e => Sys2Proof.Machine.execSub site e s
  | .mul site e => Sys2Proof.Machine.execMul site e s
  | .muladd site e => Sys2Proof.Machine.execMuladd site e s
  | .and site e => Sys2Proof.Machine.execAnd site e s
  | .or site e => Sys2Proof.Machine.execOr site e s
  | .xor site e => Sys2Proof.Machine.execXor site e s
  | .not site e => Sys2Proof.Machine.execNot site e s
  | .shiftl site e => Sys2Proof.Machine.execShiftl site e s
  | .shiftr site e => Sys2Proof.Machine.execShiftr site e s
  | .min site e => Sys2Proof.Machine.execMin site e s
  | .max site e => Sys2Proof.Machine.execMax site e s
  | .cmp site e => Sys2Proof.Machine.execCmp site e s
  | .bitcnt site e => Sys2Proof.Machine.execBitcnt site e s
  | .leadz site e => Sys2Proof.Machine.execLeadz site e s
  | .bitrev site e => Sys2Proof.Machine.execBitrev site e s
  | .bytesel site e => Sys2Proof.Machine.execBytesel site e s
  | .mov site e => Sys2Proof.Machine.execMov site e s
  | .pick site e => Sys2Proof.Machine.execPick site e s
  | .addI site e => Sys2Proof.Machine.execAddI site e s
  | .andI site e => Sys2Proof.Machine.execAndI site e s
  | .orI site e => Sys2Proof.Machine.execOrI site e s
  | .xorI site e => Sys2Proof.Machine.execXorI site e s
  | .shiftlI site e => Sys2Proof.Machine.execShiftlI site e s
  | .shiftrI site e => Sys2Proof.Machine.execShiftrI site e s
  | .cmpI site e => Sys2Proof.Machine.execCmpI site e s
  | .movI site e => Sys2Proof.Machine.execMovI site e s
  | .fadd site e => Sys2Proof.Machine.execFadd site e s
  | .fsub site e => Sys2Proof.Machine.execFsub site e s
  | .fmul site e => Sys2Proof.Machine.execFmul site e s
  | .fma site e => Sys2Proof.Machine.execFma site e s
  | .fmin site e => Sys2Proof.Machine.execFmin site e s
  | .fmax site e => Sys2Proof.Machine.execFmax site e s
  | .fcmp site e => Sys2Proof.Machine.execFcmp site e s
  | .fabs site e => Sys2Proof.Machine.execFabs site e s
  | .fneg site e => Sys2Proof.Machine.execFneg site e s
  | .fcpys site e => Sys2Proof.Machine.execFcpys site e s
  | .fsfu site e => Sys2Proof.Machine.execFsfu site e s
  | .cvt site e => Sys2Proof.Machine.execCvt site e s
  | .lxch site e => Sys2Proof.Machine.execLxch site e s
  | .lquery site e => Sys2Proof.Machine.execLquery site e s
  | .ld site mode e => Sys2Proof.Machine.execLd site mode e s
  | .st site mode e => Sys2Proof.Machine.execSt site mode e s
  | .zline site mode e => Sys2Proof.Machine.execZline site mode e s
  | .atom site e => Sys2Proof.Machine.execAtom site e s
  | .lr site e => Sys2Proof.Machine.execLr site e s
  | .sc site e => Sys2Proof.Machine.execSc site e s
  | .mopen site e => Sys2Proof.Machine.execMopen site e s
  | .mclose site e => Sys2Proof.Machine.execMclose site e s
  | .mshape site e => Sys2Proof.Machine.execMshape site e s
  | .mload site e => Sys2Proof.Machine.execMload site e s
  | .mstat site e => Sys2Proof.Machine.execMstat site e s
  | .mma site e => Sys2Proof.Machine.execMma site e s
  | .mdrain site e => Sys2Proof.Machine.execMdrain site e s
  | .mrelay site e => Sys2Proof.Machine.execMrelay site e s
  | .mchk site e => Sys2Proof.Machine.execMchk site e s
  | .tarrive site e => Sys2Proof.Machine.execTarrive site e s
  | .twait site e => Sys2Proof.Machine.execTwait site e s
  | .ttest site e => Sys2Proof.Machine.execTtest site e s
  | .hasp site e => Sys2Proof.Machine.execHasp site e s
  | .fenceOrd site e => Sys2Proof.Machine.execFenceOrd site e s
  | .fenceDone site e => Sys2Proof.Machine.execFenceDone site e s
  | .bra site e => Sys2Proof.Machine.execBra site e s
  | .brx site e => Sys2Proof.Machine.execBrx site e s
  | .call site e => Sys2Proof.Machine.execCall site e s
  | .ret site e => Sys2Proof.Machine.execRet site e s
  | .exit site e => Sys2Proof.Machine.execExit site e s
  | .repack site e => Sys2Proof.Machine.execRepack site e s
  | .nop site e => Sys2Proof.Machine.execNop site e s
  | .uop site e => Sys2Proof.Machine.execUop site e s
  | .uopI site e => Sys2Proof.Machine.execUopI site e s
  | .ucmp site e => Sys2Proof.Machine.execUcmp site e s
  | .ucmpI site e => Sys2Proof.Machine.execUcmpI site e s
  | .sread site e => Sys2Proof.Machine.execSread site e s
  | .swrite site e => Sys2Proof.Machine.execSwrite site e s
  | .brk site e => Sys2Proof.Machine.execBrk site e s
  | .repackWaitExpiry site => Sys2Proof.Machine.execRepackWaitExpiry site s
  | .mergeComplete site => Sys2Proof.Machine.execMergeComplete site s
  | .instructionFetchFill site => Sys2Proof.Machine.execInstructionFetchFill site s
  | .loadPerform site => Sys2Proof.Machine.execLoadPerform site s
  | .storeVisible site idx => Sys2Proof.Machine.execStoreVisible site idx s
  | .atomicResponse site => Sys2Proof.Machine.execAtomicResponse site s
  | .fenceComplete site => Sys2Proof.Machine.execFenceComplete site s
  | .pageRequestResponse pasid va answer => Sys2Proof.Machine.execPageRequestResponse pasid va answer s
  | .twaitTimeout site => Sys2Proof.Machine.execTwaitTimeout site s
  | .arrayStart core => Sys2Proof.Machine.execArrayStart core s
  | .mloadPoison core => Sys2Proof.Machine.execMloadPoison core s
  | .relaySendResume core => Sys2Proof.Machine.execRelaySendResume core s
  | .budgetOverrun core tile => Sys2Proof.Machine.execBudgetOverrun core tile s
  | .budgetStop core tile => Sys2Proof.Machine.execBudgetStop core tile s
  | .tumblerOperation unit idx => Sys2Proof.Machine.execTumblerOperation unit idx s
  | .fenceWaitReread ring => Sys2Proof.Machine.execFenceWaitReread ring s
  | .spindleBufferTake core n => Sys2Proof.Machine.execSpindleBufferTake core n s
  | .spindleReadData core n => Sys2Proof.Machine.execSpindleReadData core n s
  | .spindleFulltRaise core n => Sys2Proof.Machine.execSpindleFulltRaise core n s
  | .spindleFinish core n => Sys2Proof.Machine.execSpindleFinish core n s
  | .replayPlace launch core => Sys2Proof.Machine.execReplayPlace launch core s
  | .retirement core => Sys2Proof.Machine.execRetirement core s
  | .retirementRecord die => Sys2Proof.Machine.execRetirementRecord die s
  | .dieFence die => Sys2Proof.Machine.execDieFence die s
  | .coherentRequest stop line kind way => Sys2Proof.Machine.execCoherentRequest stop line kind way s
  | .snoop stop line => Sys2Proof.Machine.execSnoop stop line s
  | .snoopResponse stop line => Sys2Proof.Machine.execSnoopResponse stop line s
  | .lineGrant stop line => Sys2Proof.Machine.execLineGrant stop line s
  | .done line => Sys2Proof.Machine.execDone line s
  | .proceed line => Sys2Proof.Machine.execProceed line s
  | .backInvalidation stop region => Sys2Proof.Machine.execBackInvalidation stop region s
  | .victimAccept die line => Sys2Proof.Machine.execVictimAccept die line s
  | .homeAtomic site idx => Sys2Proof.Machine.execHomeAtomic site idx s
  | .writeAccept sel => Sys2Proof.Machine.execWriteAccept sel s
  | .patrolScrub device corrected bad => Sys2Proof.Machine.execPatrolScrub device corrected bad s
  | .sramScrub die corrected bad => Sys2Proof.Machine.execSramScrub die corrected bad s
  | .doorbellChange ring => Sys2Proof.Machine.execDoorbellChange ring s
  | .descriptorReread ring => Sys2Proof.Machine.execDescriptorReread ring s
  | .nopCommand ring => Sys2Proof.Machine.execNopCommand ring s
  | .launch ring => Sys2Proof.Machine.execLaunch ring s
  | .copy ring => Sys2Proof.Machine.execCopy ring s
  | .convert ring => Sys2Proof.Machine.execConvert ring s
  | .fill ring => Sys2Proof.Machine.execFill ring s
  | .signal ring => Sys2Proof.Machine.execSignal ring s
  | .wait ring => Sys2Proof.Machine.execWait ring s
  | .waitTimeout ring => Sys2Proof.Machine.execWaitTimeout ring s
  | .share ring => Sys2Proof.Machine.execShare ring s
  | .shareRelease ring => Sys2Proof.Machine.execShareRelease ring s
  | .bind ring => Sys2Proof.Machine.execBind ring s
  | .unbind ring => Sys2Proof.Machine.execUnbind ring s
  | .query ring => Sys2Proof.Machine.execQuery ring s
  | .partition ring => Sys2Proof.Machine.execPartition ring s
  | .snapshot ring => Sys2Proof.Machine.execSnapshot ring s
  | .snapshotCapture => Sys2Proof.Machine.execSnapshotCapture s
  | .commandCompletion ring count => Sys2Proof.Machine.execCommandCompletion ring count s
  | .tilePlace core => Sys2Proof.Machine.execTilePlace core s
  | .makeResident ctx => Sys2Proof.Machine.execMakeResident ctx s
  | .evictionDone ctx => Sys2Proof.Machine.execEvictionDone ctx s
  | .residencyComplete ctx => Sys2Proof.Machine.execResidencyComplete ctx s
  | .frontEndTakeover => Sys2Proof.Machine.execFrontEndTakeover s
  | .counterTableWrite ctx => Sys2Proof.Machine.execCounterTableWrite ctx s
  | .counterSample => Sys2Proof.Machine.execCounterSample s
  | .feCtlEn req v => Sys2Proof.Machine.execFeCtlEn req v s
  | .feCtxon req v => Sys2Proof.Machine.execFeCtxon req v s
  | .feCtxoff req v => Sys2Proof.Machine.execFeCtxoff req v s
  | .tmReset req v => Sys2Proof.Machine.execTmReset req v s
  | .spWininv req v => Sys2Proof.Machine.execSpWininv req v s
  | .spSpanctlRelease req v => Sys2Proof.Machine.execSpSpanctlRelease req v s
  | .spSpanctlLower req v => Sys2Proof.Machine.execSpSpanctlLower req v s
  | .spancfgEnSet req v => Sys2Proof.Machine.execSpancfgEnSet req v s
  | .spancfgEnClear req v => Sys2Proof.Machine.execSpancfgEnClear req v s
  | .leaveDrained => Sys2Proof.Machine.execLeaveDrained s
  | .scNonce req => Sys2Proof.Machine.execScNonce req s
  | .scTokaddr req v => Sys2Proof.Machine.execScTokaddr req v s
  | .tokenCheckDone => Sys2Proof.Machine.execTokenCheckDone s
  | .scTokrevoke req v => Sys2Proof.Machine.execScTokrevoke req v s
  | .tokenExpiry idx => Sys2Proof.Machine.execTokenExpiry idx s
  | .scColdrst req v => Sys2Proof.Machine.execScColdrst req v s
  | .scUpdctlStart req v => Sys2Proof.Machine.execScUpdctlStart req v s
  | .updateWriteDone ok => Sys2Proof.Machine.execUpdateWriteDone ok s
  | .scUpdctlCommit req v => Sys2Proof.Machine.execScUpdctlCommit req v s
  | .scBootstatGo req v => Sys2Proof.Machine.execScBootstatGo req v s
  | .hgHostrst req v => Sys2Proof.Machine.execHgHostrst req v s
  | .hgEpochopen req v => Sys2Proof.Machine.execHgEpochopen req v s
  | .hgHartrun req hi v => Sys2Proof.Machine.execHgHartrun req hi v s
  | .dbGctlHalt req v => Sys2Proof.Machine.execDbGctlHalt req v s
  | .dbGctlResume req v => Sys2Proof.Machine.execDbGctlResume req v s
  | .dbGctlStep req v => Sys2Proof.Machine.execDbGctlStep req v s
  | .dbHofset req v => Sys2Proof.Machine.execDbHofset req v s
  | .dbHofclr req v => Sys2Proof.Machine.execDbHofclr req v s
  | .dbRdata req wr => Sys2Proof.Machine.execDbRdata req wr s
  | .dbTrward req v => Sys2Proof.Machine.execDbTrward req v s
  | .dbTrctl req v => Sys2Proof.Machine.execDbTrctl req v s
  | .mpShareways req v => Sys2Proof.Machine.execMpShareways req v s
  | .mpHostplan req v => Sys2Proof.Machine.execMpHostplan req v s
  | .pwCtl req v => Sys2Proof.Machine.execPwCtl req v s
  | .registerWrite req offset width v => Sys2Proof.Machine.execRegisterWrite req offset width v s
  | .pwrEnRise => Sys2Proof.Machine.execPwrEnRise s
  | .keeperStart => Sys2Proof.Machine.execKeeperStart s
  | .meminitDone => Sys2Proof.Machine.execMeminitDone s
  | .powerDown => Sys2Proof.Machine.execPowerDown s
  | .controlPortReset cause => Sys2Proof.Machine.execControlPortReset cause s
  | .configRequest => Sys2Proof.Machine.execConfigRequest s
  | .tbPpsEdge => Sys2Proof.Machine.execTbPpsEdge s
  | .tbRefLost => Sys2Proof.Machine.execTbRefLost s
  | .supplyWarn low => Sys2Proof.Machine.execSupplyWarn low s
  | .vcompControl power vin temps => Sys2Proof.Machine.execVcompControl power vin temps s
  | .excursionOpen rail mv => Sys2Proof.Machine.execExcursionOpen rail mv s
  | .excursionClose => Sys2Proof.Machine.execExcursionClose s
  | .railResetThreshold rail mv => Sys2Proof.Machine.execRailResetThreshold rail mv s
  | .watchdogExpiry => Sys2Proof.Machine.execWatchdogExpiry s
  | .thermalAlert temps => Sys2Proof.Machine.execThermalAlert temps s
  | .thermalTrip temps => Sys2Proof.Machine.execThermalTrip temps s
  | .domainEntry domain => Sys2Proof.Machine.execDomainEntry domain s
  | .wakeComplete domain => Sys2Proof.Machine.execWakeComplete domain s
  | .cablePresent port seated => Sys2Proof.Machine.execCablePresent port seated s
  | .i3cRead index => Sys2Proof.Machine.execI3cRead index s
  | .i3cWrite index v => Sys2Proof.Machine.execI3cWrite index v s
  | .setdasa static dynamic => Sys2Proof.Machine.execSetdasa static dynamic s
  | .getVersion => Sys2Proof.Machine.execGetVersion s
  | .getCapabilities => Sys2Proof.Machine.execGetCapabilities s
  | .negotiateAlgorithms hash384 ed25519 => Sys2Proof.Machine.execNegotiateAlgorithms hash384 ed25519 s
  | .getDigests => Sys2Proof.Machine.execGetDigests s
  | .getCertificate slot offset len => Sys2Proof.Machine.execGetCertificate slot offset len s
  | .challenge slot nonce => Sys2Proof.Machine.execChallenge slot nonce s
  | .getMeasurements index slot nonce => Sys2Proof.Machine.execGetMeasurements index slot nonce s
  | .hingeLossReset cause => Sys2Proof.Machine.execHingeLossReset cause s
  | .hingeAckTimeout => Sys2Proof.Machine.execHingeAckTimeout s
  | .hingeTileStop => Sys2Proof.Machine.execHingeTileStop s
  | .hingeQuiesced => Sys2Proof.Machine.execHingeQuiesced s
  | .hingeRetrain => Sys2Proof.Machine.execHingeRetrain s
  | .hingeRetrainDone => Sys2Proof.Machine.execHingeRetrainDone s
  | .dmaWrite port dst bytes => Sys2Proof.Machine.execDmaWrite port dst bytes s
  | .dmaRead port src len => Sys2Proof.Machine.execDmaRead port src len s
  | .iotinvalVma pasid va size upd => Sys2Proof.Machine.execIotinvalVma pasid va size upd s
  | .iofenceC => Sys2Proof.Machine.execIofenceC s
  | .portTrained port link => Sys2Proof.Machine.execPortTrained port link s
  | .helloTimeout port => Sys2Proof.Machine.execHelloTimeout port s
  | .laneFailure port lane => Sys2Proof.Machine.execLaneFailure port lane s
  | .retryRequest port ack => Sys2Proof.Machine.execRetryRequest port ack s
  | .portDownTimeout port => Sys2Proof.Machine.execPortDownTimeout port s
  | .hello port spanId info => Sys2Proof.Machine.execHello port spanId info s
  | .announce hdr known => Sys2Proof.Machine.execAnnounce hdr known s
  | .masterSelect => Sys2Proof.Machine.execMasterSelect s
  | .join hdr info => Sys2Proof.Machine.execJoin hdr info s
  | .roster hdr members levels => Sys2Proof.Machine.execRoster hdr members levels s
  | .leave hdr => Sys2Proof.Machine.execLeave hdr s
  | .lost hdr member => Sys2Proof.Machine.execLost hdr member s
  | .linkdown hdr a b => Sys2Proof.Machine.execLinkdown hdr a b s
  | .heartbeat hdr levels => Sys2Proof.Machine.execHeartbeat hdr levels s
  | .heartbeatSend => Sys2Proof.Machine.execHeartbeatSend s
  | .memberLossTimeout member => Sys2Proof.Machine.execMemberLossTimeout member s
  | .masterLossTimeout => Sys2Proof.Machine.execMasterLossTimeout s
  | .levelCommitStart => Sys2Proof.Machine.execLevelCommitStart s
  | .levelprep hdr levels => Sys2Proof.Machine.execLevelprep hdr levels s
  | .levelcommit hdr levels => Sys2Proof.Machine.execLevelcommit hdr levels s
  | .place hdr scid fields => Sys2Proof.Machine.execPlace hdr scid fields s
  | .pull hdr lnum answer => Sys2Proof.Machine.execPull hdr lnum answer s
  | .tiledone hdr lnum report faulted => Sys2Proof.Machine.execTiledone hdr lnum report faulted s
  | .hasparr hdr line gen => Sys2Proof.Machine.execHasparr hdr line gen s
  | .hasprel hdr line gen => Sys2Proof.Machine.execHasprel hdr line gen s
  | .tarriveMessage hdr tumbler scid op => Sys2Proof.Machine.execTarriveMessage hdr tumbler scid op s
  | .twake hdr outcome => Sys2Proof.Machine.execTwake hdr outcome s
  | .tmapchk hdr tumbler scid shared => Sys2Proof.Machine.execTmapchk hdr tumbler scid shared s
  | .tbsync hdr time before => Sys2Proof.Machine.execTbsync hdr time before s
  | .read hdr pa len cacheable => Sys2Proof.Machine.execRead hdr pa len cacheable s
  | .write hdr pa bytes cacheable wantDone => Sys2Proof.Machine.execWrite hdr pa bytes cacheable wantDone s
  | .atomic hdr pa width op signed operands cacheable => Sys2Proof.Machine.execAtomic hdr pa width op signed operands cacheable s
  | .lrMessage hdr pa width lane => Sys2Proof.Machine.execLrMessage hdr pa width lane s
  | .scMessage hdr pa bytes lane => Sys2Proof.Machine.execScMessage hdr pa bytes lane s
  | .data hdr bytes poison => Sys2Proof.Machine.execData hdr bytes poison s
  | .visack hdr => Sys2Proof.Machine.execVisack hdr s
  | .doneack hdr => Sys2Proof.Machine.execDoneack hdr s
  | .deny hdr => Sys2Proof.Machine.execDeny hdr s
  | .relay hdr msg => Sys2Proof.Machine.execRelay hdr msg s
  | .bulkwrite hdr pa bytes cacheable wantDone => Sys2Proof.Machine.execBulkwrite hdr pa bytes cacheable wantDone s
  | .bulkdata hdr bytes poison => Sys2Proof.Machine.execBulkdata hdr bytes poison s
  | .tbRefReturn => Sys2Proof.Machine.execTbRefReturn s
  | .matrixInstructionFinish core => Sys2Proof.Machine.execMatrixInstructionFinish core s
  | .snoopAnswerDelayExpiry stop line => Sys2Proof.Machine.execSnoopAnswerDelayExpiry stop line s
  | .memoryReadReturn line ecc => Sys2Proof.Machine.execMemoryReadReturn line ecc s
  | .uncorrectableCodeword port => Sys2Proof.Machine.execUncorrectableCodeword port s
  | .idleFlit port ack cvc ccnt => Sys2Proof.Machine.execIdleFlit port ack cvc ccnt s
  | .reservedOpMessage hdr op => Sys2Proof.Machine.execReservedOpMessage hdr op s
  | .levelprepReply hdr => Sys2Proof.Machine.execLevelprepReply hdr s
  | .placeRefusal hdr lnum => Sys2Proof.Machine.execPlaceRefusal hdr lnum s
  | .joinRefusal hdr reason => Sys2Proof.Machine.execJoinRefusal hdr reason s
  | .perstNRelease => Sys2Proof.Machine.execPerstNRelease s
  | .iotinvalGvma gpa size upd => Sys2Proof.Machine.execIotinvalGvma gpa size upd s
  | .registerRead req offset width => Sys2Proof.Machine.execRegisterRead req offset width s
  | .hostMemoryAccess hart acc uncached => Sys2Proof.Machine.execHostMemoryAccess hart acc uncached s
  | .rootPortLinkEvent port ev => Sys2Proof.Machine.execRootPortLinkEvent port ev s

end Sys2Proof.Machine
end

