-- ==== Sys2Proof/Safety.lean ====
section
/-! DEFINITION. What counts as a safe step of the module, and the terms in which the statements speak of commands. -/

namespace Sys2Proof.Machine

/-- A step that neither stops with a fault nor is refused. -/
def SafeStep (s : State) : Prop := ∃ t, step s = .next t

/-- The instruction word `e`, which decoding reads as `d`, is the next to issue of the group `x` at place `g` and
nothing stops it: the group may issue (R55), its fetch answers (R574), no breakpoint matches (R509), the MAJOR is the
row's own, the guard is true on some active lane (R76), no field is illegal (R142), no register it uses has a write
pending (R55), and no single step is under way (R504). -/
structure Issues (s : State) (g : Site) (x : Group) (e : Enc) (d : Dec) : Prop where
  here    : s.group? g = some x
  may     : s.canIssue x = true
  fetched : s.fetch g x = .ready
  noBreak : s.breakHit g x = none
  major   : e.other = none
  lanes   : x.guard e ≠ 0
  legal   : d.illegal x.alloc = none
  regs    : s.regsReady g x e d = true
  noStep  : x.stepping = false

/-- A state after an instruction of the group at `g` has completed with the group standing as `z` before it moves on to
`next`, with the pops of the reconvergence stack that follow (R60); what its fetch read of a peer's uncached page is spent
(R574). -/
def State.moved (s : State) (g : Site) (z : Group) (next : DWord) : State :=
  (s.setGroup g (z.goTo next)).updCore g.core (fun k => k.endReads (5 + g.place))

/-- The same for an instruction that completes as it issues: the round-robin pointer has moved too (R57). -/
def State.after (s : State) (g : Site) (z : Group) (next : DWord) : State := (s.moved g z next).turn g

/-- The command leaves the whole state as it was but for the group at `g`, which is `z` moved on to `next`, and what every
issue moves. -/
def Moves (s : State) (c : Instr) (g : Site) (z : Group) (next : DWord) : Prop :=
  exec c s = .next (s.after g z next)

/-- The command writes `f` of the lane into t register `n` of the lanes given, and changes nothing else but the group's
place in its program, which is the next instruction (R71, R76). -/
def WritesT (s : State) (c : Instr) (g : Site) (x : Group) (lanes : LaneMask) (n : Nat) (f : Nat → Word) : Prop :=
  ∃ z : Group, Moves s c g z (x.pc + 8) ∧ z = { x with t := z.t } ∧
    ∀ l r, l < 32 → r < 256 → z.rt l r = if lanes.getLsbD l ∧ r = n then f l else x.rt l r

/-- The same for a 64-bit result in the pair of t registers from `n` (R71). -/
def WritesT2 (s : State) (c : Instr) (g : Site) (x : Group) (lanes : LaneMask) (n : Nat) (f : Nat → DWord) : Prop :=
  ∃ z : Group, Moves s c g z (x.pc + 8) ∧ z = { x with t := z.t } ∧
    ∀ l r, l < 32 → r < 256 → z.rt l r =
      if lanes.getLsbD l ∧ r = n then (f l).extractLsb' 0 32
      else if lanes.getLsbD l ∧ r = n + 1 then (f l).extractLsb' 32 32
      else x.rt l r

/-- The same for a result in predicate `n`, a bit for each lane; a write to p0 is discarded (R73). -/
def WritesP (s : State) (c : Instr) (g : Site) (x : Group) (lanes : LaneMask) (n : Nat) (f : Nat → Bool) : Prop :=
  ∃ z : Group, Moves s c g z (x.pc + 8) ∧ z = { x with p := z.p } ∧
    ∀ l r, l < 32 → r < 8 → (z.rp r).getLsbD l =
      if lanes.getLsbD l ∧ r = n ∧ n ≠ 0 then f l else (x.rp r).getLsbD l

/-- The command writes `v` into u register `n` and changes nothing else but the group's place in its program (R72). -/
def WritesU (s : State) (c : Instr) (g : Site) (x : Group) (n : Nat) (v : DWord) : Prop :=
  ∃ z : Group, Moves s c g z (x.pc + 8) ∧ z = { x with u := z.u } ∧
    ∀ r, z.ru r = if r = n then v else x.ru r

/-- A floating result: bits of `f` of the lane into t register `n`, or the pair from `n` where the result is 64 bits
wide, and the flags of every lane into sr.fflags, which keeps those it holds (R92). -/
def WritesF (s : State) (c : Instr) (g : Site) (x : Group) (lanes : LaneMask) (n : Nat) (wide : Bool)
    (f : Nat → Nat × FFlags) : Prop :=
  ∃ z : Group, Moves s c g z (x.pc + 8) ∧ z = { x with t := z.t, fflags := z.fflags } ∧
    (∀ l r, l < 32 → r < 256 → z.rt l r =
      if lanes.getLsbD l ∧ r = n then BitVec.ofNat 32 (f l).1
      else if wide = true ∧ lanes.getLsbD l ∧ r = n + 1 then BitVec.ofNat 32 ((f l).1 / 2 ^ 32)
      else x.rt l r) ∧
    ∀ i, i < 5 → (z.fflags.getLsbD i = true ↔
      x.fflags.getLsbD i = true ∨ ∃ l, l < 32 ∧ lanes.getLsbD l = true ∧ (f l).2.getLsbD i = true)

/-- A matrix instruction is queued: it stands behind the others in its core's array queue, with its operands read, and
its group moves on. Beside that the next state is `u`, the state as it was but for the count of free values and marks of
its tile (R152). -/
def Queues (s u : State) (c : Instr) (g : Site) (x : Group) (e : Enc) (i : MInstr) : Prop :=
  exec c s = .next ((u.updCore g.core (fun k => { k with
    queue := k.queue ++ [{ place := g.place, order := x.order, pc := x.pc, lane := lowestLane (x.guard e), instr := i }] })).after g
    { x with order := x.order + 1 } (x.pc + 8))

/-- A read or a write of the register at an offset of the set-up window is made: it comes in by a live port, and R540 to
R542 find no error in it. -/
def Reaches (s : State) (req : Requester) (off : Nat) (write : Bool) : Prop :=
  s.portLive req = true ∧ s.gate req off 8 write = none

/-- `u` is `s` with APLIC source `n` raised: it is pending, or where its domain lets it through it has been sent as an MSI to
the interrupt file that its target names (R413). -/
def Raises (s u : State) (n : Nat) : Prop :=
  let dom := s.aplicDom n
  let target := s.aplicReg dom (0x3000 + 4 * n)
  let through : Prop := (s.aplicReg dom 0).testBit 8 = true ∧ s.aplicReg dom (4 * n) % 8 ≠ 0 ∧
    (s.aplicReg dom 0x1E00).testBit n = true
  (¬ through → u = { s with hinge := { s.hinge with aplic := addNew n s.hinge.aplic } }) ∧
  (through → 1 ≤ target % 2048 → u = { s with hinge := { s.hinge with
    aplic := (addNew n s.hinge.aplic).filter (· != n)
    imsic := addNew (aplicFile dom target, target % 2048) s.hinge.imsic } })

/-- A message of another current member, for this module and of no older epoch, comes in by a working port (R437,
R445). -/
structure Arrives (s : State) (hdr : MsgHdr) (b : MsgBody) : Prop where
  carried : s.carries hdr b.vc = true
  here    : hdr.dst = s.span.ord
  member  : s.reachable hdr.src = true
  current : epochOlder hdr.epoch s.span.epoch = false

end Sys2Proof.Machine
end

