-- ==== Sys2Proof/Certificates/Slice0/Obligations.lean ====
section
/-! DEFINITION. The statements about the model, one for each group of commands and each kind of state. Those about
an instruction give its whole next state: what is not named in it is unchanged. -/

open Sys2Proof Sys2Proof.Machine

/-- R77, R106, R121, R142: what holds of every instruction of the SYRAM set: one whose guard is false on every active lane
changes nothing but the group's place in its program; a word whose MAJOR is no instruction's, the group's earlier loads and
atomics done, stops the tile and faults its context, or leaves the group with the fault pending where a debugger has armed
halt on fault. -/
def Obligations.EveryInstruction : Prop :=
  ∀ (s : State) (g : Site) (x : Group) (e : Enc) (m : AddrMode) (c : Site → Enc → Instr),
    c ∈ [.add, .sub, .mul, .muladd, .and, .or, .xor, .not, .shiftl, .shiftr, .min, .max, .cmp, .bitcnt,
        .leadz, .bitrev, .bytesel, .mov, .pick, .addI, .andI, .orI, .xorI, .shiftlI, .shiftrI, .cmpI,
        .movI, .fadd, .fsub, .fmul, .fma, .fmin, .fmax, .fcmp, .fabs, .fneg, .fcpys, .fsfu, .cvt,
        .lxch, .lquery, (.ld · m ·), (.st · m ·), (.zline · m ·), .atom, .lr, .sc, .mopen, .mclose, .mshape, .mload, .mstat,
        .mma, .mdrain, .mrelay, .mchk, .tarrive, .twait, .ttest, .hasp, .fenceOrd, .fenceDone, .bra,
        .brx, .call, .ret, .exit, .repack, .nop, .uop, .uopI, .ucmp, .ucmpI, .sread, .swrite, .brk] →
    s.group? g = some x → s.canIssue x = true → s.fetch g x = .ready → s.breakHit g x = none → x.stepping = false →
    s.regsReady g x e {} = true →
    (x.guard e = 0 → Moves s (c g e) g x (x.pc + 8)) ∧
    (x.guard e ≠ 0 → e.other.isSome = true → x.drained = true →
      let f : FaultInfo := { cls := 1, detail := 0, lane := lowestLane (x.guard e), addr := 0, pc := x.pc }
      ∃ u, exec (c g e) s = .next u ∧
        (s.wardOf g ∈ s.dbg.hof → s.hasRight 0 (s.wardOf g) = true → ∃ y, u.group? g = some y ∧ y.pending = some f) ∧
        (∀ t, s.wardOf g ∉ s.dbg.hof → s.merging g.core x.tile = false → s.tile? g.core x.tile = some t →
          (u.ctx t.ctx).state = .faulted ∧ u.tile? g.core x.tile = none))

/-- R85, R123, R126: the 32-bit results of the integer register forms, in the lanes of the guard, everything else left
alone. -/
def Obligations.IntegerRegisterForms : Prop :=
  ∀ (s : State) (g : Site) (x : Group) (e : Enc),
    (Issues s g x e (intDec [0] [0] 2 false e) →
      WritesT s (.and g e) g x (x.guard e) e.d (fun l => x.srcA e l &&& x.srcB e l) ∧
      WritesT s (.or g e) g x (x.guard e) e.d (fun l => x.srcA e l ||| x.srcB e l) ∧
      WritesT s (.xor g e) g x (x.guard e) e.d (fun l => x.srcA e l ^^^ x.srcB e l) ∧
      WritesT s (.shiftl g e) g x (x.guard e) e.d (fun l => x.srcA e l <<< ((x.srcB e l).toNat % 32))) ∧
    (Issues s g x e (intDec [0, 1] [0] 2 false e) →
      WritesT s (.shiftr g e) g x (x.guard e) e.d (fun l =>
        if e.type = 1 then (x.srcA e l).sshiftRight ((x.srcB e l).toNat % 32)
        else x.srcA e l >>> ((x.srcB e l).toNat % 32)) ∧
      WritesT s (.min g e) g x (x.guard e) e.d (fun l =>
        if intOf e.type.toNat (x.srcB e l) < intOf e.type.toNat (x.srcA e l) then x.srcB e l else x.srcA e l) ∧
      WritesT s (.max g e) g x (x.guard e) e.d (fun l =>
        if intOf e.type.toNat (x.srcA e l) < intOf e.type.toNat (x.srcB e l) then x.srcB e l else x.srcA e l)) ∧
    (Issues s g x e (intDec [0, 1] [0, 1] 2 false e) →
      WritesT s (.mul g e) g x (x.guard e) e.d (fun l =>
        (BitVec.ofInt 64 (intOf e.type.toNat (x.srcA e l) * intOf e.type.toNat (x.srcB e l))).extractLsb'
          (if e.sub = 0 then 0 else 32) 32)) ∧
    (Issues s g x e (intDec [0, 1] [0, 1] 3 false e) →
      WritesT s (.muladd g e) g x (x.guard e) e.d (fun l =>
        (BitVec.ofInt 64 (intOf e.type.toNat (x.srcA e l) * intOf e.type.toNat (x.srcB e l) +
          intOf e.type.toNat (x.srcC e l))).extractLsb' (if e.sub = 0 then 0 else 32) 32)) ∧
    (Issues s g x e (intDec [0, 1, 2, 3] [0] 2 false e) → wideType e.type = false →
      WritesT s (.add g e) g x (x.guard e) e.d (fun l => x.srcA e l + x.srcB e l) ∧
      WritesT s (.sub g e) g x (x.guard e) e.d (fun l => x.srcA e l - x.srcB e l))

/-- R85, R126: the one-source integer forms, BYTESEL, MOV and PICK. -/
def Obligations.IntegerSelectForms : Prop :=
  ∀ (s : State) (g : Site) (x : Group) (e : Enc),
    (Issues s g x e (intDec [0] [0] 1 false e) →
      WritesT s (.not g e) g x (x.guard e) e.d (fun l => ~~~(x.srcA e l)) ∧
      WritesT s (.bitcnt g e) g x (x.guard e) e.d (fun l =>
        BitVec.ofNat 32 ((List.range 32).filter (fun i => (x.srcA e l).getLsbD i)).length) ∧
      WritesT s (.leadz g e) g x (x.guard e) e.d (fun l =>
        BitVec.ofNat 32 (if x.srcA e l = 0 then 32 else 31 - Nat.log2 (x.srcA e l).toNat)) ∧
      (∃ f : Nat → Word, WritesT s (.bitrev g e) g x (x.guard e) e.d f ∧
        ∀ l i, i < 32 → (f l).getLsbD i = (x.srcA e l).getLsbD (31 - i))) ∧
    (Issues s g x e (intDec [0, 2] [0] 1 false e) → wideType e.type = false →
      WritesT s (.mov g e) g x (x.guard e) e.d (fun l => x.srcA e l)) ∧
    (Issues s g x e (intDec [0] [0] 3 false e) →
      WritesT s (.bytesel g e) g x (x.guard e) e.d (fun l => byteSelect (x.srcA e l) (x.srcB e l) (x.srcC e l))) ∧
    (Issues s g x e { intDec [0] [0] 2 false e with
        ops := [(.t, e.d), (srcKind e.ka false, e.a), (srcKind e.kb false, e.b), (.p, e.c)] } →
      WritesT s (.pick g e) g x (x.guard e) e.d (fun l =>
        if (x.rp e.c).getLsbD l then x.srcA e l else x.srcB e l))

/-- R85, R128: the immediate forms. -/
def Obligations.IntegerImmediateForms : Prop :=
  ∀ (s : State) (g : Site) (x : Group) (e : Enc),
    (Issues s g x e (intDecI [0] [0] 24 false e) →
      WritesT s (.andI g e) g x (x.guard e) e.d (fun l => x.srcAI e l &&& e.imm.signExtend 32) ∧
      WritesT s (.orI g e) g x (x.guard e) e.d (fun l => x.srcAI e l ||| e.imm.signExtend 32) ∧
      WritesT s (.xorI g e) g x (x.guard e) e.d (fun l => x.srcAI e l ^^^ e.imm.signExtend 32)) ∧
    (Issues s g x e (intDecI [0] [0] 5 false e) →
      WritesT s (.shiftlI g e) g x (x.guard e) e.d (fun l => x.srcAI e l <<< e.imm.toNat)) ∧
    (Issues s g x e (intDecI [0, 1] [0] 5 false e) →
      WritesT s (.shiftrI g e) g x (x.guard e) e.d (fun l =>
        if e.type = 1 then (x.srcAI e l).sshiftRight e.imm.toNat else x.srcAI e l >>> e.imm.toNat)) ∧
    (Issues s g x e (intDecI [0, 1, 2, 3] [0] 24 false e) → wideType e.type = false →
      WritesT s (.addI g e) g x (x.guard e) e.d (fun l => x.srcAI e l + e.imm.signExtend 32)) ∧
    (Issues s g x e { intDecI [0] [0, 1] (if e.subI = 0 then 24 else 8) false e with
        ops := [(.t, e.d), (.none, e.a)]
        rsv := (intDecI [0] [0, 1] (if e.subI = 0 then 24 else 8) false e).rsv || e.kaI } →
      WritesT s (.movI g e) g x (x.guard e) e.d (fun l =>
        if e.subI = 0 then e.imm.signExtend 32
        else (x.rt l e.d &&& 0x00FFFFFF#32) ||| (BitVec.ofNat 32 e.imm.toNat <<< 24)))

/-- R71, R85, R123: the 64-bit integer forms write both registers of the pair. -/
def Obligations.IntegerPairForms : Prop :=
  ∀ (s : State) (g : Site) (x : Group) (e : Enc),
    (Issues s g x e (intDec [0, 1, 2, 3] [0] 2 false e) → wideType e.type = true →
      WritesT2 s (.add g e) g x (x.guard e) e.d (fun l => x.srcA2 e l + x.srcB2 e l) ∧
      WritesT2 s (.sub g e) g x (x.guard e) e.d (fun l => x.srcA2 e l - x.srcB2 e l)) ∧
    (Issues s g x e (intDecI [0, 1, 2, 3] [0] 24 false e) → wideType e.type = true →
      WritesT2 s (.addI g e) g x (x.guard e) e.d (fun l => x.srcAI2 e l + e.imm.signExtend 64)) ∧
    (Issues s g x e (intDec [0, 2] [0] 1 false e) → wideType e.type = true →
      WritesT2 s (.mov g e) g x (x.guard e) e.d (fun l => x.srcA2 e l))

/-- R73, R125: compares write a predicate in the lanes of the guard; p0 is never written. -/
def Obligations.CompareForms : Prop :=
  ∀ (s : State) (g : Site) (x : Group) (e : Enc),
    (Issues s g x e (intDec [0, 1, 2, 3] [0, 1, 2, 3, 4, 5] 2 true e) →
      WritesP s (.cmp g e) g x (x.guard e) e.d (fun l =>
        if wideType e.type then condInt e.sub (intOf e.type.toNat (x.srcA2 e l)) (intOf e.type.toNat (x.srcB2 e l))
        else condInt e.sub (intOf e.type.toNat (x.srcA e l)) (intOf e.type.toNat (x.srcB e l)))) ∧
    (Issues s g x e (intDecI [0, 1, 2, 3] [0, 1, 2, 3, 4, 5] 24 true e) →
      WritesP s (.cmpI g e) g x (x.guard e) e.d (fun l =>
        if wideType e.type then
          condInt e.subI (intOf e.type.toNat (x.srcAI2 e l)) (intOf e.type.toNat (e.imm.signExtend 64))
        else condInt e.subI (intOf e.type.toNat (x.srcAI e l)) (intOf e.type.toNat (e.imm.signExtend 32)))) ∧
    (Issues s g x e { ops := [(.p, e.d), (.u, e.a), (.u, e.b), (.none, e.c)]
                      rsv := (e.type != 2 && e.type != 3) || decide (e.sub > 5) || field e.mods 11 0 != 0 } →
      WritesP s (.ucmp g e) g x (x.guard e) e.d (fun _ =>
        condInt e.sub (intOf e.type.toNat (x.ru e.a)) (intOf e.type.toNat (x.ru e.b)))) ∧
    (Issues s g x e { ops := [(.p, e.d), (.u, e.a)]
                      rsv := (e.type != 2 && e.type != 3) || decide (e.subI > 5) || field e.srcB 7 4 != 0 } →
      WritesP s (.ucmpI g e) g x (x.guard e) e.d (fun _ =>
        condInt e.subI (intOf e.type.toNat (x.ru e.a)) (intOf e.type.toNat (e.imm.signExtend 64))))

/-- R72, R85, R140: the uniform operations by code, the shift amount modulo 64. -/
def Obligations.UniformForms : Prop :=
  ∀ (s : State) (g : Site) (x : Group) (e : Enc),
    let op (code : Nat) (a b : DWord) : DWord :=
      if code = 0 then a + b else if code = 1 then a - b else if code = 2 then a * b
      else if code = 3 then a &&& b else if code = 4 then a ||| b else if code = 5 then a ^^^ b
      else if code = 6 then a <<< (b.toNat % 64) else if code = 7 then a >>> (b.toNat % 64)
      else if code = 8 then a.sshiftRight (b.toNat % 64)
      else if code = 9 then (if b.toInt < a.toInt then b else a)
      else if code = 10 then (if a.toInt < b.toInt then b else a)
      else if code = 11 then (if b.toNat < a.toNat then b else a)
      else if code = 12 then (if a.toNat < b.toNat then b else a)
      else a
    (Issues s g x e { ops := [(.u, e.d), (.u, e.a), (if e.sub = 13 then .none else .u, e.b), (.none, e.c)]
                      rsv := e.type != 2 || decide (e.sub > 13) || field e.mods 11 0 != 0 } →
      WritesU s (.uop g e) g x e.d (op e.sub (x.ru e.a) (x.ru e.b))) ∧
    (Issues s g x e { ops := [(.u, e.d), (if e.subI = 13 then .none else .u, e.a)]
                      rsv := e.type != 2 || decide (e.subI > 13) || field e.srcB 7 4 != 0 } →
      WritesU s (.uopI g e) g x e.d
        (if e.subI = 13 then e.imm.signExtend 64 else op e.subI (x.ru e.a) (e.imm.signExtend 64)))

/-- R87, R92, R125: the floating and conversion results in the lanes of the guard, and their flags; FCMP writes a predicate
in the lanes of the guard and ORs the flags of those lanes into sr.fflags. -/
def Obligations.FloatingForms : Prop :=
  (∀ (s : State) (g : Site) (x : Group) (e : Enc),
    let A (l : Nat) : Nat := x.fsrc e e.ka e.a l
    let B (l : Nat) : Nat := x.fsrc e e.kb e.b l
    let C (l : Nat) : Nat := x.fsrc e e.kc e.c l
    let wide := e.type == 6
    let sign : Nat := if e.type = 6 then 2 ^ 63 else 2 ^ 31
    (Issues s g x e (fltDec [6, 7] [0] 2 false e) →
      WritesF s (.fadd g e) g x (x.guard e) e.d wide (fun l => (fltFmt e).add (x.rmOf e.rm) e.ftz (A l) (B l)) ∧
      WritesF s (.fsub g e) g x (x.guard e) e.d wide (fun l => (fltFmt e).sub (x.rmOf e.rm) e.ftz (A l) (B l)) ∧
      WritesF s (.fmul g e) g x (x.guard e) e.d wide (fun l => (fltFmt e).mul (x.rmOf e.rm) e.ftz (A l) (B l))) ∧
    (Issues s g x e (fltDec [6, 7] [0] 2 false e false) →
      WritesF s (.fmin g e) g x (x.guard e) e.d wide (fun l => (fltFmt e).minmax true e.ftz (A l) (B l)) ∧
      WritesF s (.fmax g e) g x (x.guard e) e.d wide (fun l => (fltFmt e).minmax false e.ftz (A l) (B l))) ∧
    (Issues s g x e (fltDec [6, 7] [0] 2 false e false false) →
      WritesF s (.fcpys g e) g x (x.guard e) e.d wide (fun l => (A l % sign + B l / sign % 2 * sign, 0))) ∧
    (Issues s g x e (fltDec [6, 7] [0] 3 false e) →
      WritesF s (.fma g e) g x (x.guard e) e.d wide (fun l => (fltFmt e).fma (x.rmOf e.rm) e.ftz (A l) (B l) (C l))) ∧
    (Issues s g x e (fltDec [6, 7] [0] 1 false e false false) →
      WritesF s (.fabs g e) g x (x.guard e) e.d wide (fun l => (A l % sign, 0)) ∧
      WritesF s (.fneg g e) g x (x.guard e) e.d wide (fun l => (A l ^^^ sign, 0))) ∧
    (Issues s g x e (fltDec [7] [0, 1, 2, 3, 4, 5, 6] 1 false e) →
      WritesF s (.fsfu g e) g x (x.guard e) e.d false (fun l => sfu e.sub (x.rmOf e.rm) e.ftz (x.srcA e l))) ∧
    (Issues s g x e (cvtDec e) →
      WritesF s (.cvt g e) g x (x.guard e) e.d (type64 e.type.toNat) (fun l =>
        cvtLane e (x.rmOf e.rm) (if type64 e.sub then (x.src2 e.ka e.a l).toNat else (x.srcA e l).toNat)
          (x.rt l e.d).toNat))) ∧
  (∀ (s : State) (g : Site) (x : Group) (e : Enc),
    let r (l : Nat) : Bool × FFlags := (fltFmt e).cmp e.sub e.ftz (x.fsrc e e.ka e.a l) (x.fsrc e e.kb e.b l)
    Issues s g x e (fltDec [6, 7] [0, 1, 2, 3, 4, 5, 6, 7] 2 true e false) →
      ∃ z : Group, Moves s (.fcmp g e) g z (x.pc + 8) ∧ z = { x with p := z.p, fflags := z.fflags } ∧
        (∀ l n, l < 32 → n < 8 → (z.rp n).getLsbD l =
          if (x.guard e).getLsbD l ∧ n = e.d ∧ e.d ≠ 0 then (r l).1 else (x.rp n).getLsbD l) ∧
        ∀ i, i < 5 → (z.fflags.getLsbD i = true ↔
          x.fflags.getLsbD i = true ∨ ∃ l, l < 32 ∧ (x.guard e).getLsbD l = true ∧ (r l).2.getLsbD i = true))

/-- R86: LXCH takes a lane's source from the lane that SUB names, its own where that lane is not active; LQUERY combines
a predicate over the lanes of the guard. -/
def Obligations.CrossLaneForms : Prop :=
  ∀ (s : State) (g : Site) (x : Group) (e : Enc),
    let n := field (x.ru e.b) 4 0
    let other (l : Nat) : Nat :=
      if e.sub = 0 then (x.rt l e.b).toNat % 32 else if e.sub = 1 then (l + n) % 32
      else if e.sub = 2 then (l ^^^ n) % 32 else n % 32
    (Issues s g x e { intDec [0] [0, 1, 2, 3] 2 false e with
        rsv := (intDec [0] [0, 1, 2, 3] 2 false e).rsv || (if e.sub = 0 then e.kb else !e.kb) } →
      WritesT s (.lxch g e) g x (x.guard e) e.d (fun l =>
        if x.active.getLsbD (other l) then x.srcA e (other l) else x.srcA e l)) ∧
    (Issues s g x e { intDec [0] [0, 1, 2, 3] 1 false e with
        ops := [(if e.sub < 2 then .p else .t, e.d), (.p, e.a), (.none, e.b), (.none, e.c)]
        rsv := (intDec [0] [0, 1, 2, 3] 1 false e).rsv || e.ka } →
      (e.sub = 0 → WritesP s (.lquery g e) g x (x.guard e) e.d (fun _ => x.guard e &&& x.rp e.a != 0)) ∧
      (e.sub = 1 → WritesP s (.lquery g e) g x (x.guard e) e.d (fun _ => x.guard e &&& x.rp e.a == x.guard e)) ∧
      (e.sub = 2 → WritesT s (.lquery g e) g x (x.guard e) e.d (fun _ => x.guard e &&& x.rp e.a)) ∧
      (e.sub = 3 → WritesT s (.lquery g e) g x (x.guard e) e.d (fun _ =>
        BitVec.ofNat 32 ((List.range 32).filter (fun l => (x.guard e &&& x.rp e.a).getLsbD l)).length)))

/-- R44, R75, R141: SREAD of a value that all lanes share writes a u register, of one that differs between lanes a t
register; sr.core, sr.die and sr.spanrank make the tile core-bound, sr.time lies within 2 ns of the timebase modulo 2^64 and never runs back on a die; SWRITE writes sr.fflags or sr.frm. -/
def Obligations.SpecialValues : Prop :=
  ∀ (s : State) (g : Site) (x : Group) (e : Enc) (t : Tile) (k : Launch),
    let name := field e.imm 7 0
    let shared : Option Nat :=
      if name = 2 then some x.index else if name = 3 then some t.nthread else if name = 4 then some x.active.toNat
      else if name = 8 then some (t.index % k.fields.gx) else if name = 9 then some (t.index / k.fields.gx % k.fields.gy)
      else if name = 10 then some (t.index / k.fields.gx / k.fields.gy)
      else if name = 12 then some k.fields.gx else if name = 13 then some k.fields.gy
      else if name = 14 then some k.fields.gz else if name = 18 then some s.here
      else if name = 21 then some k.chain.length
      else if name = 32 then some x.fflags.toNat else if name = 33 then some x.frm.toNat else none
    (s.tile? g.core x.tile = some t → s.launch? t.launch = some k → ∀ v, shared = some v →
      Issues s g x e { ops := [(.none, e.a), (.none, e.b), (.u, e.d)]
                       rsv := e.type != 0 || field e.imm 23 8 != 0 } →
      WritesU s (.sread g e) g x e.d (BitVec.ofNat 64 v)) ∧
    (s.tile? g.core x.tile = some t → s.launch? t.launch = some k →
      Issues s g x e { ops := [(.none, e.a), (.none, e.b), (.u, e.d)]
                       rsv := e.type != 0 || field e.imm 23 8 != 0 } →
      (∀ v, (name = 16 ∧ v = g.core) ∨ (name = 17 ∧ v = g.core / 96) ∨
          (name = 20 ∧ k.chain.findIdx? (fun c => c.1 == s.here && c.2 == g.core) = some v) →
        ∃ z : Group, z = { x with u := z.u } ∧ (∀ r, z.ru r = if r = e.d then BitVec.ofNat 64 v else x.ru r) ∧
          exec (.sread g e) s = .next ((s.updTile g.core x.tile (fun t => { t with coreBound := true })).after g
            z (x.pc + 8))) ∧
      (name = 24 → ∃ (z : Group) (v : Nat), z = { x with u := z.u } ∧
        (∀ r, z.ru r = if r = e.d then BitVec.ofNat 64 v else x.ru r) ∧
        (∀ last, NMap.find (g.core / 96) s.time.copies = some last → (v + 2 ^ 64 - last) % 2 ^ 64 < 2 ^ 63) ∧
        (NMap.find (g.core / 96) s.time.copies ≠ some v → (v + 2 + 2 ^ 64 - s.time.now.toNat) % 2 ^ 64 ≤ 4) ∧
        exec (.sread g e) s = .next (({ s with
            free := s.free + 1
            time := { s.time with copies := NMap.ins (g.core / 96) v s.time.copies } } : State).after g z (x.pc + 8)))) ∧
    (name < 2 → Issues s g x e { ops := [(.none, e.a), (.none, e.b), (.t, e.d)]
                                 rsv := e.type != 0 || field e.imm 23 8 != 0 } →
      WritesT s (.sread g e) g x (x.guard e) e.d (fun l =>
        BitVec.ofNat 32 (if name = 0 then l else NMap.findD 0 l x.tids))) ∧
    (Issues s g x e { ops := [(.none, e.d), (.u, e.a), (.none, e.b)], rsv := e.type != 0 || field e.imm 23 8 != 0
                      extra := if name = 32 ∨ name = 33 then [] else [3] } →
      (name = 32 → Moves s (.swrite g e) g { x with fflags := (x.ru e.a).setWidth 5 } (x.pc + 8)) ∧
      (name = 33 → Moves s (.swrite g e) g { x with frm := (x.ru e.a).setWidth 2 } (x.pc + 8)))

/-- R60, R83, R100, R139, R140: where branches, calls and returns go, and what a divergent branch pushes. -/
def Obligations.ControlTransfer : Prop :=
  ∀ (s : State) (g : Site) (x : Group) (e : Enc),
    let plain := e.pred == 0 && !e.neg
    let target := x.pc + 8 * e.imm.signExtend 64
    let rpc := x.pc + 8 * (braRpc e).setWidth 64
    (Issues s g x e { rsv := plainRsv e } → Moves s (.nop g e) g x (x.pc + 8)) ∧
    (Issues s g x e { rsv := e.type != 0 || (if plain then braRpc e != 0 else braRpc e == 0) } →
      (x.guard e = x.active → Moves s (.bra g e) g x target) ∧
      (x.guard e ≠ x.active → x.stack.length + 2 ≤ 32 →
        Moves s (.bra g e) g { x with
          stack := { pc := target, rpc := some rpc, mask := x.guard e } ::
            { pc := rpc, rpc := x.crpc, mask := x.active } :: x.stack
          active := x.active &&& ~~~(x.guard e), crpc := some rpc } (x.pc + 8))) ∧
    (Issues s g x e { ops := [(.none, e.d), (.t2, e.a), (.none, e.b)], rsv := e.type != 0 || e.imm == 0 } →
      ∀ t : DWord, t.toNat % 8 = 0 → x.guard e = x.active → (∀ l, x.active.getLsbD l = true → x.rt2 l e.a = t) →
        Moves s (.brx g e) g x t) ∧
    (Issues s g x e { ops := [(.u, e.d), (.none, e.a), (.none, e.b)], rsv := e.type != 0
                      extra := callGuard x (x.guard e) } →
      Moves s (.call g e) g (x.wu e.d (x.pc + 8)) target) ∧
    (Issues s g x e { ops := [(.none, e.d), (.u, e.a), (.none, e.b)], rsv := e.type != 0 || e.imm != 0
                      extra := callGuard x (x.guard e) } →
      (x.ru e.a).toNat % 8 = 0 → Moves s (.ret g e) g x (x.ru e.a))

/-- R80, R96, R129, R306, R307: LD leaves a pending load with the addresses of its lanes and a note of the registers as it
found them, ST and ZLINE leave store-buffer entries; no byte of memory changes, and of the state beside the group only the
A and D marks of the leaves used and the count of free values. -/
def Obligations.LoadAndStoreIssue : Prop :=
  ∀ (s : State) (g : Site) (x : Group) (mode : AddrMode) (e : Enc) (accs : List LaneAcc),
    let w := accBytes e.type.toNat
    let at_ := (lanesOf (x.guard e)).map (fun l => (l, x.addr mode e l))
    let view := s.groupView g
    let tagged (es : List SbEntry) := es.map (fun n => { n with tag := s.groupTag g })
    s.orderReady g x = true →
    (Issues s g x e (memDec mode (accKind e.type.toNat) [0, 1, 2, 3, 4, 5, 6] [0, 1] e) →
      view.checkLanes (s.ctxOf g) w .read at_ = .ok accs → s.watchHit g.core (s.wardOf g) 0 w at_ = none →
      exec (.ld g mode e) s = .next ((s.translated (s.ctxOf g) .read (at_.map (·.2))).after g { x with
        order := x.order + 1
        snaps := x.snaps ++ [x.regsNow]
        loads := x.loads ++ [{ order := x.order, pc := x.pc, ca := polOf mode e == 0, width := w
                               sext := e.type == 1 || e.type == 3, dst := e.d, lr := false, lanes := accs }] }
        (x.pc + 8))) ∧
    (Issues s g x e (memDec mode (accKind e.type.toNat) [0, 2, 4, 5, 6] [0] e) →
      view.checkLanes (s.ctxOf g) w .write at_ = .ok accs → s.watchHit g.core (s.wardOf g) 1 w at_ = none →
      let es := storeEntries x.order (accs.map (fun a => (a, x.storeBytes e.d w a.lane)))
      x.sb.length < 32 → x.sb.length + es.length ≤ 32 →
      exec (.st g mode e) s = .next ((s.translated (s.ctxOf g) .write (at_.map (·.2))).after g { x with
        order := x.order + 1, sb := x.sb ++ tagged es } (x.pc + 8))) ∧
    (Issues s g x e (memDec mode .none [0] [0, 1] e) →
      view.checkLanes (s.ctxOf g) 128 .write at_ = .ok accs → s.watchHit g.core (s.wardOf g) 1 128 at_ = none →
      let es := storeEntries x.order (accs.map (fun a => (a, List.replicate 128 (0 : Byte))))
      x.sb.length < 32 → x.sb.length + es.length ≤ 32 →
      exec (.zline g mode e) s = .next ((s.translated (s.ctxOf g) .write (at_.map (·.2))).after g { x with
        order := x.order + 1
        sb := x.sb ++ tagged (es.map (fun n => { n with zline := some (polOf mode e == 1) })) } (x.pc + 8)))

/-- R80, R120, R307: a pending load of one lane performs with the bytes at its address, low byte first, extended as its
access code says; nothing but its destination register, in the group and in what its later accesses found, and the list
of loads changes. -/
def Obligations.LoadBindsData : Prop :=
  ∀ (s : State) (g : Site) (x : Group) (l : PendLoad) (rest : List PendLoad) (a : LaneAcc) (pa : Nat)
    (bytes : List Byte),
    s.group? g = some x → x.loads = l :: rest → l.lanes = [a] → l.ca = false → l.lr = false → x.sb = [] →
    (l.width = 1 ∨ l.width = 2 ∨ l.width = 4) → pa % l.width = 0 → l.dst < 256 →
    a.reply = none →
    ((a.tgt = .uncached pa ∧ s.domain (s.memDomain pa) = .idle ∧ lineOf pa ∉ s.ms.mem.poison ∧
        bytes = s.ms.mem.readN pa l.width) ∨
     (∃ c : CLine, a.tgt = .cache pa ∧ s.llcLine g.core pa = some c ∧ c.poison = false ∧
        bytes = (c.bytes.drop (pa % 128)).take l.width)) →
    ∃ z : Group, exec (.loadPerform g) s = .next (s.setGroup g z) ∧ z = { x with t := z.t, loads := rest, snaps := z.snaps } ∧
      ∀ i r, i < 32 → r < 256 → z.rt i r =
        if i = a.lane ∧ r = l.dst then
          (if l.sext = true ∧ l.width < 4 then BitVec.ofInt 32 (signedOf (8 * l.width) (bytesNat bytes))
           else BitVec.ofNat 32 (bytesNat bytes))
        else x.rt i r

/-- R294, R307: a store that may become visible reaches its endpoint: the controller for an uncached address, the die's
LLC for a line it holds in M or E. The bytes stored are the entry's, at the entry's line; every other byte of memory
reads as before, and no register of the group changes. -/
def Obligations.StoreReachesItsEndpoint : Prop :=
  ∀ (s : State) (g : Site) (x : Group) (idx : Nat) (n : SbEntry) (pa : Nat),
    s.group? g = some x → x.sb[idx]? = some n → x.mayAccept n = true → granuleOf n.tgt ∉ s.coh.holds →
    (n.tgt = .uncached pa → s.domain (s.memDomain pa) = .idle → s.lpRoom (lineOf pa) = true → s.accepts n.tag (lineOf pa) = true →
      ∃ (t : State) (y : Group), exec (.storeVisible g idx) s = .next t ∧ t.group? g = some y ∧
        y = { x with sb := dropAt idx x.sb, resv := y.resv } ∧
        (∀ i, (∀ c ∈ n.bytes, i ≠ lineOf pa + c.1) → t.ms.mem.read i = s.ms.mem.read i) ∧
        (NMap.wf n.bytes = true → ∀ c ∈ n.bytes, t.ms.mem.read (lineOf pa + c.1) = c.2) ∧
        t.ms.sram = s.ms.sram ∧ t.coh.caches = s.coh.caches) ∧
    (∀ c : CLine, n.tgt = .cache pa → n.nocache = false → s.llcLine g.core pa = some c → c.st ≠ .s →
      ∃ (t : State) (y : Group), exec (.storeVisible g idx) s = .next t ∧ t.group? g = some y ∧
        y = { x with sb := dropAt idx x.sb, resv := y.resv, dirtied := addNew (lineOf pa) x.dirtied } ∧
        t.ms = s.ms ∧
        (∃ d : CLine, t.llcLine g.core pa = some d ∧ d.st = .m ∧ d.tag = n.tag ∧
          d.bytes = overlay c.bytes n.bytes) ∧
        ∀ stop l, (stop ≠ stopOfDie (g.core / 96) ∨ l ≠ lineOf pa) →
          NMap.find l (t.cacheOf stop) = NMap.find l (s.cacheOf stop))

/-- R97, R98, R304, R312, R314: ATOM leaves one request for each address its lanes name, LR a load that will place the
lanes' reservations, and SC writes its predicate, true in a lane that holds the reservation of its granule, whose bytes
are then stored, and false, storing nothing, in one that does not. -/
def Obligations.AtomicIssue : Prop :=
  ∀ (s : State) (g : Site) (x : Group) (e : Enc) (t : Tile),
    let wide := decide (e.type.toNat ≥ 2)
    let w := if wide then 8 else 4
    let at_ := (lanesOf (x.guard e)).map (fun l => (l, x.atomAddr e l))
    let view := s.groupView g
    s.fencedReady g x = true → s.tile? g.core x.tile = some t → t.committed = true →
    (∀ accs, Issues s g x e (atomDec (regKind wide) true (e.sub == 7) [0, 1, 2, 3] true e) →
      view.checkLanes (s.ctxOf g) w .atomic at_ = .ok accs → s.watchHit g.core (s.wardOf g) 2 w at_ = none →
      (∀ a ∈ accs, ∃ pa, a.tgt = .cache pa ∨ a.tgt = .uncached pa) →
      exec (.atom g e) s = .next ((s.translated (s.ctxOf g) .atomic (at_.map (·.2))).after g { x with
        order := x.order + 1
        snaps := x.snaps ++ [x.regsNow]
        atoms := atomReqs { order := x.order, pc := x.pc, op := some (atomOpOf e.sub), width := w
                            signed := e.type.toNat % 2 == 1, dst := e.d, tgt := .mmio 0, va := 0, lanes := []
                            tag := s.groupTag g }
          (accs.map (fun a => (a, x.atomSrc wide e.kb e.b a.lane,
            if e.sub = 7 then x.atomSrc wide e.kc e.c a.lane else 0))) } (x.pc + 8))) ∧
    (∀ accs, Issues s g x e (atomDec (regKind wide) false false [0, 2] false e) →
      view.checkLanes (s.ctxOf g) w .lr at_ = .ok accs → s.watchHit g.core (s.wardOf g) 0 w at_ = none →
      exec (.lr g e) s = .next ((s.translated (s.ctxOf g) .lr (at_.map (·.2))).after g { x with
        order := x.order + 1
        snaps := x.snaps ++ [x.regsNow]
        loads := x.loads ++ [{ order := x.order, pc := x.pc, ca := false, width := w, sext := false, dst := e.d
                               lr := true, lanes := accs }] } (x.pc + 8))) ∧
    (∀ a pa, Issues s g x e (atomDec .p true false [0, 2] false e) →
      view.checkLanes (s.ctxOf g) w .sc at_ = .ok [a] → s.watchHit g.core (s.wardOf g) 1 w at_ = none →
      a.lane < 32 → a.tgt = .uncached pa → s.domain (s.memDomain pa) = .idle →
      (NMap.find a.lane x.resv ≠ some (.raw (lineOf pa)) →
        ∃ z : Group, exec (.sc g e) s = .next ((s.translated (s.ctxOf g) .sc (at_.map (·.2))).after g z (x.pc + 8)) ∧
          z = { x with p := z.p, order := x.order + 1, resv := NMap.del a.lane x.resv } ∧
          ∀ l r, l < 32 → r < 8 → (z.rp r).getLsbD l =
            if l = a.lane ∧ r = e.d ∧ e.d ≠ 0 then false else (x.rp r).getLsbD l) ∧
      (NMap.find a.lane x.resv = some (.raw (lineOf pa)) → s.lpRoom (lineOf pa) = true → s.accepts (s.groupTag g) (lineOf pa) = true →
        ∃ (u : State) (z : Group), exec (.sc g e) s = .next u ∧ u.group? g = some (z.goTo (x.pc + 8)) ∧
          (∀ l r, l < 32 → r < 8 → (z.rp r).getLsbD l =
            if l = a.lane ∧ r = e.d ∧ e.d ≠ 0 then true else (x.rp r).getLsbD l) ∧
          z.t = x.t ∧ z.u = x.u ∧
          (∀ i, i < w → u.ms.mem.read (pa + i) =
            BitVec.ofNat 8 ((x.atomSrc wide e.kb e.b a.lane).toNat / 256 ^ i)) ∧
          ∀ i, (i < pa ∨ pa + w ≤ i) → u.ms.mem.read i = s.ms.mem.read i))

/-- R133, R149, R150, R154: MSHAPE sets the group's pending shape, MOPEN opens a region of that shape on a core without
one and empties the accumulators, MCLOSE marks it closing and is queued. -/
def Obligations.MatrixRegions : Prop :=
  ∀ (s : State) (g : Site) (x : Group) (e : Enc),
    s.divergent g x (x.guard e) = false →
    (Issues s g x e (matDec false false false (e.type != 0 || decide (e.mods.toNat > 5)) (s.regionCond g x false) e) →
      Moves s (.mshape g e) g { x with shape := e.mods.setWidth 3 } (x.pc + 8)) ∧
    (Issues s g x e (matDec false false false (e.type != 0 || decide (e.mods.toNat > 1)) (s.regionCond g x false) e) →
      (s.core g.core).region = none → x.threads &&& ~~~x.active = 0 →
      exec (.mopen g e) s = .next ((s.updCore g.core (fun k => { k with
        region := some { place := g.place, shape := x.shape, stat := e.mods.getLsbD 0, lanes := x.threads
                         depth := x.stack.length }
        acc := [] })).after g x (x.pc + 8))) ∧
    (Issues s g x e (matDec false false false (e.type != 0 || e.mods != 0) (s.regionCond g x true) e) →
      (s.core g.core).queue.length < 8 →
      ∃ t, exec (.mclose g e) s = .next t ∧
        (t.core g.core).region = (s.core g.core).region.map (fun r => { r with closing := true }) ∧
        (t.core g.core).queue = (s.core g.core).queue ++
          [{ place := g.place, order := x.order, pc := x.pc, lane := lowestLane (x.guard e), instr := .mclose }] ∧
        t.group? g = some (Group.goTo { x with order := x.order + 1 } (x.pc + 8)) ∧
        (t.core g.core).acc = (s.core g.core).acc ∧ t.ms = s.ms ∧ t.fe = s.fe ∧ t.coh = s.coh)

/-- R132, R152, R162, R165, R169, R174, R205, R223: a matrix instruction reads its operands when it issues and is queued
behind the others; nothing of memory, the chuck or the accumulators changes then. An MRELAY that receives commits its tile
first only while two messages of its direction are retained and used (R230). -/
def Obligations.MatrixInstructionsQueue : Prop :=
  ∀ (s : State) (g : Site) (x : Group) (e : Enc),
    let lanes := x.guard e
    let reg := (s.regionOf g).getD default
    let fmt := e.type.toNat
    let acc := field e.mods 1 0
    let va := (x.ru e.a).toNat
    let dir := (x.ru e.a).getLsbD 0
    let pitchL := x.uf e.b 63 32
    let pitchD := x.uf e.b 31 0
    let rowsL := mloadRows reg.stat (e.mods.getLsbD 0) reg.shape fmt va (x.uf e.b 31 16) pitchL
    let rowsD := drainRows reg fmt va pitchD
    let rm := if field e.mods 6 4 = 4 then x.frm.toNat else field e.mods 6 4
    s.divergent g x lanes = false → (s.core g.core).queue.length < 8 →
    (∀ pages, Issues s g x e (s.mloadDec g e x) → x.fence = none → x.atoms = [] → va % 16 = 0 → pitchL % 16 = 0 →
      s.extent g .read (lowestLane lanes) rowsL = .ok pages → s.watchExtent g 0 rowsL = none →
      Queues s (s.translated (s.ctxOf g) .read (pages.map (fun p => p.1 * 4096))) (.mload g e) g x e
        (.mload (e.mods.getLsbD 0) fmt va (16 * x.uf e.b 15 0) (x.uf e.b 31 16) pitchL pages)) ∧
    (Issues s g x e (s.mstatDec g e x) →
      Queues s s (.mstat g e) g x e (.mstat fmt (16 * x.uf e.a 15 0) (16 * x.uf e.a 31 16) (x.uf e.a 39 32)
        (x.uf e.b 8 0) ((x.ru e.b).getLsbD 9))) ∧
    (Issues s g x e (s.mmaDec g e x) →
      Queues s s (.mma g e) g x e (.mma fmt (if e.mods.getLsbD 4 then field e.mods 8 5 else fmt) acc
        (e.mods.getLsbD 2) (e.mods.getLsbD 3) (e.mods.getLsbD 9) (16 * x.uf e.a 15 0) (16 * x.uf e.b 15 0)
        (x.uf e.c 15 0) (16 * x.uf e.c 31 16) (16 * x.uf e.c 47 32) (x.uf e.c 55 48))) ∧
    (Issues s g x e (s.mdrainDec g e x) → x.fence = none → x.atoms = [] → x.sb.length < 32 →
      ((x.ru e.b).getLsbD 63 = true →
        Queues s s (.mdrain g e) g x e (.mdrain fmt acc rm 0 (16 * x.uf e.a 15 0) 0 true [])) ∧
      (∀ pages, (x.ru e.b).getLsbD 63 = false → va % drainBytes fmt = 0 →
        s.extent g .write (lowestLane lanes) rowsD = .ok pages → s.watchExtent g 1 rowsD = none →
        Queues s (s.translated (s.ctxOf g) .write (pages.map (fun p => p.1 * 4096))) (.mdrain g e) g x e
          (.mdrain fmt acc rm va 0 pitchD false pages))) ∧
    (Issues s g x e (s.mrelayDec g e x) → x.drained = true →
      (field e.mods 3 2 = 0 ∨ s.hasPrev g.core dir = false ∨ ∀ t, s.tile? g.core x.tile = some t →
        (((s.core g.core).relay dir).kept t).length < 2 ∨ t.served dir < 2) →
      Queues s (s.updTile g.core x.tile (fun t => { t with coreBound := true })) (.mrelay g e) g x e
        (.mrelay acc (BitVec.ofNat 2 (field e.mods 3 2)) dir)) ∧
    (Issues s g x e (s.mchkDec g e x) → Queues s s (.mchk g e) g x e (.mchk acc e.d x.active))

/-- R310, R329, R331, R333, R345: sync instructions. TARRIVE posts its addition or subtraction and goes on; TWAIT and
TTEST send theirs and wait; HASP adds the group's arrival; a fence of the group scope ends at once, another holds the
group's later accesses, and FENCE.DONE the group. -/
def Obligations.SyncInstructions : Prop :=
  ∀ (s : State) (g : Site) (x : Group) (e : Enc) (t : Tile),
    let id := x.syId e
    let v := x.syVal e
    let loc := syLoc e
    let map := (s.ctx (s.ctxOf g)).map
    let op := if syDec e then TumOp.depart v else TumOp.arrive v
    let sentL (o : TumOp) : State := s.updCore g.core (fun k => { k with
      ltq := k.ltq ++ [{ tile := x.tile, id := id, op := o, place := g.place }] })
    let sentG (n : Nat) (o : TumOp) : State := { s with tumq := s.tumq ++ [⟨.group g, n, o⟩] }
    let dead := if syTo e = 0 then none else some (s.time.now.toNat + 2 ^ (syTo e + 9))
    s.syncReady g x = true → s.tile? g.core x.tile = some t → t.committed = true →
    (Issues s g x e (syDecode { loc := true, dec := true, val := true } none e x) →
      (loc = true → id < 48 → exec (.tarrive g e) s = .next ((sentL op).after g x (x.pc + 8))) ∧
      (∀ m, loc = false → NMap.find id map = some m → m.foreign = false → m.remote = false →
        exec (.tarrive g e) s = .next ((sentG m.index op).after g x (x.pc + 8)))) ∧
    (Issues s g x e (syDecode { loc := true, val := true, pdst := true, tmo := true } none e x) →
      (loc = true → id < 48 → exec (.twait g e) s = .next (((sentL (.wait v)).setGroup g { x with
        wait := .twait true id 0 v (syPdst e) dead, bpSkip := false, pcWritten := false }).turn g)) ∧
      (∀ m, loc = false → NMap.find id map = some m → m.foreign = false → m.remote = false →
        exec (.twait g e) s = .next (((sentG m.index (.wait v)).setGroup g { x with
          wait := .twait false id m.index v (syPdst e) dead, bpSkip := false, pcWritten := false }).turn g))) ∧
    (Issues s g x e (syDecode { loc := true, val := true, pdst := true } none e x) →
      (loc = true → id < 48 → exec (.ttest g e) s = .next (((sentL (.test v)).setGroup g { x with
        wait := .ttest true id 0 v (syPdst e), bpSkip := false, pcWritten := false }).turn g)) ∧
      (∀ m, loc = false → NMap.find id map = some m → m.foreign = false → m.remote = false →
        exec (.ttest g e) s = .next (((sentG m.index (.test v)).setGroup g { x with
          wait := .ttest false id m.index v (syPdst e), bpSkip := false, pcWritten := false }).turn g))) ∧
    (∀ h, Issues s g x e (s.haspDec g e x) → s.haspOf t.launch t.index id = some h →
      exec (.hasp g e) s = .next ((((({ s with
          hasps := NMap.ins id { h with arrived := addNew (t.index, x.index) h.arrived } s.hasps } : State).setGroup g
        { x with wait := .hasp id h.gen, bpSkip := false, pcWritten := false }).haspSettle id 2).updGroup g
          (fun y => { y with bpSkip := false, pcWritten := false })).turn g)) ∧
    (Issues s g x e (syDecode {} (some 5) e x) →
      (id = 0 → Moves s (.fenceOrd g e) g x (x.pc + 8)) ∧
      (id ≠ 0 → Moves s (.fenceOrd g e) g { x with
        order := x.order + 1
        fence := some { done := false, scope := id, order := x.order, lane := lowestLane (x.guard e) } } (x.pc + 8)) ∧
      exec (.fenceDone g e) s = .next ((s.setGroup g { x with
        order := x.order + 1, wait := .fenceDone, bpSkip := false, pcWritten := false
        fence := some { done := true, scope := id, order := x.order, lane := lowestLane (x.guard e) } }).turn g))

/-- R54, R62, R64, R101: EXIT retires the threads of the lanes of its guard, and a group without threads leaves its
place; REPACK goes on where there is nothing to gain and parks where there is; BRK, the group's
loads and atomics done, goes on without halt rights, and with them halts its group at the next instruction. -/
def Obligations.ThreadEndAndDebugBreak : Prop :=
  ∀ (s : State) (g : Site) (x : Group) (e : Enc) (t : Tile),
    s.tile? g.core x.tile = some t →
    (Issues s g x e { rsv := plainRsv e } →
      (x.threads &&& ~~~x.guard e ≠ 0 →
        ∃ z : Group, Moves s (.exit g e) g z (x.pc + 8) ∧ z.threads = x.threads &&& ~~~x.guard e ∧
          z.active = x.active &&& ~~~x.guard e ∧ z.stack = x.stack.map (fun f => { f with mask := f.mask &&& ~~~x.guard e }) ∧
          (∀ l, (x.guard e).getLsbD l = true → NMap.find l z.resv = none) ∧
          z.t = x.t ∧ z.u = x.u ∧ z.p = x.p ∧ z.fflags = x.fflags) ∧
      (x.threads &&& ~~~x.guard e = 0 → x.loads = [] → x.atoms = [] → x.fence = none → s.matrixBusy g = false → s.localPosted g = false →
        s.hasps = [] → (s.core g.core).region = none →
        (∃ p ∈ (s.core g.core).groups, p.1 ≠ g.place ∧ p.2.tile = x.tile) →
        ∃ u, exec (.exit g e) s = .next u ∧ u.group? g = none ∧
          (∀ h : Site, h ≠ g → u.group? h = s.group? h) ∧ u.ms = s.ms ∧ u.coh = s.coh)) ∧
    (Issues s g x e { ops := [(.none, e.d), (.none, e.a), (.none, e.b)], rsv := e.type != 0 || field e.imm 23 8 != 0 } →
      x.loads = [] → x.atoms = [] → x.fence = none → x.sb = [] → s.pendingP g x = [] →
      (x.threads = BitVec.allOnes 32 ∨ x.stack ≠ [] → Moves s (.repack g e) g x (x.pc + 8)) ∧
      (x.threads ≠ BitVec.allOnes 32 → x.stack = [] → s.repackRefused g x = false → s.parkedAt g x.tile x.pc = [] →
        (field e.imm 7 0 = 0 → Moves s (.repack g e) g x (x.pc + 8)) ∧
        (field e.imm 7 0 ≠ 0 → exec (.repack g e) s = .next ((s.setGroup g { x with
          wait := .parked, bpSkip := false, pcWritten := false }).turn g)))) ∧
    (Issues s g x e { ops := [(.none, e.d), (.none, e.a), (.none, e.b)], rsv := e.type != 0 || field e.imm 23 16 != 0 } →
      x.drained = true →
      (s.hasRight 0 (s.wardOf g) = false → Moves s (.brk g e) g x (x.pc + 8)) ∧
      (s.hasRight 0 (s.wardOf g) = true → s.matrixBusy g = false →
        ∃ (u : State) (y : Group), exec (.brk g e) s = .next u ∧ u.group? g = some y ∧ y.halted = true ∧
          y.pc = (x.goTo (x.pc + 8)).pc ∧ y.t = x.t ∧ y.u = x.u ∧ y.p = x.p ∧
          (s.dbg.elbase = 0 → s.dbg.tren = false → u.ms = s.ms)))

/-- R64, R65, R84, R138, R310, R311, R574: a parked group goes on when its wait expires, merged groups both go on, a
TWAIT past its deadline writes false, a fence ends, an instruction line arrives, and a page that the host maps wakes
the groups that wait for it. -/
def Obligations.GroupEvents : Prop :=
  ∀ (s : State) (g : Site) (x : Group),
    let quiet (y : Group) : Prop :=
      y.halted = false ∧ y.pcWritten = false ∧ y.haltReq = none ∧ y.stepping = false
    s.group? g = some x → quiet x →
    (x.wait = .parked → exec (.repackWaitExpiry g) s = .next (s.moved g { x with wait := .none } (x.pc + 8))) ∧
    (∀ (p : Nat) (y : Group), x.wait = .merging p true → p ≠ g.place → s.group? ⟨g.core, p⟩ = some y → quiet y →
      y.threads ≠ 0 → (∀ q ∈ (s.core g.core).groups, q.2.pending = none) →
      (∀ t, s.tile? g.core x.tile = some t → t.late = []) →
      exec (.mergeComplete g) s = .next ((s.moved g { x with wait := .none } (x.pc + 8)).moved
        ⟨g.core, p⟩ { y with wait := .none } (y.pc + 8))) ∧
    (∀ loc id n v pdst d, x.wait = .twait loc id n v pdst (some d) → d ≤ s.time.now.toNat → s.fe.frozen = none →
      ∃ t, exec (.twaitTimeout g) s = .next t ∧
        t.group? g = some (Group.goTo { x.wp pdst x.active 0 with wait := .none } (x.pc + 8)) ∧
        (∀ w ∈ t.waiters, w.src ≠ .group g) ∧ (∀ w ∈ s.waiters, w.src ≠ .group g → w ∈ t.waiters) ∧
        t.tums = s.tums ∧ t.ms = s.ms) ∧
    (∀ f : FenceWait, x.fence = some f → x.fenceMet f = true →
      (f.done = false → f.scope < 2 → exec (.fenceComplete g) s = .next (s.setGroup g { x with fence := none })) ∧
      (f.done = false → 2 ≤ f.scope → exec (.fenceComplete g) s = .next
        ((s.setGroup g { x with fence := none }).updCore g.core (fun k => { k with l1 := [], icache := [] }))) ∧
      (f.done = true → x.wait = .fenceDone → x.dirtied = [] → x.winDone = [] → x.undeliv = none →
        ∃ t, exec (.fenceComplete g) s = .next t ∧
          t.group? g = some (Group.goTo { x with fence := none, wait := .none } (x.pc + 8)) ∧
          (2 ≤ f.scope → (t.core g.core).l1 = [] ∧ (t.core g.core).icache = []) ∧ t.ms = s.ms ∧ t.coh = s.coh)) ∧
    (∀ (pa : Nat) (l : CLine), (s.groupView g).resolve (s.ctxOf g) x.pc.toNat .fetch = .ok (.cache pa) →
      s.viaLlc g.core (5 + g.place) = true → s.llcLine g.core pa = some l → l.poison = false →
      (∀ r ∈ (s.core g.core).lineReads, r.owner ≠ 5 + g.place) → (s.core g.core).icache.length < 512 →
      exec (.instructionFetchFill g) s = .next (((s.updCore g.core (fun k => k.endReads (5 + g.place))).translated (s.ctxOf g)
        .fetch [x.pc.toNat]).updCore g.core (fun k => { k with icache := addNew (lineOf pa) k.icache }))) ∧
    (∀ (pasid va : Nat) (l : Leaf), (pasid, va / 4096) ∈ s.io.requests →
      (∀ c ∈ s.fe.ctxs, c.2.activating = false ∧ c.2.rings = []) →
      (∀ n, (s.ctx n).owedPins = [] ∧ (s.ctx n).owedFaults = []) → s.pageWaiters pasid (va / 4096) = [(g, va, 0)] →
      ∃ u, exec (.pageRequestResponse pasid va (some l)) s = .next u ∧
        u.io = { s.io with
          requests := s.io.requests.filter (· != (pasid, va / 4096)), leaves := s.io.leaves ++ [{ l with pasid := pasid }] } ∧
        u.group? g = some { x with wait := .none } ∧ (∀ h : Site, h ≠ g → u.group? h = s.group? h) ∧
        (∀ n, u.ctx n = s.ctx n) ∧ u.ms = s.ms ∧ u.coh = s.coh)

/-- R303, R304: a request of an atomic executes once at its endpoint: the location holds the operation's result and the
lane is to receive the value before it; the response then writes that value into the lane's register. -/
def Obligations.AtomicCompletes : Prop :=
  ∀ (s : State) (g : Site) (x : Group) (r : AtomReq) (l : Nat) (b c : DWord),
    s.group? g = some x → r.lanes = [(l, b, c)] → (r.width = 4 ∨ r.width = 8) →
    (∀ (idx pa : Nat) (op : AtomOp), x.atoms[idx]? = some r → r.op = some op → r.result = none → r.tgt = .uncached pa →
      pa % r.width = 0 → s.domain (s.memDomain pa) = .idle → granuleOf r.tgt ∉ s.coh.holds → (∀ q ∈ x.atoms, s.atomBad q = false) →
      s.accepts r.tag (lineOf pa) = true →
      let old := bytesNat (s.ms.mem.readN pa r.width)
      let new := atomNew op r.width r.signed old b.toNat c.toNat
      ∃ (t : State) (y : Group), exec (.homeAtomic g idx) s = .next t ∧ t.group? g = some y ∧
        y.atoms = modAt (fun q => { q with result := some [(l, BitVec.ofNat 64 old)], poison := false }) idx x.atoms ∧
        y.t = x.t ∧ y.u = x.u ∧ y.p = x.p ∧
        (∀ i, i < r.width → t.ms.mem.read (pa + i) = BitVec.ofNat 8 (new / 256 ^ i)) ∧
        ∀ i, (i < pa ∨ pa + r.width ≤ i) → t.ms.mem.read i = s.ms.mem.read i) ∧
    (∀ (op : AtomOp) (v : DWord), x.atoms = [r] → r.op = some op → r.result = some [(l, v)] → r.poison = false →
      r.dst + r.width / 4 ≤ 256 →
      ∃ z : Group, exec (.atomicResponse g) s = .next (s.setGroup g z) ∧ z = { x with t := z.t, atoms := [], snaps := [] } ∧
        ∀ i n, i < 32 → n < 256 → z.rt i n =
          if i = l ∧ n = r.dst then v.extractLsb' 0 32
          else if i = l ∧ r.width = 8 ∧ n = r.dst + 1 then v.extractLsb' 32 32
          else x.rt i n)

/-- R327, R329, R330, R331, R334: an operation that reaches a tumbler: an addition that passes 2^32 − 1 leaves that value
and sets S, a subtraction below zero leaves zero and sets U, S holds the count, and a test answers whether the count has
reached the value. An arrival that brings a global tumbler to the value a TWAIT waits for releases that wait, and true is
written into its predicate in every active lane. -/
def Obligations.TumblerOperations : Prop :=
  (∀ (s : State) (n k : Nat) (src : TumSrc) (rest : List TumReq),
    let t := s.tum n
    let taken : State := { s with tumq := rest }
    s.waiters = [] → t.armed = false →
    (s.tumq = ⟨src, n, .arrive k⟩ :: rest →
      exec (.tumblerOperation .global 0) s = .next (taken.setTum n (
        if t.s = true then t
        else if 2 ^ 32 - 1 < t.count + k then { t with count := 2 ^ 32 - 1, s := true }
        else { t with count := t.count + k }))) ∧
    (s.tumq = ⟨src, n, .depart k⟩ :: rest →
      exec (.tumblerOperation .global 0) s = .next (taken.setTum n (
        if t.s = true then t
        else if t.count < k then { t with count := 0, u := true }
        else { t with count := t.count - k }))) ∧
    (∀ o id, s.tumq = ⟨.peer o id, n, .test k⟩ :: rest →
      exec (.tumblerOperation .global 0) s = .next (taken.send
        { dst := o, txid := id, epoch := s.span.epoch, body := .twake (decide (k ≤ t.count)) })) ∧
    (s.tumq = ⟨src, n, .wait k⟩ :: rest → t.count < k →
      exec (.tumblerOperation .global 0) s = .next { s with tumq := rest, waiters := [⟨src, n, k⟩] }) ∧
    (∀ (c p v pdst : Nat) (x : Group) (tile : Tile) (id : Nat),
      (s.core c).ltq = [{ tile := x.tile, id := id, op := .test v, place := p }] →
      s.group? ⟨c, p⟩ = some x → s.tile? c x.tile = some tile → x.wait = .ttest true id 0 v pdst →
      x.halted = false → x.pcWritten = false → x.haltReq = none → x.stepping = false →
      ∃ u, exec (.tumblerOperation (.core c) 0) s = .next u ∧
        u.group? ⟨c, p⟩ = some (Group.goTo { x.wp pdst x.active
          (if v ≤ (NMap.findD {} id tile.lt).count then BitVec.allOnes 32 else 0) with wait := .none } (x.pc + 8)) ∧
        (u.core c).ltq = [] ∧ u.ms = s.ms)) ∧
  (∀ (s : State) (n k v pdst : Nat) (src : TumSrc) (rest : List TumReq) (g : Site) (x : Group) (dead : Option Nat)
    (id : Nat),
    s.tumq = ⟨src, n, .arrive k⟩ :: rest → s.waiters = [⟨.group g, n, v⟩] → (s.tum n).armed = false →
    (s.tum n).s = false → (s.tum n).count + k < 2 ^ 32 → v ≤ (s.tum n).count + k →
    s.group? g = some x → x.wait = .twait false id n v pdst dead →
    x.halted = false → x.pcWritten = false → x.haltReq = none → x.stepping = false →
    ∃ u, exec (.tumblerOperation .global 0) s = .next u ∧ u.waiters = [] ∧
      (u.tum n).count = (s.tum n).count + k ∧
      u.group? g = some (Group.goTo { x.wp pdst x.active (BitVec.allOnes 32) with wait := .none } (x.pc + 8)))

/-- R152, R154, R223: the head of the array queue starts, and an instruction that runs finishes: MCLOSE closes the
region and drops its accumulators, MCHK writes its predicate in the lanes that were active at its issue. -/
def Obligations.ArrayEvents : Prop :=
  ∀ (s : State) (c key : Nat) (r : Region) (m : MEntry) (rest : List MEntry),
    let k := s.core c
    (k.queue = m :: rest → k.region = some r → s.regionTile c = some key → mayStart k.running m.instr = true →
      (m.instr = .mclose → exec (.arrayStart c) s = .next (s.setCore c { k with queue := rest, running := k.running ++ [m] })) ∧
      (∀ acc pdst mask, m.instr = .mchk acc pdst mask → (k.accSet acc).mismatch r.stat = false →
        exec (.arrayStart c) s = .next (s.setCore c { k with
          queue := rest
          running := k.running ++ [{ m with added := (List.range (outCount r.stat r.shape)).all (fun o =>
            (k.accSet acc).outClass r.stat r.shape o == .checked) }] }))) ∧
    (k.running = m :: rest → m.poison = none → m.held = false →
      ∀ x : Group, s.group? ⟨c, m.place⟩ = some x → x.haltReq = none →
      (m.instr = .mclose → exec (.matrixInstructionFinish c) s = .next (s.setCore c { k with
        running := rest, region := none, acc := [] })) ∧
      (∀ acc pdst mask, m.instr = .mchk acc pdst mask →
        ∃ (t : State) (y : Group), exec (.matrixInstructionFinish c) s = .next t ∧ t.group? ⟨c, m.place⟩ = some y ∧
          y = { x with p := y.p } ∧ (t.core c).running = rest ∧ t.ms = s.ms ∧
          ∀ l n, l < 32 → n < 8 → (y.rp n).getLsbD l =
            if mask.getLsbD l ∧ n = pdst ∧ pdst ≠ 0 then m.added else (x.rp n).getLsbD l)) ∧
    (∀ (acc : Nat) (d : Bool) (t : Tile) (l : Launch) (c2 : Nat),
      k.running = [m] → m.instr = .mrelay acc 0 d → m.held = true → k.region = some r → s.regionTile c = some key →
      s.tile? c key = some t → s.launch? t.launch = some l → (k.accSet acc).mismatch r.stat = false →
      chainNext l.chain d (s.here, c) = some (s.here, c2) → c2 ≠ c → ((s.core c2).relay d).inq = [] →
      ∃ u, exec (.relaySendResume c) s = .next u ∧
        (u.core c).running = [{ m with added := true, held := false }] ∧ (u.core c).acc = k.acc ∧
        (((s.core c2).relay d).last = none → ∃ q, ((u.core c2).relay d).inq = [q] ∧ q.words = (k.accSet acc).words ∧
          q.anchor = (k.accSet acc).anchor ∧ q.tile = t.index ∧ q.core = c))

/-- R106, R108, R162, R366: poisoned data of an MLOAD and a tile at four times its budget fault the tile's context; a
tile at its budget is only counted. -/
def Obligations.TileFaultEvents : Prop :=
  ∀ (s : State) (c key : Nat) (t : Tile), s.tile? c key = some t →
    (∀ (m : MEntry) (x : Group) (a : Nat), (s.core c).running = [m] → m.poison = some a →
      s.group? ⟨c, m.place⟩ = some x → x.tile = key → s.merging c key = false →
      ∃ u, exec (.mloadPoison c) s = .next u ∧ (u.ctx t.ctx).state = .faulted ∧ u.tile? c key = none) ∧
    (4 * t.budget ≤ t.elapsed s.nowN → s.fe.frozen = none → s.merging c key = false →
      ∃ u, exec (.budgetStop c key) s = .next u ∧ (u.ctx t.ctx).state = .faulted ∧ u.tile? c key = none) ∧
    (t.overrun = false → t.budget ≤ t.elapsed s.nowN → s.fe.frozen = none →
      (∃ l, s.launch? t.launch = some l ∧ l.origin.isSome = true) →
      ∃ u, exec (.budgetOverrun c key) s = .next u ∧ u.tile? c key = some { t with overrun := true } ∧
        (u.ctx t.ctx).usage.overruns = (s.ctx t.ctx).usage.overruns.add 48 1 ∧
        (u.ctx t.ctx).state = (s.ctx t.ctx).state ∧ u.ms = s.ms)

/-- R249, R331, R399: a spindle whose EMPTT wait is met subtracts 1 and starts the next buffer; one that has ended a
buffer raises FULLT by 1; one that has raised every buffer and whose final wait is met subtracts the buffers it started,
at most NBUF, and finishes; and a FILL's spindle stores the pattern from its place on. -/
def Obligations.SpindleEvents : Prop :=
  ∀ (s : State) (c n key : Nat) (t : Tile) (sp : Spindle),
    let lt (i : Nat) : LTumbler := NMap.findD {} i t.lt
    s.spTile c = some (key, t) → s.tile? c key = some t → NMap.find n (s.core c).spindles = some sp →
    (∀ i, (s.core c).localWaiters key i = []) →
    (sp.phase = .waitEmpt → sp.met = true → (lt sp.hdr.emptt).s = false → 1 ≤ (lt sp.hdr.emptt).count →
      ∃ u, exec (.spindleBufferTake c n) s = .next u ∧
        NMap.find n (u.core c).spindles =
          some { sp with phase := .run, met := false, bufOpen := true, started := sp.started + 1 } ∧
        u.ltCount c key sp.hdr.emptt = (lt sp.hdr.emptt).count - 1 ∧ u.ms = s.ms) ∧
    (sp.raised < sp.ended → (lt sp.hdr.fullt).s = false → (lt sp.hdr.fullt).count + 1 < 2 ^ 32 →
      ∃ (u : State) (y : Spindle), exec (.spindleFulltRaise c n) s = .next u ∧
        NMap.find n (u.core c).spindles = some y ∧ y.raised = sp.raised + 1 ∧ y.phase = sp.phase ∧
        (sp.fillsat = false → sp.fills + 1 < 2 ^ 31 → y.fills = sp.fills + 1) ∧
        u.ltCount c key sp.hdr.fullt = (lt sp.hdr.fullt).count + 1 ∧ u.ms = s.ms) ∧
    (sp.phase = .final → sp.raised = sp.ended → sp.hdr.status = 0 → (lt sp.hdr.emptt).s = false →
      Nat.min sp.started sp.hdr.nbuf ≤ (lt sp.hdr.emptt).count →
      ∃ u, exec (.spindleFinish c n) s = .next u ∧
        NMap.find n (u.core c).spindles = some { sp with phase := .finished, met := false } ∧
        u.ltCount c key sp.hdr.emptt = (lt sp.hdr.emptt).count - Nat.min sp.started sp.hdr.nbuf ∧ u.ms = s.ms) ∧
    (∀ (dst total : Nat) (pattern : DWord) (l : Launch), sp.prog = .fill dst total pattern → s.power.on = true →
      s.fe.frozen = none → s.launch? t.launch = some l → l.kind = .fill dst total pattern →
      (sp.phase = .start →
        exec (.spindleReadData c n) s = .next (s.setSpindle c n { sp with phase := .run })) ∧
      (∀ tg, sp.phase = .run → (s.spView c).resolve t.ctx (dst + sp.pos) .write = .ok tg →
        let len := Nat.min (total - sp.pos) (128 - (dst + sp.pos) % 128)
        sp.pos + len < total →
        let e : SbEntry := {
          order := 0, va := dst + sp.pos, tgt := lineTgt tg, tag := s.launchTag t.launch, drain := true
          bytes := (List.range len).map (fun i =>
            (lineOff tg + i, BitVec.ofNat 8 (pattern.toNat / 256 ^ ((sp.pos + i) % 8)))) }
        ∃ u, exec (.spindleReadData c n) s = .next u ∧
          NMap.find n (u.core c).spindles = some { sp with pos := sp.pos + len, pageWait := none } ∧
          (u.core c).orphans = (s.core c).orphans ++ 
            [{ ctx := t.ctx, launch := t.launch, store := some e, ways := t.plan.ways }] ∧
          u.ms = s.ms))

/-- R74, R227, R228, R365: a tile is placed with a thread group for each 32 threads, each at its start, and a replay is
placed with the tile's index, what its earlier runs left of it, a fresh budget and nothing committed. -/
def Obligations.TilesArePlaced : Prop :=
  ∀ (s : State) (c key : Nat) (l : Launch),
    let starts (u : State) (tkey : Nat) (t : Tile) : Prop :=
      u.tile? c tkey = some t ∧ t.ctx = l.ctx ∧ t.launch = key ∧ t.nthread = l.fields.nthread ∧
      t.start = s.nowN ∧ t.committed = false ∧ t.lt = [] ∧
      ∀ i, i < groupsPerTile l.fields → ∃ p, u.group? ⟨c, p⟩ = some (startGroup l.fields tkey i)
    s.launch? key = some l → l.kind = .launch → s.feServes = true → s.domain (s.halfOf c) = .idle →
    s.dbg.tren = false → 0 < groupsPerTile l.fields →
    (∀ n, s.coreLaunch c = some (key, l) → s.nextTile c l = some n → l.hasps = [] →
      (∀ k ∈ s.fe.launches, k.2.origin = none) →
      ∃ (u : State) (tkey : Nat) (t : Tile), exec (.tilePlace c) s = .next u ∧ starts u tkey t ∧ t.index = n ∧
        t.mism = 0 ∧ t.coreBound = false ∧ t.lastAt = none ∧ (u.launch? key).map (·.next) = some (l.next + 1) ∧
        ((s.ctx l.ctx).holdsSlot s.fe.slots l.ctx = false → u.ms = s.ms)) ∧
    (∀ r : Replay, l.replays = [r] → s.coreCtx c = some l.ctx → s.ctxReplay c l.ctx = some (key, 0, r) →
      ∃ (u : State) (tkey : Nat) (t : Tile), exec (.replayPlace key c) s = .next u ∧ starts u tkey t ∧
        t.index = r.index ∧ t.mism = r.mism ∧ t.coreBound = r.coreBound ∧ t.lastAt = r.lastAt ∧ (u.launch? key).map (·.replays) = some [] ∧
        NMap.findD {} 4 (u.ctx l.ctx).counters = (NMap.findD {} 4 (s.ctx l.ctx).counters).add 48 1 ∧
        ((s.ctx l.ctx).holdsSlot s.fe.slots l.ctx = false → u.ms = s.ms))

/-- R232, R233, R235: a core being retired, with its last tile ended, moves onto the lowest unused spare position of its
die, which has one spare fewer, and the keeper records the new map; no other core moves. -/
def Obligations.CoreRetires : Prop :=
  ∀ (s : State) (c p : Nat),
    let d := dieOfCore c
    let m := s.spareMap d
    s.power.on = true →
    ((s.core c).retiring = true → (s.core c).tiles = [] → m.fenced = false → m.spares ≠ 0 →
      p < 100 → p ∉ NMap.vals m.map → m.retired.getLsbD p = false →
      (∀ q, q < p → q ∈ NMap.vals m.map ∨ m.retired.getLsbD q = true) →
      ∃ u, exec (.retirement c) s = .next u ∧ u.positionOf c = p ∧ (u.spareMap d).spares = m.spares - 1 ∧
        (s.positionOf c < 100 → (u.spareMap d).retired.getLsbD (s.positionOf c) = true) ∧
        (u.core c).retiring = false ∧ d ∈ u.sec.unrecorded ∧
        ∀ c2, c2 < 768 → c2 ≠ c → c < 768 → u.positionOf c2 = s.positionOf c2) ∧
    (∀ die, die ∈ s.sec.unrecorded →
      ∃ u, exec (.retirementRecord die) s = .next u ∧ u.sec.unrecorded = [] ∧
        u.sec.cfg = { s.sec.cfg with seq := s.sec.cfg.seq + 1, valid := true } ∧
        u.sec.cfg ∈ u.sec.bankA.cfgs ∧ u.sec.cfg ∈ u.sec.bankB.cfgs ∧
        u = { s with sec := u.sec })

/-- R234, R468: a die that the keeper fences is marked so in its spare map, and its two core domains and its LLC domain
go off. -/
def Obligations.FencedDieGoesOff : Prop :=
  ∀ (s : State) (die : Nat),
    die < 8 → s.fenced die = false → s.power.on = true → s.stage = .ready →
    ∃ u, exec (.dieFence die) s = .next u ∧ u.fenced die = true ∧ u.domain (2 * die) = .off ∧
      u.domain (2 * die + 1) = .off ∧ u.domain (16 + die) = .off ∧
      (∀ d, d ≠ 2 * die → d ≠ 2 * die + 1 → d ≠ 16 + die → u.domain d = s.domain d) ∧
      ∀ d2, d2 ≠ die → u.fenced d2 = s.fenced d2

/-- R298, R300, R302: the requests and snoops of a line. A request for a line that nothing holds opens a transaction,
one for a line with an open transaction is refused and held; a marked stop answers a snoop, from which its copy is gone
where the line is asked for to own; the answer's dirty data reaches the home. -/
def Obligations.LineRequests : Prop :=
  ∀ (s : State) (stop line way : Nat),
    let ready : Prop := s.isLp line = true ∧ s.asked stop line = false ∧ s.outstanding stop < 256 ∧
      s.domain (s.memDomain line) = .idle ∧ (∀ b ∈ s.coh.backInv, b.region ≠ s.regionOfLine line)
    (∀ kind, kind = .read ∨ kind = .own → ready → stop = 10 → s.hostRuns = true → s.hostReaches line = true →
      s.cacheOf 10 = [] → (∀ r ∈ s.coh.retries, r.line ≠ line) → line ∉ s.coh.atomBuf →
      (NMap.has line s.coh.txns = true → exec (.coherentRequest 10 line kind way) s = .next { s with coh := { s.coh with
        retries := s.coh.retries ++ [{ stop := 10, line := line, kind := kind, way := 0 }] } }) ∧
      (NMap.has line s.coh.txns = false → ∃ u, exec (.coherentRequest 10 line kind way) s = .next u ∧
        NMap.find line u.coh.txns = some
          { stop := 10, kind := kind, way := 0, toSnoop := stopsOf (s.presence (s.regionOfLine line)) 10
            seq := s.coh.seq + 1 } ∧
        u.coh.caches = s.coh.caches ∧ u.ms = s.ms)) ∧
    (∀ t : Txn, NMap.find line s.coh.txns = some t → stop ∈ t.toSnoop → stop ≠ 10 →
      s.firstSnoop stop (s.regionOfLine line) t.seq = true →
      (∀ l : CLine, NMap.find line (s.cacheOf stop) = some l → l.hold = true → exec (.snoop stop line) s = .next { s with
        coh := { s.coh with txns := NMap.modify line (fun t => { t with
          toSnoop := t.toSnoop.filter (· != stop), toAnswer := t.toAnswer ++ [stop] }) s.coh.txns } }) ∧
      (∀ l : CLine, NMap.find line (s.cacheOf stop) = some l → l.hold = false → t.kind ≠ .read →
        ∃ (u : State) (a : SnoopAnswer), exec (.snoop stop line) s = .next u ∧
          NMap.find line (u.cacheOf stop) = none ∧
          NMap.find line u.coh.txns = some { t with
            toSnoop := t.toSnoop.filter (· != stop), toAnswer := t.toAnswer ++ [stop], answers := t.answers ++ [a] } ∧
          a.stop = stop ∧ a.kept = false ∧ u.ms = s.ms ∧
          (l.st = .m → a.dirty = some { bytes := l.bytes, poison := l.poison, tag := l.tag }) ∧
          (l.st ≠ .m → a.dirty = none))) ∧
    (∀ (t : Txn) (l : CLine), NMap.find line s.coh.txns = some t → NMap.find line (s.cacheOf stop) = some l →
      l.hold = true → stop ∉ t.toAnswer → s.coh.holds = [] → exec (.snoopAnswerDelayExpiry stop line) s =
        .next (s.setCache stop (NMap.ins line { l with hold := false } (s.cacheOf stop)))) ∧
    (∀ pa, stop = 0 ∨ stop = 5 → NMap.find pa (s.cacheOf stop) = none →
      ∃ u, exec (.snoopAnswerDelayExpiry stop pa) s = .next u ∧ u = { s with coh := { s.coh with holds := u.coh.holds } } ∧
        Granule.raw pa ∉ u.coh.holds ∧ ∀ g, g ≠ Granule.raw pa → (g ∈ u.coh.holds ↔ g ∈ s.coh.holds)) ∧
    (∀ (t : Txn) (a : SnoopAnswer), NMap.find line s.coh.txns = some t → t.answers = [a] → a.stop = stop →
      s.firstAnswer stop (s.homeOf line) a.seq = true →
      ∃ u, exec (.snoopResponse stop line) s = .next u ∧
        NMap.find line u.coh.txns = some { t with
          toAnswer := t.toAnswer.filter (· != stop), answers := []
          dirty := if a.dirty.isSome then a.dirty else t.dirty, shared := t.shared || a.kept } ∧
        (a.empty = true → (u.presence (s.regionOfLine line)).getLsbD stop = false) ∧
        u.coh.caches = s.coh.caches ∧ u.ms = s.ms) ∧
    (∀ t : Txn, NMap.find line s.coh.txns = some t → t.memData = none →
      (NMap.findD [] (s.homeOf line) s.ms.lpIn).length + 2 ≤ 32 →
      (∃ u, exec (.memoryReadReturn line .none) s = .next u ∧ u.ms = { s.ms with lpIn := u.ms.lpIn } ∧
        u.coh = { s.coh with txns := NMap.modify line (fun t => { t with memData := some (s.memLine line) }) s.coh.txns }) ∧
      (s.coh.sent = [] → s.dbg.elbase = 0 → s.dbg.tren = false → ∃ (u : State) (t2 : Txn) (d : LineData),
        exec (.memoryReadReturn line .uncorrectable) s = .next u ∧ NMap.find line u.coh.txns = some t2 ∧
        t2.memData = some d ∧ d.poison = true ∧ u.ms.eccLog = s.ms.eccLog ++ [(line, true)]))

/-- R268, R300, R302: the grant installs the line at the requester, modified where it asked to own it, exclusive or shared
where it asked to read, zeros where a ZLINE claimed it, and there the accesses that wait for it are performed; done closes the transaction and calls the oldest refused requester of the line, whose resent
request opens the next transaction. -/
def Obligations.LineGrants : Prop :=
  ∀ (s : State) (line : Nat),
    (∀ (t : Txn) (d : LineData), NMap.find line s.coh.txns = some t → t.granted = false → t.toSnoop = [] → t.ticket = 0 →
      t.toAnswer = [] → s.hasEntry (s.regionOfLine line) = true → t.stop ≠ 10 → t.kind ≠ .upgrade → t.way < 16 →
      let claimed := decide (t.kind = .claim) && s.zlineNext t.stop line
      (if claimed then some { bytes := List.replicate 128 0 } else if t.dirty.isSome then t.dirty else t.memData) = some d →
      ∃ g p u : State, exec (.lineGrant t.stop line) s = .next u ∧ p = g.performLine t.stop line claimed ∧
        u = ({ p with coh := { p.coh with seq := p.coh.seq + 1 } } : State).updTxn line (fun t => { t with
          granted := true, doneSeq := p.coh.seq + 1 }) ∧
        NMap.find line (g.cacheOf t.stop) = some
          { st := if t.kind ≠ .read then .m else if t.shared = true ∨ t.dirty.isSome = true then .s else .e
            bytes := d.bytes, poison := d.poison, tag := if t.kind ≠ .read then d.tag else 0, way := t.way } ∧
        g.ms = s.ms ∧ g.cores = s.cores ∧ g.coh.txns = s.coh.txns ∧
        (∀ stop l, (stop ≠ t.stop ∨ l ≠ line) → NMap.find l (g.cacheOf stop) = NMap.find l (s.cacheOf stop)) ∧
        (t.kind = .read → t.dirty = some d → g.coh.sent = s.coh.sent ++
          [{ line := line, bytes := (List.range 128).map (fun i => (i, d.bytes.getD i 0)), poison := d.poison
             tag := d.tag, src := 32 + s.homeOf line }])) ∧
    (∀ (t : Txn) (f : BitVec 11), NMap.find line s.coh.txns = some t → t.granted = true →
      s.firstAnswer t.stop (s.homeOf line) t.doneSeq = true → t.stop < 11 →
      (s.regionOfLine line, f) ∈ s.coh.filter →
      ∃ u, exec (.done line) s = .next u ∧ NMap.find line u.coh.txns = none ∧
        (s.regionOfLine line, f ||| BitVec.ofNat 11 (2 ^ t.stop)) ∈ u.coh.filter ∧
        (∀ r rest, s.coh.retries = r :: rest → r.line = line →
          u.coh.retries = { r with called := true, calledAt := s.coh.seq + 1 } :: rest) ∧
        ((∀ r ∈ s.coh.retries, r.line ≠ line) → u.coh.retries = s.coh.retries) ∧
        u.coh.caches = s.coh.caches ∧ u.ms = s.ms) ∧
    (∀ (r : Retry) (rest : List Retry), s.coh.retries = r :: rest → r.line = line → r.called = true → r.stop ≠ 10 →
      NMap.has line s.coh.txns = false → r.kind ≠ .upgrade →
      (∀ q ∈ rest, q.called = true → q.stop = r.stop → r.calledAt ≤ q.calledAt) →
      ∃ (u : State) (t : Txn), exec (.proceed line) s = .next u ∧ NMap.find line u.coh.txns = some t ∧
        t.stop = r.stop ∧ t.kind = r.kind ∧ t.ticket = r.ticket ∧ t.granted = false ∧ r ∉ u.coh.retries)

/-- R271, R282, R292, R298, R418: a stop whose region is reclaimed gives up its lines of it; the acceptance of a victim
lets the miss that waits for it ask its home; a write that reaches its controller under the current epoch writes its
bytes, one of another epoch leaves memory alone and is counted; and a scrub counts what it corrects, logs its address
where it is LPDDR5X, and poisons a line it cannot correct. -/
def Obligations.WritesAndScrubs : Prop :=
  ∀ (s : State),
    (∀ (stop region : Nat) (b : BackInv), s.coh.backInv = [b] → b.region = region → b.stops = [stop] → stop ≠ 10 →
      s.firstSnoop stop region b.seq = true → (∀ l ∈ s.cacheOf stop, l.2.hold = false) →
      ∃ u, exec (.backInvalidation stop region) s = .next u ∧ u.coh.backInv = [] ∧
        (∀ f ∈ u.coh.filter, f.1 ≠ region) ∧ u.ms = s.ms ∧
        (∀ l, s.regionOfLine l = region → NMap.find l (u.cacheOf stop) = none) ∧
        ∀ l, s.regionOfLine l ≠ region → NMap.find l (u.cacheOf stop) = NMap.find l (s.cacheOf stop)) ∧
    (∀ (die line : Nat) (m : Miss), s.coh.misses = [m] → m.stop = stopOfDie die → m.line = line → m.accepted = true →
      NMap.has line s.coh.txns = false → (∀ r ∈ s.coh.retries, r.line ≠ line) → line ∉ s.coh.atomBuf →
      ∃ (u : State) (t : Txn), exec (.victimAccept die line) s = .next u ∧ u.coh.misses = [] ∧
        NMap.find line u.coh.txns = some t ∧ t.stop = m.stop ∧ t.way = m.way) ∧
    (∀ (line : Nat) (w : MemWrite) (rest : List MemWrite), s.coh.sent = w :: rest → w.line = line → w.victim = none →
      s.lpRoom line = true → ∃ u, exec (.writeAccept (.sent line)) s = .next u ∧ u.coh.sent = rest ∧
        (s.accepts w.tag line = true → NMap.wf w.bytes = true →
          (∀ b ∈ w.bytes, u.ms.mem.read (line + b.1) = b.2) ∧
          (∀ i, (∀ b ∈ w.bytes, i ≠ line + b.1) → u.ms.mem.read i = s.ms.mem.read i)) ∧
        (s.accepts w.tag line = false →
          u.ms = { s.ms with lpOut := u.ms.lpOut } ∧ NMap.findD {} 8 u.mcount = (NMap.findD {} 8 s.mcount).add 48 1)) ∧
    (∀ device a, s.power.on = true → s.isLp a = true → s.homeOf (lineOf a) = device →
      exec (.patrolScrub device [a] []) s = .next { s with
        ms := { s.ms with fastScrub := s.ms.fastScrub.filter (· != device), eccLog := s.ms.eccLog ++ [(lineOf a, false)] }
        mcount := NMap.ins 4 ((NMap.findD {} 4 s.mcount).add 48 1) s.mcount }) ∧
    (∀ device a, s.power.on = true → s.isLp a = true → s.homeOf (lineOf a) = device →
      ∃ u, exec (.patrolScrub device [] [a]) s = .next u ∧
        u.ms.eccLog = s.ms.eccLog ++ [(lineOf a, true)] ∧
        NMap.findD {} 5 u.mcount = (NMap.findD {} 5 s.mcount).add 48 1 ∧
        (s.dbg.elbase = 0 → s.dbg.tren = false →
          lineOf a ∈ u.ms.mem.poison ∧ ∀ x, u.ms.mem.read x = s.ms.mem.read x)) ∧
    (∀ die corrected, s.power.on = true → 0 < corrected →
      exec (.sramScrub die corrected []) s = .next { s with
        ms := { s.ms with fastScrub := s.ms.fastScrub.filter (· != 32 + die) }
        mcount := NMap.ins (16 + die) ((NMap.findD {} (16 + die) s.mcount).add 48 corrected) s.mcount })

/-- R375, R377, R380, R381: the admin ring's doorbell. Counts out of range set DBERR and nothing else moves; counts in
range are taken, and a descriptor with a current stamp is fetched, HEAD moving on; one with a stale stamp is read again,
and the ninth stale read sets WAITDB. -/
def Obligations.RingFetch : Prop :=
  ∀ (s : State),
    let r := s.fe.admin
    let v := s.cohNat r.dbell 8
    let tail := v % 2 ^ 32
    let chead := v / 2 ^ 32
    let ahead : Prop := (tail + 2 ^ 32 - r.head) % 2 ^ 32 > 2 ^ r.rlog2 ∨ (r.ctail + 2 ^ 32 - chead) % 2 ^ 32 > 2 ^ r.clog2
    let taken : Ring := { r with
      tail := tail, chead := chead, dberr := false, waitdb := false, tries := 0, reread := false, pageWait := none, dbOwed := false }
    let d := s.cohNat (r.rbase + 64 * (r.head % 2 ^ r.rlog2)) 64
    s.feServes = true → s.dbg.tren = false →
    (ahead → ∃ u, exec (.doorbellChange .admin) s = .next u ∧
      u.fe = { s.fe with admin := { r with
        dberr := true, waitdb := false, tries := 0, reread := false, pageWait := none, dbOwed := false } }) ∧
    (¬ ahead → tail = r.head → ∃ u, exec (.doorbellChange .admin) s = .next u ∧ u.fe = { s.fe with admin := taken }) ∧
    (¬ ahead → tail ≠ r.head → taken.window ≠ 0 → stampOk r r.head d = false →
      ∃ u, exec (.doorbellChange .admin) s = .next u ∧
        u.fe = { s.fe with admin := { taken with tries := 1, reread := true } }) ∧
    (¬ ahead → tail = (r.head + 1) % 2 ^ 32 → tail ≠ r.head → taken.window ≠ 0 → stampOk r r.head d = true →
      nfield d 31 24 = 0 → nfield d 20 17 = 1 →
      ∃ u, exec (.doorbellChange .admin) s = .next u ∧
        u.fe = { s.fe with admin := { taken with
          head := (r.head + 1) % 2 ^ 32
          cmds := r.cmds ++ [{ count := r.head, desc := BitVec.ofNat 512 d, tag := s.tagNow, start := s.nowN }] } }) ∧
    (r.reread = true → r.dbOwed = false → r.dberr = false → r.head ≠ r.tail → r.window ≠ 0 → r.waitdb = false → stampOk r r.head d = false →
      ∃ u, exec (.descriptorReread .admin) s = .next u ∧
        u.fe = { s.fe with admin := if 8 ≤ r.tries then { r with waitdb := true, reread := false, pageWait := none }
                                    else { r with tries := r.tries + 1, reread := true, pageWait := none } })

/-- R343, R344, R383, R384, R392: a command that may start: NOP is over, and one that places tiles lets its tiles be
placed, with the hasp lines it binds set up at generation zero. -/
def Obligations.CommandsStart : Prop :=
  ∀ (s : State) (id : RingId) (r : Ring) (m : Cmd),
    let may (op : Nat) : Prop := s.startable id [op] = some (r, m)
    let starts (c : Instr) : Prop := ∀ (k : Nat) (l : Launch), m.launch = some k → s.launch? k = some l →
      (s.ctx l.ctx).state = .resident → s.peersOf l = [] →
      (l.hasps = [] → exec c s = .next ((s.updLaunch k (fun l => { l with
        go := true, fenced := 0, ended := 0, out := [], pool := [], next := 0 })).updCmd id m.count (fun m => { m with state := .started }))) ∧
      (l.hasps ≠ [] → NMap.wf l.hasps = true → s.haspsFree l = true →
        ∃ u, exec c s = .next u ∧ (∀ h ∈ l.hasps, NMap.find h.1 u.hasps = some { launch := k, cores := h.2 }) ∧
          (∃ l2, u.launch? k = some l2 ∧ l2.go = true ∧ l2.next = l.total ∧ l2.pool = l.tilesAt s.here) ∧ u.ms = s.ms)
    (may 0 → exec (.nopCommand id) s = .next (s.endCmd id m.count 0 0 0)) ∧
    (may 1 → starts (.launch id)) ∧ (may 2 → starts (.copy id)) ∧ (may 3 → starts (.convert id)) ∧
    (may 4 → starts (.fill id))

/-- R331, R334, R339, R340, R401: SIGNAL and WAIT of a resident context on this module's tumblers and on fence records,
the reread of a fence record after its arm has fired, and the timeout of a WAIT. -/
def Obligations.SignalAndWait : Prop :=
  ∀ (s : State) (c rn n : Nat) (r : Ring) (m : Cmd),
    let id := RingId.ring c rn
    let begun := s.updCmd id m.count (fun m => { m with start := s.nowN })
    (s.ctx c).state = .resident →
    (s.startable id [5] = some (r, m) → m.tgt = true → s.tumTarget c false m.tid = .global n →
      exec (.signal id) s = .next ((s.tumOperate (.ring id) n (.arrive m.val)).endCmd id m.count 0 0 0)) ∧
    (∀ (rcd : Nat) (t : State), s.startable id [5] = some (r, m) → m.tgt = false → s.fenceRecord c m.fence = .ok rcd →
      s.chkWrite c m.fence 16 192 = .ok () → s.tumTarget c false (nfield rcd 75 64) = .global n →
      (nfield rcd 63 0 < m.val → m.val ≠ 2 ^ 64 - 1 →
        s.feWrite c m.tag m.fence (natBytes 16 (rcd / 2 ^ 64 * 2 ^ 64 + m.val)) = .ok t →
        exec (.signal id) s = .next ((t.tumOperate (.ring id) n (.arrive 1)).endCmd id m.count 0 0 0)) ∧
      (m.val ≤ nfield rcd 63 0 → s.feWrite c m.tag m.fence (natBytes 16 (rcd ||| 2 ^ 81)) = .ok t →
        exec (.signal id) s = .next ((t.tumOperate (.ring id) n .mark).endCmd id m.count 0 0 0))) ∧
    (s.startable id [6] = some (r, m) → m.tgt = true → s.tumTarget c false m.tid = .global n →
      (∀ w ∈ s.waiters, w.src.isRing = false) → (∀ b ∈ r.cmds, b.count = m.count → b = m) →
      ∃ u, exec (.wait id) s = .next u ∧ u.ms = s.ms ∧
        (m.val ≤ (s.tum n).count → u.waiters = s.waiters ∧ ∃ r2, u.ring? id = some r2 ∧
          ∀ b ∈ r2.cmds, b.count = m.count → b.state = .ended 0 0 m.seen 0) ∧
        ((s.tum n).count < m.val → u.waiters = s.waiters ++ [⟨.ring id, n, m.val⟩] ∧ (u.tum n).armed = true ∧
          (u.tum n).armV = m.val ∧ (u.tum n).armNext = false ∧ ∃ r2, u.ring? id = some r2 ∧
            ∀ b ∈ r2.cmds, b.count = m.count → b.state = .waiting)) ∧
    (∀ rcd, s.startable id [6] = some (r, m) → m.tgt = false → s.fenceRecord c m.fence = .ok rcd →
      s.tumTarget c false (nfield rcd 75 64) = .global n → m.val ≤ nfield rcd 63 0 →
      exec (.wait id) s = .next (begun.endCmd id m.count 0 0 (nfield rcd 63 0))) ∧
    (∀ rcd, s.feServes = true → s.ring? id = some r → r.waiting = some m → m.bound = some (none, n) → m.tgt = false →
      s.ringWaits id = false → s.fenceRecord c m.fence = .ok rcd → m.val ≤ nfield rcd 63 0 →
      exec (.fenceWaitReread id) s = .next (s.endCmd id m.count 0 0 (nfield rcd 63 0))) ∧
    (s.ring? id = some r → r.waiting = some m → m.timeout ≠ 0 → s.fe.frozen = none →
      m.start + 2 ^ (m.timeout + 19) ≤ s.nowN → s.waiters = [⟨.ring id, n, m.val⟩] →
      exec (.waitTimeout id) s = .next (({ s with waiters := [] } : State).endCmd id m.count 12 0 m.seen.toNat))

/-- R363, R367, R368, R371, R402, R403, R404: BIND takes a free entry of the handle table and returns its handle,
UNBIND frees one that nothing pins, advancing its generation, and marks a pinned one freeing; QUERY writes its record;
SHARE writes a run into the share list and its release clears it. -/
def Obligations.HandlesSharesQuery : Prop :=
  ∀ (s : State) (c rn : Nat) (r : Ring) (m : Cmd),
    let id := RingId.ring c rn
    let base := field m.desc 255 192
    let size := field m.desc 319 256
    let i := field m.desc 147 128
    let j := field m.desc 159 128 % 2 ^ 20
    let dest := field m.desc 191 128
    (∀ e, s.startable id [8] = some (r, m) → i < 2 ^ (s.ctx c).hlog2 → size ≠ 0 → canonical base = true →
      canonicalRange base size = true → s.handle c i = .ok e → nfield e 141 140 = 0 →
      s.chkCanWrite c ((s.ctx c).handleAt i) 32 = .ok () →
      ∃ e2, exec (.bind id) s = .next ((s.putHandle c i e2).endCmd id m.count 0 0 (i + nfield e 139 128 * 2 ^ 20)) ∧
        nfield e2 63 0 = base ∧ nfield e2 127 64 = size ∧ nfield e2 139 128 = nfield e 139 128 ∧
        nfield e2 141 140 = 1 ∧ nfield e2 175 144 = 0 ∧ e2.testBit 176 = bitAt m.desc 320) ∧
    (∀ e, s.startable id [9] = some (r, m) → s.handle c j = .ok e → nfield e 141 140 = 1 → e < 2 ^ 256 →
      s.chkCanWrite c ((s.ctx c).handleAt j) 32 = .ok () →
      ∃ e2, exec (.unbind id) s = .next ((s.putHandle c j e2).endCmd id m.count 0 0 (nfield e 175 144)) ∧
        nfield e2 127 0 = nfield e 127 0 ∧ nfield e2 255 142 = nfield e 255 142 ∧
        (nfield e 175 144 = 0 → nfield e2 141 140 = 0 ∧ nfield e2 139 128 = (nfield e 139 128 + 1) % 2 ^ 12) ∧
        (nfield e 175 144 ≠ 0 → nfield e2 141 140 = 2 ∧ nfield e2 139 128 = nfield e 139 128)) ∧
    (∀ hs t, s.startable id [10] = some (r, m) → dest % 128 = 0 → canonical dest = true →
      s.chkWrite c dest 128 128 = .ok () → s.boundHandles c 0 (2 ^ (s.ctx c).hlog2) = .ok hs →
      s.feWrite c m.tag dest (s.usageRecord c hs) = .ok t →
      exec (.query id) s = .next (({ t with free := t.free + 2 } : State).endCmd id m.count 0 0 0)) ∧
    (∀ q, s.startable id [7] = some (r, m) → bitAt m.desc 201 = false → s.shareRuns c m.desc = .ok [q] →
      (s.ctx c).state ≠ .resident →
      exec (.share id) s = .next ((s.putShare c q.slot q.entry).endCmd id m.count 0 0 0)) ∧
    (∀ q, s.startable id [7] = some (r, m) → bitAt m.desc 201 = true → s.releaseRuns c m.desc = .ok [q] →
      (∀ x ∈ (s.ctx c).shares, x.slot ≠ q.slot) →
      exec (.shareRelease id) s = .next ((s.putShare c q.slot 0).endCmd id m.count 0 0 0))

/-- R285, R405, R519: PARTITION writes the plans it names and no other; SNAPSHOT freezes the module, and its capture
ends the freeze and the command. -/
def Obligations.PartitionAndSnapshot : Prop :=
  ∀ (s : State) (r : Ring) (m : Cmd),
    let d := m.desc
    let first := field d 133 128
    let count := field d 139 134
    let src := field d 255 192
    let plan (i : Nat) : Plan := planOf (s.cohNat (src + 8 * i) 8)
    (s.startable .admin [0x10] = some (r, m) → 1 ≤ first → first + count ≤ 64 → 1 ≤ count → src % 8 = 0 →
      s.isLpRange src (8 * count) = true →
      (∀ i, i < count → (plan i).valid = true ∨ s.planBound (first + i) = false) →
      ∃ u, exec (.partition .admin) s = .next u ∧ (∀ i, i < count → u.plan (first + i) = plan i) ∧
        (∀ p, (p < first ∨ first + count ≤ p) → u.plan p = s.plan p) ∧
        (∀ b ∈ u.fe.admin.cmds, b.count = m.count → b.state = .started) ∧ u.cores = s.cores ∧ u.ms = s.ms) ∧
    (s.startable .admin [0x11] = some (r, m) → field d 191 128 % 4096 = 0 →
      s.isLpRange (field d 191 128) snapBytes = true → snapBytes ≤ field d 255 192 →
      exec (.snapshot .admin) s = .next (({ s with fe := { s.fe with frozen := some s.nowN } } : State).updCmd .admin
        m.count (fun m => { m with state := .started }))) ∧
    (∀ t0, s.fe.frozen = some t0 → s.fe.admin.cmds = [m] → m.op = 0x11 → m.state = .started →
      (∀ k ∈ s.cores, k.2.matrixDone = true) →
      ∃ u, exec .snapshotCapture s = .next u ∧ u.fe.frozen = none ∧
        u.fe.admin.cmds = [{ m with state := .ended 0 0 0 0 }] ∧
        ∀ c key t, s.tile? c key = some t → t.haltedAt = none →
          ∃ t2, u.tile? c key = some t2 ∧ t2.paused = t.paused + (s.nowN - t0))

/-- R387, R391: the completion of a command of the admin ring: the entry stands in the completion ring with the phase,
status, TAG and INFO of the command, and CTAIL moves on. -/
def Obligations.CompletionEntry : Prop :=
  ∀ (s : State) (m : Cmd) (st det : Nat) (info : DWord) (flags : BitVec 5),
    let r := s.fe.admin
    let e := s.fe.ringbase + 48
    s.feServes = true → s.dbg.tren = false → r.cmds = [m] → m.state = .ended st det info flags → m.launch = none →
    m.pins = [] → m.tag = s.tagNow → r.head = r.tail → (r.nextEntry + 32 ≤ e ∨ e + 9 ≤ r.nextEntry) →
    (∀ c ∈ s.fe.ctxs, ∀ q ∈ c.2.rings, q.2.dbOwed = false) →
    ∃ u, exec (.commandCompletion .admin m.count) s = .next u ∧
      u.fe.admin = { r with cmds := [], ctail := (r.ctail + 1) % 2 ^ 32, lost := false } ∧
      u.ms.mem.readN r.nextEntry 32 =
        entryBytes r (field m.desc 15 0) 0 st det flags (field m.desc 127 64) info.toNat s.nowN ∧
      u.ms.mem.readN e 9 = natBytes 9 (r.head % 2 ^ 32 + (r.ctail + 1) % 2 ^ 32 * 2 ^ 32 + b2n r.waitdb * 2 ^ 64 +
        b2n r.dberr * 2 ^ 65) ∧
      (bitAt m.desc 32 = true → r.msiaddr ≠ 0 → 1 ≤ r.msidata → r.msidata ≤ 2047 → (r.msiaddr, r.msidata) ∈ u.hinge.imsic)

/-- R360, R361, R362, R364, R406, R517: a context that needs a slot takes the lowest free one, becomes resident once its
map is read, and gives its slot back when its last tile has ended; the mirror takes over with all the front end held;
and the counters of a context are written in the counter table. -/
def Obligations.ResidencyAndCounters : Prop :=
  ∀ (s : State) (n : Nat),
    let c := s.ctx n
    (∀ i, s.feServes = true → s.needsSlot n = true → s.outranked n = false → i < 64 → (s.slot i).state = 0 →
      (∀ j, j < i → (s.slot j).state ≠ 0) → s.wardSlots c.ward < c.wslots →
      ∃ u, exec (.makeResident n) s = .next u ∧ (u.ctx n).state = .loading ∧ (u.ctx n).slot = i ∧ (u.slot i).ctx = n ∧
        (u.slot i).state = 1 ∧ (u.slot i).ward = c.ward ∧ (u.slot i).since = s.nowN) ∧
    (s.feServes = true → c.state = .loading → c.leaving = false → c.mapRead = true → c.mapAsk = [] →
      s.shareList n = .ok [] →
      ∃ u, exec (.residencyComplete n) s = .next u ∧ (u.ctx n).state = .resident ∧ (u.slot c.slot).state = 2 ∧
        (u.slot c.slot).ctx = n ∧ (u.slot c.slot).since = s.nowN ∧ (u.ctx n).shares = c.shares) ∧
    (c.holdsSlot s.fe.slots n = true → (s.slot c.slot).state = 3 → s.tilesOf n = [] → s.power.on = true →
      c.shares = [] → c.leaving = false → c.state ≠ .faulted →
      ∃ u, exec (.evictionDone n) s = .next u ∧ (u.ctx n).state = .idle ∧ u.slot c.slot = { since := s.nowN }) ∧
    (s.fe.mirror = false → s.power.on = true → s.stage = .ready →
      ∃ u, exec .frontEndTakeover s = .next u ∧ u.fe = { s.fe with mirror := true } ∧
        u.dbg.elcount = s.dbg.elcount + 1) ∧
    (s.power.on = true → s.fe.en = true → c.state ≠ .off → c.state ≠ .invalid → s.fe.frozen = none →
      s.epochClosed = false →
      ∃ u, exec (.counterTableWrite n) s = .next u ∧ ∀ i, i < 32 →
        u.ms.mem.readN (s.fe.ctbase + 256 * n + 8 * i) 8 = natBytes 8 (SatCount.slot (NMap.findD {} i c.counters))) ∧
    (∀ i k, s.dbg.sample = true → s.fe.ctxs = [(n, c)] → c.state ≠ .off → c.state ≠ .invalid → c.counters = [(i, k)] →
      SatCount.slot k ≠ 0 →
      exec .counterSample s = .next (s.trace 7 c.ward n 0 0 (i % 32 + SatCount.slot k * 2 ^ 32)))

/-- R540, R541, R542, R543: an access of the set-up window that is not 8 bytes at a multiple of 8, at a reserved offset,
from an unprivileged hart or to a block that does not respond yet is counted and latched with its KIND, the first one
kept while VALID is set; a write then changes nothing else, and a read returns zero. -/
def Obligations.WindowErrors : Prop :=
  ∀ (s : State) (req : Requester) (off width : Nat) (v : DWord) (kind : Nat),
    s.portLive req = true → off < 0x100000 →
    ((kind = 0 ∧ (width ≠ 8 ∨ off % 8 ≠ 0)) ∨
     (width = 8 ∧ off % 8 = 0 ∧ kind = 1 ∧ regAt off = none) ∨
     (width = 8 ∧ off % 8 = 0 ∧ kind = 2 ∧ regAt off ≠ none ∧ req.port = .host ∧ privileged req.mode = false ∧
       0x10000 ≤ off) ∨
     (width = 8 ∧ off % 8 = 0 ∧ kind = 3 ∧ regAt off ≠ none ∧ (req.port = .control ∨ privileged req.mode = true) ∧
       s.blockReady off = false)) →
    let count : NMap SatCount := NMap.ins 12 ((NMap.findD {} 12 s.mcount).add 48 1) s.mcount
    let a := s.cpTake req off
    let latch (write : Bool) : AccErr := if s.accerr.valid then s.accerr else
      { offset := off, kind := kind, write := write, host := req.port == .host, valid := true }
    exec (.registerWrite req off width v) s = .next { a with mcount := count, accerr := latch true } ∧
    exec (.registerRead req off width) s = .next (({ a with mcount := count, accerr := latch false } : State).cpGive req 0)

/-- R7, R545, R546, R547, R551, R554: registers that a write sets and a read returns; a base register takes an address in
LPDDR5X only, and those of the front end and of the ward table none while FE.CTL.EN is set. -/
def Obligations.WindowRegisters : Prop :=
  ∀ (s : State) (req : Requester) (v : DWord),
    let a (off : Nat) : State := s.cpTake req off
    (Reaches s req 0x50040 true → exec (.registerWrite req 0x50040 8 v) s = .next { a 0x50040 with
      time := { s.time with load := v } }) ∧
    (Reaches s req 0x80038 true → exec (.registerWrite req 0x80038 8 v) s = .next { a 0x80038 with
      dbg := { s.dbg with csel := field v 9 0 } }) ∧
    (Reaches s req 0x40000 true → exec (.registerWrite req 0x40000 8 v) s = .next { a 0x40000 with
      ms := { s.ms with tmSel := field v 15 0 } }) ∧
    (Reaches s req 0x20000 true →
      (s.fe.en = false → s.isLpRange (field v 51 12 * 4096) 0x4000 = true → exec (.registerWrite req 0x20000 8 v) s =
        .next { a 0x20000 with fe := { s.fe with wardbase := field v 51 12 * 4096 } }) ∧
      (s.isLpRange (field v 51 12 * 4096) 0x4000 = false → field v 51 12 ≠ 0 →
        exec (.registerWrite req 0x20000 8 v) s = .next ((a 0x20000).accError req 0x20000 4 true)) ∧
      (s.fe.en = true → s.isLpRange (field v 51 12 * 4096) 0x4000 = true →
        exec (.registerWrite req 0x20000 8 v) s = .next ((a 0x20000).accError req 0x20000 5 true))) ∧
    (Reaches s req 0x00000 false → exec (.registerRead req 0x00000 8) s = .next
      ((a 0x00000).cpGive req s.sec.ident.moduleId)) ∧
    (Reaches s req 0x50050 false → exec (.registerRead req 0x50050 8) s = .next
      ((a 0x50050).cpGive req s.time.now)) ∧
    (Reaches s req 0x00000 true → exec (.registerWrite req 0x00000 8 v) s = .next (a 0x00000))

/-- R286, R323, R358, R359, R405, R549: the registers of the front end and of the memory plan that act: FE.CTL.EN,
activation and deactivation of a context, TM.RESET, MP.SHAREWAYS and MP.HOSTPLAN. -/
def Obligations.FrontEndRegisters : Prop :=
  ∀ (s : State) (req : Requester) (v : DWord),
    let a (off : Nat) : State := s.cpTake req off
    let n := field v 13 0
    let r := ringOf (s.cohNat s.fe.ringbase 64)
    (Reaches s req 0x10000 true → bitAt v 0 = true → s.fe.en = false →
      let good : Prop := s.fe.ctxbase ≠ 0 ∧ s.fe.slotbase ≠ 0 ∧ s.fe.ringbase ≠ 0 ∧ s.fe.wardbase ≠ 0 ∧
        s.fe.ctbase ≠ 0 ∧ r.inRange = true ∧ r.aligned = true ∧ s.ringInMemory r = true
      (good → ∃ u, exec (.feCtlEn req v) s = .next u ∧ u.fe.en = true ∧ u.fe.admin.rbase = r.rbase ∧
        u.fe.admin.rlog2 = r.rlog2 ∧ u.fe.admin.cbase = r.cbase ∧ u.fe.admin.clog2 = r.clog2 ∧
        u.fe.admin.dbell = r.dbell ∧ u.fe.admin.ctail = 0) ∧
      (¬ good → exec (.feCtlEn req v) s = .next { a 0x10000 with fe := { s.fe with badring := true } })) ∧
    (Reaches s req 0x10020 true → s.fe.en = true → (s.ctx n).state = .off →
      let d := s.cohNat (s.ctxAddr n) 256
      let we := s.wardEntry (nfield d 9 0)
      let c := ctxOfDesc d we
      let s1 := s.updCtx n (fun _ => { c with activating := true })
      ∀ rs bad, s1.ringTable n c = .ok (rs, bad) →
        (s1.activationCause d we c rs bad.isSome = 0 → ∃ u, exec (.feCtxon req v) s = .next u ∧
          ((u.ctx n).state = .idle ∨ (u.ctx n).state = .faulted) ∧ (u.ctx n).ward = c.ward ∧ (u.ctx n).pasid = c.pasid ∧
          (u.ctx n).prio = c.prio) ∧
        (∀ k, k ≠ 0 → s1.activationCause d we c rs bad.isSome = k → ∃ u, exec (.feCtxon req v) s = .next u ∧
          u.ctx n = { c with state := .invalid, cause := k })) ∧
    (Reaches s req 0x10028 true → s.fe.en = true → (s.ctx n).state ≠ .off → (s.ctx n).state ≠ .invalid →
      ∃ u, exec (.feCtxoff req v) s = .next u ∧ ((u.ctx n).leaving = true ∨ (u.ctx n).state = .off) ∧
        (∀ k l, u.launch? k = some l → l.ctx = n → l.cancelled = true) ∧
        ((s.ctx n).rings = [] → (s.ctx n).holdsSlot s.fe.slots n = false → (u.ctx n).state = .off)) ∧
    (Reaches s req 0x40018 true → s.waiters = [] → (s.tum s.ms.tmSel).armed = false →
      exec (.tmReset req v) s = .next ((a 0x40018).setTum s.ms.tmSel { s.tum s.ms.tmSel with
        count := field v 31 0, s := false, u := false, m := false, owner := field v 45 32, ward := field v 55 46 })) ∧
    (Reaches s req 0x30000 true →
      ((∃ d, d < 8 ∧ waysOf v d = 15) → exec (.mpShareways req v) s = .next ((a 0x30000).accError req 0x30000 4 true)) ∧
      ((∀ d, d < 8 → waysOf v d ≠ 15 ∧ (waysOf v d = NMap.findD 0 d s.ms.shareways ∨ s.shareOn d = false)) →
        ∃ u, exec (.mpShareways req v) s = .next u ∧
          ∀ d, d < 8 → NMap.findD 0 d u.ms.shareways = waysOf v d)) ∧
    (Reaches s req 0x30008 true →
      exec (.mpHostplan req v) s = .next (if (s.plan (field v 5 0)).valid = true
        then { a 0x30008 with ms := { s.ms with hostplan := field v 5 0 } } else (a 0x30008).accError req 0x30008 4 true))

/-- R500, R501, R504, R505, R507, R511, R556, R557: the debugger's registers. HALT halts the selected group, RESUME and
STEP let it go on; DB.RDATA reads and writes an item of a halted group; halt on fault and trace are armed by ward; all of
it under the rights of the active tokens, and without them DENIED is set instead. -/
def Obligations.DebugRegisters : Prop :=
  ∀ (s : State) (req : Requester) (v : DWord) (g : Site) (x : Group),
    let w := field v 9 0
    let a (off : Nat) : State := s.cpTake req off
    let denied (off : Nat) : State := { a off with dbg := { s.dbg with denied := true } }
    -- the group as it goes on: it leaves the halt and pops its stack before the next fetch
    let on (step : Bool) : Group := ({ x with
      halted := false, stepping := step, pending := none, repackHeld := false, pcWritten := false } : Group).popAll 33
    s.group? g = some x →
    (Reaches s req 0x80008 true → field v 9 0 = g.core → field v 15 10 = g.place → bitAt v 18 = false →
      (s.hasRight 0 (s.wardOf g) = false → field v 17 16 ≠ 0 → exec (.dbGctlHalt req v) s = .next { a 0x80008 with dbg := {
        s.dbg with selCore := g.core, selPlace := g.place, denied := true } }) ∧
      (s.hasRight 0 (s.wardOf g) = true →
        (field v 17 16 = 1 → x.halted = false → x.wait = .none → s.matrixBusy g = false →
          ∃ (u : State) (y : Group), exec (.dbGctlHalt req v) s = .next u ∧ u.group? g = some y ∧ y.halted = true ∧
            y.repackHeld = false ∧ y.pc = x.pc ∧ y.t = x.t ∧ y.u = x.u ∧ y.p = x.p ∧ y.resv = []) ∧
        (x.halted = true → x.pending = none → x.wait = .none → x.haltReq = none →
          (field v 17 16 = 2 → ∃ u, exec (.dbGctlResume req v) s = .next u ∧
            (x.repackHeld = false ∨ x.pcWritten = true → u.group? g = some (on false)) ∧
            (x.repackHeld = true → x.pcWritten = false → u.group? g = some ((on false).goTo ((on false).pc + 8)))) ∧
          (field v 17 16 = 3 → x.repackHeld = false ∨ x.pcWritten = true →
            ∃ u, exec (.dbGctlStep req v) s = .next u ∧ u.group? g = some (on true))))) ∧
    (Reaches s req 0x80018 true → exec (.dbHofset req v) s = .next (if s.hasRight 0 w = true
      then { a 0x80018 with dbg := { s.dbg with hof := addNew w s.dbg.hof } } else denied 0x80018)) ∧
    (Reaches s req 0x80020 true → exec (.dbHofclr req v) s = .next (if s.hasRight 0 w = true
      then { a 0x80020 with dbg := { s.dbg with hof := s.dbg.hof.filter (· != w) } } else denied 0x80020)) ∧
    (s.selected = g → s.hasRight 0 (s.wardOf g) = true → x.halted = true →
      (∀ n, Reaches s req 0x80030 false → s.item g x s.dbg.rsel = some n →
        exec (.dbRdata req none) s = .next ((a 0x80030).cpGive req (BitVec.ofNat 64 n))) ∧
      (∀ i, Reaches s req 0x80030 true → s.dbg.rsel = BitVec.ofNat 64 (1 + 16 * i) → i < 64 →
        exec (.dbRdata req (some v)) s = .next ((a 0x80030).setGroup g (x.wu i v))) ∧
      (Reaches s req 0x80030 true → s.dbg.rsel = 3 → v.toNat % 8 = 0 →
        exec (.dbRdata req (some v)) s = .next ((a 0x80030).setGroup g { x with pc := v, pcWritten := true }))) ∧
    (Reaches s req 0x80058 true → s.hasRight 1 w = true → exec (.dbTrward req v) s = .next { a 0x80058 with dbg := { s.dbg with
      wards := if bitAt v 10 then addNew w s.dbg.wards else s.dbg.wards.filter (· != w) } }) ∧
    (Reaches s req 0x80050 true → bitAt v 0 = true → s.dbg.tren = false → s.dbg.trbase ≠ 0 → s.dbg.trsize ≠ 0 →
      exec (.dbTrctl req v) s = .next { a 0x80050 with dbg := { s.dbg with
        tren := true, full := false, blockOpen := false, block := 0, nrec := 0, bseq := 0, lost := {}
        wrap := bitAt v 1, sample := bitAt v 2 } })

/-- R485, R495, R496, R497, R535, R536, R537, R554, R555: nonces, debug tokens and firmware updates: a token is active
only when it names this module and the nonce in force, its end takes its rights, an update is checked and written to the
bank that did not boot, and a commit raises COUNTER. -/
def Obligations.TokensAndUpdates : Prop :=
  ∀ (s : State) (req : Requester) (v : DWord),
    let x := s.sec
    (Reaches s req 0x70010 false → exec (.scNonce req) s = .next (({ s.cpTake req 0x70010 with
      sec := { x with nonce := some (Config.freshNonce x.nonces), nonces := x.nonces + 1 } } : State).cpGive req
        (Config.freshNonce x.nonces))) ∧
    (Reaches s req 0x70018 true → exec (.scTokaddr req v) s = .next (if x.result = 8
      then (s.cpTake req 0x70018).accError req 0x70018 5 true
      else { s.cpTake req 0x70018 with sec := { x with tokAddr := field v 51 3 * 8, result := 8 } })) ∧
    (x.result = 8 → ∃ u, exec .tokenCheckDone s = .next u ∧ u.sec.result ≠ 8 ∧
      (u.sec.result ≠ 1 → u = { s with sec := { x with result := u.sec.result } }) ∧
      (u.sec.result = 1 → ∃ i t, i < 4 ∧ NMap.find i x.tokens = none ∧ u.sec.tokens = NMap.ins i t x.tokens ∧
        t.wfirst ≤ t.wlast ∧ u.sec.lastToken = i ∧
        objNat (s.objByte x.tokAddr) 8192 8 = x.ident.moduleId.toNat ∧
        x.nonce = some (BitVec.ofNat 64 (objNat (s.objByte x.tokAddr) 8200 8)))) ∧
    (∀ i t, NMap.find i x.tokens = some t →
      let ends (c : Instr) : Prop := ∃ u, exec c s = .next u ∧ u.sec.tokens = NMap.del i x.tokens ∧
        (∀ w ∈ u.dbg.hof, u.hasRight 0 w = true) ∧ (∀ w ∈ u.dbg.wards, u.hasRight 1 w = true)
      (Reaches s req 0x70028 true → field v 1 0 = i → ends (.scTokrevoke req v)) ∧
      (t.expiry ≤ x.keeperNs → ends (.tokenExpiry i))) ∧
    (Reaches s req 0x70058 true → bitAt v 0 = true → bitAt v 1 = false → x.updstat ≠ 1 →
      ∃ u, exec (.scUpdctlStart req v) s = .next u ∧ u.sec.updstat = 1 ∧
        u.sec.bank x.bootedB = x.bank x.bootedB ∧ u.sec.counter = x.counter) ∧
    (x.updstat = 1 →
      (x.updFail ≠ 0 → ∀ ok, exec (.updateWriteDone ok) s = .next { s with sec := { x with
        updstat := x.updFail, updObjs := [] } }) ∧
      (x.updFail = 0 → exec (.updateWriteDone false) s = .next { s with sec := { x with updstat := 5, updObjs := [] } }) ∧
      (x.updFail = 0 → ∃ u, exec (.updateWriteDone true) s = .next u ∧ u.sec.updstat = 2 ∧
        u.sec.bank x.bootedB = x.bank x.bootedB ∧ u.sec.bank (!x.bootedB) =
          { seq := (x.bank x.bootedB).seq + 1, state := 1, tries := 0, objs := x.updObjs, ident := true
            cfgs := [x.cfg, x.cfg] })) ∧
    (Reaches s req 0x70058 true → bitAt v 0 = false → bitAt v 1 = true → x.fromBuffer = false → x.booted = true →
      (x.bank x.bootedB).state = 1 → s.stage = .ready →
      ∃ u, exec (.scUpdctlCommit req v) s = .next u ∧ u.sec.updstat = 6 ∧ (u.sec.bank x.bootedB).state = 2 ∧
        (x.bank x.bootedB).secverOf 1 ≤ u.sec.counter ∧ x.counter ≤ u.sec.counter)

/-- R491, R492, R493: the answers of the SPDM responder, in the order a connection comes up, with both signatures over
the transcript. -/
def Obligations.Attestation : Prop :=
  ∀ (s : State) (slot offset len : Nat) (nonce : BitVec 256) (h e : Bool),
    let x := s.sec
    let answers (t : State) (st : SpdmStage) (r : SpdmResp) : Host.Outcome State Fault Refusal :=
      .next { t with sec := { x with spdm := st, resp := r } }
    let drawn : State := { s with free := s.free + 1 }
    let th := Config.transcriptHash s.free
    let ed := Config.aliasEdSign x.aliasDigest th
    let ml := Config.aliasMlSign x.aliasDigest th
    let total := Config.certLength x.aliasDigest slot
    s.power.on = true → s.pins.perst = false → s.stage ≠ .rom → s.stage ≠ .failed →
    exec .getVersion s = answers s .version (.version 1 3) ∧
    (x.spdm = .start → exec .getCapabilities s = answers s .start .error) ∧
    (x.spdm ≠ .start → exec .getCapabilities s = answers s .caps (.capabilities true true true true)) ∧
    (x.spdm = .caps ∨ x.spdm = .algs →
      exec (.negotiateAlgorithms h e) s = answers s .algs (.algorithms h e)) ∧
    (x.spdm = .algs → exec .getDigests s = answers s .algs (.digests [
      Config.sha384 (x.chain 0 0 (Config.certLength x.aliasDigest 0)),
      Config.sha384 (x.chain 1 0 (Config.certLength x.aliasDigest 1))])) ∧
    (x.spdm = .algs → slot < 2 → exec (.getCertificate slot offset len) s = answers s .algs (if offset < total
      then .certificate slot (x.chain slot offset (Nat.min len (total - offset))) (total - offset - Nat.min len (total - offset))
      else .error)) ∧
    (x.spdm = .algs → slot < 2 → exec (.challenge slot nonce) s = answers drawn .algs (.challengeAuth slot th ed ml)) ∧
    (∀ i, x.spdm = .algs → slot < 2 → 1 ≤ i → i ≤ 7 → exec (.getMeasurements i slot nonce) s =
      answers drawn .algs (.measurements [(i, x.measurement i)] th ed ml)) ∧
    (x.spdm = .algs → slot < 2 → exec (.getMeasurements 255 slot nonce) s = answers drawn .algs
      (.measurements ([1, 2, 3, 4, 5, 6, 7].map (fun i => (i, x.measurement i))) th ed ml))

/-- R486, R487, R523, R524, R529, R530, R534, R563: cold starts and resets put every volatile part at its reset value, and a
rise of PWR_EN within 100 ms of its fall waits; the
keeper starts from the first bank whose images verify, a boot that fails waits for a recovery image, and the module is
READY once memory is initialised. -/
def Obligations.BringUp : Prop :=
  ∀ (s : State) (req : Requester) (v : DWord),
    let x := s.sec
    let fresh (u : State) : Prop := u.stage = .rom ∧ u.cores = [] ∧ u.fe.en = false ∧ u.fe.ctxs = [] ∧
      u.ms.mem = {} ∧ u.time.now = 0 ∧ u.hinge.epoch = 1 ∧ u.span.en = false ∧ u.sec.tokens = [] ∧
      u.sec.bankA = x.bankA ∧ u.sec.bankB = x.bankB ∧ u.sec.counter = x.counter ∧ u.pending = s.pending
    ((s.power.pwrEn = false ∨ s.power.on = false ∧ s.power.tripLatch = false) → s.power.sinceFall < 100000000 →
      exec .pwrEnRise s = .next { s with power := { s.power with riseOwed := true } }) ∧
    ((s.power.pwrEn = false ∨ s.power.on = false ∧ s.power.tripLatch = false) → 100000000 ≤ s.power.sinceFall →
      ∃ u, exec .pwrEnRise s = .next u ∧ fresh u ∧ u.power.on = true ∧ u.power.tripLatch = false ∧ u.power.tripBefore = s.power.tripLatch) ∧
    (∃ u, exec .powerDown s = .next u ∧ fresh u ∧ u.power.on = false ∧ u.power.pwrEn = false ∧
      u.power.sinceFall = 0) ∧
    (s.power.on = true →
      (∃ u, exec .watchdogExpiry s = .next u ∧ fresh u ∧ u.power.on = true) ∧
      (∀ rail mv, rail ≤ 10 → mv < railReset rail →
        ∃ u, exec (.railResetThreshold rail mv) s = .next u ∧ fresh u ∧ u.power.on = true) ∧
      (Reaches s req 0x70030 true → field v 15 0 = 0xC01D → ∃ u, exec (.scColdrst req v) s = .next u ∧ fresh u) ∧
      (Reaches s req 0x70030 true → field v 15 0 ≠ 0xC01D →
        exec (.scColdrst req v) s = .next ((s.cpTake req 0x70030).accError req 0x70030 4 true))) ∧
    (s.power.on = true → s.stage = .rom →
      let f := x.firstBank
      (f.2.bankFails (f.2.bank f.1) s.free = none → ∃ u, exec .keeperStart s = .next u ∧ u.stage = .keeper ∧
        u.pins.cpReady = true ∧ u.sec.booted = true ∧ u.sec.bootedB = f.1 ∧ u.sec.bootCause = 0) ∧
      (f.2.bankFails (f.2.bank f.1) s.free ≠ none → f.2.bankFails (f.2.bank (!f.1)) (s.free + 1) ≠ none →
        ∃ u, exec .keeperStart s = .next u ∧ u.stage = .failed ∧ u.pins.cpReady = true ∧ u.sec.booted = false)) ∧
    (Reaches s req 0x70008 true → bitAt v 4 = true → s.stage = .failed →
      let len := (v >>> 32).toNat
      (objKind s.recoveryByte ≠ 1 → ∃ u, exec (.scBootstatGo req v) s = .next u ∧ u.stage = .failed ∧ u.sec.bootCause = 3) ∧
      (objKind s.recoveryByte = 1 → 8192 + objBodylen s.recoveryByte ≤ len → len ≤ 2 ^ 28 →
        x.counter.toNat ≤ objSecver s.recoveryByte → ∃ u, exec (.scBootstatGo req v) s = .next u ∧
          (rootValid s.recoveryByte = true → u.stage = .keeper ∧ u.sec.fromBuffer = true ∧ u.sec.bootCause = 0) ∧
          (rootValid s.recoveryByte = false → u.stage = .failed ∧ u.sec.bootCause = 3))) ∧
    (s.power.on = true → (s.stage = .keeper ∨ s.stage = .training ∨ s.stage = .meminit) →
      ∃ u, exec .meminitDone s = .next u ∧ u.stage = .ready ∧ u.hinge.hostInReset = !s.bootImageOk)

/-- R42, R43, R44, R516, R523, R525: the timebase pins and the control port: an armed value is loaded at a TB_PPS edge, the
loss of TB_REF sets REFLOST and logs event 4, and its return clears nothing; a control-port reset drops the link, and a
configuration request before the port is ready is answered with retry. -/
def Obligations.TimebaseAndControlPort : Prop :=
  ∀ (s : State),
    (s.power.on = true → s.time.arm = true → exec .tbPpsEdge s = .next { s with time := { s.time with
      now := s.time.load, arm := false, slew := 0, phase := 0, copies := [] } }) ∧
    (s.power.on = true → s.time.arm = false → ∃ u, exec .tbPpsEdge s = .next u ∧ u = { s with time := { s.time with
        slew := u.time.slew } } ∧ -500000000 ≤ u.time.slew ∧ u.time.slew ≤ 500000000 ∧
      ((s.time.now.toNat : Int) + u.time.slew) % 1000000000 = 0) ∧
    (s.power.on = true → s.time.refOk = true → ∃ u, exec .tbRefLost s = .next u ∧ u.time.reflost = true ∧
      u.time.refOk = false ∧ u.dbg.elcount = s.dbg.elcount + 1 ∧
      (s.dbg.elbase = 0 → s.dbg.tren = false → Raises { s with
        time := u.time, dbg := u.dbg } u 1)) ∧
    exec .tbRefReturn s = .next { s with time := { s.time with refOk := true } } ∧
    exec (.controlPortReset .perst) s = .next { s with
      pins := { s.pins with cpTrained := false, cpRetry := false, perst := true, cpIn := [], cpOut := [] }, sec := { s.sec with resp := .none } } ∧
    (∀ cause, cause ≠ .perst → exec (.controlPortReset cause) s = .next { s with
      pins := { s.pins with cpTrained := false, cpRetry := false, cpIn := [], cpOut := [] }, sec := { s.sec with resp := .none } }) ∧
    exec .perstNRelease s = .next { s with pins := { s.pins with perst := false, cpTrained := s.power.on } } ∧
    (s.power.on = true → s.pins.perst = false → exec .configRequest s = .next { s with pins := { s.pins with
      cpRetry := !s.pins.cpReady } })

/-- R34, R35, R466, R468, R470, R471, R472, R473: PW.CTL takes values in range only; the keeper moves VCOMP to the highest
setpoint that request, cap and junctions allow; a domain enters the state its tolerance allows, and a domain that wakes
is idle again, its core half without its caches where it had lost its logic. -/
def Obligations.PowerControl : Prop :=
  ∀ (s : State) (req : Requester) (v : DWord) (d : Nat),
    (Reaches s req 0x60000 true →
      (1000 ≤ field v 11 0 → field v 11 0 ≤ 2800 → field v 21 16 ≤ 60 → exec (.pwCtl req v) s = .next { s.cpTake req 0x60000 with
        power := { s.power with cap := field v 11 0, op := v.extractLsb' 12 2, vset := field v 21 16
                                hosttol := field v 55 32 } }) ∧
      ((field v 11 0 < 1000 ∨ 2800 < field v 11 0 ∨ 60 < field v 21 16) →
        exec (.pwCtl req v) s = .next ((s.cpTake req 0x60000).accError req 0x60000 4 true))) ∧
    (∀ power vin temps, s.power.on = true → s.stage ≠ .rom → s.stage ≠ .failed →
      (s.power.exc = false → s.power.therm = false → hottest temps ≤ 95 →
        ∃ u draw, exec (.vcompControl power vin temps) s = .next u ∧ u.power.vnow ≤ s.power.request ∧
          (u.power.vnow = 0 ∨ Config.powerAt draw u.power.vnow ≤ s.power.capNow) ∧
          (∀ n, u.power.vnow < n → n ≤ s.power.request → s.power.capNow < Config.powerAt draw n) ∧
          u.power.vcomp = s.power.vcomp ∧
          u.power.caplim = decide (u.power.vnow < s.power.request) ∧ u.power.therm = false ∧ u.power.temps = temps ∧
          u.power.energy = s.power.energy.add 63 (10 * power) ∧ u.power.vin = vin % 2 ^ 16) ∧
      (s.power.exc = true → ∃ u, exec (.vcompControl power vin temps) s = .next u ∧ u.power.vnow = s.power.vnow)) ∧
    (∀ low, exec (.supplyWarn low) s = .next { s with power := { s.power with swarn := low } }) ∧
    (s.power.on = true → s.stage = .ready → d < 32 → d ∉ s.power.waking → s.power.exc = false →
      (s.domain d).code < (s.domTarget d).code → s.mayEnter d (s.domTarget d) = true →
      ∃ u, exec (.domainEntry d) s = .next u ∧ u.domain d = s.domTarget d ∧
        ∀ e, e ≠ d → u.domain e = s.domain e) ∧
    (s.power.on = true → s.domain d ≠ .idle → (d < 24 → s.fenced (domDie d) = false) → (d < 16 → d ∈ s.power.waking) →
      ∃ u, exec (.wakeComplete d) s = .next u ∧ u.domain d = .idle ∧ d ∉ u.power.waking ∧
        (d < 16 → s.domain d ≠ .clamped → ∀ c, s.halfOf c = d → (u.core c).l1 = [] ∧ (u.core c).icache = []) ∧
        (d < 16 → s.domain d = .clamped → u.cores = s.cores))

/-- R37, R474, R475, R476, R567, R570, R571: a rail below its warning threshold opens an excursion, and its close asks for
a scrub of every stack that is not off; HOT follows the junctions, a trip takes the rails down and latches ALERT_N, and
the keeper answers over I3C. -/
def Obligations.ExcursionsAndTemperatures : Prop :=
  ∀ (s : State) (rail mv : Nat) (temps : Temps) (index : Nat) (b : Byte) (static dynamic : BitVec 7),
    (s.power.on = true → rail ≤ 10 → mv < railWarn s.power.vnow rail → railReset rail ≤ mv → s.power.exc = false →
      ∃ u, exec (.excursionOpen rail mv) s = .next u ∧ u.power.exc = true ∧ u.power.excno = s.power.excno + 1 ∧
        u.power.excRail = rail ∧ u.power.excMin = mv ∧ u.power.excStart = s.nowN ∧ u.pins.alert = true) ∧
    (s.power.exc = true →
      ∃ u, exec .excursionClose s = .next u ∧ u.power.exc = false ∧ u.dbg.elcount = s.dbg.elcount + 1 ∧
        ∀ d, d < 8 → s.domain (16 + d) ≠ .off → 32 + d ∈ u.ms.fastScrub) ∧
    (s.power.on = true → ∃ u, exec (.thermalAlert temps) s = .next u ∧ u.power.temps = temps ∧
      (100 ≤ hottest temps → s.power.vcomp = 0 → u.power.hot = true) ∧
      (hottest temps ≤ 97 → u.power.hot = false)) ∧
    (s.power.on = true → (110 ≤ hottest temps ∨ 105 ≤ sensor temps 14 ∨ 125 ≤ sensor temps 13) →
      ∃ u, exec (.thermalTrip temps) s = .next u ∧ u.power.on = false ∧ u.power.tripLatch = true ∧ u.pins.alert = true ∧
        u.cores = [] ∧ u.stage = .rom) ∧
    (s.power.on = true → index ≠ 0 → exec (.i3cRead index) s = .next { s with pins := { s.pins with
      i3cData := s.i3cByte index } }) ∧
    (s.power.on = true → b.getLsbD 4 = true →
      ∃ u, exec (.i3cWrite 1 b) s = .next u ∧ u.power = { s.power with tripBefore := false }) ∧
    (index ≠ 1 → exec (.i3cWrite index b) s = .next s) ∧
    (s.power.on = true → static = s.pins.i3cStatic →
      exec (.setdasa static dynamic) s = .next { s with pins := { s.pins with i3cAddr := dynamic } })

/-- R418, R419, R420, R421, R422, R424, R425: what starts a hinge-loss reset closes the epoch, takes the host and
its cache down, releases every hart but 0, and ends each command not started with HOSTRESET; a trigger during the
sequence restarts nothing. After 1 ms the tiles are stopped, and once all is quiet the keeper waits for an open of the
next epoch, which happens at a write of HG.EPOCHOPEN. A retrain is counted and signalled. -/
def Obligations.HingeLossAndEpochs : Prop :=
  ∀ (s : State) (req : Requester) (v : DWord),
    let h := s.hinge
    let closes (c : Instr) : Prop := ∃ u, exec c s = .next u ∧
      u = { s with hinge := u.hinge, ms := u.ms, coh := u.coh, cores := u.cores, mcount := u.mcount, fe := u.fe
                   waiters := u.waiters, pins := u.pins } ∧
      u.hinge = { h with up := false, quiescing := true, waitEpoch := false, hostInReset := true, since := s.nowN
                         tilesStopped := false, hartrun := 1, hartrunHi := 0, poisonAddr := 0, poisonMore := false
                         poisonValid := false, aplic := [], imsic := [], aplicRegs := [], mtimecmp := [], imsicFiles := []
                         harts := [], hostq := [], rports := NMap.mapVals (fun _ _ => {}) h.rports } ∧
      u.cacheOf 10 = [] ∧ (∀ lt ∈ u.coh.txns, lt.2.stop ≠ 10) ∧ (∀ f ∈ u.coh.filter, f.2.getLsbD 10 = false) ∧
      (∀ id r m, u.ring? id = some r → m ∈ r.cmds → m.state ≠ .fetched) ∧ ∀ w ∈ u.waiters, w.src.isRing = false
    (h.quiescing = false → s.stage = .ready → s.power.on = true →
      closes (.hingeLossReset .adminRequest) ∧ closes (.hingeLossReset .hdieError) ∧ closes .hingeAckTimeout ∧
      (Reaches s req 0xB0010 true → field v 15 0 = 0x4057 → closes (.hgHostrst req v))) ∧
    (Reaches s req 0xB0010 true → field v 15 0 ≠ 0x4057 →
      exec (.hgHostrst req v) s = .next ((s.cpTake req 0xB0010).accError req 0xB0010 4 true)) ∧
    (h.quiescing = true → exec (.hingeLossReset .adminRequest) s = .next s ∧ exec .hingeAckTimeout s = .next s) ∧
    (h.quiescing = true → h.tilesStopped = false → h.since + 1000000 ≤ s.nowN →
      ∃ u, exec .hingeTileStop s = .next u ∧ u.hinge.tilesStopped = true ∧ u.hinge.quiescing = true) ∧
    (h.quiescing = true → h.tilesStopped = true → s.resetWaits = false →
      ∃ u, exec .hingeQuiesced s = .next u ∧ u.hinge.quiescing = false ∧ u.hinge.waitEpoch = true ∧
        u.hinge.epoch = h.epoch ∧ u.hinge.up = h.up ∧ u.hinge.hostInReset = !s.bootImageOk) ∧
    (Reaches s req 0xB0018 true →
      (h.waitEpoch = true → bitAt v 0 = true → ∃ u, exec (.hgEpochopen req v) s = .next u ∧
        u.hinge.epoch = h.epoch + 1 ∧ u.hinge.waitEpoch = false ∧ u.hinge.up = true) ∧
      (h.waitEpoch = false → exec (.hgEpochopen req v) s = .next (s.cpTake req 0xB0018)) ∧
      (bitAt v 0 = false → exec (.hgEpochopen req v) s = .next (s.cpTake req 0xB0018))) ∧
    (h.retrain = false → s.power.on = true → exec .hingeRetrain s = .next { s with
      hinge := { h with retrain := true, retrains := h.retrains.add 32 1 } }) ∧
    (h.retrain = true → ∃ u, exec .hingeRetrainDone s = .next u ∧ Raises { s with hinge := { h with retrain := false } } u 13)

/-- R265, R318, R409, R410, R412, R413, R414, R415, R416: the host side. Inbound DMA goes where its port's IOMMU maps it: through
the homes with the epoch's tag, to an interrupt file as an MSI, or nowhere; a hart faults outside its map and on poison that it
consumes, reads and writes what the host's caches hold, and waits for a line they lack; root-port events raise their sources; an
invalidation, of this IOMMU or of a port's own, puts the covered leaves that the tables no longer hold on their way out, and
IOFENCE.C ends their use. -/
def Obligations.HostAndDma : Prop :=
  ∀ (s : State) (port rid va pa len hart : Nat) (bytes : List Byte) (acc : HostAcc),
    let h := s.hinge
    let drawn : State := (s.draw).2
    let refused : State := drawn.dmaGives [] false true
    let writes : List (Nat × Nat) → State → Prop := fun ps t =>
      t = (drawn.updRport port (fun r => r.took rid va bytes.length true bytes)).dmaGives [] false false ∧
      (s.rport port).pieces s.free rid va true bytes.length (bytes.length / 4096 + 2) = some ps
    let beat : State := drawn.updHart hart (fun x => { x with cycles := x.cycles + 1 + BitVec.ofNat 64 (Config.freeNat s.free) })
    let faults (k : HostKind) : State := { beat with hinge := { beat.hinge with hostFault := some k, hostData := [] } }
    s.hostRuns = true →
    (s.rportLive port = true → 0 < bytes.length →
      ((s.rport port).pieces s.free rid va true bytes.length (bytes.length / 4096 + 2) = none →
        exec (.dmaWrite port { rid := rid, va := va } bytes) s = .next refused) ∧
      (∀ ps t, writes ps t →
        (∀ off, ps = [(pa, 4)] → hostDevice pa 4 = some (.imsic off) → off % 4096 = 0 →
          exec (.dmaWrite port { rid := rid, va := va } bytes) s = .next (t.msi pa (bytesNat bytes))) ∧
        (ps.all s.dmaReaches = true → (∀ q ∈ ps, hostDevice q.1 q.2 = none) →
          exec (.dmaWrite port { rid := rid, va := va } bytes) s = .next (t.dmaPut s.tagNow bytes ps)) ∧
        (ps.all s.dmaReaches = false → (∀ q ∈ ps, ∀ off, hostDevice q.1 q.2 ≠ some (.imsic off)) →
          exec (.dmaWrite port { rid := rid, va := va } bytes) s = .next refused))) ∧
    (s.rportLive port = true → 0 < len →
      ∀ ps, (s.rport port).pieces s.free rid va false len (len / 4096 + 2) = some ps →
        (ps.all s.dmaReaches = false → exec (.dmaRead port { rid := rid, va := va } len) s = .next refused) ∧
        (ps.all s.dmaReaches = true → ∃ u, exec (.dmaRead port { rid := rid, va := va } len) s = .next u ∧ u.hinge.dmaUr = false ∧
          u.hinge.dmaData = (ps.map (fun q => s.cohRead q.1 q.2)).flatten ∧
          u.hinge.dmaEp = ps.any (fun q => s.rangeBad q.1 q.2) ∧ u.ms = s.ms ∧ u.coh = s.coh)) ∧
    (port < 2 →
      (∀ pin, pin < 4 → ∃ u, exec (.rootPortLinkEvent port (.int pin)) s = .next u ∧ Raises s u (3 + 4 * port + pin)) ∧
      (∃ u, exec (.rootPortLinkEvent port .aer) s = .next u ∧ Raises s u (11 + port)) ∧
      (∃ u, exec (.rootPortLinkEvent port .dpc) s = .next u ∧ Raises (s.updRport port (fun r => { r with
        width := 0, inq := [], outq := [] })) u (11 + port)) ∧
      (∀ w, linkWidth w = true → w ≠ 0 → ∃ u, exec (.rootPortLinkEvent port (.link w)) s = .next u ∧
        Raises (s.updRport port (fun r => { r with width := w })) u (11 + port)) ∧
      (∀ w, linkWidth w = false → exec (.rootPortLinkEvent port (.link w)) s = .next s)) ∧
    (h.hartOn hart = true → 0 < hostLen acc → (∀ q ∈ h.hostq, q.hart ≠ hart) → hostPa acc = pa → hostLen acc = len →
      (s.isLpRange pa len = true → (s.hostReaches pa && s.hostReaches (pa + len - 1)) = false → ∀ uncached,
        exec (.hostMemoryAccess hart acc uncached) s = .next (faults (hostKindOf acc))) ∧
      (s.isLpRange pa len = false → hostDevice pa len = none → ∀ uncached,
        exec (.hostMemoryAccess hart acc uncached) s = .next (faults (hostKindOf acc))) ∧
      (s.isLpRange pa len = false → hostDevice pa len = some (.mtimer 0x7FF8) → acc = .load pa len → len = 8 → ∀ uncached,
        ∃ u, exec (.hostMemoryAccess hart acc uncached) s = .next u ∧
          u.hinge.hostData = (natBytes 8 (beat.timeCopy 10)).take 8 ∧ u.hinge.hostFault = none) ∧
      (s.isLpRange pa len = true → (s.hostReaches pa && s.hostReaches (pa + len - 1)) = true →
        (NMap.find (lineOf pa) (s.cacheOf 10) = none → ∃ u, exec (.hostMemoryAccess hart acc false) s = .next u ∧
          u.hinge.hostq = h.hostq ++ [{ hart := hart, acc := acc, rest := hostPieces acc }] ∧ u.ms = s.ms ∧ u.coh = s.coh) ∧
        (∀ l, NMap.find (lineOf pa) (s.cacheOf 10) = some l → pa % 128 + len ≤ 128 →
          (acc = .load pa len ∨ acc = .fetch pa len →
            (l.poison = false → exec (.hostMemoryAccess hart acc false) s = .next
              (beat.hostGives ((l.bytes.drop (pa % 128)).take len))) ∧
            (l.poison = true → ∃ u, exec (.hostMemoryAccess hart acc false) s = .next u ∧ Raises { beat with hinge := {
              beat.hinge with hostFault := some (hostKindOf acc), poisonValid := true
                              poisonAddr := if h.poisonValid then h.poisonAddr else pa
                              poisonMore := h.poisonMore || h.poisonValid } } u 2)) ∧
          (acc = .store pa bytes → l.st ≠ .s → ∃ (u : State) (l2 : CLine), exec (.hostMemoryAccess hart acc false) s = .next u ∧
            NMap.find (lineOf pa) (u.cacheOf 10) = some l2 ∧ l2.st = .m ∧ l2.tag = s.tagNow ∧
            l2.bytes = overlay l.bytes ((List.range bytes.length).map (fun i => (pa % 128 + i, bytes.getD i 0))) ∧
            u.ms = s.ms)))) ∧
    (∀ pasid size upd,
      let after (cov : Leaf → Bool) (c : Option Nat → Instr) : Prop :=
        let kept (i : Iommu) : List Leaf := i.leaves.filter (fun l => !upd.removed.any (fun r => leafSame r l)) ++ upd.added
        (∃ u, exec (c none) s = .next u ∧ u.io.leaves = kept s.io ∧ ∀ l ∈ u.io.stale, cov l = true → l ∈ u.io.invalidated) ∧
        ∃ u, exec (c (some port)) s = .next u ∧ u.io = s.io ∧ (u.rport port).io.leaves = kept (s.rport port).io ∧
          ∀ l ∈ (u.rport port).io.stale, cov l = true → l ∈ (u.rport port).io.invalidated
      after (covers pasid va size) (fun p => .iotinvalVma pasid { port := p, addr := va } size upd) ∧
        after (coversG va size) (fun p => .iotinvalGvma { port := p, addr := va } size upd)) ∧
    (let fenced (i : Iommu) : Iommu := { i with
        stale := i.stale.filter (fun l => !i.invalidated.contains l), invalidated := [] };
      ((∀ pv ∈ s.underWay, ∀ l ∈ s.io.invalidated, l.pasid = pv.1 → l.va / 4096 * 4096 ≤ pv.2 → l.va + l.size ≤ pv.2) →
        ∃ u, exec .iofenceC s = .next u ∧ u.io = fenced s.io ∧ u.ms = s.ms ∧ u.coh = s.coh ∧
          ∀ p, u.rport p = s.rport p ∨ u.rport p = { s.rport p with io := fenced (s.rport p).io }))

/-- R430 to R436, R439, R461, R518, R565: the ports: cables, HELLO and training, lanes that fail, acknowledgements,
retries, and what takes a port down; a member reports the link that it lost to the master. -/
def Obligations.Ports : Prop :=
  ∀ (s : State) (n : Nat),
    let p := s.port n
    let link (c : Instr) (q : Port) : Prop := exec c s = .next (s.updPort n (fun _ => q))
    let down (q : Port) (c : Instr) : Prop := ∃ u, exec c s = .next u ∧
      (s.inSpan = false → u.port n = { seated := q.seated, failed := q.failed } ∧ ∀ k, k ≠ n → u.port k = s.port k) ∧
      (s.inSpan = true → s.span.master = false → ∀ i e, q.partner = some i → q.foreign = false →
        s.span.roster.find? (fun e => e.moduleId == i.moduleId && e.ord != s.span.ord) = some e →
        ∃ m, u.outbox = s.outbox ++ [m] ∧ m.dst = s.span.masterOrd ∧ m.body = .linkdown n e.ord)
    (∀ seated, p.seated = seated → exec (.cablePresent n seated) s = .next s) ∧
    (p.seated = false → link (.cablePresent n true) { p with seated := true, failed := [] }) ∧
    (p.seated = true → ∃ u, exec (.cablePresent n false) s = .next u ∧ u.port n = {}) ∧
    (s.portsRun = true →
      (p.seated = true → ∀ spanId info, ∃ u, exec (.hello n spanId info) s = .next u ∧
        u = { s with ports := u.ports, outbox := u.outbox } ∧ (u.port n).partner = some info ∧
        (u.port n).partnerSpan = spanId ∧ (u.port n).foreign = (spanId != s.mySpanId) ∧
        (u.port n).level = lowerLevel 0x10 info.levels.amixis ∧
        (p.trained = true → u.outbox = s.outbox) ∧
        (p.trained = false → ∃ m i, u.outbox = s.outbox ++ [m] ∧ m.port = some n ∧ m.body = .hello s.mySpanId i)) ∧
      (∀ lanes latency, p.seated = true → p.trained = false → p.partner.isSome = true → 2 ≤ (p.goodLanes lanes).length →
        ∃ u, exec (.portTrained n { lanes := lanes, latency := latency }) s = .next u ∧ u = { s with ports := u.ports, outbox := u.outbox } ∧
          (u.port n).trained = true ∧ (u.port n).up = true ∧ (u.port n).lanes = p.goodLanes lanes ∧
          (u.port n).foreign = p.foreign ∧ (u.port n).latency = latency ∧ (s.span.state ≠ .forming → (u.port n).credits =
            [(0, vcBuffer 0), (1, vcBuffer 1), (2, vcBuffer 2), (3, vcBuffer 3), (4, vcBuffer 4), (5, vcBuffer 5)])) ∧
      (p.seated = true → p.partner = none → 2 ≤ (p.goodLanes 15).length →
        ∃ u, exec (.helloTimeout n) s = .next u ∧ u = { s with ports := u.ports, outbox := u.outbox } ∧
          (u.port n).up = true ∧ (u.port n).foreign = true ∧ (u.port n).lanes = p.goodLanes 15) ∧
      (p.up = true → ∀ lane, lane ∈ p.lanes →
        (3 ≤ p.lanes.length → ∃ u, exec (.laneFailure n lane) s = .next u ∧ u.port n =
            { p with lanes := p.lanes.filter (· != lane), failed := addNew lane p.failed } ∧
          NMap.findD {} 11 u.mcount = (NMap.findD {} 11 s.mcount).add 48 1 ∧ u.dbg.elcount = s.dbg.elcount + 1) ∧
        (p.lanes.length ≤ 2 → down { p with failed := addNew lane p.failed } (.laneFailure n lane))) ∧
      (p.up = true → p.dropping = false → ∀ ack cvc ccnt,
        (ack ∈ p.unacked → (∀ v, NMap.findD 0 v p.waiting = 0) → ∃ u, exec (.idleFlit n ack cvc ccnt) s = .next u ∧
          (u.port n).unacked = (p.unacked.dropWhile (· != ack)).drop 1 ∧ (u.port n).txSeq = p.txSeq ∧
          NMap.findD 0 cvc (u.port n).credits = Nat.min (vcBuffer cvc) (NMap.findD 0 cvc p.credits + ccnt)) ∧
        (∀ q rest, (p.acked ack).unacked = q :: rest →
          let tried := if (p.acked ack).retryAt = some q then (p.acked ack).retries else 0
          (tried < 8 → ∃ u, exec (.retryRequest n ack) s = .next u ∧ u = { s with ports := u.ports } ∧
            (u.port n).retryAt = some q ∧ (u.port n).retries = tried + 1 ∧ (u.port n).resend = rest.length + 1) ∧
          (8 ≤ tried → down p (.retryRequest n ack)))) ∧
      (p.up = true → p.dropping = true → ∀ ack cvc ccnt, exec (.idleFlit n ack cvc ccnt) s = .next s ∧
        exec (.retryRequest n ack) s = .next s) ∧
      (p.up = true → ∃ m : OutMsg, m.port = some n ∧ m.body = .retryRequest p.rxSeq ∧
        exec (.uncorrectableCodeword n) s =
          .next { s.updPort n (fun _ => { p with dropping := true }) with outbox := s.outbox ++ [m] }) ∧
      (p.up = true → down p (.portDownTimeout n)) ∧ (p.up = false → exec (.portDownTimeout n) s = .next s) ∧
      (∀ hdr op, hdr.port = n → p.up = true → exec (.reservedOpMessage hdr op) s =
        .next ((s.updPort n (fun _ => { p with dropping := false })).countModule 10 1)))

/-- R440, R441, R442, R443, R451, R462, R463, R525, R527, R552, R553: SP.SPANCFG, SP.SPANCTL and SP.WININV, and how a
span forms: announcements spread, the lowest identity with the master role forms the span, a module joins under an
ordinal or is refused, and a roster makes it a member. -/
def Obligations.SpanFormation : Prop :=
  ∀ (s : State) (req : Requester) (v : DWord) (hdr : MsgHdr) (info : ModInfo),
    let x := s.span
    let a (off : Nat) : State := s.cpTake req off
    let cfg : Span := { x with en := bitAt v 0, cfgMaster := bitAt v 1, replace := bitAt v 2, cfgOrd := field v 15 4
                               cfgSpanId := v.extractLsb' 32 32 }
    (Reaches s req 0x50000 true →
      (bitAt v 0 = true →
        (x.en = false → s.stage ≠ .ready → exec (.spancfgEnSet req v) s = .next ((a 0x50000).accError req 0x50000 3 true)) ∧
        (s.stage = .ready → (x.state = .off ∨ x.state = .refused ∨ x.state = .isolated ∨ x.state = .left) →
          ∃ u, exec (.spancfgEnSet req v) s = .next u ∧
            u = { s with span := { cfg with state := .forming, spanId := v.extractLsb' 32 32, master := false, reason := 0
                                            ord := 0, epoch := 0, known := [], lastNews := s.nowN, leaveSent := false }
                         ports := u.ports, outbox := u.outbox, power := u.power, pins := u.pins }) ∧
        (s.stage = .ready → (x.state = .forming ∨ x.state = .member ∨ x.state = .leaving) →
          exec (.spancfgEnSet req v) s = .next { a 0x50000 with span := cfg })) ∧
      (bitAt v 0 = false → s.stage = .ready ∨ x.en = false →
        (x.state = .member → exec (.spancfgEnClear req v) s = .next { a 0x50000 with span := { cfg with state := .leaving } }) ∧
        (x.state = .leaving ∨ x.state = .left → exec (.spancfgEnClear req v) s = .next { a 0x50000 with span := cfg }) ∧
        (x.state = .off ∨ x.state = .forming ∨ x.state = .refused ∨ x.state = .isolated →
          exec (.spancfgEnClear req v) s = .next { a 0x50000 with span := { cfg with state := .off, reason := 0, known := [] } }))) ∧
    (Reaches s req 0x50010 true →
      let o := field v 15 4
      let i := field v 26 24
      let lv := v.extractLsb' 16 8
      let both (t : State) : Prop :=
        exec (.spSpanctlRelease req v) s = .next t ∧ exec (.spSpanctlLower req v) s = .next t
      (s.inSpan = false ∨ x.master = false → both ((a 0x50010).accError req 0x50010 5 true)) ∧
      (s.inSpan = true → x.master = true →
        (bitAt v 0 = true → o ∉ x.reserved → both ((a 0x50010).accError req 0x50010 4 true)) ∧
        (bitAt v 0 = true → bitAt v 1 = false → o ∈ x.reserved → exec (.spSpanctlRelease req v) s = .next { a 0x50010 with
          span := { x with reserved := x.reserved.filter (· != o) } }) ∧
        (bitAt v 0 = false → bitAt v 1 = true →
          (4 < i ∨ (levelOf x.levels i).toNat ≤ lv.toNat →
            exec (.spSpanctlLower req v) s = .next ((a 0x50010).accError req 0x50010 4 true)) ∧
          (i ≤ 4 → lv.toNat < (levelOf x.levels i).toNat →
            (x.prep.isSome = true → exec (.spSpanctlLower req v) s = .next { a 0x50010 with
              span := { x with lowers := x.lowers ++ [(i, lv)] } }) ∧
            (x.prep = none → (∃ r ∈ x.roster, r.ord ≠ x.ord) → ∃ u, exec (.spSpanctlLower req v) s = .next u ∧
              u.span.stalled = true ∧ u.span.levels = x.levels ∧ u.span.prep.map (·.1) = some (setLevel x.levels i lv)))))) ∧
    (Reaches s req 0x50030 true →
      (s.windowOpen = false → exec (.spWininv req v) s = .next { a 0x50030 with span := { x with invs := [] } }) ∧
      (s.windowOpen = true → exec (.spWininv req v) s = .next { a 0x50030 with
        span := { x with invs := addNew (field v 9 0) x.invs } })) ∧
    (∀ known, s.carries hdr 0 = true → (s.port hdr.port).foreign = false → (x.state = .forming ∨ s.inSpan = true) →
      let new := known.filter (fun i => i.moduleId != s.sec.ident.moduleId && !(x.known.any (fun k => k.moduleId == i.moduleId)))
      new ≠ [] → ∃ u, exec (.announce hdr known) s = .next u ∧
        u = { s with span := { x with known := x.known ++ new, lastNews := s.nowN }, ports := u.ports, outbox := u.outbox } ∧
        ∀ n, n < 16 → n ≠ hdr.port → (s.port n).up = true → (s.port n).foreign = false →
          ∃ m ∈ u.outbox, m.port = some n ∧ ∃ k, m.body = .announce k) ∧
    (s.portsRun = true → x.state = .forming → x.lastNews + 10000000 ≤ s.nowN →
      let chosen := pickMaster ((x.known ++ [s.myInfo]).map (fun i => (i.moduleId, i.master)))
      (chosen ≠ some s.sec.ident.moduleId → exec .masterSelect s = .next s) ∧
      (chosen = some s.sec.ident.moduleId → ∃ u, exec .masterSelect s = .next u ∧ u.span.state = .member ∧
        u.span.master = true ∧ u.span.masterOrd = u.span.ord ∧ u.span.epoch = x.epoch + 1)) ∧
    (s.carries hdr 0 = true → s.inSpan = true → (s.port hdr.port).foreign = false →
      let t := s.tookFlits hdr (.join info)
      (x.master = false → exec (.join hdr info) s = .next (t.sendTo x.masterOrd (.join info))) ∧
      (x.master = true → (∀ r ∈ x.roster, r.moduleId ≠ info.moduleId) →
        let given := ordinalFor (x.roster.map (·.ord)) x.reserved info
        (levelsAtLeast info.levels x.levels = false →
          exec (.join hdr info) s = .next (t.sendPort hdr.port (.joinRefusal .level))) ∧
        (levelsAtLeast info.levels x.levels = true → given = none →
          exec (.join hdr info) s = .next (t.sendPort hdr.port (.joinRefusal .full))) ∧
        (∀ o, levelsAtLeast info.levels x.levels = true → given = some o → x.prep = none →
          ∃ u, exec (.join hdr info) s = .next u ∧ u.span.epoch = x.epoch + 1 ∧
            ∃ e ∈ u.span.roster, e.ord = o ∧ e.moduleId = info.moduleId))) ∧
    (∀ reason, s.carries hdr 0 = true → x.state = .forming → exec (.joinRefusal hdr reason) s =
      .next { s.tookFlits hdr (.joinRefusal reason) with span := { x with
        state := .refused, reason := match reason with | .full => 1 | .level => 2 } }) ∧
    (∀ members levels e, s.carries hdr 0 = true → x.state = .forming → (s.port hdr.port).foreign = false →
      members.find? (fun r => r.moduleId == s.sec.ident.moduleId) = some e →
      ∃ u, exec (.roster hdr members levels) s = .next u ∧ u.span.state = .member ∧ u.span.ord = e.ord ∧
        u.span.master = false ∧ u.span.masterOrd = hdr.src ∧ u.span.roster = members ∧ u.span.levels = levels ∧
        u.span.epoch = hdr.epoch)

/-- R349, R442, R444, R445, R446, R447, R448, R449, R462, R463, R527: members of a span: heartbeats and what follows when
they stop, losses, links that go down, members that leave, level commits, and hasp messages of this epoch and of newer
ones. -/
def Obligations.SpanMembers : Prop :=
  ∀ (s : State) (hdr : MsgHdr) (members : List RosterEntry) (lv : Levels) (m line gen : Nat),
    let x := s.span
    let beats (t : State) : State := { t with span := { t.span with
      heard := NMap.ins hdr.src t.nowN t.span.heard, memLevels := NMap.ins hdr.src lv t.span.memLevels } }
    let part := (x.roster.map (·.ord)).filter (· != x.masterOrd)
    let heir := masterOf (x.roster.filter (fun r => r.ord != x.masterOrd))
    let without (k : Nat) (c : Instr) : Prop := ∃ u, exec c s = .next u ∧ ∀ r ∈ u.span.roster, r.ord ≠ k
    (s.portsRun = true → s.inSpan = true →
      (x.lastBeat + 250000 ≤ s.nowN →
        let t : State := { s with span := { x with lastBeat := s.nowN } }
        exec .heartbeatSend s = .next (if x.master then t.toAll (.heartbeat ownLevels)
          else t.sendTo x.masterOrd (.heartbeat ownLevels))) ∧
      (x.master = true → s.reachable m = true → NMap.findD 0 m x.heard + 1500000 ≤ s.nowN →
        let silent := s.others.filter (fun k => decide (NMap.findD 0 k x.heard + 1500000 ≤ s.nowN))
        let rest := (x.roster.map (·.ord)).filter (fun k => !silent.contains k)
        (majority x.roster rest = true → without m (.memberLossTimeout m)) ∧
        (majority x.roster rest = false → ∃ u, exec (.memberLossTimeout m) s = .next u ∧ u.span.state = .isolated)) ∧
      (x.master = false → x.masterHeard + 2000000 ≤ s.nowN →
        (majority x.roster part = false → ∃ u, exec .masterLossTimeout s = .next u ∧ u.span.state = .isolated) ∧
        (majority x.roster part = true → without x.masterOrd .masterLossTimeout ∧
          ∃ u, exec .masterLossTimeout s = .next u ∧ u.span.masterOrd = heir ∧
            (heir = x.ord → u.span.master = true))) ∧
      (x.state = .leaving → x.leaveSent = false → s.sharedLaunch = false → s.windowStores = false →
        (s.others = [] → x.en = false → ∃ u, exec .leaveDrained s = .next u ∧ u.span.state = .left) ∧
        (s.others ≠ [] →
          let next := if x.master then masterOf (x.roster.filter (fun r => r.ord != x.ord)) else x.masterOrd
          ∃ u, exec .leaveDrained s = .next u ∧ u.ports = (s.sendTo next .leave).ports ∧
            u.outbox = s.outbox ++ [{ dst := next, epoch := x.epoch, body := .leave }] ∧ u.span = { x with
              leaveSent := true, master := false, masterOrd := next, masterHeard := s.nowN })) ∧
      (x.master = true → x.prep = none → s.raisedLevels ≠ x.levels → (∃ r ∈ x.roster, r.ord ≠ x.ord) →
        ∃ u, exec .levelCommitStart s = .next u ∧ u.span.stalled = true ∧ u.span.levels = x.levels ∧
          u.span.prep.map (·.1) = some s.raisedLevels)) ∧
    (Arrives s hdr (.heartbeat lv) →
      let t := s.tookFlits hdr (.heartbeat lv)
      (x.master = true → newer hdr.epoch x.epoch = false → exec (.heartbeat hdr lv) s = .next (beats t)) ∧
      (x.master = true → newer hdr.epoch x.epoch = true → x.prep = none →
        ∃ u, exec (.heartbeat hdr lv) s = .next u ∧ u.span.epoch = hdr.epoch + 1) ∧
      (x.master = false → hdr.src = x.masterOrd → exec (.heartbeat hdr lv) s = .next { t with
        span := { x with masterHeard := s.nowN } })) ∧
    (Arrives s hdr (.roster members lv) →
      let me := members.find? (fun r => r.moduleId == s.sec.ident.moduleId)
      (me ≠ none → ∃ u, exec (.roster hdr members lv) s = .next u ∧ u.span.roster = members ∧ u.span.levels = lv ∧
        u.span.epoch = hdr.epoch ∧ u.span.masterOrd = hdr.src ∧ u.span.master = false ∧ u.span.state = x.state) ∧
      (me = none → x.state = .member → ∃ u, exec (.roster hdr members lv) s = .next u ∧ u.span.state = .isolated)) ∧
    (Arrives s hdr (.lost m) →
      (s.reachable m = true → without m (.lost hdr m)) ∧
      (m = x.ord → x.state = .member → ∃ u, exec (.lost hdr m) s = .next u ∧ u.span.state = .isolated)) ∧
    (Arrives s hdr (.linkdown m gen) →
      (x.master = false → exec (.linkdown hdr m gen) s = .next (s.tookFlits hdr (.linkdown m gen))) ∧
      (x.master = true → x.prep = none → (∃ r ∈ dropLink x.roster hdr.src gen, r.ord ≠ gen ∧ gen ∈ r.links) →
        ∃ u, exec (.linkdown hdr m gen) s = .next u ∧ u.span.epoch = x.epoch + 1 ∧
          u.span.roster = rosterFor (dropLink x.roster hdr.src gen) x.ord x.ord)) ∧
    (Arrives s hdr .leave →
      (x.master = true → without hdr.src (.leave hdr)) ∧
      (x.master = false → hdr.src = x.masterOrd → heir ≠ x.ord → exec (.leave hdr) s =
        .next { s.tookFlits hdr .leave with span := { x with masterOrd := heir, masterHeard := s.nowN } })) ∧
    (Arrives s hdr (.levelprep lv) → hdr.src = x.masterOrd → x.master = false →
      let t : State := { s.tookFlits hdr (.levelprep lv) with span := { x with stalled := true, replyOwed := true } }
      (s.windowBusy = true → exec (.levelprep hdr lv) s = .next t) ∧
      (s.windowBusy = false → exec (.levelprep hdr lv) s = .next
        (({ t with span := { x with stalled := true, replyOwed := false } } : State).sendTo x.masterOrd .levelprepReply))) ∧
    (Arrives s hdr .levelprepReply → ∀ replied, x.prep = some (lv, replied) →
      ((∃ r ∈ x.roster, r.ord ∉ replied ∧ r.ord ≠ hdr.src) → exec (.levelprepReply hdr) s =
        .next { s.tookFlits hdr .levelprepReply with span := { x with prep := some (lv, addNew hdr.src replied) } }) ∧
      ((∀ r ∈ x.roster, r.ord ∈ replied ∨ r.ord = hdr.src) → x.lowers = [] → ∃ u, exec (.levelprepReply hdr) s = .next u ∧
        u.span.levels = lv ∧ u.span.prep = none ∧ u.span.stalled = false ∧ u.span.epoch = x.epoch + 1)) ∧
    (Arrives s hdr (.levelcommit lv) → hdr.src = x.masterOrd → ∃ u, exec (.levelcommit hdr lv) s = .next u ∧
      u.span.levels = lv ∧ u.span.stalled = false ∧ u.span.epoch = hdr.epoch) ∧
    (∀ rel, let b : MsgBody := if rel then .hasprel line gen else .hasparr line gen
      let c : Instr := if rel then .hasprel hdr line gen else .hasparr hdr line gen
      let t := s.tookFlits hdr b
      Arrives s hdr b →
      (newer hdr.epoch x.epoch = true → x.held.find? (fun h => h.line == line && h.rel == rel) = none →
        exec c s = .next { t with span := { x with held := x.held ++
          [{ line := line, rel := rel, src := hdr.src, gen := gen, epoch := hdr.epoch }] } }) ∧
      (newer hdr.epoch x.epoch = false → ∀ h, NMap.find line s.hasps = some h →
        (rel = false → x.master = true → hdr.src ∈ h.modules → gen = h.gen → exec c s = .next
          (({ t with hasps := NMap.ins line { h with members := addNew hdr.src h.members } s.hasps } : State).haspSettle line 2)) ∧
        (rel = false → x.master = true → gen ≠ h.gen → exec c s = .next t) ∧
        (rel = true → hdr.src = x.masterOrd → h.sent = true → gen = h.gen →
          exec c s = .next ((t.haspRelease line h).haspSettle line 2)) ∧
        (rel = true → hdr.src = x.masterOrd → gen ≠ h.gen → exec c s = .next t)))

/-- R45, R208, R210, R324, R325, R326, R333, R455, R456, R457, R458: the messages of launches over a span, of relay between
modules, of tumblers and of the timebase: a PLACE is taken by the context that serves its SCID or refused, tiles are
pulled in batches of at most 64 and reported back, and a tumbler answers only those of its ward. -/
def Obligations.LaunchAndTumblerMessages : Prop :=
  ∀ (s : State) (hdr : MsgHdr) (scid lnum n : Nat) (f : LaunchFields) (r : BatchReport) (b : Bool),
    let took (body : MsgBody) (c : Instr) (g : State → State) : Prop :=
      Arrives s hdr body → exec c s = .next (g (s.tookFlits hdr body))
    (s.span.state = .leaving ∨ s.fe.en = false ∨ (s.tookFlits hdr (.place scid f)).servingCtx scid = none →
      s.onPlace hdr.src scid f = .refuse →
      took (.place scid f) (.place hdr scid f) (fun t => t.sendTo hdr.src (.placeRefusal f.lnum))) ∧
    (∀ l, (s.tookFlits hdr (.place scid f)).onPlace hdr.src scid f = .take l → s.onPlace hdr.src scid f = .take l →
      took (.place scid f) (.place hdr scid f) (fun t => t.takeServed l)) ∧
    (Arrives s hdr (.place scid f) →
      (s.tookFlits hdr (.place scid f)).onPlace hdr.src scid f = .wait → s.onPlace hdr.src scid f = .wait →
      exec (.place hdr scid f) s = .next s) ∧
    (∀ k l, s.launchNamed s.here lnum = some (k, l) →
      took (.placeRefusal lnum) (.placeRefusal hdr lnum) (fun t => t.updLaunch k (fun l => { l with
        peerLost := some (l.peerLost.getD hdr.src), refused := addNew hdr.src l.refused
        out := if l.hasps.isEmpty then l.out else NMap.del hdr.src l.out })) ∧
      took (.tiledone lnum r b) (.tiledone hdr lnum r b) (fun t => t.updLaunch k (fun l => { l with
        ended := l.ended + r.ended, failed := l.failed + r.failed, fenced := l.fenced + r.fencedDie
        flags := l.flags ||| r.flags, faulted := l.faulted || b
        out := if b then NMap.del hdr.src l.out
          else NMap.ins hdr.src (NMap.findD 0 hdr.src l.out - r.ended) l.out })) ∧
      took (.pull lnum) (.pull hdr lnum none) (fun t =>
        let count := if l.stops then 0 else Nat.min 64 (l.total - l.next)
        (t.updLaunch k (fun l => { l with
          next := l.next + count, out := NMap.ins hdr.src (NMap.findD 0 hdr.src l.out + count) l.out })).sendTo
            hdr.src (.batch lnum ((List.range count).map (fun i => l.next + i))) hdr.txid)) ∧
    (s.launchNamed s.here lnum = none →
      took (.placeRefusal lnum) (.placeRefusal hdr lnum) id ∧ took (.tiledone lnum r b) (.tiledone hdr lnum r b) id ∧
      took (.pull lnum) (.pull hdr lnum none) (fun t => t.sendTo hdr.src (.batch lnum []) hdr.txid)) ∧
    (∀ ts, s.launchNamed hdr.src lnum = none → took (.batch lnum ts) (.pull hdr lnum (some ts)) id) ∧
    (∀ k l, s.launchNamed hdr.src lnum = some (k, l) →
      took (.batch lnum []) (.pull hdr lnum (some [])) (fun t =>
        (t.updLaunch k (fun l => { l with pulled := false, noMore := true })).reportServed k) ∧
      ∀ ts, ts ≠ [] → took (.batch lnum ts) (.pull hdr lnum (some ts)) (fun t => (t.updLaunch k (fun l => { l with
        pulled := false, batches := l.batches ++ [(ts.length, ts)]
        pool := if l.stops then [] else l.pool ++ ts })).reportServed k)) ∧
    (∀ m : RelayMsg,
      (∀ t, (s.tookFlits hdr (.relay m)).relayIn m = some t → took (.relay m) (.relay hdr m) (fun _ => t)) ∧
      ((s.tookFlits hdr (.relay m)).relayIn m = none → Arrives s hdr (.relay m) → exec (.relay hdr m) s = .next s)) ∧
    (∀ op,
      ((s.tum n).ward = hdr.ward ∨ op = .mark → took (.tarrive n scid op) (.tarriveMessage hdr n scid op) (fun t =>
        { t with tumq := t.tumq ++ [⟨.peer hdr.src hdr.txid, n, op⟩] })) ∧
      ((s.tum n).ward ≠ hdr.ward → op ≠ .mark → (∀ v, op ≠ .test v) →
        took (.tarrive n scid op) (.tarriveMessage hdr n scid op) (fun t => ({ t with dbg := { t.dbg with
          misuse := t.dbg.misuse ++ [(hdr.src, n)] } } : State).setTum n { s.tum n with m := true }))) ∧
    ((s.tum n).ward ≠ hdr.ward → ∀ v, ∃ outcome,
      took (.tarrive n scid (.test v)) (.tarriveMessage hdr n scid (.test v)) (fun t =>
        ({ t.setTum n { s.tum n with m := true } with
            free := s.free + 1, dbg := { s.dbg with misuse := s.dbg.misuse ++ [(hdr.src, n)] } } : State).sendTo hdr.src (.twake outcome)
          hdr.txid hdr.ward)) ∧
    (∀ shared,
      ((s.tum n).ward ≠ hdr.ward → took (.tmapchk n scid shared) (.tmapchk hdr n scid shared) (fun t =>
        t.sendTo hdr.src (.twake false) hdr.txid hdr.ward)) ∧
      ((s.tum n).ward = hdr.ward → took (.tmapchk n scid true) (.tmapchk hdr n scid true) (fun t =>
        t.sendTo hdr.src (.twake true) hdr.txid hdr.ward)) ∧
      ((s.tum n).ward = hdr.ward → took (.tmapchk n scid false) (.tmapchk hdr n scid false) (fun t =>
        t.sendTo hdr.src (.twake (t.servingCtx scid == some (s.tum n).owner)) hdr.txid hdr.ward))) ∧
    (Arrives s hdr (.twake b) →
      (s.hasTx hdr.txid hdr.src = false → exec (.twake hdr b) s = .next (s.tookFlits hdr (.twake b))) ∧
      (s.hasTx hdr.txid hdr.src = true → ∃ u, exec (.twake hdr b) s = .next u ∧ u.hasTx hdr.txid hdr.src = false)) ∧
    (∀ time before, hdr.src = s.span.masterOrd → s.span.master = false →
      took (.tbsync time) (.tbsync hdr time before) (fun t => { t with
        time := { s.time with slew := signedOf 64 ((time - s.time.now).toNat + before + (s.port hdr.port).latency) } }))

/-- R294, R312, R313, R314, R316, R317, R418, R437, R438, R439, R452, R453: requests of peers to this module's memory: each is
checked against the plan of its ward and denied or performed, and answered; and the answers to this module's own
requests reach the accesses that wait for them. -/
def Obligations.WindowMessages : Prop :=
  ∀ (s : State) (hdr : MsgHdr) (pa len : Nat) (bytes : List Byte) (cached done poison : Bool) (op : AtomOp) (signed : Bool)
    (operands : List (DWord × DWord)) (who : Nat),
    let tgt : Target := if cached then .cache pa else .uncached pa
    let got (t : State) (n : Nat) : List Byte × Bool := t.windowBytes pa n cached
    let serves (b : MsgBody) (c : Instr) (n : Nat) (g : State → State) : Prop :=
      let t := s.tookFlits hdr b
      Arrives s hdr b →
      (t.windowAllowed hdr pa n = false → exec c s = .next ((t.countModule 9 1).sendTo hdr.src .deny hdr.txid hdr.ward)) ∧
      (t.windowAllowed hdr pa n = true → t.domain (t.memDomain pa) ≠ .idle → exec c s = .next s) ∧
      (t.windowAllowed hdr pa n = true → t.domain (t.memDomain pa) = .idle → exec c s = .next (g t))
    let reply (t : State) (b : MsgBody) : State := t.sendTo hdr.src b hdr.txid hdr.ward
    let written (t : State) : State :=
      let u := reply (t.targetWrite tgt 0 bytes) .visack
      if done then reply u .doneack else u
    let takes (b : MsgBody) (c : Instr) (g : State → State) : Prop := Arrives s hdr b →
      (s.hasTx hdr.txid hdr.src = false → exec c s = .next (s.tookFlits hdr b)) ∧
      (s.hasTx hdr.txid hdr.src = true → exec c s = .next (g (s.tookFlits hdr b)).afterAnswer)
    (len ≠ 128 → serves (.read pa len cached) (.read hdr pa len cached) len (fun t =>
      reply t (.data (got t len).1 (got t len).2))) ∧
    (∃ whole : Bool, serves (.read pa 128 cached) (.read hdr pa 128 cached) 128 (fun t =>
      reply { t with free := s.free + 1 } (if whole then .bulkdata (got t 128).1 (got t 128).2
        else .data (got t 128).1 (got t 128).2))) ∧
    serves (.write pa bytes cached done) (.write hdr pa bytes cached done) bytes.length written ∧
    serves (.bulkwrite pa bytes cached done) (.bulkwrite hdr pa bytes cached done) bytes.length written ∧
    serves (.lr pa len who cached) (.lrMessage hdr pa len { who := who, cacheable := cached }) len (fun t =>
      let kept := t.coh.peerResv.filter (fun r => !(r.1 == hdr.src && r.2.1 == who))
      reply { t with coh := { t.coh with peerResv := kept ++ [(hdr.src, who, granuleOf tgt)] } }
        (.data (got t len).1 (got t len).2)) ∧
    serves (.sc pa bytes who cached) (.scMessage hdr pa bytes { who := who, cacheable := cached }) bytes.length (fun t0 =>
      let t : State := { t0 with coh := { t0.coh with
        peerResv := t0.coh.peerResv.filter (fun r => !(r.1 == hdr.src && r.2.1 == who)) } }
      if s.coh.peerResv.contains (hdr.src, who, granuleOf tgt) then
        reply ((t.targetWrite tgt 0 bytes).killResv (fun _ => true) (granuleOf tgt)) (.data [1] false)
      else reply t (.data [0] false)) ∧
    (∀ u old bad, (s.tookFlits hdr (.atomic pa len op signed operands cached)).doAtom 0 op len signed 0 tgt
        (operandLanes operands) = some (u, old, bad) →
      serves (.atomic pa len op signed operands cached) (.atomic hdr pa len op signed operands cached) len (fun _ =>
        reply u (.data ((old.map (fun lv => natBytes len lv.2.toNat)).flatten) bad))) ∧
    takes (.data bytes poison) (.data hdr bytes poison) (fun t => (t.takeData hdr.txid bytes poison).endTx hdr.txid hdr.src) ∧
    takes (.bulkdata bytes poison) (.bulkdata hdr bytes poison) (fun t =>
      (t.takeData hdr.txid bytes poison).endTx hdr.txid hdr.src) ∧
    takes .visack (.visack hdr) (fun t => t.takeVis hdr.txid) ∧
    takes .doneack (.doneack hdr) (fun t => ((t.takeVis hdr.txid).takeDone hdr.txid).endTx hdr.txid hdr.src) ∧
    takes .deny (.deny hdr) (fun t => (t.takeDenial hdr.txid).endTx hdr.txid hdr.src) ∧
    (∀ g x, s.group? g = some x → ∃ y, (s.takeData hdr.txid bytes poison).group? g = some y ∧ y = { x with
      loads := x.loads.map (fun l => x.loadReply l hdr.txid bytes poison), atoms := x.atoms.map (fun r => r.reply hdr.txid bytes poison) })

/-- R559: "A hart leaves reset when software writes 1 to its bit in HG.HARTRUN or HG.HARTRUNHI. A bit that is set stays set,
and writing 0 to it has no effect." Of the two registers, the first holds harts 0 to 63 and the second harts 64 to 71. -/
def Obligations.HartsLeaveReset : Prop :=
  ∀ (s : State) (req : Requester) (v : DWord),
    (Reaches s req 0xB0020 true → ∃ u, exec (.hgHartrun req false v) s = .next u ∧
      u = { s with hinge := { s.hinge with hartrun := u.hinge.hartrun, harts := u.hinge.harts }, pins := u.pins } ∧
      ∀ i, i < 64 → (u.hinge.hartrun.getLsbD i = true ↔ s.hinge.hartrun.getLsbD i = true ∨ v.getLsbD i = true) ∧
        (s.hinge.hartrun.getLsbD i = false → v.getLsbD i = true → (u.hart i).running = true) ∧
        (s.hinge.hartrun.getLsbD i = true ∨ v.getLsbD i = false → u.hart i = s.hart i)) ∧
    (Reaches s req 0xB0028 true → ∃ u, exec (.hgHartrun req true v) s = .next u ∧
      u = { s with hinge := { s.hinge with hartrunHi := u.hinge.hartrunHi, harts := u.hinge.harts }, pins := u.pins } ∧
      ∀ i, i < 8 → (u.hinge.hartrunHi.getLsbD i = true ↔ s.hinge.hartrunHi.getLsbD i = true ∨ v.getLsbD i = true) ∧
        (s.hinge.hartrunHi.getLsbD i = false → v.getLsbD i = true → (u.hart (64 + i)).running = true) ∧
        (s.hinge.hartrunHi.getLsbD i = true ∨ v.getLsbD i = false → u.hart (64 + i) = s.hart (64 + i)))

/-- R476: "A fall of any rail below its reset threshold causes a cold reset, as defined in Bring-up, hot plug and reset. An
open excursion is then not reported." Every part is at its reset value but flash, cables, straps, the thermal trip and
what waits outside; no event is logged, and no excursion is open. -/
def Obligations.RailBelowItsResetThreshold : Prop :=
  ∀ (s : State) (rail mv : Nat), s.power.on = true → rail ≤ 10 → mv < railReset rail →
    ∃ u, exec (.railResetThreshold rail mv) s = .next u ∧
      u = { State.reset with
        pending := s.pending, free := s.free, outbox := s.outbox, sec := u.sec, ports := u.ports, pins := u.pins
        power := { swarn := s.power.swarn, tripLatch := s.power.tripLatch, tripBefore := s.power.tripBefore
                   pwrEn := s.power.pwrEn } } ∧
      u.sec = { ident := s.sec.ident, bankA := s.sec.bankA, bankB := s.sec.bankB, counter := s.sec.counter
                counterOk := s.sec.counterOk, nonces := s.sec.nonces } ∧
      (∀ n, u.port n = { seated := (s.port n).seated }) ∧ u.pins.ibi = s.pins.ibi

/-- The block takes the command at the front of its queue and runs it with the rest of the queue; on an empty queue it
idles: a nanosecond passes, in which VCOMP moves toward its setpoint and the clock-domain FIFOs drain, writes of SP.WININV
complete, and a rise of PWR_EN that came too early takes effect once 100 ms have passed since the fall (logs 2 and 138, the model's
own choices; R36, R39, R563). -/
def Obligations.StepRunsTheFront : Prop :=
  (∀ (c : Instr) (queue : List Instr) (s : State), s.pending = c :: queue →
    step s = exec c { s with pending := queue }) ∧
  (∀ s : State, s.pending = [] → step s = .next s.idle) ∧
  (∀ s : State, s.power.on = true → s.time.phase < 999 → s.span.invs = [] → s.power.riseOwed = false →
    let u := s.idle
    u = { s with
      time := { s.time with now := s.time.now + 1, phase := s.time.phase + 1, fifos := u.time.fifos }
      sec := { s.sec with keeperNs := s.sec.keeperNs + 1 }
      power := { s.power with vcomp := u.power.vcomp, vphase := u.power.vphase }
      ms := { s.ms with lpOut := u.ms.lpOut, lpIn := u.ms.lpIn }, ports := u.ports
      pins := { s.pins with cpOut := s.pins.cpOut.drop 1, cpIn := s.pins.cpIn.drop 1 }
      hinge := { s.hinge with rports := u.hinge.rports } } ∧
    (∀ n, NMap.findD [] n u.ms.lpOut = (NMap.findD [] n s.ms.lpOut).drop 1 ∧
      NMap.findD [] n u.ms.lpIn = (NMap.findD [] n s.ms.lpIn).drop 1) ∧
    (s.power.vcomp = s.power.vnow → u.power.vcomp = s.power.vcomp) ∧
    (s.power.vcomp ≠ s.power.vnow → s.power.vphase < 499 →
      u.power.vcomp = s.power.vcomp ∧ u.power.vphase = s.power.vphase + 1) ∧
    (s.power.vcomp < s.power.vnow → 499 ≤ s.power.vphase → u.power.vcomp = s.power.vcomp + 1 ∧ u.power.vphase = 0) ∧
    (s.power.vnow < s.power.vcomp → 499 ≤ s.power.vphase → u.power.vcomp = s.power.vcomp - 1 ∧ u.power.vphase = 0)) ∧
  (∀ s : State, s.power.on = false → s.span.invs = [] →
    (s.power.riseOwed = false ∨ s.power.sinceFall + 1 < 100000000 → s.idle = { s with power := { s.power with
      sinceFall := Nat.min 100000000 (s.power.sinceFall + 1) } }) ∧
    (s.power.riseOwed = true → 100000000 ≤ s.power.sinceFall + 1 → s.idle.power.on = true ∧ s.idle.stage = .rom ∧
      s.idle.power.riseOwed = false))

/-- R8, R41, R285, R322, R417, R426, R473, R523, R545 to R558: what the spec gives for reset: every global tumbler zero, the
host epoch 1 with the hinge up and hart 0 alone released, no retention entry, one region of all 24 groups, plan 0 holding
every region, the front end, the span and the trace off, VCOMP at its nominal setpoint, counters and the access-error
latch zero, and ID.STAGE at the mask ROM. Memory is in its canonical form. -/
def Obligations.ResetState : Prop :=
  let r := State.reset
  r.stage = .rom ∧ r.time.now = 0 ∧ r.time.reflost = false ∧ (∀ n, r.tum n = {}) ∧
  r.hinge.epoch = 1 ∧ r.hinge.up = true ∧ r.hinge.hartrun = 1 ∧ r.hinge.hartrunHi = 0 ∧ r.hinge.quiescing = false ∧
  r.hinge.waitEpoch = false ∧ (∀ n, NMap.findD 0 n r.hinge.rtBase = 0 ∧ NMap.findD 0 n r.hinge.rtLimit = 0) ∧
  NMap.findD 0 0 r.ms.staged = 0xFFFFFF ∧ (∀ i, i ≠ 0 → NMap.findD 0 i r.ms.staged = 0) ∧
  (∀ d, NMap.findD 0 d r.ms.shareways = 0) ∧ r.ms.hostplan = 0 ∧ (r.plan 0).valid = true ∧
  r.fe.en = false ∧ r.span.en = false ∧ r.span.state = .off ∧ r.dbg.tren = false ∧ r.dbg.elcount = 0 ∧
  r.power.vnow = 34 ∧ r.power.cap = 2800 ∧ r.power.op = 1 ∧ r.power.exc = false ∧ r.power.excno = 0 ∧
  (∀ d, r.domain d = .idle) ∧ (∀ i, NMap.findD {} i r.mcount = {}) ∧ r.accerr.valid = false ∧ r.sec.tokens = [] ∧
  r.pending = [] ∧ r.ms.mem.wf = true

/-- Log 40, the model's own form: equal memories are equal data. Whatever command a step takes, and on an empty queue too,
memory keeps its canonical form: addresses strictly rising, and no byte listed that an unlisted address would read as. -/
def Obligations.EveryStepKeepsMemoryCanonical : Prop :=
  ∀ (s t : State), s.ms.mem.wf = true → step s = .next t → t.ms.mem.wf = true
end

