-- ==== Sys2Proof/Laws/Map.lean ====
section
/-! SUPPORT. Laws of the sparse maps: what a key reads after each operation, and that every operation keeps the keys
rising. None of the reading laws asks for the canonical form. -/

namespace Sys2Proof

variable {α : Type}

@[simp] theorem NMap.find_nil (k : Nat) : NMap.find k ([] : NMap α) = none := rfl

theorem NMap.find_cons (k j : Nat) (v : α) (m : NMap α) :
    NMap.find k ((j, v) :: m) = if j = k then some v else NMap.find k m := rfl

@[simp] theorem NMap.find_ins_same (k : Nat) (v : α) (m : NMap α) : NMap.find k (NMap.ins k v m) = some v := by
  induction m with
  | nil => simp [NMap.ins, NMap.find]
  | cons c m ih =>
    obtain ⟨j, w⟩ := c
    simp only [NMap.ins]
    split
    · simp [NMap.find]
    · split
      · simp [NMap.find]
      · rename_i h; simp [NMap.find, Ne.symm h, ih]

@[simp] theorem NMap.find_ins_ne {k i : Nat} (h : i ≠ k) (v : α) (m : NMap α) :
    NMap.find i (NMap.ins k v m) = NMap.find i m := by
  induction m with
  | nil => simp [NMap.ins, NMap.find, Ne.symm h]
  | cons c m ih =>
    obtain ⟨j, w⟩ := c
    simp only [NMap.ins]
    split
    · simp [NMap.find, Ne.symm h]
    · split
      · rename_i _ e; subst e; simp [NMap.find, Ne.symm h]
      · simp [NMap.find, ih]

@[simp] theorem NMap.find_del_same (k : Nat) (m : NMap α) : NMap.find k (NMap.del k m) = none := by
  induction m with
  | nil => rfl
  | cons c m ih =>
    obtain ⟨j, w⟩ := c
    simp only [NMap.del]
    split
    · exact ih
    · rename_i h; simp [NMap.find, h, ih]

@[simp] theorem NMap.find_del_ne {k i : Nat} (h : i ≠ k) (m : NMap α) : NMap.find i (NMap.del k m) = NMap.find i m := by
  induction m with
  | nil => rfl
  | cons c m ih =>
    obtain ⟨j, w⟩ := c
    simp only [NMap.del]
    split
    · rename_i e; subst e; simp [NMap.find, Ne.symm h, ih]
    · simp [NMap.find, ih]

@[simp] theorem NMap.findD_ins_same (d : α) (k : Nat) (v : α) (m : NMap α) : NMap.findD d k (NMap.ins k v m) = v := by
  simp [NMap.findD]

@[simp] theorem NMap.findD_ins_ne {k i : Nat} (h : i ≠ k) (d v : α) (m : NMap α) :
    NMap.findD d i (NMap.ins k v m) = NMap.findD d i m := by
  simp [NMap.findD, h]

@[simp] theorem NMap.findD_put_same [DecidableEq α] (d : α) (k : Nat) (v : α) (m : NMap α) :
    NMap.findD d k (NMap.put d k v m) = v := by
  unfold NMap.put; split
  · rename_i e; simp [NMap.findD, e]
  · simp

@[simp] theorem NMap.findD_put_ne [DecidableEq α] {k i : Nat} (h : i ≠ k) (d e v : α) (m : NMap α) :
    NMap.findD e i (NMap.put d k v m) = NMap.findD e i m := by
  unfold NMap.put; split
  · simp [NMap.findD, h]
  · simp [h]

/-- A write through `put` changes the reading of its own key only. -/
theorem NMap.findD_put [DecidableEq α] (d : α) (i k : Nat) (v : α) (m : NMap α) :
    NMap.findD d i (NMap.put d k v m) = if i = k then v else NMap.findD d i m := by
  split
  · rename_i e; subst e; simp
  · rename_i h; simp [h]

@[simp] theorem NMap.find_modify_same (k : Nat) (f : α → α) (m : NMap α) :
    NMap.find k (NMap.modify k f m) = (NMap.find k m).map f := by
  unfold NMap.modify; split
  · rename_i v h; simp [h]
  · rename_i h; simp [h]

@[simp] theorem NMap.find_modify_ne {k i : Nat} (h : i ≠ k) (f : α → α) (m : NMap α) :
    NMap.find i (NMap.modify k f m) = NMap.find i m := by
  unfold NMap.modify; split <;> simp [h]

@[simp] theorem NMap.findD_upd_same (d : α) (k : Nat) (f : α → α) (m : NMap α) :
    NMap.findD d k (NMap.upd d k f m) = f (NMap.findD d k m) := by
  simp [NMap.upd]

@[simp] theorem NMap.findD_upd_ne {k i : Nat} (h : i ≠ k) (d : α) (f : α → α) (m : NMap α) :
    NMap.findD d i (NMap.upd d k f m) = NMap.findD d i m := by
  simp [NMap.upd, h]

/-- A second insertion at a key replaces the first. -/
@[simp] theorem NMap.ins_ins (k : Nat) (v w : α) (m : NMap α) : NMap.ins k v (NMap.ins k w m) = NMap.ins k v m := by
  induction m with
  | nil => simp [NMap.ins]
  | cons c m ih =>
    obtain ⟨j, u⟩ := c
    simp only [NMap.ins]
    split
    · simp [NMap.ins]
    · split
      · simp [NMap.ins]
      · rename_i h1 h2; simp [NMap.ins, h1, h2, ih]

/-! ### The canonical form -/

theorem NMap.risesFrom_mono {lo lo' : Nat} (h : lo' ≤ lo) (m : NMap α) (hm : NMap.risesFrom lo m = true) :
    NMap.risesFrom lo' m = true := by
  cases m with
  | nil => rfl
  | cons c m =>
    obtain ⟨j, w⟩ := c
    simp only [NMap.risesFrom, Bool.and_eq_true, decide_eq_true_eq] at *
    exact ⟨Nat.le_trans h hm.1, hm.2⟩

theorem NMap.risesFrom_ins {lo k : Nat} (h : lo ≤ k) (v : α) (m : NMap α) (hm : NMap.risesFrom lo m = true) :
    NMap.risesFrom lo (NMap.ins k v m) = true := by
  induction m generalizing lo with
  | nil => simp [NMap.ins, NMap.risesFrom, h]
  | cons c m ih =>
    obtain ⟨j, w⟩ := c
    simp only [NMap.risesFrom, Bool.and_eq_true, decide_eq_true_eq] at hm
    simp only [NMap.ins]
    split
    · rename_i hk
      simp only [NMap.risesFrom, Bool.and_eq_true, decide_eq_true_eq]
      exact ⟨h, hk, hm.2⟩
    · split
      · rename_i e; subst e
        simp only [NMap.risesFrom, Bool.and_eq_true, decide_eq_true_eq]
        exact ⟨h, hm.2⟩
      · rename_i h1 h2
        simp only [NMap.risesFrom, Bool.and_eq_true, decide_eq_true_eq]
        exact ⟨hm.1, ih (by omega) hm.2⟩

theorem NMap.risesFrom_del {lo : Nat} (k : Nat) (m : NMap α) (hm : NMap.risesFrom lo m = true) :
    NMap.risesFrom lo (NMap.del k m) = true := by
  induction m generalizing lo with
  | nil => rfl
  | cons c m ih =>
    obtain ⟨j, w⟩ := c
    simp only [NMap.risesFrom, Bool.and_eq_true, decide_eq_true_eq] at hm
    simp only [NMap.del]
    split
    · exact ih (NMap.risesFrom_mono (by omega) m hm.2)
    · simp only [NMap.risesFrom, Bool.and_eq_true, decide_eq_true_eq]
      exact ⟨hm.1, ih hm.2⟩

theorem NMap.risesFrom_filter {lo : Nat} (p : Nat × α → Bool) (m : NMap α) (hm : NMap.risesFrom lo m = true) :
    NMap.risesFrom lo (m.filter p) = true := by
  induction m generalizing lo with
  | nil => rfl
  | cons c m ih =>
    obtain ⟨j, w⟩ := c
    simp only [NMap.risesFrom, Bool.and_eq_true, decide_eq_true_eq] at hm
    by_cases hp : p (j, w) = true
    · rw [List.filter_cons_of_pos hp]
      simp only [NMap.risesFrom, Bool.and_eq_true, decide_eq_true_eq]
      exact ⟨hm.1, ih hm.2⟩
    · rw [List.filter_cons_of_neg hp]
      exact ih (NMap.risesFrom_mono (by omega) m hm.2)

@[simp] theorem NMap.wf_nil : NMap.wf ([] : NMap α) = true := rfl

theorem NMap.wf_ins (k : Nat) (v : α) (m : NMap α) (hm : NMap.wf m = true) : NMap.wf (NMap.ins k v m) = true :=
  NMap.risesFrom_ins (Nat.zero_le k) v m hm

theorem NMap.wf_del (k : Nat) (m : NMap α) (hm : NMap.wf m = true) : NMap.wf (NMap.del k m) = true :=
  NMap.risesFrom_del k m hm

theorem NMap.wf_put [DecidableEq α] (d : α) (k : Nat) (v : α) (m : NMap α) (hm : NMap.wf m = true) :
    NMap.wf (NMap.put d k v m) = true := by
  unfold NMap.put; split
  · exact NMap.wf_del k m hm
  · exact NMap.wf_ins k v m hm

theorem NMap.wf_filter (p : Nat × α → Bool) (m : NMap α) (hm : NMap.wf m = true) : NMap.wf (m.filter p) = true :=
  NMap.risesFrom_filter p m hm

/-- What `ins` lists: its own entry, and entries that were there. -/
theorem NMap.mem_ins {k : Nat} {v : α} {m : NMap α} {c : Nat × α} (h : c ∈ NMap.ins k v m) : c = (k, v) ∨ c ∈ m := by
  induction m with
  | nil => simpa [NMap.ins] using h
  | cons d m ih =>
    obtain ⟨j, w⟩ := d
    simp only [NMap.ins] at h
    split at h
    · simpa using h
    · split at h
      · simp at h; rcases h with h | h
        · exact .inl h
        · exact .inr (by simp [h])
      · simp at h; rcases h with h | h
        · exact .inr (by simp [h])
        · rcases ih h with e | e
          · exact .inl e
          · exact .inr (by simp [e])

/-- What `del` lists was there. -/
theorem NMap.mem_del {k : Nat} {m : NMap α} {c : Nat × α} (h : c ∈ NMap.del k m) : c ∈ m := by
  induction m with
  | nil => simp [NMap.del] at h
  | cons d m ih =>
    obtain ⟨j, w⟩ := d
    simp only [NMap.del] at h
    split at h
    · simp [ih h]
    · simp at h; rcases h with e | e
      · simp [e]
      · simp [ih e]

end Sys2Proof
end

