-- ==== Sys2Proof/Laws/Memory.lean ====
section
/-! SUPPORT. Laws of LPDDR5X contents: a read after a write, and that every memory operation keeps the canonical form. -/

namespace Sys2Proof.Machine

@[simp] theorem Mem.write_gen (m : Mem) (a : Nat) (b : Byte) : (m.write a b).gen = m.gen := rfl
@[simp] theorem Mem.write_boot (m : Mem) (a : Nat) (b : Byte) : (m.write a b).boot = m.boot := rfl
@[simp] theorem Mem.write_poison (m : Mem) (a : Nat) (b : Byte) : (m.write a b).poison = m.poison := rfl
@[simp] theorem Mem.write_unlisted (m : Mem) (a : Nat) (b : Byte) (i : Nat) :
    (m.write a b).unlisted i = m.unlisted i := rfl

/-- A byte written is read back; every other byte is left alone. -/
theorem Mem.read_write (m : Mem) (a i : Nat) (b : Byte) :
    (m.write a b).read i = if i = a then b else m.read i := by
  by_cases h : i = a
  · subst h; simp [Mem.read, Mem.write, Mem.unlisted]
  · rw [if_neg h, Mem.read, Mem.write_unlisted, Mem.write, NMap.findD_put_ne h, Mem.read]

/-- The canonical form in two parts. -/
theorem Mem.wf_iff (m : Mem) :
    m.wf = true ↔ NMap.wf m.cells = true ∧ ∀ c ∈ m.cells, c.2 ≠ m.unlisted c.1 := by
  simp [Mem.wf, Bool.and_eq_true, List.all_eq_true]

/-- A write of one byte keeps the canonical form. -/
theorem Mem.wf_write (m : Mem) (a : Nat) (b : Byte) (h : m.wf = true) : (m.write a b).wf = true := by
  rw [Mem.wf_iff] at *
  refine ⟨NMap.wf_put _ _ _ _ h.1, fun c hc => ?_⟩
  rw [Mem.write_unlisted]
  simp only [Mem.write, NMap.put] at hc
  split at hc
  · exact h.2 c (NMap.mem_del hc)
  · rename_i hne
    rcases NMap.mem_ins hc with e | e
    · subst e; exact hne
    · exact h.2 c e

/-- A write of a byte string keeps the canonical form. -/
theorem Mem.wf_writeN (bs : List Byte) (m : Mem) (a : Nat) (h : m.wf = true) : (m.writeN a bs).wf = true := by
  induction bs generalizing m a with
  | nil => exact h
  | cons b bs ih => exact ih _ _ (Mem.wf_write m a b h)

/-- A write of bytes at offsets keeps the canonical form. -/
theorem Mem.wf_writeAt (bs : NMap Byte) (m : Mem) (base : Nat) (h : m.wf = true) : (m.writeAt base bs).wf = true := by
  induction bs generalizing m with
  | nil => exact h
  | cons b bs ih => exact ih _ (Mem.wf_write m _ _ h)

/-- Setting or clearing a poison mark changes no byte and keeps the canonical form. -/
@[simp] theorem Mem.wf_setPoison (m : Mem) (line : Nat) (p : Bool) : (m.setPoison line p).wf = m.wf := by
  cases p <;> rfl

@[simp] theorem Mem.read_setPoison (m : Mem) (line : Nat) (p : Bool) (i : Nat) :
    (m.setPoison line p).read i = m.read i := by
  cases p <;> rfl

/-- A byte outside the offsets written reads as before. -/
theorem Mem.read_writeAt_ne (bs : NMap Byte) (m : Mem) (base i : Nat) (h : ∀ c ∈ bs, i ≠ base + c.1) :
    (m.writeAt base bs).read i = m.read i := by
  induction bs generalizing m with
  | nil => rfl
  | cons b bs ih =>
    obtain ⟨o, v⟩ := b
    simp only [Mem.writeAt]
    rw [ih _ (fun c hc => h c (by simp [hc])), Mem.read_write, if_neg (h (o, v) (by simp))]

@[simp] theorem State.killResv_mem (s : State) (p : Nat → Bool) (gr : Granule) : (s.killResv p gr).ms = s.ms := rfl
@[simp] theorem State.countModule_mem (s : State) (i n : Nat) : (s.countModule i n).ms = s.ms := rfl

/-- A write that reaches a controller keeps the canonical form, whether performed or dropped. -/
theorem State.memAccept_wf (s : State) (line : Nat) (bytes : NMap Byte) (poison : Bool) (tag : Nat)
    (h : s.ms.mem.wf = true) : (s.memAccept line bytes poison tag).ms.mem.wf = true := by
  have hw := Mem.wf_writeAt bytes s.ms.mem line h
  unfold State.memAccept
  split
  · simp only [State.killResv_mem]
    split
    · rw [Mem.wf_setPoison]; exact hw
    · split
      · rw [Mem.wf_setPoison]; exact hw
      · exact hw
  · exact h

/-- What a dropped write does: it is counted, and nothing else. -/
theorem State.memAccept_dropped (s : State) (line : Nat) (bytes : NMap Byte) (poison : Bool) (tag : Nat)
    (h : s.accepts tag line = false) : s.memAccept line bytes poison tag = s.countModule 8 1 := by
  simp [State.memAccept, h]

@[simp] theorem State.victimDone_ms (s : State) (v : Option (Nat × Nat)) : (s.victimDone v).ms = s.ms := by
  cases v with
  | none => rfl
  | some p => rfl

theorem foldl_keeps {σ β : Type} (P : σ → Prop) (f : σ → β → σ) (hf : ∀ s b, P s → P (f s b)) (l : List β) (s : σ)
    (h : P s) : P (l.foldl f s) := by
  induction l generalizing s with
  | nil => exact h
  | cons b l ih => exact ih _ (hf s b h)

/-- Writes under way that a controller accepts keep the canonical form. -/
theorem State.acceptSent_wf (s : State) (line : Nat) (h : s.ms.mem.wf = true) :
    (s.acceptSent line).ms.mem.wf = true := by
  unfold State.acceptSent
  exact foldl_keeps (fun st : State => st.ms.mem.wf = true) _
    (fun st w hw => by simpa using State.memAccept_wf st w.1.line w.1.bytes w.1.poison w.1.tag hw) _ _ h

/-- Dropping every copy of a line, a dirty one written first, keeps the canonical form. -/
theorem State.flushLine_wf (s : State) (line : Nat) (h : s.ms.mem.wf = true) :
    (s.flushLine line).ms.mem.wf = true := by
  unfold State.flushLine
  simp only []
  split
  · exact h
  · have h1 := State.acceptSent_wf (s.killResv (fun _ => true) (.line line)) line h
    split
    · exact State.memAccept_wf _ _ _ _ _ h1
    · exact State.memAccept_wf _ _ _ _ _ h1
    · exact h1

@[simp] theorem State.rereadTxn_ms (s : State) (line : Nat) : (s.rereadTxn line).ms = s.ms := by
  unfold State.rereadTxn; split
  · rfl
  · split <;> rfl

/-- A write of one line by an agent that does not cache keeps the canonical form. -/
theorem State.cohWriteLine_wf (s : State) (tag line : Nat) (bytes : NMap Byte) (h : s.ms.mem.wf = true) :
    (s.cohWriteLine tag line bytes).ms.mem.wf = true := by
  unfold State.cohWriteLine
  rw [State.rereadTxn_ms]
  exact State.memAccept_wf _ line bytes false tag (State.flushLine_wf _ line h)

/-- A write by an agent that does not cache keeps the canonical form. -/
theorem State.cohWrite_wf (s : State) (tag pa : Nat) (bytes : List Byte) (h : s.ms.mem.wf = true) :
    (s.cohWrite tag pa bytes).ms.mem.wf = true := by
  unfold State.cohWrite
  exact foldl_keeps (fun st : State => st.ms.mem.wf = true) _ (fun st lm hw => st.cohWriteLine_wf tag lm.1 lm.2 hw) _ _ h

theorem State.cohPut_wf (s : State) (tag pa n v : Nat) (h : s.ms.mem.wf = true) :
    (s.cohPut tag pa n v).ms.mem.wf = true := State.cohWrite_wf s tag pa _ h

/-- The memory of the state after reset is in canonical form. -/
theorem State.reset_mem_wf : State.reset.ms.mem.wf = true := rfl

end Sys2Proof.Machine
end

