-- ==== Sys2Proof/Laws/State.lean ====
section
/-! SUPPORT. One lemma per field per update of the state: what each named update leaves unchanged, and what it writes. -/

namespace Sys2Proof.Machine

/-! ### setCore -/

@[simp] theorem State.setCore_pending (s : State) (c : Nat) (k : Core) : (s.setCore c k).pending = s.pending := rfl
@[simp] theorem State.setCore_free (s : State) (c : Nat) (k : Core) : (s.setCore c k).free = s.free := rfl
@[simp] theorem State.setCore_time (s : State) (c : Nat) (k : Core) : (s.setCore c k).time = s.time := rfl
@[simp] theorem State.setCore_stage (s : State) (c : Nat) (k : Core) : (s.setCore c k).stage = s.stage := rfl
@[simp] theorem State.setCore_accerr (s : State) (c : Nat) (k : Core) : (s.setCore c k).accerr = s.accerr := rfl
@[simp] theorem State.setCore_tums (s : State) (c : Nat) (k : Core) : (s.setCore c k).tums = s.tums := rfl
@[simp] theorem State.setCore_tumq (s : State) (c : Nat) (k : Core) : (s.setCore c k).tumq = s.tumq := rfl
@[simp] theorem State.setCore_waiters (s : State) (c : Nat) (k : Core) : (s.setCore c k).waiters = s.waiters := rfl
@[simp] theorem State.setCore_hasps (s : State) (c : Nat) (k : Core) : (s.setCore c k).hasps = s.hasps := rfl
@[simp] theorem State.setCore_fe (s : State) (c : Nat) (k : Core) : (s.setCore c k).fe = s.fe := rfl
@[simp] theorem State.setCore_io (s : State) (c : Nat) (k : Core) : (s.setCore c k).io = s.io := rfl
@[simp] theorem State.setCore_ms (s : State) (c : Nat) (k : Core) : (s.setCore c k).ms = s.ms := rfl
@[simp] theorem State.setCore_coh (s : State) (c : Nat) (k : Core) : (s.setCore c k).coh = s.coh := rfl
@[simp] theorem State.setCore_hinge (s : State) (c : Nat) (k : Core) : (s.setCore c k).hinge = s.hinge := rfl
@[simp] theorem State.setCore_ports (s : State) (c : Nat) (k : Core) : (s.setCore c k).ports = s.ports := rfl
@[simp] theorem State.setCore_span (s : State) (c : Nat) (k : Core) : (s.setCore c k).span = s.span := rfl
@[simp] theorem State.setCore_outbox (s : State) (c : Nat) (k : Core) : (s.setCore c k).outbox = s.outbox := rfl
@[simp] theorem State.setCore_power (s : State) (c : Nat) (k : Core) : (s.setCore c k).power = s.power := rfl
@[simp] theorem State.setCore_sec (s : State) (c : Nat) (k : Core) : (s.setCore c k).sec = s.sec := rfl
@[simp] theorem State.setCore_dbg (s : State) (c : Nat) (k : Core) : (s.setCore c k).dbg = s.dbg := rfl
@[simp] theorem State.setCore_pins (s : State) (c : Nat) (k : Core) : (s.setCore c k).pins = s.pins := rfl
@[simp] theorem State.setCore_mcount (s : State) (c : Nat) (k : Core) : (s.setCore c k).mcount = s.mcount := rfl

/-! ### updCore -/

@[simp] theorem State.updCore_pending (s : State) (c : Nat) (f : Core → Core) : (s.updCore c f).pending = s.pending := rfl
@[simp] theorem State.updCore_free (s : State) (c : Nat) (f : Core → Core) : (s.updCore c f).free = s.free := rfl
@[simp] theorem State.updCore_time (s : State) (c : Nat) (f : Core → Core) : (s.updCore c f).time = s.time := rfl
@[simp] theorem State.updCore_stage (s : State) (c : Nat) (f : Core → Core) : (s.updCore c f).stage = s.stage := rfl
@[simp] theorem State.updCore_accerr (s : State) (c : Nat) (f : Core → Core) : (s.updCore c f).accerr = s.accerr := rfl
@[simp] theorem State.updCore_tums (s : State) (c : Nat) (f : Core → Core) : (s.updCore c f).tums = s.tums := rfl
@[simp] theorem State.updCore_tumq (s : State) (c : Nat) (f : Core → Core) : (s.updCore c f).tumq = s.tumq := rfl
@[simp] theorem State.updCore_waiters (s : State) (c : Nat) (f : Core → Core) : (s.updCore c f).waiters = s.waiters := rfl
@[simp] theorem State.updCore_hasps (s : State) (c : Nat) (f : Core → Core) : (s.updCore c f).hasps = s.hasps := rfl
@[simp] theorem State.updCore_fe (s : State) (c : Nat) (f : Core → Core) : (s.updCore c f).fe = s.fe := rfl
@[simp] theorem State.updCore_io (s : State) (c : Nat) (f : Core → Core) : (s.updCore c f).io = s.io := rfl
@[simp] theorem State.updCore_ms (s : State) (c : Nat) (f : Core → Core) : (s.updCore c f).ms = s.ms := rfl
@[simp] theorem State.updCore_coh (s : State) (c : Nat) (f : Core → Core) : (s.updCore c f).coh = s.coh := rfl
@[simp] theorem State.updCore_hinge (s : State) (c : Nat) (f : Core → Core) : (s.updCore c f).hinge = s.hinge := rfl
@[simp] theorem State.updCore_ports (s : State) (c : Nat) (f : Core → Core) : (s.updCore c f).ports = s.ports := rfl
@[simp] theorem State.updCore_span (s : State) (c : Nat) (f : Core → Core) : (s.updCore c f).span = s.span := rfl
@[simp] theorem State.updCore_outbox (s : State) (c : Nat) (f : Core → Core) : (s.updCore c f).outbox = s.outbox := rfl
@[simp] theorem State.updCore_power (s : State) (c : Nat) (f : Core → Core) : (s.updCore c f).power = s.power := rfl
@[simp] theorem State.updCore_sec (s : State) (c : Nat) (f : Core → Core) : (s.updCore c f).sec = s.sec := rfl
@[simp] theorem State.updCore_dbg (s : State) (c : Nat) (f : Core → Core) : (s.updCore c f).dbg = s.dbg := rfl
@[simp] theorem State.updCore_pins (s : State) (c : Nat) (f : Core → Core) : (s.updCore c f).pins = s.pins := rfl
@[simp] theorem State.updCore_mcount (s : State) (c : Nat) (f : Core → Core) : (s.updCore c f).mcount = s.mcount := rfl

/-! ### setGroup -/

@[simp] theorem State.setGroup_pending (s : State) (g : Site) (x : Group) : (s.setGroup g x).pending = s.pending := rfl
@[simp] theorem State.setGroup_free (s : State) (g : Site) (x : Group) : (s.setGroup g x).free = s.free := rfl
@[simp] theorem State.setGroup_time (s : State) (g : Site) (x : Group) : (s.setGroup g x).time = s.time := rfl
@[simp] theorem State.setGroup_stage (s : State) (g : Site) (x : Group) : (s.setGroup g x).stage = s.stage := rfl
@[simp] theorem State.setGroup_accerr (s : State) (g : Site) (x : Group) : (s.setGroup g x).accerr = s.accerr := rfl
@[simp] theorem State.setGroup_tums (s : State) (g : Site) (x : Group) : (s.setGroup g x).tums = s.tums := rfl
@[simp] theorem State.setGroup_tumq (s : State) (g : Site) (x : Group) : (s.setGroup g x).tumq = s.tumq := rfl
@[simp] theorem State.setGroup_waiters (s : State) (g : Site) (x : Group) : (s.setGroup g x).waiters = s.waiters := rfl
@[simp] theorem State.setGroup_hasps (s : State) (g : Site) (x : Group) : (s.setGroup g x).hasps = s.hasps := rfl
@[simp] theorem State.setGroup_fe (s : State) (g : Site) (x : Group) : (s.setGroup g x).fe = s.fe := rfl
@[simp] theorem State.setGroup_io (s : State) (g : Site) (x : Group) : (s.setGroup g x).io = s.io := rfl
@[simp] theorem State.setGroup_ms (s : State) (g : Site) (x : Group) : (s.setGroup g x).ms = s.ms := rfl
@[simp] theorem State.setGroup_coh (s : State) (g : Site) (x : Group) : (s.setGroup g x).coh = s.coh := rfl
@[simp] theorem State.setGroup_hinge (s : State) (g : Site) (x : Group) : (s.setGroup g x).hinge = s.hinge := rfl
@[simp] theorem State.setGroup_ports (s : State) (g : Site) (x : Group) : (s.setGroup g x).ports = s.ports := rfl
@[simp] theorem State.setGroup_span (s : State) (g : Site) (x : Group) : (s.setGroup g x).span = s.span := rfl
@[simp] theorem State.setGroup_outbox (s : State) (g : Site) (x : Group) : (s.setGroup g x).outbox = s.outbox := rfl
@[simp] theorem State.setGroup_power (s : State) (g : Site) (x : Group) : (s.setGroup g x).power = s.power := rfl
@[simp] theorem State.setGroup_sec (s : State) (g : Site) (x : Group) : (s.setGroup g x).sec = s.sec := rfl
@[simp] theorem State.setGroup_dbg (s : State) (g : Site) (x : Group) : (s.setGroup g x).dbg = s.dbg := rfl
@[simp] theorem State.setGroup_pins (s : State) (g : Site) (x : Group) : (s.setGroup g x).pins = s.pins := rfl
@[simp] theorem State.setGroup_mcount (s : State) (g : Site) (x : Group) : (s.setGroup g x).mcount = s.mcount := rfl

/-! ### updGroup -/

@[simp] theorem State.updGroup_pending (s : State) (g : Site) (f : Group → Group) : (s.updGroup g f).pending = s.pending := by unfold State.updGroup; split <;> rfl
@[simp] theorem State.updGroup_free (s : State) (g : Site) (f : Group → Group) : (s.updGroup g f).free = s.free := by unfold State.updGroup; split <;> rfl
@[simp] theorem State.updGroup_time (s : State) (g : Site) (f : Group → Group) : (s.updGroup g f).time = s.time := by unfold State.updGroup; split <;> rfl
@[simp] theorem State.updGroup_stage (s : State) (g : Site) (f : Group → Group) : (s.updGroup g f).stage = s.stage := by unfold State.updGroup; split <;> rfl
@[simp] theorem State.updGroup_accerr (s : State) (g : Site) (f : Group → Group) : (s.updGroup g f).accerr = s.accerr := by unfold State.updGroup; split <;> rfl
@[simp] theorem State.updGroup_tums (s : State) (g : Site) (f : Group → Group) : (s.updGroup g f).tums = s.tums := by unfold State.updGroup; split <;> rfl
@[simp] theorem State.updGroup_tumq (s : State) (g : Site) (f : Group → Group) : (s.updGroup g f).tumq = s.tumq := by unfold State.updGroup; split <;> rfl
@[simp] theorem State.updGroup_waiters (s : State) (g : Site) (f : Group → Group) : (s.updGroup g f).waiters = s.waiters := by unfold State.updGroup; split <;> rfl
@[simp] theorem State.updGroup_hasps (s : State) (g : Site) (f : Group → Group) : (s.updGroup g f).hasps = s.hasps := by unfold State.updGroup; split <;> rfl
@[simp] theorem State.updGroup_fe (s : State) (g : Site) (f : Group → Group) : (s.updGroup g f).fe = s.fe := by unfold State.updGroup; split <;> rfl
@[simp] theorem State.updGroup_io (s : State) (g : Site) (f : Group → Group) : (s.updGroup g f).io = s.io := by unfold State.updGroup; split <;> rfl
@[simp] theorem State.updGroup_ms (s : State) (g : Site) (f : Group → Group) : (s.updGroup g f).ms = s.ms := by unfold State.updGroup; split <;> rfl
@[simp] theorem State.updGroup_coh (s : State) (g : Site) (f : Group → Group) : (s.updGroup g f).coh = s.coh := by unfold State.updGroup; split <;> rfl
@[simp] theorem State.updGroup_hinge (s : State) (g : Site) (f : Group → Group) : (s.updGroup g f).hinge = s.hinge := by unfold State.updGroup; split <;> rfl
@[simp] theorem State.updGroup_ports (s : State) (g : Site) (f : Group → Group) : (s.updGroup g f).ports = s.ports := by unfold State.updGroup; split <;> rfl
@[simp] theorem State.updGroup_span (s : State) (g : Site) (f : Group → Group) : (s.updGroup g f).span = s.span := by unfold State.updGroup; split <;> rfl
@[simp] theorem State.updGroup_outbox (s : State) (g : Site) (f : Group → Group) : (s.updGroup g f).outbox = s.outbox := by unfold State.updGroup; split <;> rfl
@[simp] theorem State.updGroup_power (s : State) (g : Site) (f : Group → Group) : (s.updGroup g f).power = s.power := by unfold State.updGroup; split <;> rfl
@[simp] theorem State.updGroup_sec (s : State) (g : Site) (f : Group → Group) : (s.updGroup g f).sec = s.sec := by unfold State.updGroup; split <;> rfl
@[simp] theorem State.updGroup_dbg (s : State) (g : Site) (f : Group → Group) : (s.updGroup g f).dbg = s.dbg := by unfold State.updGroup; split <;> rfl
@[simp] theorem State.updGroup_pins (s : State) (g : Site) (f : Group → Group) : (s.updGroup g f).pins = s.pins := by unfold State.updGroup; split <;> rfl
@[simp] theorem State.updGroup_mcount (s : State) (g : Site) (f : Group → Group) : (s.updGroup g f).mcount = s.mcount := by unfold State.updGroup; split <;> rfl

/-! ### delGroup -/

@[simp] theorem State.delGroup_pending (s : State) (g : Site) : (s.delGroup g).pending = s.pending := rfl
@[simp] theorem State.delGroup_free (s : State) (g : Site) : (s.delGroup g).free = s.free := rfl
@[simp] theorem State.delGroup_time (s : State) (g : Site) : (s.delGroup g).time = s.time := rfl
@[simp] theorem State.delGroup_stage (s : State) (g : Site) : (s.delGroup g).stage = s.stage := rfl
@[simp] theorem State.delGroup_accerr (s : State) (g : Site) : (s.delGroup g).accerr = s.accerr := rfl
@[simp] theorem State.delGroup_tums (s : State) (g : Site) : (s.delGroup g).tums = s.tums := rfl
@[simp] theorem State.delGroup_tumq (s : State) (g : Site) : (s.delGroup g).tumq = s.tumq := rfl
@[simp] theorem State.delGroup_waiters (s : State) (g : Site) : (s.delGroup g).waiters = s.waiters := rfl
@[simp] theorem State.delGroup_hasps (s : State) (g : Site) : (s.delGroup g).hasps = s.hasps := rfl
@[simp] theorem State.delGroup_fe (s : State) (g : Site) : (s.delGroup g).fe = s.fe := rfl
@[simp] theorem State.delGroup_io (s : State) (g : Site) : (s.delGroup g).io = s.io := rfl
@[simp] theorem State.delGroup_ms (s : State) (g : Site) : (s.delGroup g).ms = s.ms := rfl
@[simp] theorem State.delGroup_coh (s : State) (g : Site) : (s.delGroup g).coh = s.coh := rfl
@[simp] theorem State.delGroup_hinge (s : State) (g : Site) : (s.delGroup g).hinge = s.hinge := rfl
@[simp] theorem State.delGroup_ports (s : State) (g : Site) : (s.delGroup g).ports = s.ports := rfl
@[simp] theorem State.delGroup_span (s : State) (g : Site) : (s.delGroup g).span = s.span := rfl
@[simp] theorem State.delGroup_outbox (s : State) (g : Site) : (s.delGroup g).outbox = s.outbox := rfl
@[simp] theorem State.delGroup_power (s : State) (g : Site) : (s.delGroup g).power = s.power := rfl
@[simp] theorem State.delGroup_sec (s : State) (g : Site) : (s.delGroup g).sec = s.sec := rfl
@[simp] theorem State.delGroup_dbg (s : State) (g : Site) : (s.delGroup g).dbg = s.dbg := rfl
@[simp] theorem State.delGroup_pins (s : State) (g : Site) : (s.delGroup g).pins = s.pins := rfl
@[simp] theorem State.delGroup_mcount (s : State) (g : Site) : (s.delGroup g).mcount = s.mcount := rfl

/-! ### updTile -/

@[simp] theorem State.updTile_pending (s : State) (c key : Nat) (f : Tile → Tile) : (s.updTile c key f).pending = s.pending := rfl
@[simp] theorem State.updTile_free (s : State) (c key : Nat) (f : Tile → Tile) : (s.updTile c key f).free = s.free := rfl
@[simp] theorem State.updTile_time (s : State) (c key : Nat) (f : Tile → Tile) : (s.updTile c key f).time = s.time := rfl
@[simp] theorem State.updTile_stage (s : State) (c key : Nat) (f : Tile → Tile) : (s.updTile c key f).stage = s.stage := rfl
@[simp] theorem State.updTile_accerr (s : State) (c key : Nat) (f : Tile → Tile) : (s.updTile c key f).accerr = s.accerr := rfl
@[simp] theorem State.updTile_tums (s : State) (c key : Nat) (f : Tile → Tile) : (s.updTile c key f).tums = s.tums := rfl
@[simp] theorem State.updTile_tumq (s : State) (c key : Nat) (f : Tile → Tile) : (s.updTile c key f).tumq = s.tumq := rfl
@[simp] theorem State.updTile_waiters (s : State) (c key : Nat) (f : Tile → Tile) : (s.updTile c key f).waiters = s.waiters := rfl
@[simp] theorem State.updTile_hasps (s : State) (c key : Nat) (f : Tile → Tile) : (s.updTile c key f).hasps = s.hasps := rfl
@[simp] theorem State.updTile_fe (s : State) (c key : Nat) (f : Tile → Tile) : (s.updTile c key f).fe = s.fe := rfl
@[simp] theorem State.updTile_io (s : State) (c key : Nat) (f : Tile → Tile) : (s.updTile c key f).io = s.io := rfl
@[simp] theorem State.updTile_ms (s : State) (c key : Nat) (f : Tile → Tile) : (s.updTile c key f).ms = s.ms := rfl
@[simp] theorem State.updTile_coh (s : State) (c key : Nat) (f : Tile → Tile) : (s.updTile c key f).coh = s.coh := rfl
@[simp] theorem State.updTile_hinge (s : State) (c key : Nat) (f : Tile → Tile) : (s.updTile c key f).hinge = s.hinge := rfl
@[simp] theorem State.updTile_ports (s : State) (c key : Nat) (f : Tile → Tile) : (s.updTile c key f).ports = s.ports := rfl
@[simp] theorem State.updTile_span (s : State) (c key : Nat) (f : Tile → Tile) : (s.updTile c key f).span = s.span := rfl
@[simp] theorem State.updTile_outbox (s : State) (c key : Nat) (f : Tile → Tile) : (s.updTile c key f).outbox = s.outbox := rfl
@[simp] theorem State.updTile_power (s : State) (c key : Nat) (f : Tile → Tile) : (s.updTile c key f).power = s.power := rfl
@[simp] theorem State.updTile_sec (s : State) (c key : Nat) (f : Tile → Tile) : (s.updTile c key f).sec = s.sec := rfl
@[simp] theorem State.updTile_dbg (s : State) (c key : Nat) (f : Tile → Tile) : (s.updTile c key f).dbg = s.dbg := rfl
@[simp] theorem State.updTile_pins (s : State) (c key : Nat) (f : Tile → Tile) : (s.updTile c key f).pins = s.pins := rfl
@[simp] theorem State.updTile_mcount (s : State) (c key : Nat) (f : Tile → Tile) : (s.updTile c key f).mcount = s.mcount := rfl

/-! ### updCtx -/

@[simp] theorem State.updCtx_pending (s : State) (n : Nat) (f : Ctx → Ctx) : (s.updCtx n f).pending = s.pending := rfl
@[simp] theorem State.updCtx_free (s : State) (n : Nat) (f : Ctx → Ctx) : (s.updCtx n f).free = s.free := rfl
@[simp] theorem State.updCtx_time (s : State) (n : Nat) (f : Ctx → Ctx) : (s.updCtx n f).time = s.time := rfl
@[simp] theorem State.updCtx_stage (s : State) (n : Nat) (f : Ctx → Ctx) : (s.updCtx n f).stage = s.stage := rfl
@[simp] theorem State.updCtx_accerr (s : State) (n : Nat) (f : Ctx → Ctx) : (s.updCtx n f).accerr = s.accerr := rfl
@[simp] theorem State.updCtx_cores (s : State) (n : Nat) (f : Ctx → Ctx) : (s.updCtx n f).cores = s.cores := rfl
@[simp] theorem State.updCtx_tums (s : State) (n : Nat) (f : Ctx → Ctx) : (s.updCtx n f).tums = s.tums := rfl
@[simp] theorem State.updCtx_tumq (s : State) (n : Nat) (f : Ctx → Ctx) : (s.updCtx n f).tumq = s.tumq := rfl
@[simp] theorem State.updCtx_waiters (s : State) (n : Nat) (f : Ctx → Ctx) : (s.updCtx n f).waiters = s.waiters := rfl
@[simp] theorem State.updCtx_hasps (s : State) (n : Nat) (f : Ctx → Ctx) : (s.updCtx n f).hasps = s.hasps := rfl
@[simp] theorem State.updCtx_io (s : State) (n : Nat) (f : Ctx → Ctx) : (s.updCtx n f).io = s.io := rfl
@[simp] theorem State.updCtx_ms (s : State) (n : Nat) (f : Ctx → Ctx) : (s.updCtx n f).ms = s.ms := rfl
@[simp] theorem State.updCtx_coh (s : State) (n : Nat) (f : Ctx → Ctx) : (s.updCtx n f).coh = s.coh := rfl
@[simp] theorem State.updCtx_hinge (s : State) (n : Nat) (f : Ctx → Ctx) : (s.updCtx n f).hinge = s.hinge := rfl
@[simp] theorem State.updCtx_ports (s : State) (n : Nat) (f : Ctx → Ctx) : (s.updCtx n f).ports = s.ports := rfl
@[simp] theorem State.updCtx_span (s : State) (n : Nat) (f : Ctx → Ctx) : (s.updCtx n f).span = s.span := rfl
@[simp] theorem State.updCtx_outbox (s : State) (n : Nat) (f : Ctx → Ctx) : (s.updCtx n f).outbox = s.outbox := rfl
@[simp] theorem State.updCtx_power (s : State) (n : Nat) (f : Ctx → Ctx) : (s.updCtx n f).power = s.power := rfl
@[simp] theorem State.updCtx_sec (s : State) (n : Nat) (f : Ctx → Ctx) : (s.updCtx n f).sec = s.sec := rfl
@[simp] theorem State.updCtx_dbg (s : State) (n : Nat) (f : Ctx → Ctx) : (s.updCtx n f).dbg = s.dbg := rfl
@[simp] theorem State.updCtx_pins (s : State) (n : Nat) (f : Ctx → Ctx) : (s.updCtx n f).pins = s.pins := rfl
@[simp] theorem State.updCtx_mcount (s : State) (n : Nat) (f : Ctx → Ctx) : (s.updCtx n f).mcount = s.mcount := rfl

/-! ### updLaunch -/

@[simp] theorem State.updLaunch_pending (s : State) (k : Nat) (f : Launch → Launch) : (s.updLaunch k f).pending = s.pending := rfl
@[simp] theorem State.updLaunch_free (s : State) (k : Nat) (f : Launch → Launch) : (s.updLaunch k f).free = s.free := rfl
@[simp] theorem State.updLaunch_time (s : State) (k : Nat) (f : Launch → Launch) : (s.updLaunch k f).time = s.time := rfl
@[simp] theorem State.updLaunch_stage (s : State) (k : Nat) (f : Launch → Launch) : (s.updLaunch k f).stage = s.stage := rfl
@[simp] theorem State.updLaunch_accerr (s : State) (k : Nat) (f : Launch → Launch) : (s.updLaunch k f).accerr = s.accerr := rfl
@[simp] theorem State.updLaunch_cores (s : State) (k : Nat) (f : Launch → Launch) : (s.updLaunch k f).cores = s.cores := rfl
@[simp] theorem State.updLaunch_tums (s : State) (k : Nat) (f : Launch → Launch) : (s.updLaunch k f).tums = s.tums := rfl
@[simp] theorem State.updLaunch_tumq (s : State) (k : Nat) (f : Launch → Launch) : (s.updLaunch k f).tumq = s.tumq := rfl
@[simp] theorem State.updLaunch_waiters (s : State) (k : Nat) (f : Launch → Launch) : (s.updLaunch k f).waiters = s.waiters := rfl
@[simp] theorem State.updLaunch_hasps (s : State) (k : Nat) (f : Launch → Launch) : (s.updLaunch k f).hasps = s.hasps := rfl
@[simp] theorem State.updLaunch_io (s : State) (k : Nat) (f : Launch → Launch) : (s.updLaunch k f).io = s.io := rfl
@[simp] theorem State.updLaunch_ms (s : State) (k : Nat) (f : Launch → Launch) : (s.updLaunch k f).ms = s.ms := rfl
@[simp] theorem State.updLaunch_coh (s : State) (k : Nat) (f : Launch → Launch) : (s.updLaunch k f).coh = s.coh := rfl
@[simp] theorem State.updLaunch_hinge (s : State) (k : Nat) (f : Launch → Launch) : (s.updLaunch k f).hinge = s.hinge := rfl
@[simp] theorem State.updLaunch_ports (s : State) (k : Nat) (f : Launch → Launch) : (s.updLaunch k f).ports = s.ports := rfl
@[simp] theorem State.updLaunch_span (s : State) (k : Nat) (f : Launch → Launch) : (s.updLaunch k f).span = s.span := rfl
@[simp] theorem State.updLaunch_outbox (s : State) (k : Nat) (f : Launch → Launch) : (s.updLaunch k f).outbox = s.outbox := rfl
@[simp] theorem State.updLaunch_power (s : State) (k : Nat) (f : Launch → Launch) : (s.updLaunch k f).power = s.power := rfl
@[simp] theorem State.updLaunch_sec (s : State) (k : Nat) (f : Launch → Launch) : (s.updLaunch k f).sec = s.sec := rfl
@[simp] theorem State.updLaunch_dbg (s : State) (k : Nat) (f : Launch → Launch) : (s.updLaunch k f).dbg = s.dbg := rfl
@[simp] theorem State.updLaunch_pins (s : State) (k : Nat) (f : Launch → Launch) : (s.updLaunch k f).pins = s.pins := rfl
@[simp] theorem State.updLaunch_mcount (s : State) (k : Nat) (f : Launch → Launch) : (s.updLaunch k f).mcount = s.mcount := rfl

/-! ### updRing -/

@[simp] theorem State.updRing_pending (s : State) (id : RingId) (f : Ring → Ring) : (s.updRing id f).pending = s.pending := by cases id <;> rfl
@[simp] theorem State.updRing_free (s : State) (id : RingId) (f : Ring → Ring) : (s.updRing id f).free = s.free := by cases id <;> rfl
@[simp] theorem State.updRing_time (s : State) (id : RingId) (f : Ring → Ring) : (s.updRing id f).time = s.time := by cases id <;> rfl
@[simp] theorem State.updRing_stage (s : State) (id : RingId) (f : Ring → Ring) : (s.updRing id f).stage = s.stage := by cases id <;> rfl
@[simp] theorem State.updRing_accerr (s : State) (id : RingId) (f : Ring → Ring) : (s.updRing id f).accerr = s.accerr := by cases id <;> rfl
@[simp] theorem State.updRing_cores (s : State) (id : RingId) (f : Ring → Ring) : (s.updRing id f).cores = s.cores := by cases id <;> rfl
@[simp] theorem State.updRing_tums (s : State) (id : RingId) (f : Ring → Ring) : (s.updRing id f).tums = s.tums := by cases id <;> rfl
@[simp] theorem State.updRing_tumq (s : State) (id : RingId) (f : Ring → Ring) : (s.updRing id f).tumq = s.tumq := by cases id <;> rfl
@[simp] theorem State.updRing_waiters (s : State) (id : RingId) (f : Ring → Ring) : (s.updRing id f).waiters = s.waiters := by cases id <;> rfl
@[simp] theorem State.updRing_hasps (s : State) (id : RingId) (f : Ring → Ring) : (s.updRing id f).hasps = s.hasps := by cases id <;> rfl
@[simp] theorem State.updRing_io (s : State) (id : RingId) (f : Ring → Ring) : (s.updRing id f).io = s.io := by cases id <;> rfl
@[simp] theorem State.updRing_ms (s : State) (id : RingId) (f : Ring → Ring) : (s.updRing id f).ms = s.ms := by cases id <;> rfl
@[simp] theorem State.updRing_coh (s : State) (id : RingId) (f : Ring → Ring) : (s.updRing id f).coh = s.coh := by cases id <;> rfl
@[simp] theorem State.updRing_hinge (s : State) (id : RingId) (f : Ring → Ring) : (s.updRing id f).hinge = s.hinge := by cases id <;> rfl
@[simp] theorem State.updRing_ports (s : State) (id : RingId) (f : Ring → Ring) : (s.updRing id f).ports = s.ports := by cases id <;> rfl
@[simp] theorem State.updRing_span (s : State) (id : RingId) (f : Ring → Ring) : (s.updRing id f).span = s.span := by cases id <;> rfl
@[simp] theorem State.updRing_outbox (s : State) (id : RingId) (f : Ring → Ring) : (s.updRing id f).outbox = s.outbox := by cases id <;> rfl
@[simp] theorem State.updRing_power (s : State) (id : RingId) (f : Ring → Ring) : (s.updRing id f).power = s.power := by cases id <;> rfl
@[simp] theorem State.updRing_sec (s : State) (id : RingId) (f : Ring → Ring) : (s.updRing id f).sec = s.sec := by cases id <;> rfl
@[simp] theorem State.updRing_dbg (s : State) (id : RingId) (f : Ring → Ring) : (s.updRing id f).dbg = s.dbg := by cases id <;> rfl
@[simp] theorem State.updRing_pins (s : State) (id : RingId) (f : Ring → Ring) : (s.updRing id f).pins = s.pins := by cases id <;> rfl
@[simp] theorem State.updRing_mcount (s : State) (id : RingId) (f : Ring → Ring) : (s.updRing id f).mcount = s.mcount := by cases id <;> rfl

/-! ### setTum -/

@[simp] theorem State.setTum_pending (s : State) (n : Nat) (t : Tumbler) : (s.setTum n t).pending = s.pending := rfl
@[simp] theorem State.setTum_free (s : State) (n : Nat) (t : Tumbler) : (s.setTum n t).free = s.free := rfl
@[simp] theorem State.setTum_time (s : State) (n : Nat) (t : Tumbler) : (s.setTum n t).time = s.time := rfl
@[simp] theorem State.setTum_stage (s : State) (n : Nat) (t : Tumbler) : (s.setTum n t).stage = s.stage := rfl
@[simp] theorem State.setTum_accerr (s : State) (n : Nat) (t : Tumbler) : (s.setTum n t).accerr = s.accerr := rfl
@[simp] theorem State.setTum_cores (s : State) (n : Nat) (t : Tumbler) : (s.setTum n t).cores = s.cores := rfl
@[simp] theorem State.setTum_tumq (s : State) (n : Nat) (t : Tumbler) : (s.setTum n t).tumq = s.tumq := rfl
@[simp] theorem State.setTum_waiters (s : State) (n : Nat) (t : Tumbler) : (s.setTum n t).waiters = s.waiters := rfl
@[simp] theorem State.setTum_hasps (s : State) (n : Nat) (t : Tumbler) : (s.setTum n t).hasps = s.hasps := rfl
@[simp] theorem State.setTum_fe (s : State) (n : Nat) (t : Tumbler) : (s.setTum n t).fe = s.fe := rfl
@[simp] theorem State.setTum_io (s : State) (n : Nat) (t : Tumbler) : (s.setTum n t).io = s.io := rfl
@[simp] theorem State.setTum_ms (s : State) (n : Nat) (t : Tumbler) : (s.setTum n t).ms = s.ms := rfl
@[simp] theorem State.setTum_coh (s : State) (n : Nat) (t : Tumbler) : (s.setTum n t).coh = s.coh := rfl
@[simp] theorem State.setTum_hinge (s : State) (n : Nat) (t : Tumbler) : (s.setTum n t).hinge = s.hinge := rfl
@[simp] theorem State.setTum_ports (s : State) (n : Nat) (t : Tumbler) : (s.setTum n t).ports = s.ports := rfl
@[simp] theorem State.setTum_span (s : State) (n : Nat) (t : Tumbler) : (s.setTum n t).span = s.span := rfl
@[simp] theorem State.setTum_outbox (s : State) (n : Nat) (t : Tumbler) : (s.setTum n t).outbox = s.outbox := rfl
@[simp] theorem State.setTum_power (s : State) (n : Nat) (t : Tumbler) : (s.setTum n t).power = s.power := rfl
@[simp] theorem State.setTum_sec (s : State) (n : Nat) (t : Tumbler) : (s.setTum n t).sec = s.sec := rfl
@[simp] theorem State.setTum_dbg (s : State) (n : Nat) (t : Tumbler) : (s.setTum n t).dbg = s.dbg := rfl
@[simp] theorem State.setTum_pins (s : State) (n : Nat) (t : Tumbler) : (s.setTum n t).pins = s.pins := rfl
@[simp] theorem State.setTum_mcount (s : State) (n : Nat) (t : Tumbler) : (s.setTum n t).mcount = s.mcount := rfl

/-! ### draw -/

@[simp] theorem State.draw_pending (s : State) : s.draw.2.pending = s.pending := rfl
@[simp] theorem State.draw_time (s : State) : s.draw.2.time = s.time := rfl
@[simp] theorem State.draw_stage (s : State) : s.draw.2.stage = s.stage := rfl
@[simp] theorem State.draw_accerr (s : State) : s.draw.2.accerr = s.accerr := rfl
@[simp] theorem State.draw_cores (s : State) : s.draw.2.cores = s.cores := rfl
@[simp] theorem State.draw_tums (s : State) : s.draw.2.tums = s.tums := rfl
@[simp] theorem State.draw_tumq (s : State) : s.draw.2.tumq = s.tumq := rfl
@[simp] theorem State.draw_waiters (s : State) : s.draw.2.waiters = s.waiters := rfl
@[simp] theorem State.draw_hasps (s : State) : s.draw.2.hasps = s.hasps := rfl
@[simp] theorem State.draw_fe (s : State) : s.draw.2.fe = s.fe := rfl
@[simp] theorem State.draw_io (s : State) : s.draw.2.io = s.io := rfl
@[simp] theorem State.draw_ms (s : State) : s.draw.2.ms = s.ms := rfl
@[simp] theorem State.draw_coh (s : State) : s.draw.2.coh = s.coh := rfl
@[simp] theorem State.draw_hinge (s : State) : s.draw.2.hinge = s.hinge := rfl
@[simp] theorem State.draw_ports (s : State) : s.draw.2.ports = s.ports := rfl
@[simp] theorem State.draw_span (s : State) : s.draw.2.span = s.span := rfl
@[simp] theorem State.draw_outbox (s : State) : s.draw.2.outbox = s.outbox := rfl
@[simp] theorem State.draw_power (s : State) : s.draw.2.power = s.power := rfl
@[simp] theorem State.draw_sec (s : State) : s.draw.2.sec = s.sec := rfl
@[simp] theorem State.draw_dbg (s : State) : s.draw.2.dbg = s.dbg := rfl
@[simp] theorem State.draw_pins (s : State) : s.draw.2.pins = s.pins := rfl
@[simp] theorem State.draw_mcount (s : State) : s.draw.2.mcount = s.mcount := rfl

/-! ### setCache -/

@[simp] theorem State.setCache_pending (s : State) (stop : Nat) (m : NMap CLine) : (s.setCache stop m).pending = s.pending := rfl
@[simp] theorem State.setCache_free (s : State) (stop : Nat) (m : NMap CLine) : (s.setCache stop m).free = s.free := rfl
@[simp] theorem State.setCache_time (s : State) (stop : Nat) (m : NMap CLine) : (s.setCache stop m).time = s.time := rfl
@[simp] theorem State.setCache_stage (s : State) (stop : Nat) (m : NMap CLine) : (s.setCache stop m).stage = s.stage := rfl
@[simp] theorem State.setCache_accerr (s : State) (stop : Nat) (m : NMap CLine) : (s.setCache stop m).accerr = s.accerr := rfl
@[simp] theorem State.setCache_cores (s : State) (stop : Nat) (m : NMap CLine) : (s.setCache stop m).cores = s.cores := rfl
@[simp] theorem State.setCache_tums (s : State) (stop : Nat) (m : NMap CLine) : (s.setCache stop m).tums = s.tums := rfl
@[simp] theorem State.setCache_tumq (s : State) (stop : Nat) (m : NMap CLine) : (s.setCache stop m).tumq = s.tumq := rfl
@[simp] theorem State.setCache_waiters (s : State) (stop : Nat) (m : NMap CLine) : (s.setCache stop m).waiters = s.waiters := rfl
@[simp] theorem State.setCache_hasps (s : State) (stop : Nat) (m : NMap CLine) : (s.setCache stop m).hasps = s.hasps := rfl
@[simp] theorem State.setCache_fe (s : State) (stop : Nat) (m : NMap CLine) : (s.setCache stop m).fe = s.fe := rfl
@[simp] theorem State.setCache_io (s : State) (stop : Nat) (m : NMap CLine) : (s.setCache stop m).io = s.io := rfl
@[simp] theorem State.setCache_ms (s : State) (stop : Nat) (m : NMap CLine) : (s.setCache stop m).ms = s.ms := rfl
@[simp] theorem State.setCache_hinge (s : State) (stop : Nat) (m : NMap CLine) : (s.setCache stop m).hinge = s.hinge := rfl
@[simp] theorem State.setCache_ports (s : State) (stop : Nat) (m : NMap CLine) : (s.setCache stop m).ports = s.ports := rfl
@[simp] theorem State.setCache_span (s : State) (stop : Nat) (m : NMap CLine) : (s.setCache stop m).span = s.span := rfl
@[simp] theorem State.setCache_outbox (s : State) (stop : Nat) (m : NMap CLine) : (s.setCache stop m).outbox = s.outbox := rfl
@[simp] theorem State.setCache_power (s : State) (stop : Nat) (m : NMap CLine) : (s.setCache stop m).power = s.power := rfl
@[simp] theorem State.setCache_sec (s : State) (stop : Nat) (m : NMap CLine) : (s.setCache stop m).sec = s.sec := rfl
@[simp] theorem State.setCache_dbg (s : State) (stop : Nat) (m : NMap CLine) : (s.setCache stop m).dbg = s.dbg := rfl
@[simp] theorem State.setCache_pins (s : State) (stop : Nat) (m : NMap CLine) : (s.setCache stop m).pins = s.pins := rfl
@[simp] theorem State.setCache_mcount (s : State) (stop : Nat) (m : NMap CLine) : (s.setCache stop m).mcount = s.mcount := rfl

/-! ### updPort -/

@[simp] theorem State.updPort_pending (s : State) (p : Nat) (f : Port → Port) : (s.updPort p f).pending = s.pending := rfl
@[simp] theorem State.updPort_free (s : State) (p : Nat) (f : Port → Port) : (s.updPort p f).free = s.free := rfl
@[simp] theorem State.updPort_time (s : State) (p : Nat) (f : Port → Port) : (s.updPort p f).time = s.time := rfl
@[simp] theorem State.updPort_stage (s : State) (p : Nat) (f : Port → Port) : (s.updPort p f).stage = s.stage := rfl
@[simp] theorem State.updPort_accerr (s : State) (p : Nat) (f : Port → Port) : (s.updPort p f).accerr = s.accerr := rfl
@[simp] theorem State.updPort_cores (s : State) (p : Nat) (f : Port → Port) : (s.updPort p f).cores = s.cores := rfl
@[simp] theorem State.updPort_tums (s : State) (p : Nat) (f : Port → Port) : (s.updPort p f).tums = s.tums := rfl
@[simp] theorem State.updPort_tumq (s : State) (p : Nat) (f : Port → Port) : (s.updPort p f).tumq = s.tumq := rfl
@[simp] theorem State.updPort_waiters (s : State) (p : Nat) (f : Port → Port) : (s.updPort p f).waiters = s.waiters := rfl
@[simp] theorem State.updPort_hasps (s : State) (p : Nat) (f : Port → Port) : (s.updPort p f).hasps = s.hasps := rfl
@[simp] theorem State.updPort_fe (s : State) (p : Nat) (f : Port → Port) : (s.updPort p f).fe = s.fe := rfl
@[simp] theorem State.updPort_io (s : State) (p : Nat) (f : Port → Port) : (s.updPort p f).io = s.io := rfl
@[simp] theorem State.updPort_ms (s : State) (p : Nat) (f : Port → Port) : (s.updPort p f).ms = s.ms := rfl
@[simp] theorem State.updPort_coh (s : State) (p : Nat) (f : Port → Port) : (s.updPort p f).coh = s.coh := rfl
@[simp] theorem State.updPort_hinge (s : State) (p : Nat) (f : Port → Port) : (s.updPort p f).hinge = s.hinge := rfl
@[simp] theorem State.updPort_span (s : State) (p : Nat) (f : Port → Port) : (s.updPort p f).span = s.span := rfl
@[simp] theorem State.updPort_outbox (s : State) (p : Nat) (f : Port → Port) : (s.updPort p f).outbox = s.outbox := rfl
@[simp] theorem State.updPort_power (s : State) (p : Nat) (f : Port → Port) : (s.updPort p f).power = s.power := rfl
@[simp] theorem State.updPort_sec (s : State) (p : Nat) (f : Port → Port) : (s.updPort p f).sec = s.sec := rfl
@[simp] theorem State.updPort_dbg (s : State) (p : Nat) (f : Port → Port) : (s.updPort p f).dbg = s.dbg := rfl
@[simp] theorem State.updPort_pins (s : State) (p : Nat) (f : Port → Port) : (s.updPort p f).pins = s.pins := rfl
@[simp] theorem State.updPort_mcount (s : State) (p : Nat) (f : Port → Port) : (s.updPort p f).mcount = s.mcount := rfl

/-! ### newTx -/

@[simp] theorem State.newTx_pending (s : State) (peer : Nat) : (s.newTx peer).2.pending = s.pending := rfl
@[simp] theorem State.newTx_free (s : State) (peer : Nat) : (s.newTx peer).2.free = s.free := rfl
@[simp] theorem State.newTx_time (s : State) (peer : Nat) : (s.newTx peer).2.time = s.time := rfl
@[simp] theorem State.newTx_stage (s : State) (peer : Nat) : (s.newTx peer).2.stage = s.stage := rfl
@[simp] theorem State.newTx_accerr (s : State) (peer : Nat) : (s.newTx peer).2.accerr = s.accerr := rfl
@[simp] theorem State.newTx_cores (s : State) (peer : Nat) : (s.newTx peer).2.cores = s.cores := rfl
@[simp] theorem State.newTx_tums (s : State) (peer : Nat) : (s.newTx peer).2.tums = s.tums := rfl
@[simp] theorem State.newTx_tumq (s : State) (peer : Nat) : (s.newTx peer).2.tumq = s.tumq := rfl
@[simp] theorem State.newTx_waiters (s : State) (peer : Nat) : (s.newTx peer).2.waiters = s.waiters := rfl
@[simp] theorem State.newTx_hasps (s : State) (peer : Nat) : (s.newTx peer).2.hasps = s.hasps := rfl
@[simp] theorem State.newTx_fe (s : State) (peer : Nat) : (s.newTx peer).2.fe = s.fe := rfl
@[simp] theorem State.newTx_io (s : State) (peer : Nat) : (s.newTx peer).2.io = s.io := rfl
@[simp] theorem State.newTx_ms (s : State) (peer : Nat) : (s.newTx peer).2.ms = s.ms := rfl
@[simp] theorem State.newTx_coh (s : State) (peer : Nat) : (s.newTx peer).2.coh = s.coh := rfl
@[simp] theorem State.newTx_hinge (s : State) (peer : Nat) : (s.newTx peer).2.hinge = s.hinge := rfl
@[simp] theorem State.newTx_ports (s : State) (peer : Nat) : (s.newTx peer).2.ports = s.ports := rfl
@[simp] theorem State.newTx_outbox (s : State) (peer : Nat) : (s.newTx peer).2.outbox = s.outbox := rfl
@[simp] theorem State.newTx_power (s : State) (peer : Nat) : (s.newTx peer).2.power = s.power := rfl
@[simp] theorem State.newTx_sec (s : State) (peer : Nat) : (s.newTx peer).2.sec = s.sec := rfl
@[simp] theorem State.newTx_dbg (s : State) (peer : Nat) : (s.newTx peer).2.dbg = s.dbg := rfl
@[simp] theorem State.newTx_pins (s : State) (peer : Nat) : (s.newTx peer).2.pins = s.pins := rfl
@[simp] theorem State.newTx_mcount (s : State) (peer : Nat) : (s.newTx peer).2.mcount = s.mcount := rfl

/-! ### endTx -/

@[simp] theorem State.endTx_pending (s : State) (txid peer : Nat) : (s.endTx txid peer).pending = s.pending := rfl
@[simp] theorem State.endTx_free (s : State) (txid peer : Nat) : (s.endTx txid peer).free = s.free := rfl
@[simp] theorem State.endTx_time (s : State) (txid peer : Nat) : (s.endTx txid peer).time = s.time := rfl
@[simp] theorem State.endTx_stage (s : State) (txid peer : Nat) : (s.endTx txid peer).stage = s.stage := rfl
@[simp] theorem State.endTx_accerr (s : State) (txid peer : Nat) : (s.endTx txid peer).accerr = s.accerr := rfl
@[simp] theorem State.endTx_cores (s : State) (txid peer : Nat) : (s.endTx txid peer).cores = s.cores := rfl
@[simp] theorem State.endTx_tums (s : State) (txid peer : Nat) : (s.endTx txid peer).tums = s.tums := rfl
@[simp] theorem State.endTx_tumq (s : State) (txid peer : Nat) : (s.endTx txid peer).tumq = s.tumq := rfl
@[simp] theorem State.endTx_waiters (s : State) (txid peer : Nat) : (s.endTx txid peer).waiters = s.waiters := rfl
@[simp] theorem State.endTx_hasps (s : State) (txid peer : Nat) : (s.endTx txid peer).hasps = s.hasps := rfl
@[simp] theorem State.endTx_fe (s : State) (txid peer : Nat) : (s.endTx txid peer).fe = s.fe := rfl
@[simp] theorem State.endTx_io (s : State) (txid peer : Nat) : (s.endTx txid peer).io = s.io := rfl
@[simp] theorem State.endTx_ms (s : State) (txid peer : Nat) : (s.endTx txid peer).ms = s.ms := rfl
@[simp] theorem State.endTx_coh (s : State) (txid peer : Nat) : (s.endTx txid peer).coh = s.coh := rfl
@[simp] theorem State.endTx_hinge (s : State) (txid peer : Nat) : (s.endTx txid peer).hinge = s.hinge := rfl
@[simp] theorem State.endTx_ports (s : State) (txid peer : Nat) : (s.endTx txid peer).ports = s.ports := rfl
@[simp] theorem State.endTx_outbox (s : State) (txid peer : Nat) : (s.endTx txid peer).outbox = s.outbox := rfl
@[simp] theorem State.endTx_power (s : State) (txid peer : Nat) : (s.endTx txid peer).power = s.power := rfl
@[simp] theorem State.endTx_sec (s : State) (txid peer : Nat) : (s.endTx txid peer).sec = s.sec := rfl
@[simp] theorem State.endTx_dbg (s : State) (txid peer : Nat) : (s.endTx txid peer).dbg = s.dbg := rfl
@[simp] theorem State.endTx_pins (s : State) (txid peer : Nat) : (s.endTx txid peer).pins = s.pins := rfl
@[simp] theorem State.endTx_mcount (s : State) (txid peer : Nat) : (s.endTx txid peer).mcount = s.mcount := rfl

/-! ### updHart -/

@[simp] theorem State.updHart_pending (s : State) (h : Nat) (f : Hart → Hart) : (s.updHart h f).pending = s.pending := rfl
@[simp] theorem State.updHart_free (s : State) (h : Nat) (f : Hart → Hart) : (s.updHart h f).free = s.free := rfl
@[simp] theorem State.updHart_time (s : State) (h : Nat) (f : Hart → Hart) : (s.updHart h f).time = s.time := rfl
@[simp] theorem State.updHart_stage (s : State) (h : Nat) (f : Hart → Hart) : (s.updHart h f).stage = s.stage := rfl
@[simp] theorem State.updHart_accerr (s : State) (h : Nat) (f : Hart → Hart) : (s.updHart h f).accerr = s.accerr := rfl
@[simp] theorem State.updHart_cores (s : State) (h : Nat) (f : Hart → Hart) : (s.updHart h f).cores = s.cores := rfl
@[simp] theorem State.updHart_tums (s : State) (h : Nat) (f : Hart → Hart) : (s.updHart h f).tums = s.tums := rfl
@[simp] theorem State.updHart_tumq (s : State) (h : Nat) (f : Hart → Hart) : (s.updHart h f).tumq = s.tumq := rfl
@[simp] theorem State.updHart_waiters (s : State) (h : Nat) (f : Hart → Hart) : (s.updHart h f).waiters = s.waiters := rfl
@[simp] theorem State.updHart_hasps (s : State) (h : Nat) (f : Hart → Hart) : (s.updHart h f).hasps = s.hasps := rfl
@[simp] theorem State.updHart_fe (s : State) (h : Nat) (f : Hart → Hart) : (s.updHart h f).fe = s.fe := rfl
@[simp] theorem State.updHart_io (s : State) (h : Nat) (f : Hart → Hart) : (s.updHart h f).io = s.io := rfl
@[simp] theorem State.updHart_ms (s : State) (h : Nat) (f : Hart → Hart) : (s.updHart h f).ms = s.ms := rfl
@[simp] theorem State.updHart_coh (s : State) (h : Nat) (f : Hart → Hart) : (s.updHart h f).coh = s.coh := rfl
@[simp] theorem State.updHart_ports (s : State) (h : Nat) (f : Hart → Hart) : (s.updHart h f).ports = s.ports := rfl
@[simp] theorem State.updHart_span (s : State) (h : Nat) (f : Hart → Hart) : (s.updHart h f).span = s.span := rfl
@[simp] theorem State.updHart_outbox (s : State) (h : Nat) (f : Hart → Hart) : (s.updHart h f).outbox = s.outbox := rfl
@[simp] theorem State.updHart_power (s : State) (h : Nat) (f : Hart → Hart) : (s.updHart h f).power = s.power := rfl
@[simp] theorem State.updHart_sec (s : State) (h : Nat) (f : Hart → Hart) : (s.updHart h f).sec = s.sec := rfl
@[simp] theorem State.updHart_dbg (s : State) (h : Nat) (f : Hart → Hart) : (s.updHart h f).dbg = s.dbg := rfl
@[simp] theorem State.updHart_pins (s : State) (h : Nat) (f : Hart → Hart) : (s.updHart h f).pins = s.pins := rfl
@[simp] theorem State.updHart_mcount (s : State) (h : Nat) (f : Hart → Hart) : (s.updHart h f).mcount = s.mcount := rfl

/-! ### updRport -/

@[simp] theorem State.updRport_pending (s : State) (p : Nat) (f : RootPort → RootPort) : (s.updRport p f).pending = s.pending := rfl
@[simp] theorem State.updRport_free (s : State) (p : Nat) (f : RootPort → RootPort) : (s.updRport p f).free = s.free := rfl
@[simp] theorem State.updRport_time (s : State) (p : Nat) (f : RootPort → RootPort) : (s.updRport p f).time = s.time := rfl
@[simp] theorem State.updRport_stage (s : State) (p : Nat) (f : RootPort → RootPort) : (s.updRport p f).stage = s.stage := rfl
@[simp] theorem State.updRport_accerr (s : State) (p : Nat) (f : RootPort → RootPort) : (s.updRport p f).accerr = s.accerr := rfl
@[simp] theorem State.updRport_cores (s : State) (p : Nat) (f : RootPort → RootPort) : (s.updRport p f).cores = s.cores := rfl
@[simp] theorem State.updRport_tums (s : State) (p : Nat) (f : RootPort → RootPort) : (s.updRport p f).tums = s.tums := rfl
@[simp] theorem State.updRport_tumq (s : State) (p : Nat) (f : RootPort → RootPort) : (s.updRport p f).tumq = s.tumq := rfl
@[simp] theorem State.updRport_waiters (s : State) (p : Nat) (f : RootPort → RootPort) : (s.updRport p f).waiters = s.waiters := rfl
@[simp] theorem State.updRport_hasps (s : State) (p : Nat) (f : RootPort → RootPort) : (s.updRport p f).hasps = s.hasps := rfl
@[simp] theorem State.updRport_fe (s : State) (p : Nat) (f : RootPort → RootPort) : (s.updRport p f).fe = s.fe := rfl
@[simp] theorem State.updRport_io (s : State) (p : Nat) (f : RootPort → RootPort) : (s.updRport p f).io = s.io := rfl
@[simp] theorem State.updRport_ms (s : State) (p : Nat) (f : RootPort → RootPort) : (s.updRport p f).ms = s.ms := rfl
@[simp] theorem State.updRport_coh (s : State) (p : Nat) (f : RootPort → RootPort) : (s.updRport p f).coh = s.coh := rfl
@[simp] theorem State.updRport_ports (s : State) (p : Nat) (f : RootPort → RootPort) : (s.updRport p f).ports = s.ports := rfl
@[simp] theorem State.updRport_span (s : State) (p : Nat) (f : RootPort → RootPort) : (s.updRport p f).span = s.span := rfl
@[simp] theorem State.updRport_outbox (s : State) (p : Nat) (f : RootPort → RootPort) : (s.updRport p f).outbox = s.outbox := rfl
@[simp] theorem State.updRport_power (s : State) (p : Nat) (f : RootPort → RootPort) : (s.updRport p f).power = s.power := rfl
@[simp] theorem State.updRport_sec (s : State) (p : Nat) (f : RootPort → RootPort) : (s.updRport p f).sec = s.sec := rfl
@[simp] theorem State.updRport_dbg (s : State) (p : Nat) (f : RootPort → RootPort) : (s.updRport p f).dbg = s.dbg := rfl
@[simp] theorem State.updRport_pins (s : State) (p : Nat) (f : RootPort → RootPort) : (s.updRport p f).pins = s.pins := rfl
@[simp] theorem State.updRport_mcount (s : State) (p : Nat) (f : RootPort → RootPort) : (s.updRport p f).mcount = s.mcount := rfl

/-! ### updTxn -/

@[simp] theorem State.updTxn_pending (s : State) (line : Nat) (f : Txn → Txn) : (s.updTxn line f).pending = s.pending := rfl
@[simp] theorem State.updTxn_free (s : State) (line : Nat) (f : Txn → Txn) : (s.updTxn line f).free = s.free := rfl
@[simp] theorem State.updTxn_time (s : State) (line : Nat) (f : Txn → Txn) : (s.updTxn line f).time = s.time := rfl
@[simp] theorem State.updTxn_stage (s : State) (line : Nat) (f : Txn → Txn) : (s.updTxn line f).stage = s.stage := rfl
@[simp] theorem State.updTxn_accerr (s : State) (line : Nat) (f : Txn → Txn) : (s.updTxn line f).accerr = s.accerr := rfl
@[simp] theorem State.updTxn_cores (s : State) (line : Nat) (f : Txn → Txn) : (s.updTxn line f).cores = s.cores := rfl
@[simp] theorem State.updTxn_tums (s : State) (line : Nat) (f : Txn → Txn) : (s.updTxn line f).tums = s.tums := rfl
@[simp] theorem State.updTxn_tumq (s : State) (line : Nat) (f : Txn → Txn) : (s.updTxn line f).tumq = s.tumq := rfl
@[simp] theorem State.updTxn_waiters (s : State) (line : Nat) (f : Txn → Txn) : (s.updTxn line f).waiters = s.waiters := rfl
@[simp] theorem State.updTxn_hasps (s : State) (line : Nat) (f : Txn → Txn) : (s.updTxn line f).hasps = s.hasps := rfl
@[simp] theorem State.updTxn_fe (s : State) (line : Nat) (f : Txn → Txn) : (s.updTxn line f).fe = s.fe := rfl
@[simp] theorem State.updTxn_io (s : State) (line : Nat) (f : Txn → Txn) : (s.updTxn line f).io = s.io := rfl
@[simp] theorem State.updTxn_ms (s : State) (line : Nat) (f : Txn → Txn) : (s.updTxn line f).ms = s.ms := rfl
@[simp] theorem State.updTxn_hinge (s : State) (line : Nat) (f : Txn → Txn) : (s.updTxn line f).hinge = s.hinge := rfl
@[simp] theorem State.updTxn_ports (s : State) (line : Nat) (f : Txn → Txn) : (s.updTxn line f).ports = s.ports := rfl
@[simp] theorem State.updTxn_span (s : State) (line : Nat) (f : Txn → Txn) : (s.updTxn line f).span = s.span := rfl
@[simp] theorem State.updTxn_outbox (s : State) (line : Nat) (f : Txn → Txn) : (s.updTxn line f).outbox = s.outbox := rfl
@[simp] theorem State.updTxn_power (s : State) (line : Nat) (f : Txn → Txn) : (s.updTxn line f).power = s.power := rfl
@[simp] theorem State.updTxn_sec (s : State) (line : Nat) (f : Txn → Txn) : (s.updTxn line f).sec = s.sec := rfl
@[simp] theorem State.updTxn_dbg (s : State) (line : Nat) (f : Txn → Txn) : (s.updTxn line f).dbg = s.dbg := rfl
@[simp] theorem State.updTxn_pins (s : State) (line : Nat) (f : Txn → Txn) : (s.updTxn line f).pins = s.pins := rfl
@[simp] theorem State.updTxn_mcount (s : State) (line : Nat) (f : Txn → Txn) : (s.updTxn line f).mcount = s.mcount := rfl

/-! ### countModule -/

@[simp] theorem State.countModule_pending (s : State) (i n : Nat) : (s.countModule i n).pending = s.pending := rfl
@[simp] theorem State.countModule_free (s : State) (i n : Nat) : (s.countModule i n).free = s.free := rfl
@[simp] theorem State.countModule_time (s : State) (i n : Nat) : (s.countModule i n).time = s.time := rfl
@[simp] theorem State.countModule_stage (s : State) (i n : Nat) : (s.countModule i n).stage = s.stage := rfl
@[simp] theorem State.countModule_accerr (s : State) (i n : Nat) : (s.countModule i n).accerr = s.accerr := rfl
@[simp] theorem State.countModule_cores (s : State) (i n : Nat) : (s.countModule i n).cores = s.cores := rfl
@[simp] theorem State.countModule_tums (s : State) (i n : Nat) : (s.countModule i n).tums = s.tums := rfl
@[simp] theorem State.countModule_tumq (s : State) (i n : Nat) : (s.countModule i n).tumq = s.tumq := rfl
@[simp] theorem State.countModule_waiters (s : State) (i n : Nat) : (s.countModule i n).waiters = s.waiters := rfl
@[simp] theorem State.countModule_hasps (s : State) (i n : Nat) : (s.countModule i n).hasps = s.hasps := rfl
@[simp] theorem State.countModule_fe (s : State) (i n : Nat) : (s.countModule i n).fe = s.fe := rfl
@[simp] theorem State.countModule_io (s : State) (i n : Nat) : (s.countModule i n).io = s.io := rfl
@[simp] theorem State.countModule_coh (s : State) (i n : Nat) : (s.countModule i n).coh = s.coh := rfl
@[simp] theorem State.countModule_hinge (s : State) (i n : Nat) : (s.countModule i n).hinge = s.hinge := rfl
@[simp] theorem State.countModule_ports (s : State) (i n : Nat) : (s.countModule i n).ports = s.ports := rfl
@[simp] theorem State.countModule_span (s : State) (i n : Nat) : (s.countModule i n).span = s.span := rfl
@[simp] theorem State.countModule_outbox (s : State) (i n : Nat) : (s.countModule i n).outbox = s.outbox := rfl
@[simp] theorem State.countModule_power (s : State) (i n : Nat) : (s.countModule i n).power = s.power := rfl
@[simp] theorem State.countModule_sec (s : State) (i n : Nat) : (s.countModule i n).sec = s.sec := rfl
@[simp] theorem State.countModule_dbg (s : State) (i n : Nat) : (s.countModule i n).dbg = s.dbg := rfl
@[simp] theorem State.countModule_pins (s : State) (i n : Nat) : (s.countModule i n).pins = s.pins := rfl
@[simp] theorem State.countModule_ms (s : State) (i n : Nat) : (s.countModule i n).ms = s.ms := rfl

/-! ### countCtx -/

@[simp] theorem State.countCtx_pending (s : State) (ctx i n : Nat) : (s.countCtx ctx i n).pending = s.pending := rfl
@[simp] theorem State.countCtx_free (s : State) (ctx i n : Nat) : (s.countCtx ctx i n).free = s.free := rfl
@[simp] theorem State.countCtx_time (s : State) (ctx i n : Nat) : (s.countCtx ctx i n).time = s.time := rfl
@[simp] theorem State.countCtx_stage (s : State) (ctx i n : Nat) : (s.countCtx ctx i n).stage = s.stage := rfl
@[simp] theorem State.countCtx_accerr (s : State) (ctx i n : Nat) : (s.countCtx ctx i n).accerr = s.accerr := rfl
@[simp] theorem State.countCtx_cores (s : State) (ctx i n : Nat) : (s.countCtx ctx i n).cores = s.cores := rfl
@[simp] theorem State.countCtx_tums (s : State) (ctx i n : Nat) : (s.countCtx ctx i n).tums = s.tums := rfl
@[simp] theorem State.countCtx_tumq (s : State) (ctx i n : Nat) : (s.countCtx ctx i n).tumq = s.tumq := rfl
@[simp] theorem State.countCtx_waiters (s : State) (ctx i n : Nat) : (s.countCtx ctx i n).waiters = s.waiters := rfl
@[simp] theorem State.countCtx_hasps (s : State) (ctx i n : Nat) : (s.countCtx ctx i n).hasps = s.hasps := rfl
@[simp] theorem State.countCtx_io (s : State) (ctx i n : Nat) : (s.countCtx ctx i n).io = s.io := rfl
@[simp] theorem State.countCtx_ms (s : State) (ctx i n : Nat) : (s.countCtx ctx i n).ms = s.ms := rfl
@[simp] theorem State.countCtx_coh (s : State) (ctx i n : Nat) : (s.countCtx ctx i n).coh = s.coh := rfl
@[simp] theorem State.countCtx_hinge (s : State) (ctx i n : Nat) : (s.countCtx ctx i n).hinge = s.hinge := rfl
@[simp] theorem State.countCtx_ports (s : State) (ctx i n : Nat) : (s.countCtx ctx i n).ports = s.ports := rfl
@[simp] theorem State.countCtx_span (s : State) (ctx i n : Nat) : (s.countCtx ctx i n).span = s.span := rfl
@[simp] theorem State.countCtx_outbox (s : State) (ctx i n : Nat) : (s.countCtx ctx i n).outbox = s.outbox := rfl
@[simp] theorem State.countCtx_power (s : State) (ctx i n : Nat) : (s.countCtx ctx i n).power = s.power := rfl
@[simp] theorem State.countCtx_sec (s : State) (ctx i n : Nat) : (s.countCtx ctx i n).sec = s.sec := rfl
@[simp] theorem State.countCtx_dbg (s : State) (ctx i n : Nat) : (s.countCtx ctx i n).dbg = s.dbg := rfl
@[simp] theorem State.countCtx_pins (s : State) (ctx i n : Nat) : (s.countCtx ctx i n).pins = s.pins := rfl
@[simp] theorem State.countCtx_mcount (s : State) (ctx i n : Nat) : (s.countCtx ctx i n).mcount = s.mcount := rfl

/-! ### killResv -/

@[simp] theorem State.killResv_pending (s : State) (p : Nat → Bool) (gr : Granule) : (s.killResv p gr).pending = s.pending := rfl
@[simp] theorem State.killResv_free (s : State) (p : Nat → Bool) (gr : Granule) : (s.killResv p gr).free = s.free := rfl
@[simp] theorem State.killResv_time (s : State) (p : Nat → Bool) (gr : Granule) : (s.killResv p gr).time = s.time := rfl
@[simp] theorem State.killResv_stage (s : State) (p : Nat → Bool) (gr : Granule) : (s.killResv p gr).stage = s.stage := rfl
@[simp] theorem State.killResv_accerr (s : State) (p : Nat → Bool) (gr : Granule) : (s.killResv p gr).accerr = s.accerr := rfl
@[simp] theorem State.killResv_tums (s : State) (p : Nat → Bool) (gr : Granule) : (s.killResv p gr).tums = s.tums := rfl
@[simp] theorem State.killResv_tumq (s : State) (p : Nat → Bool) (gr : Granule) : (s.killResv p gr).tumq = s.tumq := rfl
@[simp] theorem State.killResv_waiters (s : State) (p : Nat → Bool) (gr : Granule) : (s.killResv p gr).waiters = s.waiters := rfl
@[simp] theorem State.killResv_hasps (s : State) (p : Nat → Bool) (gr : Granule) : (s.killResv p gr).hasps = s.hasps := rfl
@[simp] theorem State.killResv_fe (s : State) (p : Nat → Bool) (gr : Granule) : (s.killResv p gr).fe = s.fe := rfl
@[simp] theorem State.killResv_io (s : State) (p : Nat → Bool) (gr : Granule) : (s.killResv p gr).io = s.io := rfl
@[simp] theorem State.killResv_ports (s : State) (p : Nat → Bool) (gr : Granule) : (s.killResv p gr).ports = s.ports := rfl
@[simp] theorem State.killResv_span (s : State) (p : Nat → Bool) (gr : Granule) : (s.killResv p gr).span = s.span := rfl
@[simp] theorem State.killResv_outbox (s : State) (p : Nat → Bool) (gr : Granule) : (s.killResv p gr).outbox = s.outbox := rfl
@[simp] theorem State.killResv_power (s : State) (p : Nat → Bool) (gr : Granule) : (s.killResv p gr).power = s.power := rfl
@[simp] theorem State.killResv_sec (s : State) (p : Nat → Bool) (gr : Granule) : (s.killResv p gr).sec = s.sec := rfl
@[simp] theorem State.killResv_dbg (s : State) (p : Nat → Bool) (gr : Granule) : (s.killResv p gr).dbg = s.dbg := rfl
@[simp] theorem State.killResv_pins (s : State) (p : Nat → Bool) (gr : Granule) : (s.killResv p gr).pins = s.pins := rfl
@[simp] theorem State.killResv_mcount (s : State) (p : Nat → Bool) (gr : Granule) : (s.killResv p gr).mcount = s.mcount := rfl
@[simp] theorem State.killResv_ms (s : State) (p : Nat → Bool) (gr : Granule) : (s.killResv p gr).ms = s.ms := rfl

/-! ### What the updates write -/

@[simp] theorem State.core_setCore_same (s : State) (c : Nat) (k : Core) : (s.setCore c k).core c = k := by
  simp [State.core, State.setCore]

@[simp] theorem State.core_setCore_ne (s : State) {c d : Nat} (h : d ≠ c) (k : Core) :
    (s.setCore c k).core d = s.core d := by
  simp [State.core, State.setCore, h]

@[simp] theorem State.core_updCore_same (s : State) (c : Nat) (f : Core → Core) :
    (s.updCore c f).core c = f (s.core c) := by
  simp [State.updCore]

@[simp] theorem State.core_updCore_ne (s : State) {c d : Nat} (h : d ≠ c) (f : Core → Core) :
    (s.updCore c f).core d = s.core d := by
  simp [State.updCore, h]

@[simp] theorem State.group_setGroup_same (s : State) (g : Site) (x : Group) : (s.setGroup g x).group? g = some x := by
  simp [State.group?, State.setGroup]

/-- A group at another place is left alone. -/
theorem State.group_setGroup_ne (s : State) {g h : Site} (hne : h ≠ g) (x : Group) :
    (s.setGroup g x).group? h = s.group? h := by
  unfold State.group? State.setGroup
  by_cases hc : h.core = g.core
  · have hp : h.place ≠ g.place := fun e => hne (by cases h; cases g; simp_all)
    rw [hc]; simp [hp]
  · simp [hc]

@[simp] theorem State.ctx_updCtx_same (s : State) (n : Nat) (f : Ctx → Ctx) : (s.updCtx n f).ctx n = f (s.ctx n) := by
  simp [State.ctx, State.updCtx]

@[simp] theorem State.ctx_updCtx_ne (s : State) {n m : Nat} (h : m ≠ n) (f : Ctx → Ctx) :
    (s.updCtx n f).ctx m = s.ctx m := by
  simp [State.ctx, State.updCtx, h]

@[simp] theorem State.tum_setTum_same (s : State) (n : Nat) (t : Tumbler) : (s.setTum n t).tum n = t := by
  simp [State.tum, State.setTum]

@[simp] theorem State.tum_setTum_ne (s : State) {n m : Nat} (h : m ≠ n) (t : Tumbler) :
    (s.setTum n t).tum m = s.tum m := by
  simp [State.tum, State.setTum, h]

@[simp] theorem State.port_updPort_same (s : State) (p : Nat) (f : Port → Port) :
    (s.updPort p f).port p = f (s.port p) := by
  simp [State.port, State.updPort]

@[simp] theorem State.port_updPort_ne (s : State) {p q : Nat} (h : q ≠ p) (f : Port → Port) :
    (s.updPort p f).port q = s.port q := by
  simp [State.port, State.updPort, h]

@[simp] theorem State.cacheOf_setCache_same (s : State) (stop : Nat) (m : NMap CLine) :
    (s.setCache stop m).cacheOf stop = m := by
  simp [State.cacheOf, State.setCache]

@[simp] theorem State.cacheOf_setCache_ne (s : State) {a b : Nat} (h : b ≠ a) (m : NMap CLine) :
    (s.setCache a m).cacheOf b = s.cacheOf b := by
  simp [State.cacheOf, State.setCache, h]

@[simp] theorem State.launch_updLaunch_same (s : State) (k : Nat) (f : Launch → Launch) :
    (s.updLaunch k f).launch? k = (s.launch? k).map f := by
  simp [State.launch?, State.updLaunch]

@[simp] theorem State.launch_updLaunch_ne (s : State) {k j : Nat} (h : j ≠ k) (f : Launch → Launch) :
    (s.updLaunch k f).launch? j = s.launch? j := by
  simp [State.launch?, State.updLaunch, h]

@[simp] theorem State.hart_updHart_same (s : State) (h : Nat) (f : Hart → Hart) :
    (s.updHart h f).hart h = f (s.hart h) := by
  simp [State.hart, State.updHart]

@[simp] theorem State.hart_updHart_ne (s : State) {h k : Nat} (hk : k ≠ h) (f : Hart → Hart) :
    (s.updHart h f).hart k = s.hart k := by
  simp [State.hart, State.updHart, hk]

@[simp] theorem State.rport_updRport_same (s : State) (p : Nat) (f : RootPort → RootPort) :
    (s.updRport p f).rport p = f (s.rport p) := by
  simp [State.rport, State.updRport]

@[simp] theorem State.rport_updRport_ne (s : State) {p q : Nat} (h : q ≠ p) (f : RootPort → RootPort) :
    (s.updRport p f).rport q = s.rport q := by
  simp [State.rport, State.updRport, h]

/-- A message sent changes only the outbox and the ports. -/
theorem State.send_cases (s : State) (m : OutMsg) :
    s.send m = { s with outbox := s.outbox ++ [m] } ∨
      ∃ p, s.send m = ({ s with outbox := s.outbox ++ [m] } : State).updPort p (fun x => x.load m.body) := by
  unfold State.send
  simp only []
  split
  · split
    · exact .inr ⟨_, rfl⟩
    · exact .inl rfl
  · exact .inl rfl

@[simp] theorem State.send_pending (s : State) (m : OutMsg) : (s.send m).pending = s.pending := by
  rcases State.send_cases s m with h | ⟨_, h⟩
  · rw [h]
  · rw [h]; rfl
@[simp] theorem State.sendTo_pending (s : State) (d : Nat) (b : MsgBody) (t w : Nat) :
    (s.sendTo d b t w).pending = s.pending := State.send_pending s _
@[simp] theorem State.send_free (s : State) (m : OutMsg) : (s.send m).free = s.free := by
  rcases State.send_cases s m with h | ⟨_, h⟩
  · rw [h]
  · rw [h]; rfl
@[simp] theorem State.sendTo_free (s : State) (d : Nat) (b : MsgBody) (t w : Nat) :
    (s.sendTo d b t w).free = s.free := State.send_free s _
@[simp] theorem State.send_time (s : State) (m : OutMsg) : (s.send m).time = s.time := by
  rcases State.send_cases s m with h | ⟨_, h⟩
  · rw [h]
  · rw [h]; rfl
@[simp] theorem State.sendTo_time (s : State) (d : Nat) (b : MsgBody) (t w : Nat) :
    (s.sendTo d b t w).time = s.time := State.send_time s _
@[simp] theorem State.send_stage (s : State) (m : OutMsg) : (s.send m).stage = s.stage := by
  rcases State.send_cases s m with h | ⟨_, h⟩
  · rw [h]
  · rw [h]; rfl
@[simp] theorem State.sendTo_stage (s : State) (d : Nat) (b : MsgBody) (t w : Nat) :
    (s.sendTo d b t w).stage = s.stage := State.send_stage s _
@[simp] theorem State.send_accerr (s : State) (m : OutMsg) : (s.send m).accerr = s.accerr := by
  rcases State.send_cases s m with h | ⟨_, h⟩
  · rw [h]
  · rw [h]; rfl
@[simp] theorem State.sendTo_accerr (s : State) (d : Nat) (b : MsgBody) (t w : Nat) :
    (s.sendTo d b t w).accerr = s.accerr := State.send_accerr s _
@[simp] theorem State.send_cores (s : State) (m : OutMsg) : (s.send m).cores = s.cores := by
  rcases State.send_cases s m with h | ⟨_, h⟩
  · rw [h]
  · rw [h]; rfl
@[simp] theorem State.sendTo_cores (s : State) (d : Nat) (b : MsgBody) (t w : Nat) :
    (s.sendTo d b t w).cores = s.cores := State.send_cores s _
@[simp] theorem State.send_tums (s : State) (m : OutMsg) : (s.send m).tums = s.tums := by
  rcases State.send_cases s m with h | ⟨_, h⟩
  · rw [h]
  · rw [h]; rfl
@[simp] theorem State.sendTo_tums (s : State) (d : Nat) (b : MsgBody) (t w : Nat) :
    (s.sendTo d b t w).tums = s.tums := State.send_tums s _
@[simp] theorem State.send_tumq (s : State) (m : OutMsg) : (s.send m).tumq = s.tumq := by
  rcases State.send_cases s m with h | ⟨_, h⟩
  · rw [h]
  · rw [h]; rfl
@[simp] theorem State.sendTo_tumq (s : State) (d : Nat) (b : MsgBody) (t w : Nat) :
    (s.sendTo d b t w).tumq = s.tumq := State.send_tumq s _
@[simp] theorem State.send_waiters (s : State) (m : OutMsg) : (s.send m).waiters = s.waiters := by
  rcases State.send_cases s m with h | ⟨_, h⟩
  · rw [h]
  · rw [h]; rfl
@[simp] theorem State.sendTo_waiters (s : State) (d : Nat) (b : MsgBody) (t w : Nat) :
    (s.sendTo d b t w).waiters = s.waiters := State.send_waiters s _
@[simp] theorem State.send_hasps (s : State) (m : OutMsg) : (s.send m).hasps = s.hasps := by
  rcases State.send_cases s m with h | ⟨_, h⟩
  · rw [h]
  · rw [h]; rfl
@[simp] theorem State.sendTo_hasps (s : State) (d : Nat) (b : MsgBody) (t w : Nat) :
    (s.sendTo d b t w).hasps = s.hasps := State.send_hasps s _
@[simp] theorem State.send_fe (s : State) (m : OutMsg) : (s.send m).fe = s.fe := by
  rcases State.send_cases s m with h | ⟨_, h⟩
  · rw [h]
  · rw [h]; rfl
@[simp] theorem State.sendTo_fe (s : State) (d : Nat) (b : MsgBody) (t w : Nat) :
    (s.sendTo d b t w).fe = s.fe := State.send_fe s _
@[simp] theorem State.send_io (s : State) (m : OutMsg) : (s.send m).io = s.io := by
  rcases State.send_cases s m with h | ⟨_, h⟩
  · rw [h]
  · rw [h]; rfl
@[simp] theorem State.sendTo_io (s : State) (d : Nat) (b : MsgBody) (t w : Nat) :
    (s.sendTo d b t w).io = s.io := State.send_io s _
@[simp] theorem State.send_ms (s : State) (m : OutMsg) : (s.send m).ms = s.ms := by
  rcases State.send_cases s m with h | ⟨_, h⟩
  · rw [h]
  · rw [h]; rfl
@[simp] theorem State.sendTo_ms (s : State) (d : Nat) (b : MsgBody) (t w : Nat) :
    (s.sendTo d b t w).ms = s.ms := State.send_ms s _
@[simp] theorem State.send_coh (s : State) (m : OutMsg) : (s.send m).coh = s.coh := by
  rcases State.send_cases s m with h | ⟨_, h⟩
  · rw [h]
  · rw [h]; rfl
@[simp] theorem State.sendTo_coh (s : State) (d : Nat) (b : MsgBody) (t w : Nat) :
    (s.sendTo d b t w).coh = s.coh := State.send_coh s _
@[simp] theorem State.send_hinge (s : State) (m : OutMsg) : (s.send m).hinge = s.hinge := by
  rcases State.send_cases s m with h | ⟨_, h⟩
  · rw [h]
  · rw [h]; rfl
@[simp] theorem State.sendTo_hinge (s : State) (d : Nat) (b : MsgBody) (t w : Nat) :
    (s.sendTo d b t w).hinge = s.hinge := State.send_hinge s _
@[simp] theorem State.send_span (s : State) (m : OutMsg) : (s.send m).span = s.span := by
  rcases State.send_cases s m with h | ⟨_, h⟩
  · rw [h]
  · rw [h]; rfl
@[simp] theorem State.sendTo_span (s : State) (d : Nat) (b : MsgBody) (t w : Nat) :
    (s.sendTo d b t w).span = s.span := State.send_span s _
@[simp] theorem State.send_power (s : State) (m : OutMsg) : (s.send m).power = s.power := by
  rcases State.send_cases s m with h | ⟨_, h⟩
  · rw [h]
  · rw [h]; rfl
@[simp] theorem State.sendTo_power (s : State) (d : Nat) (b : MsgBody) (t w : Nat) :
    (s.sendTo d b t w).power = s.power := State.send_power s _
@[simp] theorem State.send_sec (s : State) (m : OutMsg) : (s.send m).sec = s.sec := by
  rcases State.send_cases s m with h | ⟨_, h⟩
  · rw [h]
  · rw [h]; rfl
@[simp] theorem State.sendTo_sec (s : State) (d : Nat) (b : MsgBody) (t w : Nat) :
    (s.sendTo d b t w).sec = s.sec := State.send_sec s _
@[simp] theorem State.send_dbg (s : State) (m : OutMsg) : (s.send m).dbg = s.dbg := by
  rcases State.send_cases s m with h | ⟨_, h⟩
  · rw [h]
  · rw [h]; rfl
@[simp] theorem State.sendTo_dbg (s : State) (d : Nat) (b : MsgBody) (t w : Nat) :
    (s.sendTo d b t w).dbg = s.dbg := State.send_dbg s _
@[simp] theorem State.send_pins (s : State) (m : OutMsg) : (s.send m).pins = s.pins := by
  rcases State.send_cases s m with h | ⟨_, h⟩
  · rw [h]
  · rw [h]; rfl
@[simp] theorem State.sendTo_pins (s : State) (d : Nat) (b : MsgBody) (t w : Nat) :
    (s.sendTo d b t w).pins = s.pins := State.send_pins s _
@[simp] theorem State.send_mcount (s : State) (m : OutMsg) : (s.send m).mcount = s.mcount := by
  rcases State.send_cases s m with h | ⟨_, h⟩
  · rw [h]
  · rw [h]; rfl
@[simp] theorem State.sendTo_mcount (s : State) (d : Nat) (b : MsgBody) (t w : Nat) :
    (s.sendTo d b t w).mcount = s.mcount := State.send_mcount s _

/-- A message sent stands last in the outbox. -/
@[simp] theorem State.send_outbox (s : State) (m : OutMsg) : (s.send m).outbox = s.outbox ++ [m] := by
  rcases State.send_cases s m with h | ⟨_, h⟩
  · rw [h]
  · rw [h]; rfl

end Sys2Proof.Machine
end

