-- ==== Sys2Proof/Laws/Frame.lean ====
section
/-! SUPPORT. What the shared operations over memory, trace and the event log can do to the state: one lemma each that
names the parts they touch, and the parts they leave alone. -/

namespace Sys2Proof.Machine

/-! ### Which parts of the state an operation touches -/

/-- The state but for its memory, coherence, cores, module counters and the harts' reservations. -/
def MemOnly (s t : State) : Prop :=
  t = { s with ms := t.ms, coh := t.coh, cores := t.cores, mcount := t.mcount, hinge := { s.hinge with harts := t.hinge.harts } }

/-- The state but for those and the trace and event-log registers. -/
def TraceOnly (s t : State) : Prop :=
  t = { s with ms := t.ms, coh := t.coh, cores := t.cores, mcount := t.mcount, dbg := t.dbg
               hinge := { s.hinge with harts := t.hinge.harts } }

/-- The state but for those and what the hinge holds pending. -/
def LogOnly (s t : State) : Prop :=
  t = { s with ms := t.ms, coh := t.coh, cores := t.cores, mcount := t.mcount, dbg := t.dbg, hinge := t.hinge }

theorem MemOnly.refl (s : State) : MemOnly s s := rfl
theorem MemOnly.trans {s t u : State} (h1 : MemOnly s t) (h2 : MemOnly t u) : MemOnly s u := by
  unfold MemOnly at *; rw [h2, h1]
theorem MemOnly.toTrace {s t : State} (h : MemOnly s t) : TraceOnly s t := by
  unfold MemOnly TraceOnly at *; rw [h]
theorem TraceOnly.refl (s : State) : TraceOnly s s := rfl
theorem TraceOnly.trans {s t u : State} (h1 : TraceOnly s t) (h2 : TraceOnly t u) : TraceOnly s u := by
  unfold TraceOnly at *; rw [h2, h1]
theorem TraceOnly.toLog {s t : State} (h : TraceOnly s t) : LogOnly s t := by
  unfold TraceOnly LogOnly at *; rw [h]
theorem LogOnly.trans {s t u : State} (h1 : LogOnly s t) (h2 : LogOnly t u) : LogOnly s u := by
  unfold LogOnly at *; rw [h2, h1]

theorem MemOnly.withCoh (s : State) (c : Coherence) : MemOnly s { s with coh := c } := rfl
theorem MemOnly.setCoh {s t : State} (h : MemOnly s t) (c : Coherence) : MemOnly s { t with coh := c } :=
  h.trans (MemOnly.withCoh t c)
theorem TraceOnly.withDbg (s : State) (d : Debug) : TraceOnly s { s with dbg := d } := rfl
theorem LogOnly.withHinge (s : State) (h : Hinge) : LogOnly s { s with hinge := h } := rfl

/-- An MSI changes what the interrupt files hold pending. -/
theorem State.msi_only (s : State) (pa v : Nat) : LogOnly s (s.msi pa v) := by
  unfold State.msi; split <;> rfl

/-- A source raised changes what the hinge holds. -/
theorem LogOnly.raise (s : State) (n : Nat) : LogOnly s (s.raiseAplic n) := by
  unfold State.raiseAplic State.aplicDeliver
  extract_lets dom target
  split
  · exact (LogOnly.withHinge s _).trans ((LogOnly.withHinge _ _).trans (State.msi_only _ _ _))
  · exact LogOnly.withHinge s _
theorem LogOnly.withDbg (s : State) (d : Debug) : LogOnly s { s with dbg := d } := rfl

theorem MemOnly.foldl {β : Type} (f : State → β → State) (hf : ∀ s b, MemOnly s (f s b)) (l : List β) (s : State) :
    MemOnly s (l.foldl f s) := by
  induction l generalizing s with
  | nil => exact MemOnly.refl s
  | cons b l ih => exact (hf s b).trans (ih _)

/-- A source raised leaves the trace and event-log registers. -/
theorem State.raiseAplic_dbg (s : State) (n : Nat) : (s.raiseAplic n).dbg = s.dbg := by
  unfold State.raiseAplic State.aplicDeliver State.msi
  extract_lets dom target
  split
  · split <;> rfl
  · rfl

/-! ### Writes -/

theorem State.killResv_memOnly (s : State) (p : Nat → Bool) (gr : Granule) : MemOnly s (s.killResv p gr) := rfl

theorem State.memAccept_memOnly (s : State) (line : Nat) (bytes : NMap Byte) (poison : Bool) (tag : Nat) :
    MemOnly s (s.memAccept line bytes poison tag) := by
  unfold State.memAccept; split <;> rfl

theorem State.victimDone_memOnly (s : State) (v : Option (Nat × Nat)) : MemOnly s (s.victimDone v) := by
  unfold State.victimDone; split <;> rfl

theorem State.acceptSent_memOnly (s : State) (line : Nat) : MemOnly s (s.acceptSent line) := by
  unfold State.acceptSent
  extract_lets ws c s1
  exact (MemOnly.withCoh s _ : MemOnly s s1).trans (MemOnly.foldl _ (fun st w => (State.memAccept_memOnly st _ _ _ _).trans (State.victimDone_memOnly _ _)) _ _)

theorem State.flushLine_memOnly (s : State) (line : Nat) : MemOnly s (s.flushLine line) := by
  unfold State.flushLine
  extract_lets s0 hs fl s1 s2
  have h0 : MemOnly s s0 := State.killResv_memOnly s _ _
  have h1 : MemOnly s s1 := h0.trans (State.acceptSent_memOnly s0 line)
  have h2 : MemOnly s s2 := by
    simp only [s2]
    split
    · exact h1.trans (State.memAccept_memOnly _ _ _ _ _)
    · exact h1.trans (State.memAccept_memOnly _ _ _ _ _)
    · exact h1
  split
  · exact h0
  · exact MemOnly.setCoh (t := s2) h2 _

theorem State.rereadTxn_memOnly (s : State) (line : Nat) : MemOnly s (s.rereadTxn line) := by
  unfold State.rereadTxn; split
  · rfl
  · split <;> rfl

/-- A write of one line by an agent that does not cache touches the same. -/
theorem State.cohWriteLine_memOnly (s : State) (tag line : Nat) (bytes : NMap Byte) :
    MemOnly s (s.cohWriteLine tag line bytes) := by
  unfold State.cohWriteLine
  extract_lets c s1
  exact (((MemOnly.withCoh s _ : MemOnly s s1).trans (State.flushLine_memOnly s1 line)).trans
    (State.memAccept_memOnly _ line bytes false tag)).trans (State.rereadTxn_memOnly _ line)

/-- A write by an agent that does not cache touches memory, coherence, reservations and the count of dropped writes. -/
theorem State.cohWrite_memOnly (s : State) (tag pa : Nat) (bytes : List Byte) : MemOnly s (s.cohWrite tag pa bytes) := by
  unfold State.cohWrite
  refine MemOnly.foldl _ (fun st lm => ?_) _ _
  exact State.cohWriteLine_memOnly st tag lm.1 lm.2

/-! ### Trace and event log -/

theorem State.traceOpen_only (s : State) : TraceOnly s s.traceOpen := by
  unfold State.traceOpen
  extract_lets d s1 next b s2
  have h1 : MemOnly s s1 := by
    simp only [s1]
    split
    · exact State.cohWrite_memOnly _ _ _ _
    · exact MemOnly.refl s
  split
  · exact TraceOnly.trans (t := s1) h1.toTrace (TraceOnly.withDbg s1 _)
  · exact TraceOnly.trans (t := s2) (TraceOnly.trans (t := s1) h1.toTrace (TraceOnly.withDbg s1 _))
      (State.cohWrite_memOnly s2 _ _ _).toTrace

/-- A trace record touches what a write touches and the trace registers. -/
theorem State.trace_only (s : State) (type ward ctx core place high : Nat) :
    TraceOnly s (s.trace type ward ctx core place high) := by
  unfold State.trace
  extract_lets stale s1 a s2
  have h1 : TraceOnly s s1 := by
    simp only [s1]
    split
    · exact TraceOnly.refl s
    · exact State.traceOpen_only s
  split
  · split
    · exact h1
    · exact TraceOnly.trans (t := s2) (h1.trans (State.cohWrite_memOnly s1 _ _ _).toTrace) (TraceOnly.withDbg s2 _)
  · exact TraceOnly.refl s

/-- An entry of the event log touches what a trace record touches and raises APLIC source 1. -/
theorem State.logEvent_only (s : State) (type ward ctx core place high : Nat) :
    LogOnly s (s.logEvent type ward ctx core place high) := by
  unfold State.logEvent
  extract_lets n s1 d s2
  have h1 : MemOnly s s1 := by
    simp only [s1]
    split
    · exact MemOnly.refl s
    · exact State.cohWrite_memOnly _ _ _ _
  exact LogOnly.trans (LogOnly.trans (t := s2) (LogOnly.trans (t := s1) h1.toTrace.toLog (LogOnly.withDbg s1 _))
    (LogOnly.raise s2 1)) (State.trace_only _ _ _ _ _ _ _).toLog

theorem State.keeperEvent_only (s : State) (code info : Nat) : LogOnly s (s.keeperEvent code info) :=
  State.logEvent_only s _ _ _ _ _ _

theorem State.debugEvent_only (s : State) (g : Site) (causes n lane brk addr : Nat) :
    LogOnly s (s.debugEvent g causes n lane brk addr) := by
  unfold State.debugEvent; exact State.logEvent_only s _ _ _ _ _ _

/-- A trace record leaves what the hinge holds but for the harts' reservations. -/
theorem TraceOnly.hinge {s t : State} (h : TraceOnly s t) : t.hinge = { s.hinge with harts := t.hinge.harts } :=
  (congrArg State.hinge (Eq.trans h rfl)).trans rfl
theorem MemOnly.dbg {s t : State} (h : MemOnly s t) : t.dbg = s.dbg :=
  (congrArg State.dbg (Eq.trans h rfl)).trans rfl

theorem State.traceOpen_elcount (s : State) : s.traceOpen.dbg.elcount = s.dbg.elcount := by
  unfold State.traceOpen
  extract_lets d s1 next b s2
  split
  · rfl
  · rw [(State.cohWrite_memOnly s2 _ _ _).dbg]

theorem State.trace_elcount (s : State) (type ward ctx core place high : Nat) :
    (s.trace type ward ctx core place high).dbg.elcount = s.dbg.elcount := by
  unfold State.trace
  extract_lets stale s1 a s2
  have h1 : s1.dbg.elcount = s.dbg.elcount := by
    simp only [s1]
    split
    · rfl
    · exact State.traceOpen_elcount s
  split
  · split
    · exact h1
    · change s2.dbg.elcount = _
      rw [(State.cohWrite_memOnly s1 _ _ _).dbg]; exact h1
  · rfl

theorem State.logEvent_elcount (s : State) (type ward ctx core place high : Nat) :
    (s.logEvent type ward ctx core place high).dbg.elcount = s.dbg.elcount + 1 := by
  unfold State.logEvent
  extract_lets n s1 s2
  have h1 : s1.dbg = s.dbg := by
    simp only [s1]
    split
    · rfl
    · exact (State.cohWrite_memOnly _ _ _ _).dbg
  rw [State.trace_elcount, State.raiseAplic_dbg]
  change s1.dbg.elcount + 1 = _
  rw [h1]

/-! ### cohWrite -/

@[simp] theorem State.cohWrite_pending (s : State) (tag pa : Nat) (bytes : List Byte) :
    (s.cohWrite tag pa bytes).pending = s.pending := (congrArg State.pending ((State.cohWrite_memOnly s tag pa bytes) : _ = _)).trans rfl
@[simp] theorem State.cohWrite_free (s : State) (tag pa : Nat) (bytes : List Byte) :
    (s.cohWrite tag pa bytes).free = s.free := (congrArg State.free ((State.cohWrite_memOnly s tag pa bytes) : _ = _)).trans rfl
@[simp] theorem State.cohWrite_time (s : State) (tag pa : Nat) (bytes : List Byte) :
    (s.cohWrite tag pa bytes).time = s.time := (congrArg State.time ((State.cohWrite_memOnly s tag pa bytes) : _ = _)).trans rfl
@[simp] theorem State.cohWrite_stage (s : State) (tag pa : Nat) (bytes : List Byte) :
    (s.cohWrite tag pa bytes).stage = s.stage := (congrArg State.stage ((State.cohWrite_memOnly s tag pa bytes) : _ = _)).trans rfl
@[simp] theorem State.cohWrite_accerr (s : State) (tag pa : Nat) (bytes : List Byte) :
    (s.cohWrite tag pa bytes).accerr = s.accerr := (congrArg State.accerr ((State.cohWrite_memOnly s tag pa bytes) : _ = _)).trans rfl
@[simp] theorem State.cohWrite_tums (s : State) (tag pa : Nat) (bytes : List Byte) :
    (s.cohWrite tag pa bytes).tums = s.tums := (congrArg State.tums ((State.cohWrite_memOnly s tag pa bytes) : _ = _)).trans rfl
@[simp] theorem State.cohWrite_tumq (s : State) (tag pa : Nat) (bytes : List Byte) :
    (s.cohWrite tag pa bytes).tumq = s.tumq := (congrArg State.tumq ((State.cohWrite_memOnly s tag pa bytes) : _ = _)).trans rfl
@[simp] theorem State.cohWrite_waiters (s : State) (tag pa : Nat) (bytes : List Byte) :
    (s.cohWrite tag pa bytes).waiters = s.waiters := (congrArg State.waiters ((State.cohWrite_memOnly s tag pa bytes) : _ = _)).trans rfl
@[simp] theorem State.cohWrite_hasps (s : State) (tag pa : Nat) (bytes : List Byte) :
    (s.cohWrite tag pa bytes).hasps = s.hasps := (congrArg State.hasps ((State.cohWrite_memOnly s tag pa bytes) : _ = _)).trans rfl
@[simp] theorem State.cohWrite_fe (s : State) (tag pa : Nat) (bytes : List Byte) :
    (s.cohWrite tag pa bytes).fe = s.fe := (congrArg State.fe ((State.cohWrite_memOnly s tag pa bytes) : _ = _)).trans rfl
@[simp] theorem State.cohWrite_io (s : State) (tag pa : Nat) (bytes : List Byte) :
    (s.cohWrite tag pa bytes).io = s.io := (congrArg State.io ((State.cohWrite_memOnly s tag pa bytes) : _ = _)).trans rfl
@[simp] theorem State.cohWrite_ports (s : State) (tag pa : Nat) (bytes : List Byte) :
    (s.cohWrite tag pa bytes).ports = s.ports := (congrArg State.ports ((State.cohWrite_memOnly s tag pa bytes) : _ = _)).trans rfl
@[simp] theorem State.cohWrite_span (s : State) (tag pa : Nat) (bytes : List Byte) :
    (s.cohWrite tag pa bytes).span = s.span := (congrArg State.span ((State.cohWrite_memOnly s tag pa bytes) : _ = _)).trans rfl
@[simp] theorem State.cohWrite_outbox (s : State) (tag pa : Nat) (bytes : List Byte) :
    (s.cohWrite tag pa bytes).outbox = s.outbox := (congrArg State.outbox ((State.cohWrite_memOnly s tag pa bytes) : _ = _)).trans rfl
@[simp] theorem State.cohWrite_power (s : State) (tag pa : Nat) (bytes : List Byte) :
    (s.cohWrite tag pa bytes).power = s.power := (congrArg State.power ((State.cohWrite_memOnly s tag pa bytes) : _ = _)).trans rfl
@[simp] theorem State.cohWrite_sec (s : State) (tag pa : Nat) (bytes : List Byte) :
    (s.cohWrite tag pa bytes).sec = s.sec := (congrArg State.sec ((State.cohWrite_memOnly s tag pa bytes) : _ = _)).trans rfl
@[simp] theorem State.cohWrite_dbg (s : State) (tag pa : Nat) (bytes : List Byte) :
    (s.cohWrite tag pa bytes).dbg = s.dbg := (congrArg State.dbg ((State.cohWrite_memOnly s tag pa bytes) : _ = _)).trans rfl
@[simp] theorem State.cohWrite_pins (s : State) (tag pa : Nat) (bytes : List Byte) :
    (s.cohWrite tag pa bytes).pins = s.pins := (congrArg State.pins ((State.cohWrite_memOnly s tag pa bytes) : _ = _)).trans rfl

/-! ### cohPut -/

@[simp] theorem State.cohPut_pending (s : State) (tag pa n v : Nat) :
    (s.cohPut tag pa n v).pending = s.pending := (congrArg State.pending ((State.cohWrite_memOnly s tag pa (natBytes n v)) : _ = _)).trans rfl
@[simp] theorem State.cohPut_free (s : State) (tag pa n v : Nat) :
    (s.cohPut tag pa n v).free = s.free := (congrArg State.free ((State.cohWrite_memOnly s tag pa (natBytes n v)) : _ = _)).trans rfl
@[simp] theorem State.cohPut_time (s : State) (tag pa n v : Nat) :
    (s.cohPut tag pa n v).time = s.time := (congrArg State.time ((State.cohWrite_memOnly s tag pa (natBytes n v)) : _ = _)).trans rfl
@[simp] theorem State.cohPut_stage (s : State) (tag pa n v : Nat) :
    (s.cohPut tag pa n v).stage = s.stage := (congrArg State.stage ((State.cohWrite_memOnly s tag pa (natBytes n v)) : _ = _)).trans rfl
@[simp] theorem State.cohPut_accerr (s : State) (tag pa n v : Nat) :
    (s.cohPut tag pa n v).accerr = s.accerr := (congrArg State.accerr ((State.cohWrite_memOnly s tag pa (natBytes n v)) : _ = _)).trans rfl
@[simp] theorem State.cohPut_tums (s : State) (tag pa n v : Nat) :
    (s.cohPut tag pa n v).tums = s.tums := (congrArg State.tums ((State.cohWrite_memOnly s tag pa (natBytes n v)) : _ = _)).trans rfl
@[simp] theorem State.cohPut_tumq (s : State) (tag pa n v : Nat) :
    (s.cohPut tag pa n v).tumq = s.tumq := (congrArg State.tumq ((State.cohWrite_memOnly s tag pa (natBytes n v)) : _ = _)).trans rfl
@[simp] theorem State.cohPut_waiters (s : State) (tag pa n v : Nat) :
    (s.cohPut tag pa n v).waiters = s.waiters := (congrArg State.waiters ((State.cohWrite_memOnly s tag pa (natBytes n v)) : _ = _)).trans rfl
@[simp] theorem State.cohPut_hasps (s : State) (tag pa n v : Nat) :
    (s.cohPut tag pa n v).hasps = s.hasps := (congrArg State.hasps ((State.cohWrite_memOnly s tag pa (natBytes n v)) : _ = _)).trans rfl
@[simp] theorem State.cohPut_fe (s : State) (tag pa n v : Nat) :
    (s.cohPut tag pa n v).fe = s.fe := (congrArg State.fe ((State.cohWrite_memOnly s tag pa (natBytes n v)) : _ = _)).trans rfl
@[simp] theorem State.cohPut_io (s : State) (tag pa n v : Nat) :
    (s.cohPut tag pa n v).io = s.io := (congrArg State.io ((State.cohWrite_memOnly s tag pa (natBytes n v)) : _ = _)).trans rfl
@[simp] theorem State.cohPut_ports (s : State) (tag pa n v : Nat) :
    (s.cohPut tag pa n v).ports = s.ports := (congrArg State.ports ((State.cohWrite_memOnly s tag pa (natBytes n v)) : _ = _)).trans rfl
@[simp] theorem State.cohPut_span (s : State) (tag pa n v : Nat) :
    (s.cohPut tag pa n v).span = s.span := (congrArg State.span ((State.cohWrite_memOnly s tag pa (natBytes n v)) : _ = _)).trans rfl
@[simp] theorem State.cohPut_outbox (s : State) (tag pa n v : Nat) :
    (s.cohPut tag pa n v).outbox = s.outbox := (congrArg State.outbox ((State.cohWrite_memOnly s tag pa (natBytes n v)) : _ = _)).trans rfl
@[simp] theorem State.cohPut_power (s : State) (tag pa n v : Nat) :
    (s.cohPut tag pa n v).power = s.power := (congrArg State.power ((State.cohWrite_memOnly s tag pa (natBytes n v)) : _ = _)).trans rfl
@[simp] theorem State.cohPut_sec (s : State) (tag pa n v : Nat) :
    (s.cohPut tag pa n v).sec = s.sec := (congrArg State.sec ((State.cohWrite_memOnly s tag pa (natBytes n v)) : _ = _)).trans rfl
@[simp] theorem State.cohPut_dbg (s : State) (tag pa n v : Nat) :
    (s.cohPut tag pa n v).dbg = s.dbg := (congrArg State.dbg ((State.cohWrite_memOnly s tag pa (natBytes n v)) : _ = _)).trans rfl
@[simp] theorem State.cohPut_pins (s : State) (tag pa n v : Nat) :
    (s.cohPut tag pa n v).pins = s.pins := (congrArg State.pins ((State.cohWrite_memOnly s tag pa (natBytes n v)) : _ = _)).trans rfl

/-! ### trace -/

@[simp] theorem State.trace_pending (s : State) (type ward ctx core place high : Nat) :
    (s.trace type ward ctx core place high).pending = s.pending := (congrArg State.pending ((State.trace_only s type ward ctx core place high) : _ = _)).trans rfl
@[simp] theorem State.trace_free (s : State) (type ward ctx core place high : Nat) :
    (s.trace type ward ctx core place high).free = s.free := (congrArg State.free ((State.trace_only s type ward ctx core place high) : _ = _)).trans rfl
@[simp] theorem State.trace_time (s : State) (type ward ctx core place high : Nat) :
    (s.trace type ward ctx core place high).time = s.time := (congrArg State.time ((State.trace_only s type ward ctx core place high) : _ = _)).trans rfl
@[simp] theorem State.trace_stage (s : State) (type ward ctx core place high : Nat) :
    (s.trace type ward ctx core place high).stage = s.stage := (congrArg State.stage ((State.trace_only s type ward ctx core place high) : _ = _)).trans rfl
@[simp] theorem State.trace_accerr (s : State) (type ward ctx core place high : Nat) :
    (s.trace type ward ctx core place high).accerr = s.accerr := (congrArg State.accerr ((State.trace_only s type ward ctx core place high) : _ = _)).trans rfl
@[simp] theorem State.trace_tums (s : State) (type ward ctx core place high : Nat) :
    (s.trace type ward ctx core place high).tums = s.tums := (congrArg State.tums ((State.trace_only s type ward ctx core place high) : _ = _)).trans rfl
@[simp] theorem State.trace_tumq (s : State) (type ward ctx core place high : Nat) :
    (s.trace type ward ctx core place high).tumq = s.tumq := (congrArg State.tumq ((State.trace_only s type ward ctx core place high) : _ = _)).trans rfl
@[simp] theorem State.trace_waiters (s : State) (type ward ctx core place high : Nat) :
    (s.trace type ward ctx core place high).waiters = s.waiters := (congrArg State.waiters ((State.trace_only s type ward ctx core place high) : _ = _)).trans rfl
@[simp] theorem State.trace_hasps (s : State) (type ward ctx core place high : Nat) :
    (s.trace type ward ctx core place high).hasps = s.hasps := (congrArg State.hasps ((State.trace_only s type ward ctx core place high) : _ = _)).trans rfl
@[simp] theorem State.trace_fe (s : State) (type ward ctx core place high : Nat) :
    (s.trace type ward ctx core place high).fe = s.fe := (congrArg State.fe ((State.trace_only s type ward ctx core place high) : _ = _)).trans rfl
@[simp] theorem State.trace_io (s : State) (type ward ctx core place high : Nat) :
    (s.trace type ward ctx core place high).io = s.io := (congrArg State.io ((State.trace_only s type ward ctx core place high) : _ = _)).trans rfl
@[simp] theorem State.trace_ports (s : State) (type ward ctx core place high : Nat) :
    (s.trace type ward ctx core place high).ports = s.ports := (congrArg State.ports ((State.trace_only s type ward ctx core place high) : _ = _)).trans rfl
@[simp] theorem State.trace_span (s : State) (type ward ctx core place high : Nat) :
    (s.trace type ward ctx core place high).span = s.span := (congrArg State.span ((State.trace_only s type ward ctx core place high) : _ = _)).trans rfl
@[simp] theorem State.trace_outbox (s : State) (type ward ctx core place high : Nat) :
    (s.trace type ward ctx core place high).outbox = s.outbox := (congrArg State.outbox ((State.trace_only s type ward ctx core place high) : _ = _)).trans rfl
@[simp] theorem State.trace_power (s : State) (type ward ctx core place high : Nat) :
    (s.trace type ward ctx core place high).power = s.power := (congrArg State.power ((State.trace_only s type ward ctx core place high) : _ = _)).trans rfl
@[simp] theorem State.trace_sec (s : State) (type ward ctx core place high : Nat) :
    (s.trace type ward ctx core place high).sec = s.sec := (congrArg State.sec ((State.trace_only s type ward ctx core place high) : _ = _)).trans rfl
@[simp] theorem State.trace_pins (s : State) (type ward ctx core place high : Nat) :
    (s.trace type ward ctx core place high).pins = s.pins := (congrArg State.pins ((State.trace_only s type ward ctx core place high) : _ = _)).trans rfl

/-! ### logEvent -/

@[simp] theorem State.logEvent_pending (s : State) (type ward ctx core place high : Nat) :
    (s.logEvent type ward ctx core place high).pending = s.pending := (congrArg State.pending ((State.logEvent_only s type ward ctx core place high) : _ = _)).trans rfl
@[simp] theorem State.logEvent_free (s : State) (type ward ctx core place high : Nat) :
    (s.logEvent type ward ctx core place high).free = s.free := (congrArg State.free ((State.logEvent_only s type ward ctx core place high) : _ = _)).trans rfl
@[simp] theorem State.logEvent_time (s : State) (type ward ctx core place high : Nat) :
    (s.logEvent type ward ctx core place high).time = s.time := (congrArg State.time ((State.logEvent_only s type ward ctx core place high) : _ = _)).trans rfl
@[simp] theorem State.logEvent_stage (s : State) (type ward ctx core place high : Nat) :
    (s.logEvent type ward ctx core place high).stage = s.stage := (congrArg State.stage ((State.logEvent_only s type ward ctx core place high) : _ = _)).trans rfl
@[simp] theorem State.logEvent_accerr (s : State) (type ward ctx core place high : Nat) :
    (s.logEvent type ward ctx core place high).accerr = s.accerr := (congrArg State.accerr ((State.logEvent_only s type ward ctx core place high) : _ = _)).trans rfl
@[simp] theorem State.logEvent_tums (s : State) (type ward ctx core place high : Nat) :
    (s.logEvent type ward ctx core place high).tums = s.tums := (congrArg State.tums ((State.logEvent_only s type ward ctx core place high) : _ = _)).trans rfl
@[simp] theorem State.logEvent_tumq (s : State) (type ward ctx core place high : Nat) :
    (s.logEvent type ward ctx core place high).tumq = s.tumq := (congrArg State.tumq ((State.logEvent_only s type ward ctx core place high) : _ = _)).trans rfl
@[simp] theorem State.logEvent_waiters (s : State) (type ward ctx core place high : Nat) :
    (s.logEvent type ward ctx core place high).waiters = s.waiters := (congrArg State.waiters ((State.logEvent_only s type ward ctx core place high) : _ = _)).trans rfl
@[simp] theorem State.logEvent_hasps (s : State) (type ward ctx core place high : Nat) :
    (s.logEvent type ward ctx core place high).hasps = s.hasps := (congrArg State.hasps ((State.logEvent_only s type ward ctx core place high) : _ = _)).trans rfl
@[simp] theorem State.logEvent_fe (s : State) (type ward ctx core place high : Nat) :
    (s.logEvent type ward ctx core place high).fe = s.fe := (congrArg State.fe ((State.logEvent_only s type ward ctx core place high) : _ = _)).trans rfl
@[simp] theorem State.logEvent_io (s : State) (type ward ctx core place high : Nat) :
    (s.logEvent type ward ctx core place high).io = s.io := (congrArg State.io ((State.logEvent_only s type ward ctx core place high) : _ = _)).trans rfl
@[simp] theorem State.logEvent_ports (s : State) (type ward ctx core place high : Nat) :
    (s.logEvent type ward ctx core place high).ports = s.ports := (congrArg State.ports ((State.logEvent_only s type ward ctx core place high) : _ = _)).trans rfl
@[simp] theorem State.logEvent_span (s : State) (type ward ctx core place high : Nat) :
    (s.logEvent type ward ctx core place high).span = s.span := (congrArg State.span ((State.logEvent_only s type ward ctx core place high) : _ = _)).trans rfl
@[simp] theorem State.logEvent_outbox (s : State) (type ward ctx core place high : Nat) :
    (s.logEvent type ward ctx core place high).outbox = s.outbox := (congrArg State.outbox ((State.logEvent_only s type ward ctx core place high) : _ = _)).trans rfl
@[simp] theorem State.logEvent_power (s : State) (type ward ctx core place high : Nat) :
    (s.logEvent type ward ctx core place high).power = s.power := (congrArg State.power ((State.logEvent_only s type ward ctx core place high) : _ = _)).trans rfl
@[simp] theorem State.logEvent_sec (s : State) (type ward ctx core place high : Nat) :
    (s.logEvent type ward ctx core place high).sec = s.sec := (congrArg State.sec ((State.logEvent_only s type ward ctx core place high) : _ = _)).trans rfl
@[simp] theorem State.logEvent_pins (s : State) (type ward ctx core place high : Nat) :
    (s.logEvent type ward ctx core place high).pins = s.pins := (congrArg State.pins ((State.logEvent_only s type ward ctx core place high) : _ = _)).trans rfl

/-! ### keeperEvent -/

@[simp] theorem State.keeperEvent_pending (s : State) (code info : Nat) :
    (s.keeperEvent code info).pending = s.pending := (congrArg State.pending ((State.keeperEvent_only s code info) : _ = _)).trans rfl
@[simp] theorem State.keeperEvent_free (s : State) (code info : Nat) :
    (s.keeperEvent code info).free = s.free := (congrArg State.free ((State.keeperEvent_only s code info) : _ = _)).trans rfl
@[simp] theorem State.keeperEvent_time (s : State) (code info : Nat) :
    (s.keeperEvent code info).time = s.time := (congrArg State.time ((State.keeperEvent_only s code info) : _ = _)).trans rfl
@[simp] theorem State.keeperEvent_stage (s : State) (code info : Nat) :
    (s.keeperEvent code info).stage = s.stage := (congrArg State.stage ((State.keeperEvent_only s code info) : _ = _)).trans rfl
@[simp] theorem State.keeperEvent_accerr (s : State) (code info : Nat) :
    (s.keeperEvent code info).accerr = s.accerr := (congrArg State.accerr ((State.keeperEvent_only s code info) : _ = _)).trans rfl
@[simp] theorem State.keeperEvent_tums (s : State) (code info : Nat) :
    (s.keeperEvent code info).tums = s.tums := (congrArg State.tums ((State.keeperEvent_only s code info) : _ = _)).trans rfl
@[simp] theorem State.keeperEvent_tumq (s : State) (code info : Nat) :
    (s.keeperEvent code info).tumq = s.tumq := (congrArg State.tumq ((State.keeperEvent_only s code info) : _ = _)).trans rfl
@[simp] theorem State.keeperEvent_waiters (s : State) (code info : Nat) :
    (s.keeperEvent code info).waiters = s.waiters := (congrArg State.waiters ((State.keeperEvent_only s code info) : _ = _)).trans rfl
@[simp] theorem State.keeperEvent_hasps (s : State) (code info : Nat) :
    (s.keeperEvent code info).hasps = s.hasps := (congrArg State.hasps ((State.keeperEvent_only s code info) : _ = _)).trans rfl
@[simp] theorem State.keeperEvent_fe (s : State) (code info : Nat) :
    (s.keeperEvent code info).fe = s.fe := (congrArg State.fe ((State.keeperEvent_only s code info) : _ = _)).trans rfl
@[simp] theorem State.keeperEvent_io (s : State) (code info : Nat) :
    (s.keeperEvent code info).io = s.io := (congrArg State.io ((State.keeperEvent_only s code info) : _ = _)).trans rfl
@[simp] theorem State.keeperEvent_ports (s : State) (code info : Nat) :
    (s.keeperEvent code info).ports = s.ports := (congrArg State.ports ((State.keeperEvent_only s code info) : _ = _)).trans rfl
@[simp] theorem State.keeperEvent_span (s : State) (code info : Nat) :
    (s.keeperEvent code info).span = s.span := (congrArg State.span ((State.keeperEvent_only s code info) : _ = _)).trans rfl
@[simp] theorem State.keeperEvent_outbox (s : State) (code info : Nat) :
    (s.keeperEvent code info).outbox = s.outbox := (congrArg State.outbox ((State.keeperEvent_only s code info) : _ = _)).trans rfl
@[simp] theorem State.keeperEvent_power (s : State) (code info : Nat) :
    (s.keeperEvent code info).power = s.power := (congrArg State.power ((State.keeperEvent_only s code info) : _ = _)).trans rfl
@[simp] theorem State.keeperEvent_sec (s : State) (code info : Nat) :
    (s.keeperEvent code info).sec = s.sec := (congrArg State.sec ((State.keeperEvent_only s code info) : _ = _)).trans rfl
@[simp] theorem State.keeperEvent_pins (s : State) (code info : Nat) :
    (s.keeperEvent code info).pins = s.pins := (congrArg State.pins ((State.keeperEvent_only s code info) : _ = _)).trans rfl

@[simp] theorem State.keeperEvent_elcount (s : State) (code info : Nat) :
    (s.keeperEvent code info).dbg.elcount = s.dbg.elcount + 1 := State.logEvent_elcount s _ _ _ _ _ _

end Sys2Proof.Machine
end

