-- ==== Sys2Proof/Laws/Issue.lean ====
section
/-! SUPPORT. What each shared operation of an instruction's issue answers: registers, completion, and issue itself. -/

namespace Sys2Proof.Machine

/-! ### Registers -/

@[simp] theorem Group.wt_p (x : Group) (l n : Nat) (v : Word) : (x.wt l n v).p = x.p := rfl
@[simp] theorem Group.wt_u (x : Group) (l n : Nat) (v : Word) : (x.wt l n v).u = x.u := rfl

/-- A write of a t register changes no other register of any lane. -/
theorem Group.rt_wt (x : Group) (l n l' n' : Nat) (v : Word) (hn : n < 256) (hn' : n' < 256) :
    (x.wt l n v).rt l' n' = if l' = l ∧ n' = n then v else x.rt l' n' := by
  unfold Group.rt Group.wt
  simp only [NMap.findD_put]
  have : (l' * 256 + n' = l * 256 + n) ↔ (l' = l ∧ n' = n) := by omega
  simp [this]

/-- The lanes of a mask as a list, by membership. -/
theorem mem_lanesOf (m : LaneMask) (l : Nat) : l ∈ lanesOf m ↔ l < 32 ∧ m.getLsbD l = true := by
  simp [lanesOf, List.mem_filter]

theorem Group.wts_only (x : Group) (n : Nat) (f : Nat → Word) (ls : List Nat) :
    x.wts n f ls = { x with t := (x.wts n f ls).t } := by
  induction ls generalizing x with
  | nil => rfl
  | cons l ls ih => simp only [Group.wts]; rw [ih]; rfl

theorem Group.rt_wts (x : Group) (n : Nat) (f : Nat → Word) (ls : List Nat) (l r : Nat) (hn : n < 256) (hr : r < 256) :
    (x.wts n f ls).rt l r = if l ∈ ls ∧ r = n then f l else x.rt l r := by
  induction ls generalizing x with
  | nil => simp [Group.wts]
  | cons a ls ih =>
    simp only [Group.wts]
    rw [ih, Group.rt_wt x a n l r (f a) hn hr]
    by_cases h1 : l ∈ ls <;> by_cases h2 : r = n <;> by_cases h3 : l = a <;> simp_all

theorem Group.rt_wt2 (x : Group) (l n l' r : Nat) (v : DWord) (hn : n < 255) (hr : r < 256) :
    (x.wt2 l n v).rt l' r =
      if l' = l ∧ r = n then v.extractLsb' 0 32
      else if l' = l ∧ r = n + 1 then v.extractLsb' 32 32
      else x.rt l' r := by
  unfold Group.wt2
  rw [Group.rt_wt _ _ _ _ _ _ (by omega) hr, Group.rt_wt _ _ _ _ _ _ (by omega) hr]
  have e1 : (v >>> 32).setWidth 32 = v.extractLsb' 32 32 := by
    ext i hi; simp
  have e2 : v.setWidth 32 = v.extractLsb' 0 32 := by
    ext i hi; simp
  rw [e1, e2]
  by_cases h1 : r = n <;> by_cases h2 : r = n + 1 <;> by_cases h3 : l' = l <;> simp_all

theorem Group.wts2_only (x : Group) (n : Nat) (f : Nat → DWord) (ls : List Nat) :
    x.wts2 n f ls = { x with t := (x.wts2 n f ls).t } := by
  induction ls generalizing x with
  | nil => rfl
  | cons l ls ih => simp only [Group.wts2]; rw [ih]; rfl

theorem Group.rt_wts2 (x : Group) (n : Nat) (f : Nat → DWord) (ls : List Nat) (l r : Nat) (hn : n < 255)
    (hr : r < 256) :
    (x.wts2 n f ls).rt l r =
      if l ∈ ls ∧ r = n then (f l).extractLsb' 0 32
      else if l ∈ ls ∧ r = n + 1 then (f l).extractLsb' 32 32
      else x.rt l r := by
  induction ls generalizing x with
  | nil => simp [Group.wts2]
  | cons a ls ih =>
    simp only [Group.wts2]
    rw [ih, Group.rt_wt2 x a n l r (f a) hn hr]
    by_cases h1 : l ∈ ls <;> by_cases h2 : r = n <;> by_cases h3 : r = n + 1 <;> by_cases h4 : l = a <;> simp_all

/-- A write of a predicate: the listed lanes of that predicate, unless it is p0 (R73). -/
theorem Group.rp_wp (x : Group) (n r l : Nat) (lanes v : LaneMask) (hl : l < 32) :
    ((x.wp n lanes v).rp r).getLsbD l =
      if lanes.getLsbD l ∧ r = n ∧ n ≠ 0 then v.getLsbD l else (x.rp r).getLsbD l := by
  unfold Group.wp
  split
  · rename_i h; simp [h]
  · rename_i h
    by_cases h0 : r = 0
    · subst h0; simp [Group.rp, Ne.symm h]
    · simp only [Group.rp, h0, if_false, NMap.findD_put, h]
      by_cases h1 : r = n
      · subst h1
        rw [if_pos rfl, BitVec.getLsbD_or, BitVec.getLsbD_and, BitVec.getLsbD_and, BitVec.getLsbD_not]
        cases hb : lanes.getLsbD l <;> simp [hl, h]
      · simp [h1]

theorem Group.wp_only (x : Group) (n : Nat) (lanes v : LaneMask) :
    x.wp n lanes v = { x with p := (x.wp n lanes v).p } := by
  unfold Group.wp; split <;> rfl

theorem Group.ru_wu (x : Group) (n r : Nat) (v : DWord) : (x.wu n v).ru r = if r = n then v else x.ru r := by
  simp [Group.ru, Group.wu, NMap.findD_put]

theorem maskOf_getLsbD (ls : List Nat) (l : Nat) (hl : l < 32) (h : ∀ i ∈ ls, i < 32) :
    (maskOf ls).getLsbD l = decide (l ∈ ls) := by
  induction ls with
  | nil => simp [maskOf]
  | cons a ls ih =>
    have ha := h a (by simp)
    rw [maskOf, BitVec.getLsbD_or, ih (fun i hi => h i (by simp [hi]))]
    simp only [BitVec.getLsbD_ofNat, Nat.one_shiftLeft, Nat.testBit_two_pow, hl, decide_true, Bool.true_and,
      List.mem_cons]
    by_cases e : a = l
    · subst e; simp
    · simp [e, Ne.symm e]

theorem maskWhere_getLsbD (p : Nat → Bool) (l : Nat) (hl : l < 32) : (maskWhere p).getLsbD l = p l := by
  unfold maskWhere
  rw [maskOf_getLsbD _ _ hl (by intro i hi; simp [List.mem_filter] at hi; exact hi.1)]
  simp [List.mem_filter, hl]

/-! ### Completion and issue -/

@[simp] theorem State.setGroup_setGroup (s : State) (g : Site) (x y : Group) :
    (s.setGroup g x).setGroup g y = s.setGroup g y := by
  simp [State.setGroup, State.updCore, State.setCore, State.core]

/-- The pops of R60 change the group's place in its program and nothing else. -/
theorem Group.popAll_only (x : Group) (n : Nat) :
    x.popAll n = { x with pc := (x.popAll n).pc, active := (x.popAll n).active, crpc := (x.popAll n).crpc,
                          stack := (x.popAll n).stack } := by
  induction n generalizing x with
  | zero => rfl
  | succ n ih =>
    unfold Group.popAll
    split
    · rfl
    · split
      · rw [ih]
      · rfl

@[simp] theorem Group.goTo_haltReq (x : Group) (n : DWord) : (x.goTo n).haltReq = x.haltReq := by
  unfold Group.goTo; rw [Group.popAll_only]

/-- A group that completes with no halt asked for moves on, and nothing else changes. -/
theorem State.complete_eq (s : State) (g : Site) (x : Group) (next : Option DWord) (hx : s.group? g = some x)
    (hh : x.haltReq = none) (hs : x.stepping = false) :
    s.complete g next = s.moved g x (next.getD (x.pc + 8)) := by
  have h1 : (x.goTo (next.getD (x.pc + 8))).haltReq = none := by simp [hh]
  have h2 : ({ x.goTo (next.getD (x.pc + 8)) with haltReq := none } : Group) = x.goTo (next.getD (x.pc + 8)) := by
    rw [← h1]
  unfold State.complete
  simp only [hx, hh, hs]
  rw [h2]; rfl

/-- An instruction that issues has its effect, applied to its group. -/
theorem State.issue_eq {s : State} {g : Site} {x : Group} {e : Enc} {dec : Group → LaneMask → Dec} {ready : Group → Bool}
    {eff : Group → LaneMask → Done} (h : Issues s g x e (dec x (x.guard e))) (hr : ready x = true) :
    s.issue g e dec ready eff = s.settle g x x.pc (eff x (x.guard e)) := by
  unfold State.issue
  simp only [h.here, h.may, h.fetched, h.noBreak, h.major, h.lanes]
  simp [h.legal, h.regs, hr]

theorem Issues.noHalt {s : State} {g : Site} {x : Group} {e : Enc} {d : Dec} (h : Issues s g x e d) :
    x.haltReq = none := by
  have := h.may
  unfold State.canIssue at this
  simp at this
  exact this.1.1.2

/-- An instruction that only changes its group and keeps the group's halt state. -/
theorem State.issueReg_eq {s : State} {g : Site} {x : Group} {e : Enc} {dec : Group → LaneMask → Dec}
    {f : Group → LaneMask → Group} (h : Issues s g x e (dec x (x.guard e)))
    (h1 : (f x (x.guard e)).haltReq = x.haltReq) (h2 : (f x (x.guard e)).stepping = x.stepping)
    (h3 : (f x (x.guard e)).pc = x.pc) :
    s.issueReg g e dec f = s.after g (f x (x.guard e)) (x.pc + 8) := by
  unfold State.issueReg
  rw [State.issue_eq h rfl]
  simp only [State.put, State.settle]
  rw [State.complete_eq _ g (f x (x.guard e)) none (by simp) (by rw [h1]; exact h.noHalt) (by rw [h2]; exact h.noStep)]
  simp [h3, State.after, State.moved]

end Sys2Proof.Machine
end

