-- ==== Sys2Proof/Laws/Words.lean ====
section
/-! SUPPORT. Instruction words: no field is lost either way, and every word whose MAJOR a row has gives that row. -/

namespace Sys2Proof

/-- MAJOR read from a word is the one it was made of. -/
theorem majorOf_toWord (m : BitVec 8) (e : Enc) : majorOf (e.toWord m) = m := by
  ext i hi
  interval_cases i <;> simp [majorOf, Enc.toWord]

/-- The fields read from a word are those it was made of. -/
theorem Enc.ofWord_toWord (m : BitVec 8) (e : Enc) (h : e.other = none) : Enc.ofWord (e.toWord m) = e := by
  obtain ⟨neg, pred, type, dst, a, b, c, mods, other⟩ := e
  simp only at h
  subst h
  simp only [Enc.ofWord, Enc.toWord, Enc.mk.injEq, and_true]
  refine ⟨by simp, ?_, ?_, ?_, ?_, ?_, ?_, ?_⟩ <;> (ext i hi; interval_cases i <;> simp)

/-- The instruction word of a command gives that command back: its row and every field (R113, R121). -/
theorem syramInstr_toWord (g : Site) (i : Instr) (m : Nat) (e : Enc) (h : i.syram = some (m, e)) (ho : e.other = none) :
    (syramInstr g (e.toWord (BitVec.ofNat 8 m))).syram = some (m, e) := by
  have he := Enc.ofWord_toWord (BitVec.ofNat 8 m) e ho
  have hm := majorOf_toWord (BitVec.ofNat 8 m) e
  cases i
  case ld _ mode _ | st _ mode _ | zline _ mode _ =>
    cases mode <;>
    · simp only [Instr.syram, Option.some.injEq, Prod.mk.injEq] at h
      obtain ⟨rfl, rfl⟩ := h
      rw [syramInstr, hm, he]
      rfl
  all_goals first
    | (cases h; done)
    | simp only [Instr.syram, Option.some.injEq, Prod.mk.injEq] at h
      obtain ⟨rfl, rfl⟩ := h
      rw [syramInstr, hm, he]
      rfl

end Sys2Proof
end

