-- ==== Sys2Proof/Tests/Slice0.lean ====
section
/-! SUPPORT. Tests: ill-formed commands refused, examples of the manual, and for each statement a state and operands that
meet its hypotheses. -/

namespace Sys2Proof.Tests

set_option Elab.async false

open Sys2Proof Sys2Proof.Machine

/-! ### A small state: one tile with one group of 32 threads on core 0 -/

def page (va pa : Nat) (t : Pbmt) : Leaf := { pasid := 0, va := va, pa := pa, size := 4096, x := true, pbmt := t }

/-- Code at 0x10000, cached data at 0x20000, uncached data at 0x30000. -/
def pages : List Leaf :=
  [page 0x10000 0x10008000000 .pma, page 0x20000 0x10008001000 .pma, page 0x30000 0x10008002000 .nc]

def plan : Plan := { regions := 0xFFFF, ways := 0xFFFF, valid := true }

def tile : Tile := { ctx := 1, launch := 0, index := 0, committed := true, matrix := true, plan := plan, nthread := 32, budget := 1000 }

def grp : Machine.Group :=
  { tile := 0, index := 0, alloc := 128, pc := 0x10000, active := BitVec.allOnes 32, threads := BitVec.allOnes 32 }

def lnch : Launch :=
  { ctx := 1, ring := 0, count := 0, go := true, fields := { gx := 1, gy := 1, gz := 1 }, chain := [(0, 0)]
    homes := [(0, 0)], total := 1, next := 1 }

def g0 : Site := ⟨0, 0⟩

/-- READY, with the group, its tile, its LAUNCH and its context; its instruction line is in the instruction cache. -/
def st (x : Machine.Group) : State :=
  { State.reset with
    stage := .ready
    fe := { State.reset.fe with ctxs := [(1, { ward := 1, state := .resident })], launches := [(0, lnch)], nextKey := 1 }
    io := { leaves := pages, valid := [0], dev := { valid := true } }
    cores := [(0, { groups := [(0, x)], tiles := [(0, tile)], icache := [0x10008000000] })] }

def s0 : State := st grp

/-- The group of `st x` issues a word that its row decodes as `d`. -/
theorem issues (x : Machine.Group) (e : Enc) (d : Dec) (h1 : (st x).fetch g0 x = .ready)
    (h3 : (st x).canIssue x = true) (h4 : x.stepping = false) (h5 : e.other = none) (h6 : x.guard e ≠ 0)
    (h7 : d.illegal x.alloc = none) (h8 : (st x).regsReady g0 x e d = true) : Issues (st x) g0 x e d :=
  ⟨rfl, h3, h1, by unfold State.breakHit; split <;> rfl, h5, h6, h7, h8, h4⟩

theorem witness_EveryInstruction :
    s0.group? g0 = some grp ∧ s0.canIssue grp = true ∧ s0.fetch g0 grp = .ready ∧ s0.breakHit g0 grp = none ∧
      grp.stepping = false ∧ s0.regsReady g0 grp { neg := true } {} = true ∧ grp.guard { neg := true } = 0 ∧
      grp.guard { other := some 0 } ≠ 0 ∧ s0.regsReady g0 grp { other := some 0 } {} = true ∧
      s0.wardOf g0 ∉ s0.dbg.hof ∧ s0.merging g0.core grp.tile = false ∧ s0.tile? g0.core grp.tile = some tile ∧ grp.drained = true := by
  refine ⟨rfl, rfl, rfl, rfl, rfl, rfl, rfl, by decide, rfl, by decide, rfl, rfl, rfl⟩

theorem witness_IntegerRegisterForms :
    Issues s0 g0 grp {} (intDec [0] [0] 2 false {}) ∧ Issues s0 g0 grp { type := 1 } (intDec [0, 1] [0] 2 false { type := 1 }) ∧
      Issues s0 g0 grp { mods := 0x1000 } (intDec [0, 1] [0, 1] 2 false { mods := 0x1000 }) ∧
      Issues s0 g0 grp { srcC := 127 } (intDec [0, 1] [0, 1] 3 false { srcC := 127 }) ∧
      (Issues s0 g0 grp { dst := 127 } (intDec [0, 1, 2, 3] [0] 2 false { dst := 127 }) ∧ wideType 0 = false) := by
  refine ⟨?_, ?_, ?_, ?_, ?_, rfl⟩ <;> apply issues <;> first | rfl | decide

/-! ### Examples of the manual -/

/-- R179 to R191, the worked example of a BF16 cell: one anchor raise, whose beat is repeated, and the exact sum 14.5078125. -/
def beats : List (List Prod1) :=
  [[.fin 9 0, .fin (-3) (-1), .fin 15 (-2), .fin 1 (-7)], [.fin 1 40, .fin 3 0, .fin (-1) 40, .fin 1 (-2)]]

def cell : AccSet := beats.foldl (fun a ps => (a.beat false [(0, ps)]).1) (AccSet.overwrite false)

theorem test_accumulator_example :
    cell.anchor = -215 ∧ cell.raises = 1 ∧ (cell.word 0).x.toInt = 1857 * 2 ^ 208 ∧ (cell.word 0).sticky = false := by
  decide +kernel

/-- R186: the anchor of the first beat alone. -/
theorem test_first_anchor : ((AccSet.overwrite false).beat false [(0, beats.headD [])]).1.anchor = -252 := by decide +kernel

/-- R195 to R198: the drains of that sum, to FP32 and to BF16 in each mode. -/
theorem test_drain_example :
    drainValue 7 .rne (1857 * 2 ^ 208) (-215) {} false = (0x41682000, 0) ∧
      [Rm.rne, .rtz, .rup, .rdn, .sto 8191, .sto 8192].map (fun r => drainValue 9 r (1857 * 2 ^ 208) (-215) {} false) =
        [(0x4168, FFlags.nx), (0x4168, FFlags.nx), (0x4169, FFlags.nx), (0x4168, FFlags.nx), (0x4169, FFlags.nx),
         (0x4168, FFlags.nx)] := by decide +kernel

/-- R213: the residue of 0.75. -/
theorem test_residue_example : residue 3 (-2) = 1610612736 := by decide +kernel

/-- R303, R304: three lanes add 5, 2 and 4 at a location that holds 100. -/
theorem test_atomic_example :
    atomRun .add 4 false 100 [(0, 5, 0), (3, 2, 0), (7, 4, 0)] = (111, [(0, 100), (3, 105), (7, 107)]) := by decide +kernel

/-- R444: an epoch newer across the wrap. -/
theorem test_epoch_example : newer 0x00000002 0xFFFFFFFE = true ∧ epochOlder 0xFFFFFFFE 0x00000002 = true := by decide

/-- R16, R30: the chain of cores 90 to 101 crosses from die C0 to C1. -/
theorem test_chain_example :
    (State.reset.chainOf 0 [{ under := [], modOrd := 0, first := 90, count := 12 }]) = (List.range 12).map (fun i => (0, 90 + i)) ∧
      dieOfCore 95 = 0 ∧ dieOfCore 96 = 1 := by decide +kernel

/-- R81, R116, R142: the FMA t8 := t4 × u2 + t6 of the encodings' example is legal for a group that holds 16 registers,
and with KB clear too. -/
theorem test_fma_example :
    let e : Enc := { neg := true, pred := 3, type := 7, dst := 8, srcA := 4, srcB := 2, srcC := 6, mods := 0x12 }
    (fltDec [6, 7] [0] 3 false e).illegal 16 = none ∧ (fltDec [6, 7] [0] 3 false { e with mods := 2 }).illegal 16 = none ∧
      (fltDec [6, 7] [0] 3 false { e with dst := 16 }).illegal 16 ≠ none := by decide +kernel

/-- The two words of the encodings' worked example, and the FMA's bytes in memory (R113, R114, R121, R139). -/
theorem test_example_words (g : Site) :
    syramInstr g 0xB237080402060012 =
      .fma g { neg := true, pred := 3, type := 7, dst := 8, srcA := 4, srcB := 2, srcC := 6, mods := 0x12 } ∧
    syramInstr g 0x2800000001FFFFF0 = .bra g { pred := 2, srcB := 1, srcC := 0xFF, mods := 0xFFF0 } ∧
    wordOfBytes #v[0x12, 0x00, 0x06, 0x02, 0x04, 0x08, 0x37, 0xB2] = 0xB237080402060012 := by
  refine ⟨rfl, rfl, rfl⟩

/-- A word of each other class of the opcode map, written bit by bit from its fields (R113, R121). -/
theorem test_words (g : Site) :
    let w (major type dst a b c : Nat) (mods : Nat) : BitVec 64 :=
      BitVec.ofNat 64 (major * 2 ^ 52 + type * 2 ^ 48 + dst * 2 ^ 40 + a * 2 ^ 32 + b * 2 ^ 24 + c * 2 ^ 16 + mods)
    syramInstr g (w 0x01 0 1 2 3 0 0) = .add g { dst := 1, srcA := 2, srcB := 3 } ∧
    syramInstr g (w 0x13 2 255 4 5 6 0x8001) = .pick g { type := 2, dst := 255, srcA := 4, srcB := 5, srcC := 6, mods := 0x8001 } ∧
    syramInstr g (w 0x1F 2 255 4 5 6 0x8001) = .movI g { type := 2, dst := 255, srcA := 4, srcB := 5, srcC := 6, mods := 0x8001 } ∧
    syramInstr g (w 0x30 2 255 4 5 6 0x8001) = .cvt g { type := 2, dst := 255, srcA := 4, srcB := 5, srcC := 6, mods := 0x8001 } ∧
    syramInstr g (w 0x32 2 255 4 5 6 0x8001) = .lquery g { type := 2, dst := 255, srcA := 4, srcB := 5, srcC := 6, mods := 0x8001 } ∧
    syramInstr g (w 0x52 2 255 4 5 6 0x8001) = .sc g { type := 2, dst := 255, srcA := 4, srcB := 5, srcC := 6, mods := 0x8001 } ∧
    syramInstr g (w 0x68 2 255 4 5 6 0x8001) = .mchk g { type := 2, dst := 255, srcA := 4, srcB := 5, srcC := 6, mods := 0x8001 } ∧
    syramInstr g (w 0x75 2 255 4 5 6 0x8001) = .fenceDone g { type := 2, dst := 255, srcA := 4, srcB := 5, srcC := 6, mods := 0x8001 } ∧
    syramInstr g (w 0x8B 2 255 4 5 6 0x8001) = .ucmpI g { type := 2, dst := 255, srcA := 4, srcB := 5, srcC := 6, mods := 0x8001 } ∧
    syramInstr g (w 0x92 2 255 4 5 6 0x8001) = .brk g { type := 2, dst := 255, srcA := 4, srcB := 5, srcC := 6, mods := 0x8001 } ∧
    syramInstr g (w 0x42 4 7 0 0 0 8) = .ld g .thread { type := 4, dst := 7, mods := 8 } ∧
    syramInstr g (w 0x45 4 7 0 0 0 8) = .st g .indexed { type := 4, dst := 7, mods := 8 } ∧
    syramInstr g (w 0x48 0 0 9 0 0 0) = .zline g .uniform { srcA := 9 } ∧
    (syramInstr g (w 0xFF 0 0 0 0 0 0) = .nop g { other := some 0xFF }) := by
  refine ⟨rfl, rfl, rfl, rfl, rfl, rfl, rfl, rfl, rfl, rfl, rfl, rfl, rfl, rfl⟩

/-- R139, R142: a guarded branch without a reconvergence point is illegal; the example's branch is not. -/
theorem test_bra_example :
    let rsv (e : Enc) : Bool := e.type != 0 || (if e.pred == 0 && !e.neg then braRpc e != 0 else braRpc e == 0)
    rsv { pred := 2, srcB := 1, srcC := 0xFF, mods := 0xFFF0 } = false ∧
      rsv { pred := 2, srcB := 0, srcC := 0xFF, mods := 0xFFF0 } = true := by decide +kernel

/-- R475, R476: at nominal VCOMP warns below 560 mV, and 531 mV does not reset the module. -/
theorem test_rail_example : railWarn 34 1 = 560 ∧ railReset 1 = 500 := by decide

/-! ### Commands that are not well formed -/

theorem test_wf_refuses :
    (Instr.add ⟨768, 0⟩ {}).wf = false ∧ (Instr.add ⟨0, 48⟩ {}).wf = false ∧ (Instr.add ⟨767, 47⟩ {}).wf = true ∧
      (Instr.add ⟨0, 0⟩ { other := some 0x20 }).wf = false ∧ (Instr.add ⟨0, 0⟩ { other := some 0 }).wf = true ∧
      (Instr.arrayStart 768).wf = false ∧ (Instr.budgetStop 0 49).wf = false ∧ (Instr.spindleFinish 0 4).wf = false ∧
      (Instr.retirementRecord 8).wf = false ∧ (Instr.coherentRequest 11 0 .read 0).wf = false ∧
      (Instr.coherentRequest 10 64 .read 0).wf = false ∧ (Instr.coherentRequest 10 128 .read 16).wf = false := by
  decide +kernel

theorem test_wf_refuses_numbers :
    (Instr.cablePresent 16 true).wf = false ∧ (Instr.laneFailure 0 4).wf = false ∧ (Instr.patrolScrub 24 [] []).wf = false ∧
      (Instr.makeResident 16384).wf = false ∧ (Instr.launch (.ring 16384 0)).wf = false ∧ (Instr.launch (.ring 0 8)).wf = false ∧
      (Instr.launch .admin).wf = true ∧ (Instr.memberLossTimeout 4096).wf = false ∧
      (Instr.visack { txid := 65536 }).wf = false ∧ (Instr.visack { ward := 1024 }).wf = false ∧
      (Instr.visack { src := 4096 }).wf = false ∧ (Instr.visack { port := 16 }).wf = false := by decide +kernel

theorem test_wf_refuses_messages :
    (Instr.tarriveMessage {} 65536 0 .mark).wf = false ∧ (Instr.tarriveMessage {} 0 65536 .mark).wf = false ∧
      (Instr.hasparr {} 16 0).wf = false ∧ (Instr.domainEntry 32).wf = false ∧ (Instr.railResetThreshold 11 0).wf = false ∧
      (Instr.getCertificate 8 0 0).wf = false ∧ (Instr.registerRead {} 0 3).wf = false ∧ (Instr.registerRead {} 0 4).wf = true ∧
      (Instr.write {} 0 [] false false).wf = false ∧ (Instr.write {} 0 (List.replicate 129 0) false false).wf = false ∧
      (Instr.tumblerOperation (.core 768) 0).wf = false := by decide +kernel

/-! ### Single commands -/

/-- ADD of u1 and the immediate 1 wraps; its source is its destination. -/
theorem test_add_wraps :
    let x : Machine.Group := { grp with t := [(1, 0xFFFFFFFF)] }
    let out := exec (.addI g0 { dst := 1, srcA := 1, mods := 1 }) (st x)
    (match out with | .next u => (u.group? g0).map (fun y => (y.rt 0 1, y.rt 1 1, y.pc)) | _ => none) =
      some (0, 1, 0x10008) := by decide +kernel

/-- CMP.i of −1 and 0 by less than, unsigned and signed. -/
theorem test_cmp_signs :
    let x : Machine.Group := { grp with t := [(1, 0xFFFFFFFF)] }
    let run (ty : BitVec 4) := match exec (.cmpI g0 { type := ty, dst := 1, srcA := 1, srcB := 2 }) (st x) with
      | .next u => (u.group? g0).map (fun y => (y.rp 1).getLsbD 0)
      | _ => none
    run 0 = some false ∧ run 1 = some true := by decide +kernel

/-- A cold reset of the module at reset: the queue of commands stays. -/
theorem test_reset_keeps_queue :
    (match exec .watchdogExpiry { State.reset with pending := [.iofenceC] } with | .next u => u.pending | _ => []) =
      [.iofenceC] := by decide +kernel

theorem witness_IntegerSelectForms :
    Issues s0 g0 grp {} (intDec [0] [0] 1 false {}) ∧ (Issues s0 g0 grp {} (intDec [0, 2] [0] 1 false {}) ∧ wideType 0 = false) ∧
      Issues s0 g0 grp { srcC := 127 } (intDec [0] [0] 3 false { srcC := 127 }) ∧
      (let e : Enc := { srcC := 7 }
       Issues s0 g0 grp e { intDec [0] [0] 2 false e with
        ops := [(.t, e.d), (srcKind e.ka false, e.a), (srcKind e.kb false, e.b), (.p, e.c)] }) := by
  refine ⟨?_, ⟨?_, rfl⟩, ?_, ?_⟩ <;> apply issues <;> first | rfl | decide

theorem witness_IntegerImmediateForms :
    Issues s0 g0 grp { srcC := 0xFF, mods := 0xFFFF } (intDecI [0] [0] 24 false { srcC := 0xFF, mods := 0xFFFF }) ∧
      Issues s0 g0 grp { mods := 31 } (intDecI [0] [0] 5 false { mods := 31 }) ∧
      Issues s0 g0 grp { type := 1, mods := 31 } (intDecI [0, 1] [0] 5 false { type := 1, mods := 31 }) ∧
      (Issues s0 g0 grp { srcB := 0x10, srcA := 63 } (intDecI [0, 1, 2, 3] [0] 24 false { srcB := 0x10, srcA := 63 }) ∧
        wideType 0 = false) ∧
      ∀ e ∈ [({ srcC := 0xFF } : Enc), { srcB := 1, mods := 0xFF }],
        Issues s0 g0 grp e { intDecI [0] [0, 1] (if e.subI = 0 then 24 else 8) false e with
          ops := [(.t, e.d), (.none, e.a)]
          rsv := (intDecI [0] [0, 1] (if e.subI = 0 then 24 else 8) false e).rsv || e.kaI } := by
  refine ⟨?_, ?_, ?_, ⟨?_, rfl⟩, fun e he => ?_⟩
  all_goals first | (apply issues <;> first | rfl | decide) | skip
  simp only [List.mem_cons, List.not_mem_nil, or_false] at he
  rcases he with rfl | rfl <;> apply issues <;> first | rfl | decide

theorem witness_IntegerPairForms :
    (Issues s0 g0 grp { type := 2, dst := 126 } (intDec [0, 1, 2, 3] [0] 2 false { type := 2, dst := 126 }) ∧ wideType 2 = true) ∧
      (Issues s0 g0 grp { type := 3 } (intDecI [0, 1, 2, 3] [0] 24 false { type := 3 }) ∧ wideType 3 = true) ∧
      Issues s0 g0 grp { type := 2 } (intDec [0, 2] [0] 1 false { type := 2 }) := by
  refine ⟨⟨?_, rfl⟩, ⟨?_, rfl⟩, ?_⟩ <;> apply issues <;> first | rfl | decide

theorem witness_CompareForms :
    Issues s0 g0 grp { dst := 7, mods := 0x5000 } (intDec [0, 1, 2, 3] [0, 1, 2, 3, 4, 5] 2 true { dst := 7, mods := 0x5000 }) ∧
      Issues s0 g0 grp { srcB := 5 } (intDecI [0, 1, 2, 3] [0, 1, 2, 3, 4, 5] 24 true { srcB := 5 }) ∧
      (let e : Enc := { type := 2, mods := 0x5000 }
       Issues s0 g0 grp e { ops := [(.p, e.d), (.u, e.a), (.u, e.b), (.none, e.c)]
                            rsv := (e.type != 2 && e.type != 3) || decide (e.sub > 5) || field e.mods 11 0 != 0 }) ∧
      (let e : Enc := { type := 3, srcB := 5 }
       Issues s0 g0 grp e { ops := [(.p, e.d), (.u, e.a)]
                            rsv := (e.type != 2 && e.type != 3) || decide (e.subI > 5) || field e.srcB 7 4 != 0 }) := by
  refine ⟨?_, ?_, ?_, ?_⟩ <;> apply issues <;> first | rfl | decide

theorem witness_UniformForms :
    (let e : Enc := { type := 2, dst := 63, mods := 0xC000 }
     Issues s0 g0 grp e { ops := [(.u, e.d), (.u, e.a), (if e.sub = 13 then .none else .u, e.b), (.none, e.c)]
                          rsv := e.type != 2 || decide (e.sub > 13) || field e.mods 11 0 != 0 }) ∧
      (let e : Enc := { type := 2, srcB := 13, srcC := 0x80 }
       Issues s0 g0 grp e { ops := [(.u, e.d), (if e.subI = 13 then .none else .u, e.a)]
                            rsv := e.type != 2 || decide (e.subI > 13) || field e.srcB 7 4 != 0 }) := by
  refine ⟨?_, ?_⟩ <;> apply issues <;> first | rfl | decide

theorem witness_FloatingForms :
    Issues s0 g0 grp { type := 6, dst := 126 } (fltDec [6, 7] [0] 2 false { type := 6, dst := 126 }) ∧
      Issues s0 g0 grp { type := 7 } (fltDec [6, 7] [0] 3 false { type := 7 }) ∧
      Issues s0 g0 grp { type := 7 } (fltDec [6, 7] [0] 1 false { type := 7 }) ∧
      Issues s0 g0 grp { type := 7, mods := 0x6000 } (fltDec [7] [0, 1, 2, 3, 4, 5, 6] 1 false { type := 7, mods := 0x6000 }) ∧
      Issues s0 g0 grp { type := 7, mods := 0x6000 } (cvtDec { type := 7, mods := 0x6000 }) ∧
      Issues s0 g0 grp { type := 7, mods := 0x7000 } (fltDec [6, 7] [0, 1, 2, 3, 4, 5, 6, 7] 2 true { type := 7, mods := 0x7000 }) := by
  refine ⟨?_, ?_, ?_, ?_, ?_, ?_⟩ <;> apply issues <;> first | rfl | decide

theorem witness_CrossLaneForms :
    (∀ e ∈ [({ } : Enc), { mods := 0x1002 }, { mods := 0x2002 }, { mods := 0x3002 }],
      Issues s0 g0 grp e { intDec [0] [0, 1, 2, 3] 2 false e with
        rsv := (intDec [0] [0, 1, 2, 3] 2 false e).rsv || (if e.sub = 0 then e.kb else !e.kb) }) ∧
      ∀ e ∈ [({ } : Enc), { mods := 0x1000 }, { mods := 0x2000 }, { mods := 0x3000 }],
        Issues s0 g0 grp e { intDec [0] [0, 1, 2, 3] 1 false e with
          ops := [(if e.sub < 2 then .p else .t, e.d), (.p, e.a), (.none, e.b), (.none, e.c)]
          rsv := (intDec [0] [0, 1, 2, 3] 1 false e).rsv || e.ka } := by
  refine ⟨fun e he => ?_, fun e he => ?_⟩ <;> simp only [List.mem_cons, List.not_mem_nil, or_false] at he <;>
    rcases he with rfl | rfl | rfl | rfl <;> apply issues <;> first | rfl | decide

theorem witness_SpecialValues :
    s0.tile? g0.core grp.tile = some tile ∧ s0.launch? tile.launch = some lnch ∧
      (∀ n ∈ [(2 : BitVec 16), 8, 33, 16, 17, 20, 24], let e : Enc := { mods := n }
        Issues s0 g0 grp e { ops := [(.none, e.a), (.none, e.b), (.u, e.d)]
                             rsv := e.type != 0 || field e.imm 23 8 != 0 } ∧ field e.imm 7 0 = n.toNat) ∧
      lnch.chain.findIdx? (fun c => c.1 == s0.here && c.2 == g0.core) = some 0 ∧
      (let e : Enc := { mods := 1 }
       Issues s0 g0 grp e { ops := [(.none, e.a), (.none, e.b), (.t, e.d)]
                            rsv := e.type != 0 || field e.imm 23 8 != 0 } ∧ field e.imm 7 0 < 2) ∧
      ∀ n ∈ [(32 : BitVec 16), 33], let e : Enc := { mods := n }
        Issues s0 g0 grp e { ops := [(.none, e.d), (.u, e.a), (.none, e.b)], rsv := e.type != 0 || field e.imm 23 8 != 0
                             extra := if field e.imm 7 0 = 32 ∨ field e.imm 7 0 = 33 then [] else [3] } := by
  refine ⟨rfl, rfl, fun n hn => ?_, rfl, ⟨?_, by decide⟩, fun n hn => ?_⟩
  · simp only [List.mem_cons, List.not_mem_nil, or_false] at hn
    rcases hn with rfl | rfl | rfl | rfl | rfl | rfl | rfl <;> refine ⟨?_, rfl⟩ <;> apply issues <;> first | rfl | decide
  · apply issues <;> first | rfl | decide
  · simp only [List.mem_cons, List.not_mem_nil, or_false] at hn
    rcases hn with rfl | rfl <;> apply issues <;> first | rfl | decide

/-- A group with predicate 1 true in lane 0 alone, and 0x10040 in u4 and in the pair t4 of every active lane. -/
def grpP : Machine.Group :=
  { grp with p := [(1, 1)], u := [(4, 0x10040)], active := 3, threads := 3, t := [(4, 0x10040), (260, 0x10040)] }

theorem witness_ControlTransfer :
    Issues (st grpP) g0 grpP {} { rsv := plainRsv {} } ∧
      (∀ e ∈ [({ mods := 1 } : Enc), { pred := 1, mods := 1, srcB := 2 }],
        Issues (st grpP) g0 grpP e { rsv := e.type != 0 ||
          (if e.pred == 0 && !e.neg then braRpc e != 0 else braRpc e == 0) }) ∧
      grpP.guard { mods := 1 } = grpP.active ∧ grpP.guard { pred := 1, mods := 1, srcB := 2 } ≠ grpP.active ∧
      grpP.stack.length + 2 ≤ 32 ∧
      (let e : Enc := { srcA := 4, mods := 1 }
       Issues (st grpP) g0 grpP e { ops := [(.none, e.d), (.t2, e.a), (.none, e.b)], rsv := e.type != 0 || e.imm == 0 } ∧
         (0x10040 : DWord).toNat % 8 = 0 ∧ grpP.guard e = grpP.active ∧
         ∀ l, l < 32 → grpP.active.getLsbD l = true → grpP.rt2 l e.a = 0x10040) ∧
      (let e : Enc := { dst := 63 }
       Issues (st grpP) g0 grpP e { ops := [(.u, e.d), (.none, e.a), (.none, e.b)], rsv := e.type != 0
                                    extra := callGuard grpP (grpP.guard e) }) ∧
      (let e : Enc := { srcA := 4 }
       Issues (st grpP) g0 grpP e { ops := [(.none, e.d), (.u, e.a), (.none, e.b)], rsv := e.type != 0 || e.imm != 0
                                    extra := callGuard grpP (grpP.guard e) } ∧ (grpP.ru e.a).toNat % 8 = 0) := by
  refine ⟨?_, fun e he => ?_, rfl, by decide, by decide, ⟨?_, rfl, rfl, by decide⟩, ?_, ?_, rfl⟩
  all_goals first | (apply issues <;> first | rfl | decide) | skip
  simp only [List.mem_cons, List.not_mem_nil, or_false] at he
  rcases he with rfl | rfl <;> apply issues <;> first | rfl | decide

/-! ### Memory instructions -/

/-- One thread; u4 holds the uncached data page, u5 the cached one, and t8 a value in lane 0. -/
def grpM : Machine.Group :=
  { grp with active := 1, threads := 1, u := [(4, 0x30000), (5, 0x20000)], t := [(4, 0x30000), (8, 0x12345678)] }

def rawAcc : LaneAcc := { lane := 0, va := 0x30000, tgt := .uncached 0x10008002000 }
def cacheAcc : LaneAcc := { lane := 0, va := 0x20000, tgt := .cache 0x10008001000 }

theorem witness_LoadAndStoreIssue :
    (st grpM).orderReady g0 grpM = true ∧
      (let e : Enc := { type := 4, srcA := 4, srcB := 0 }
       Issues (st grpM) g0 grpM e (memDec .uniform (accKind e.type.toNat) [0, 1, 2, 3, 4, 5, 6] [0, 1] e) ∧
         ((st grpM).groupView g0).checkLanes ((st grpM).ctxOf g0) 4 .read
           ((lanesOf (grpM.guard e)).map (fun l => (l, grpM.addr .uniform e l))) = .ok [rawAcc] ∧
         (st grpM).watchHit 0 ((st grpM).wardOf g0) 0 4 [(0, 0x30000)] = none) ∧
      (let e : Enc := { type := 4, srcA := 5, dst := 8 }
       Issues (st grpM) g0 grpM e (memDec .uniform (accKind e.type.toNat) [0, 2, 4, 5, 6] [0] e) ∧
         ((st grpM).groupView g0).checkLanes ((st grpM).ctxOf g0) 4 .write
           ((lanesOf (grpM.guard e)).map (fun l => (l, grpM.addr .uniform e l))) = .ok [cacheAcc] ∧
         (st grpM).watchHit 0 ((st grpM).wardOf g0) 1 4 [(0, 0x20000)] = none ∧
         (storeEntries grpM.order ([cacheAcc].map (fun a => (a, grpM.storeBytes e.d 4 a.lane)))).length = 1) ∧
      (let e : Enc := { srcA := 5, srcB := 1 }
       Issues (st grpM) g0 grpM e (memDec .uniform .none [0] [0, 1] e) ∧
         ((st grpM).groupView g0).checkLanes ((st grpM).ctxOf g0) 128 .write
           ((lanesOf (grpM.guard e)).map (fun l => (l, grpM.addr .uniform e l))) = .ok [cacheAcc] ∧
         (storeEntries grpM.order ([cacheAcc].map (fun a => (a, List.replicate 128 (0 : Byte))))).length = 1) := by
  refine ⟨rfl, ⟨?_, rfl, rfl⟩, ⟨?_, rfl, rfl, rfl⟩, ⟨?_, rfl, rfl⟩⟩ <;> apply issues <;> first | rfl | decide

def pend (a : LaneAcc) : PendLoad :=
  { order := 0, pc := 0x10000, ca := false, width := 4, sext := false, dst := 127, lr := false, lanes := [a] }

def line : CLine := { st := .e, bytes := List.replicate 128 7 }

/-- The die of core 0 holds the cached data line in E. -/
def stL (x : Machine.Group) : State :=
  { st x with coh := { caches := [(stopOfDie 0, [(0x10008001000, line)])] } }

theorem witness_LoadBindsData :
    (let x : Machine.Group := { grpM with loads := [pend rawAcc] }
     let s := st x
     s.group? g0 = some x ∧ x.sb = [] ∧ rawAcc.reply = none ∧ 0x10008002000 % 4 = 0 ∧ (127 : Nat) < 256 ∧ s.domain (s.memDomain 0x10008002000) = .idle ∧
       lineOf 0x10008002000 ∉ s.ms.mem.poison ∧ s.ms.mem.readN 0x10008002000 4 = [0, 0, 0, 0]) ∧
      (let x : Machine.Group := { grpM with loads := [pend cacheAcc] }
       let s := stL x
       s.group? g0 = some x ∧ x.sb = [] ∧ s.llcLine 0 0x10008001000 = some line ∧ line.poison = false ∧
         (line.bytes.drop (0x10008001000 % 128)).take 4 = [7, 7, 7, 7]) := by
  refine ⟨⟨rfl, rfl, rfl, rfl, by decide, rfl, by decide, rfl⟩, rfl, rfl, rfl, rfl, rfl⟩

def entry (t : Target) : SbEntry := { order := 0, va := 0, tgt := t, bytes := [(0, 1), (127, 2)] }

theorem witness_StoreReachesItsEndpoint :
    (let x : Machine.Group := { grpM with sb := [entry (.uncached 0x10008002000)] }
     let s := st x
     s.group? g0 = some x ∧ x.sb[0]? = some (entry (.uncached 0x10008002000)) ∧
       x.mayAccept (entry (.uncached 0x10008002000)) = true ∧ granuleOf (entry (.uncached 0x10008002000)).tgt ∉ s.coh.holds ∧
       s.lpRoom (lineOf 0x10008002000) = true ∧ s.domain (s.memDomain 0x10008002000) = .idle ∧
       s.accepts 0 (lineOf 0x10008002000) = true ∧ NMap.wf (entry (.uncached 0)).bytes = true) ∧
      (let x : Machine.Group := { grpM with sb := [entry (.cache 0x10008001000)] }
       let s := stL x
       s.group? g0 = some x ∧ x.mayAccept (entry (.cache 0x10008001000)) = true ∧
         granuleOf (entry (.cache 0x10008001000)).tgt ∉ s.coh.holds ∧ (entry (.cache 0x10008001000)).nocache = false ∧
         s.llcLine 0 0x10008001000 = some line ∧ line.st ≠ .s) := by
  refine ⟨⟨rfl, rfl, rfl, by decide, rfl, rfl, rfl, rfl⟩, rfl, rfl, by decide, rfl, rfl, by decide⟩

theorem witness_AtomicIssue :
    (st grpM).fencedReady g0 grpM = true ∧ (st grpM).tile? 0 0 = some tile ∧ tile.committed = true ∧
      (let e : Enc := { srcA := 4, srcB := 8, mods := 0x1 }
       Issues (st grpM) g0 grpM e (atomDec (regKind false) true (e.sub == 7) [0, 1, 2, 3] true e) ∧
         ((st grpM).groupView g0).checkLanes ((st grpM).ctxOf g0) 4 .atomic
           ((lanesOf (grpM.guard e)).map (fun l => (l, grpM.atomAddr e l))) = .ok [rawAcc] ∧
         ((st grpM).groupView g0).checkLanes ((st grpM).ctxOf g0) 4 .lr
           ((lanesOf (grpM.guard e)).map (fun l => (l, grpM.atomAddr e l))) = .ok [rawAcc] ∧
         ((st grpM).groupView g0).checkLanes ((st grpM).ctxOf g0) 4 .sc
           ((lanesOf (grpM.guard e)).map (fun l => (l, grpM.atomAddr e l))) = .ok [rawAcc] ∧
         (∀ kind, kind < 3 → (st grpM).watchHit 0 ((st grpM).wardOf g0) kind 4 [(0, 0x30000)] = none)) ∧
      (let e : Enc := { srcA := 4, mods := 0x1 }
       Issues (st grpM) g0 grpM e (atomDec (regKind false) false false [0, 2] false e)) ∧
      (let e : Enc := { srcA := 4, srcB := 8, dst := 7, mods := 0x1 }
       Issues (st grpM) g0 grpM e (atomDec .p true false [0, 2] false e) ∧
         NMap.find rawAcc.lane grpM.resv ≠ some (.raw (lineOf 0x10008002000))) ∧
      (let x : Machine.Group := { grpM with resv := [(0, .raw 0x10008002000)] }
       let e : Enc := { srcA := 4, srcB := 8, dst := 7, mods := 0x1 }
       Issues (st x) g0 x e (atomDec .p true false [0, 2] false e) ∧
         NMap.find 0 x.resv = some (.raw (lineOf 0x10008002000)) ∧
         (st x).lpRoom (lineOf 0x10008002000) = true ∧
         (st x).accepts ((st x).groupTag g0) (lineOf 0x10008002000) = true) ∧
      (∀ a ∈ [rawAcc], ∃ pa, a.tgt = .cache pa ∨ a.tgt = .uncached pa) ∧ rawAcc.lane < 32 ∧
      (st grpM).domain ((st grpM).memDomain 0x10008002000) = .idle := by
  refine ⟨rfl, rfl, rfl, ⟨?_, rfl, rfl, rfl, by decide⟩, ?_, ⟨?_, by decide⟩, ⟨?_, rfl, rfl, rfl⟩,
    fun a ha => ⟨0x10008002000, .inr (by rcases List.mem_singleton.1 ha with rfl; rfl)⟩, by decide, rfl⟩ <;> apply issues <;>
    first | rfl | decide

/-! ### Matrix instructions -/

/-- The group of `s` at `g0` issues, whatever else `s` holds. -/
theorem issuesAt (s : State) (x : Machine.Group) (e : Enc) (d : Dec) (h0 : s.group? g0 = some x)
    (h1 : s.fetch g0 x = .ready) (h2 : s.breakHit g0 x = none) (h3 : s.canIssue x = true) (h4 : x.stepping = false)
    (h5 : e.other = none) (h6 : x.guard e ≠ 0) (h7 : d.illegal x.alloc = none) (h8 : s.regsReady g0 x e d = true) :
    Issues s g0 x e d := ⟨h0, h3, h1, h2, h5, h6, h7, h8, h4⟩

theorem witness_MatrixRegions :
    (let e : Enc := { mods := 5 }
     s0.divergent g0 grp (grp.guard e) = false ∧
       Issues s0 g0 grp e (matDec false false false (e.type != 0 || decide (e.mods.toNat > 5)) (s0.regionCond g0 grp false) e)) ∧
      (let e : Enc := { mods := 1 }
       s0.divergent g0 grp (grp.guard e) = false ∧
         Issues s0 g0 grp e (matDec false false false (e.type != 0 || decide (e.mods.toNat > 1)) (s0.regionCond g0 grp false) e) ∧
         (s0.core 0).region = none ∧ grp.threads &&& ~~~grp.active = 0) ∧
      (let s := s0.updCore 0 (fun k => { k with
         region := some { place := 0, shape := 0, stat := false, lanes := BitVec.allOnes 32, depth := 0 } })
       let e : Enc := {}
       s.divergent g0 grp (grp.guard e) = false ∧
         Issues s g0 grp e (matDec false false false (e.type != 0 || e.mods != 0) (s.regionCond g0 grp true) e) ∧
         (s.core 0).queue.length < 8) := by
  refine ⟨⟨rfl, ?_⟩, ⟨rfl, ?_, rfl, rfl⟩, rfl, ?_, by decide⟩ <;> apply issuesAt <;> first | rfl | decide

def region (shape : BitVec 3) : Region :=
  { place := 0, shape := shape, stat := false, lanes := BitVec.allOnes 32, depth := 0 }

/-- A group whose u2 and u3 are `a` and `b`, in an open region; accumulator set 0 is valid. -/
def grpX (a b : DWord) : Machine.Group := { grp with u := [(2, a), (3, b)] }

def sX (a b : DWord) : State :=
  (st (grpX a b)).updCore 0 (fun k => { k with region := some (region 0), acc := [(0, { valid := true })] })

/-- u2, u3 and u4 (zero) as SRCA, SRCB and SRCC; SRCC is u3 where asked. -/
def encX (type : BitVec 4) (srcB srcC : BitVec 8) (mods : BitVec 16) : Enc :=
  { type := type, srcA := 2, srcB := srcB, srcC := srcC, mods := mods }

theorem witness_MatrixInstructionsQueue :
    (let x := grpX 0x20000 0x1000010000; let s := sX 0x20000 0x1000010000; let e := encX 4 3 0 0
     s.divergent g0 x (x.guard e) = false ∧ (s.core 0).queue.length < 8 ∧ Issues s g0 x e (s.mloadDec g0 e x) ∧
       x.fence = none ∧ x.atoms = [] ∧ (x.ru e.a).toNat % 16 = 0 ∧ x.uf e.b 63 32 % 16 = 0 ∧
       s.extent g0 .read (lowestLane (x.guard e)) (mloadRows false false 0 4 0x20000 1 16) =
         .ok (List.replicate 32 (0x20, .cache 0x10008001000)) ∧
       s.watchExtent g0 0 (mloadRows false false 0 4 0x20000 1 16) = none) ∧
      (let x := grpX 0 1; let s := sX 0 1; let e := encX 4 3 0 0
       s.divergent g0 x (x.guard e) = false ∧ Issues s g0 x e (s.mstatDec g0 e x)) ∧
      (let x := grpX 0 1; let s := sX 0 1; let e := encX 4 4 3 0
       s.divergent g0 x (x.guard e) = false ∧ Issues s g0 x e (s.mmaDec g0 e x)) ∧
      (let x := grpX 0 0x8000000000000000; let s := sX 0 0x8000000000000000; let e := encX 6 3 0 0
       s.divergent g0 x (x.guard e) = false ∧ Issues s g0 x e (s.mdrainDec g0 e x) ∧ x.sb.length < 32 ∧
         (x.ru e.b).getLsbD 63 = true) ∧
      (let x := grpX 0x20000 128; let s := sX 0x20000 128; let e := encX 7 3 0 0
       s.divergent g0 x (x.guard e) = false ∧ Issues s g0 x e (s.mdrainDec g0 e x) ∧ (x.ru e.b).getLsbD 63 = false ∧
         0x20000 % drainBytes 7 = 0 ∧
         s.extent g0 .write (lowestLane (x.guard e)) (drainRows (region 0) 7 0x20000 128) =
           .ok (List.replicate 32 (0x20, .cache 0x10008001000)) ∧
         s.watchExtent g0 1 (drainRows (region 0) 7 0x20000 128) = none) ∧
      (∀ mods ∈ [(0 : BitVec 16), 8], let x := grpX 1 0; let s := sX 1 0; let e := encX 0 0 0 mods
       s.divergent g0 x (x.guard e) = false ∧ Issues s g0 x e (s.mrelayDec g0 e x) ∧ x.drained = true ∧
         (field e.mods 3 2 = 0 ∨ s.hasPrev g0.core true = false)) ∧
      (let x := grpX 0 0; let s := sX 0 0; let e : Enc := { dst := 7 }
       s.divergent g0 x (x.guard e) = false ∧ Issues s g0 x e (s.mchkDec g0 e x)) := by
  refine ⟨⟨rfl, by decide, ?_, rfl, rfl, rfl, rfl, rfl, rfl⟩, ⟨rfl, ?_⟩, ⟨rfl, ?_⟩, ⟨rfl, ?_, by decide, rfl⟩,
    ⟨rfl, ?_, rfl, rfl, rfl, rfl⟩, fun mods hm => ?_, rfl, ?_⟩
  any_goals (apply issuesAt <;> first | rfl | decide)
  simp only [List.mem_cons, List.not_mem_nil, or_false] at hm
  rcases hm with rfl | rfl <;> refine ⟨rfl, ?_, rfl, by decide⟩ <;> apply issuesAt <;> first | rfl | decide

/-! ### Sync instructions, the ends of threads -/

/-- Context 1 maps tumbler identifier 7 to this module's tumbler 100; hasp line 15 is bound to core 0. -/
def sY : State :=
  { s0 with
    fe := { s0.fe with ctxs := [(1, { ward := 1, state := .resident, map := [(7, ⟨100, 0, false, false, false⟩)] })] }
    hasps := [(15, { launch := 0, cores := [(0, 0)] })] }

theorem witness_SyncInstructions :
    sY.syncReady g0 grp = true ∧ sY.tile? g0.core grp.tile = some tile ∧ tile.committed = true ∧
      (∀ e ∈ [({ mods := 0x102F } : Enc), { mods := 0x7, srcC := 0xC0 }],
        Issues sY g0 grp e (syDecode { loc := true, dec := true, val := true } none e grp) ∧
          Issues sY g0 grp e (syDecode { loc := true, val := true, pdst := true, tmo := true } none e grp) ∧
          Issues sY g0 grp e (syDecode { loc := true, val := true, pdst := true } none e grp)) ∧
      (syLoc { mods := 0x102F } = true ∧ grp.syId { mods := 0x102F } < 48) ∧
      (syLoc { mods := 7, srcC := 0xC0 } = false ∧
        NMap.find (grp.syId { mods := 7, srcC := 0xC0 }) (sY.ctx (sY.ctxOf g0)).map = some ⟨100, 0, false, false, false⟩) ∧
      (Issues sY g0 grp { mods := 15 } (sY.haspDec g0 { mods := 15 } grp) ∧
        sY.haspOf tile.launch tile.index 15 = some { launch := 0, cores := [(0, 0)] }) ∧
      ∀ e ∈ [({} : Enc), { mods := 4 }], Issues sY g0 grp e (syDecode {} (some 5) e grp) := by
  refine ⟨rfl, rfl, rfl, fun e he => ?_, ⟨rfl, by decide⟩, ⟨rfl, rfl⟩, ⟨?_, rfl⟩, fun e he => ?_⟩
  · simp only [List.mem_cons, List.not_mem_nil, or_false] at he
    rcases he with rfl | rfl <;> refine ⟨?_, ?_, ?_⟩ <;> apply issuesAt <;> first | rfl | decide
  · apply issuesAt <;> first | rfl | decide
  · simp only [List.mem_cons, List.not_mem_nil, or_false] at he
    rcases he with rfl | rfl <;> apply issuesAt <;> first | rfl | decide

/-- Two groups of one tile on core 0. -/
def sZ : State := s0.updCore 0 (fun k => { k with groups := [(0, grp), (1, { grp with index := 1 })] })

theorem witness_ThreadEndAndDebugBreak :
    (s0.tile? g0.core grp.tile = some tile ∧ sZ.tile? g0.core grp.tile = some tile ∧ ∀ x, (st x).tile? g0.core 0 = some tile) ∧
      (let x : Machine.Group := { grp with p := [(1, 1)] }
     Issues (st x) g0 x { pred := 1 } { rsv := plainRsv { pred := 1 } } ∧ x.threads &&& ~~~x.guard { pred := 1 } ≠ 0) ∧
      (Issues sZ g0 grp {} { rsv := plainRsv {} } ∧ grp.threads &&& ~~~grp.guard {} = 0 ∧ grp.loads = [] ∧ grp.atoms = [] ∧
        grp.fence = none ∧ sZ.matrixBusy g0 = false ∧ sZ.localPosted g0 = false ∧ sZ.hasps = [] ∧ (sZ.core 0).region = none ∧
        ∃ p ∈ (sZ.core g0.core).groups, p.1 ≠ g0.place ∧ p.2.tile = grp.tile) ∧
      (let e : Enc := { mods := 1 }
       Issues s0 g0 grp e { ops := [(.none, e.d), (.none, e.a), (.none, e.b)], rsv := e.type != 0 || field e.imm 23 8 != 0 } ∧
         Issues s0 g0 grp e { ops := [(.none, e.d), (.none, e.a), (.none, e.b)], rsv := e.type != 0 || field e.imm 23 16 != 0 } ∧
         grp.drained = true ∧ grp.fence = none ∧ grp.sb = [] ∧ s0.pendingP g0 grp = [] ∧ grp.threads = BitVec.allOnes 32 ∧ s0.hasRight 0 (s0.wardOf g0) = false) ∧
      (let x : Machine.Group := { grp with active := 7, threads := 7 }
       ∀ e ∈ [({} : Enc), { mods := 1 }],
         Issues (st x) g0 x e { ops := [(.none, e.d), (.none, e.a), (.none, e.b)], rsv := e.type != 0 || field e.imm 23 8 != 0 } ∧
           x.threads ≠ BitVec.allOnes 32 ∧ x.stack = [] ∧ (st x).repackRefused g0 x = false ∧
           (st x).parkedAt g0 x.tile x.pc = [] ∧ (st x).pendingP g0 x = [] ∧ x.loads = [] ∧ x.atoms = [] ∧ x.fence = none ∧
           x.sb = []) ∧
      (let s : State := { s0 with sec := { s0.sec with tokens := [(0, { wfirst := 1, wlast := 1, rights := 1, expiry := 1000 })] } }
       let e : Enc := { mods := 0xFFFF }
       Issues s g0 grp e { ops := [(.none, e.d), (.none, e.a), (.none, e.b)], rsv := e.type != 0 || field e.imm 23 16 != 0 } ∧
         s.hasRight 0 (s.wardOf g0) = true ∧ s.matrixBusy g0 = false ∧ s.dbg.elbase = 0 ∧ s.dbg.tren = false) := by
  refine ⟨⟨rfl, rfl, fun _ => rfl⟩, ⟨?_, by decide⟩,
    ⟨?_, rfl, rfl, rfl, rfl, rfl, rfl, rfl, rfl, (1, { grp with index := 1 }), ?_, ?_, rfl⟩,
    ⟨?_, ?_, rfl, rfl, rfl, rfl, rfl, by decide⟩, fun e he => ?_, ?_, by decide, rfl, rfl, rfl⟩
  any_goals (apply issuesAt <;> first | rfl | decide)
  · decide
  · decide
  · simp only [List.mem_cons, List.not_mem_nil, or_false] at he
    rcases he with rfl | rfl <;> refine ⟨?_, by decide, rfl, rfl, rfl, rfl, rfl, rfl, rfl, rfl⟩ <;> apply issuesAt <;>
      first | rfl | decide

/-! ### Events of groups, tumblers and the array -/

def quiet (y : Machine.Group) : Bool := y.halted == false && y.pcWritten == false && y.haltReq == none && y.stepping == false

/-- `st x` with a fence, a wait or loads; the timebase stands at 512 ns. -/
def stT (x : Machine.Group) : State := { st x with time := { now := 512 } }

theorem witness_GroupEvents :
    (let x : Machine.Group := { grp with wait := .parked }
     (st x).group? g0 = some x ∧ quiet x = true ∧ x.wait = .parked) ∧
      (let x : Machine.Group := { grp with wait := .merging 1 true }
       let s := (st x).updCore 0 (fun k => { k with groups := [(0, x), (1, grp)] })
       s.group? g0 = some x ∧ x.wait = .merging 1 true ∧ s.group? ⟨0, 1⟩ = some grp ∧ quiet grp = true ∧ grp.threads ≠ 0 ∧
         (∀ q ∈ (s.core g0.core).groups, q.2.pending = none) ∧ s.tile? g0.core x.tile = some tile ∧ tile.late = []) ∧
      (let x : Machine.Group := { grp with wait := .twait true 3 0 5 7 (some 512) }
       (stT x).group? g0 = some x ∧ x.wait = .twait true 3 0 5 7 (some 512) ∧ 512 ≤ (stT x).time.now.toNat ∧
         (stT x).fe.frozen = none) ∧
      (∀ scope < 5, let x : Machine.Group := { grp with fence := some { done := false, scope := scope, order := 1 } }
        (st x).group? g0 = some x ∧ quiet x = true ∧
          ∀ f, x.fence = some f → x.fenceMet f = true ∧ f.done = false ∧ f.scope = scope) ∧
      (let f : FenceWait := { done := true, scope := 4, order := 1 }
       let x : Machine.Group := { grp with wait := .fenceDone, fence := some f }
       (st x).group? g0 = some x ∧ x.fence = some f ∧ x.fenceMet f = true ∧ f.done = true ∧ 2 ≤ f.scope ∧
         x.dirtied = [] ∧ x.winDone = [] ∧ x.undeliv = none) ∧
      (let s : State := { s0 with coh := { caches := [(stopOfDie 0, [(0x10008000000, line)])] } }
       s.group? g0 = some grp ∧ quiet grp = true ∧ (s.groupView g0).resolve (s.ctxOf g0) grp.pc.toNat .fetch =
         .ok (.cache 0x10008000000) ∧ s.viaLlc g0.core (5 + g0.place) = true ∧
         s.llcLine g0.core 0x10008000000 = some line ∧ line.poison = false ∧ (s.core g0.core).lineReads = [] ∧
         (s.core g0.core).icache.length < 512) ∧
      (let x : Machine.Group := { grp with wait := .page 0x40FFF 0 false }
       let s : State := { st x with io := { (st x).io with requests := [(0, 0x40)] } }
       s.group? g0 = some x ∧ quiet x = true ∧ (0, 0x40FFF / 4096) ∈ s.io.requests ∧
         (∀ c ∈ s.fe.ctxs, c.2.activating = false ∧ c.2.rings = []) ∧
         (∀ n, (s.ctx n).owedPins = [] ∧ (s.ctx n).owedFaults = []) ∧
         s.pageWaiters 0 (0x40FFF / 4096) = [(g0, 0x40FFF, 0)]) := by
  refine ⟨⟨rfl, rfl, rfl⟩, ⟨rfl, rfl, rfl, rfl, by decide, ?_, rfl, rfl⟩, ⟨rfl, rfl, by decide, rfl⟩, fun scope _ => ?_,
    ⟨rfl, rfl, rfl, rfl, by decide, rfl, rfl, rfl⟩, ⟨rfl, rfl, rfl, rfl, rfl, rfl, rfl, by decide⟩,
    rfl, rfl, by decide, ?_, fun n => ?_, rfl⟩
  · intro q hq
    rcases List.mem_cons.1 hq with rfl | hq
    · rfl
    · rcases List.mem_singleton.1 hq with rfl; rfl
  · refine ⟨rfl, rfl, fun f hf => ?_⟩
    cases hf
    exact ⟨rfl, rfl, rfl⟩
  · intro c hc
    rcases List.mem_singleton.1 hc with rfl
    exact ⟨rfl, rfl⟩
  · unfold State.ctx NMap.findD
    rcases n with _ | _ | n <;> exact ⟨rfl, rfl⟩

def areq (result : Option (List (Nat × DWord))) : AtomReq :=
  { order := 0, pc := 0x10000, op := some .add, width := 8, signed := false, dst := 254, tgt := .uncached 0x10008002000
    va := 0x30000, lanes := [(31, 5, 0)], result := result }

theorem witness_AtomicCompletes :
    (let x : Machine.Group := { grp with atoms := [areq none] }
     (st x).group? g0 = some x ∧ (areq none).lanes = [(31, 5, 0)] ∧ x.atoms[0]? = some (areq none) ∧ 0x10008002000 % 8 = 0 ∧
       (st x).domain ((st x).memDomain 0x10008002000) = .idle ∧ lineOf 0x10008002000 ∉ (st x).ms.mem.poison ∧
       (st x).accepts 0 (lineOf 0x10008002000) = true ∧ granuleOf (areq none).tgt ∉ (st x).coh.holds ∧
       ∀ q ∈ x.atoms, (st x).atomBad q = false) ∧
      (let r := areq (some [(31, 7)])
       let x : Machine.Group := { grp with atoms := [r] }
       (st x).group? g0 = some x ∧ x.atoms = [r] ∧ r.poison = false ∧ r.dst + r.width / 4 ≤ 256) := by
  refine ⟨⟨rfl, rfl, rfl, rfl, rfl, by decide, rfl, by decide, fun q hq => ?_⟩, rfl, rfl, rfl, by decide⟩
  rcases List.mem_singleton.1 hq with rfl
  rfl

def tq (o : TumOp) : TumReq := ⟨.peer 1 9, 65535, o⟩

theorem witness_TumblerOperations :
    (∀ o ∈ [TumOp.arrive (2 ^ 32 - 1), .depart 1, .test 0, .wait 1],
      let s : State := { s0 with tumq := [tq o] }
      s.waiters = [] ∧ (s.tum 65535).armed = false ∧ s.tumq = tq o :: []) ∧ (s0.tum 65535).count < 1 ∧
      (let x : Machine.Group := { grp with wait := .ttest true 47 0 1 7 }
       let s := (st x).updCore 0 (fun k => { k with ltq := [{ tile := 0, id := 47, op := .test 1, place := 0 }] })
       s.group? ⟨0, 0⟩ = some x ∧ quiet x = true ∧ s.tile? 0 x.tile = some tile ∧
         (s.core 0).ltq = [{ tile := x.tile, id := 47, op := .test 1, place := 0 }]) ∧
      (let x : Machine.Group := { grp with wait := .twait false 7 65535 5 7 (some 9) }
       let s : State := { st x with tumq := [tq (.arrive 5)], waiters := [⟨.group g0, 65535, 5⟩] }
       s.group? g0 = some x ∧ quiet x = true ∧ (s.tum 65535).armed = false ∧ (s.tum 65535).s = false ∧
         (s.tum 65535).count + 5 < 2 ^ 32 ∧ 5 ≤ (s.tum 65535).count + 5) := by
  refine ⟨fun o ho => ?_, by decide, ⟨rfl, rfl, rfl, rfl⟩, rfl, rfl, rfl, rfl, by decide, by decide⟩
  simp only [List.mem_cons, List.not_mem_nil, or_false] at ho
  rcases ho with rfl | rfl | rfl | rfl <;> exact ⟨rfl, rfl, rfl⟩

def ment (i : MInstr) : MEntry := { place := 0, order := 0, pc := 0x10000, instr := i }

/-- Core 0 with an open region, accumulator set 0 valid, and `q` queued and `r` running in its array. -/
def sA (q r : List MEntry) : State :=
  s0.updCore 0 (fun k => { k with region := some (region 0), acc := [(0, { valid := true })], queue := q, running := r })

theorem witness_ArrayEvents :
    (∀ i ∈ [MInstr.mclose, .mchk 0 7 1], let s := sA [ment i] []
      (s.core 0).queue = ment i :: [] ∧ (s.core 0).region = some (region 0) ∧ s.regionTile 0 = some 0 ∧
        mayStart (s.core 0).running i = true ∧ ((s.core 0).accSet 0).mismatch false = false) ∧
      (∀ i ∈ [MInstr.mclose, .mchk 0 7 1], let s := sA [] [ment i]
        (s.core 0).running = ment i :: [] ∧ (ment i).poison = none ∧ (ment i).held = false ∧
          s.group? ⟨0, (ment i).place⟩ = some grp ∧ grp.haltReq = none) ∧
      (let m : MEntry := { ment (.mrelay 0 0 false) with held := true }
       let l : Launch := { lnch with chain := [(0, 0), (0, 1)] }
       let s : State := { sA [] [m] with fe := { (sA [] [m]).fe with launches := [(0, l)] } }
       (s.core 0).running = [m] ∧ (s.core 0).region = some (region 0) ∧ s.regionTile 0 = some 0 ∧
         s.tile? 0 0 = some tile ∧ s.launch? tile.launch = some l ∧ ((s.core 0).accSet 0).mismatch false = false ∧
         chainNext l.chain false (s.here, 0) = some (s.here, 1) ∧ (1 : Nat) ≠ 0 ∧ ((s.core 1).relay false).inq = [] ∧
         ((s.core 1).relay false).last = none) := by
  refine ⟨fun i hi => ?_, fun i hi => ?_, rfl, rfl, rfl, rfl, rfl, rfl, rfl, by decide, rfl, rfl⟩ <;>
    simp only [List.mem_cons, List.not_mem_nil, or_false] at hi <;> rcases hi with rfl | rfl <;>
    exact ⟨rfl, rfl, rfl, rfl, rfl⟩

theorem witness_TileFaultEvents :
    (let m : MEntry := { ment (.mload false 4 0x20000 0 1 0 []) with poison := some 0x10008001000 }
     let s := sA [] [m]
     s.tile? 0 0 = some tile ∧ (s.core 0).running = [m] ∧ m.poison = some 0x10008001000 ∧
       s.group? ⟨0, m.place⟩ = some grp ∧ grp.tile = 0 ∧ s.merging 0 0 = false) ∧
      (let s : State := { s0 with time := { now := 4000 } }
       s.tile? 0 0 = some tile ∧ 4 * tile.budget ≤ tile.elapsed s.nowN ∧ s.fe.frozen = none ∧ s.merging 0 0 = false) ∧
      (let s : State := { s0 with
        time := { now := 1000 }
        fe := { s0.fe with launches := [(0, { lnch with origin := some 1 })] } }
       s.tile? 0 0 = some tile ∧ tile.overrun = false ∧ tile.budget ≤ tile.elapsed s.nowN ∧ s.fe.frozen = none ∧
         ∃ l, s.launch? tile.launch = some l ∧ l.origin.isSome = true) := by
  refine ⟨⟨rfl, rfl, rfl, rfl, rfl, rfl⟩, ⟨rfl, by decide, rfl, rfl⟩, rfl, rfl, by decide, rfl, _, rfl, rfl⟩

/-! ### Spindles, placement, retirement -/

/-- Core 0 runs spindle 3 as `sp`; its tile's local tumblers 1 and 2 hold 2. -/
def tileL : Tile := { tile with lt := [(1, { count := 2 }), (2, { count := 2 })] }

def sS (sp : Spindle) : State :=
  ({ s0 with fe := { s0.fe with launches := [(0, { lnch with kind := .fill 0x20000 256 7 })] } } : State).updCore 0 (fun k => { k with tiles := [(0, tileL)], spindles := [(3, sp)] })

def hdr0 : SpHdr := { fullt := 1, emptt := 2, nbuf := 2 }

theorem witness_SpindleEvents :
    (∀ sp, (sS sp).spTile 0 = some (0, tileL) ∧ (sS sp).tile? 0 0 = some tileL ∧
      NMap.find 3 ((sS sp).core 0).spindles = some sp ∧ ∀ i, ((sS sp).core 0).localWaiters 0 i = []) ∧
      (let sp : Spindle := { phase := .waitEmpt, met := true, hdr := hdr0 }
       sp.phase = .waitEmpt ∧ sp.met = true ∧ (NMap.findD {} sp.hdr.emptt tileL.lt).s = false ∧
         1 ≤ (NMap.findD {} sp.hdr.emptt tileL.lt).count) ∧
      (let sp : Spindle := { phase := .run, raised := 0, ended := 1, hdr := hdr0 }
       sp.raised < sp.ended ∧ (NMap.findD {} sp.hdr.fullt tileL.lt).s = false ∧
         (NMap.findD {} sp.hdr.fullt tileL.lt).count + 1 < 2 ^ 32 ∧ sp.fillsat = false ∧ sp.fills + 1 < 2 ^ 31) ∧
      (let sp : Spindle := { phase := .final, raised := 3, ended := 3, started := 3, hdr := hdr0 }
       sp.phase = .final ∧ sp.raised = sp.ended ∧ sp.hdr.status = 0 ∧ (NMap.findD {} sp.hdr.emptt tileL.lt).s = false ∧
         Nat.min sp.started sp.hdr.nbuf ≤ (NMap.findD {} sp.hdr.emptt tileL.lt).count) ∧
      (let sp : Spindle := { phase := .run, prog := .fill 0x20000 256 7 }
       sp.phase = .run ∧ (sS sp).power.on = true ∧ (sS sp).fe.frozen = none ∧
         (sS sp).launch? tileL.launch = some { lnch with kind := .fill 0x20000 256 7 } ∧
         ((sS sp).spView 0).resolve tileL.ctx (0x20000 + sp.pos) .write = .ok (.cache 0x10008001000) ∧
         sp.pos + Nat.min (256 - sp.pos) (128 - (0x20000 + sp.pos) % 128) < 256) ∧
      ({ phase := .start, prog := .fill 0x20000 256 7 } : Spindle).phase = .start := by
  refine ⟨fun sp => ⟨rfl, rfl, rfl, fun i => rfl⟩, ⟨rfl, rfl, rfl, by decide⟩, ⟨by decide, rfl, by decide, rfl, by decide⟩,
    ⟨rfl, rfl, rfl, rfl, by decide⟩, ⟨rfl, rfl, rfl, rfl, rfl, by decide⟩, rfl⟩

def lnch2 : Launch := { lnch with next := 0, total := 2, fields := { gx := 2, gy := 1, gz := 1, nthread := 33, regs := 0 } }

/-- The front end serves a LAUNCH of two tiles of 33 threads with core 0 in its span and no tile placed. -/
def sP (l : Launch) : State :=
  { s0 with
    fe := { s0.fe with en := true, launches := [(0, l)] }
    cores := [] }

theorem witness_TilesArePlaced :
    (let s := sP lnch2
     s.launch? 0 = some lnch2 ∧ lnch2.kind = .launch ∧ s.feServes = true ∧ s.domain (s.halfOf 0) = .idle ∧
       s.dbg.tren = false ∧ 0 < groupsPerTile lnch2.fields ∧ s.coreLaunch 0 = some (0, lnch2) ∧
       s.nextTile 0 lnch2 = some 0 ∧ lnch2.hasps = [] ∧ (∀ k ∈ s.fe.launches, k.2.origin = none) ∧
       (s.ctx lnch2.ctx).holdsSlot s.fe.slots lnch2.ctx = false) ∧
      (let r : Replay := { index := 1, mism := 1, on := some 0 }
       let l : Launch := { lnch2 with next := 2, replays := [r] }
       let s := sP l
       s.launch? 0 = some l ∧ l.kind = .launch ∧ s.feServes = true ∧ s.domain (s.halfOf 0) = .idle ∧
         s.dbg.tren = false ∧ 0 < groupsPerTile l.fields ∧ l.replays = [r] ∧ s.coreCtx 0 = some l.ctx ∧
         s.ctxReplay 0 l.ctx = some (0, 0, r)) := by
  refine ⟨⟨rfl, rfl, rfl, rfl, rfl, by decide, rfl, rfl, rfl, ?_, rfl⟩, rfl, rfl, rfl, rfl, rfl, by decide, rfl, ?_, ?_⟩
  rotate_left
  · decide +kernel
  · decide +kernel
  intro k hk
  rcases List.mem_singleton.1 hk with rfl
  rfl

theorem witness_CoreRetires :
    (let s := s0.setCore 767 { retiring := true }
     let m := s.spareMap (dieOfCore 767)
     s.power.on = true ∧ (s.core 767).retiring = true ∧ (s.core 767).tiles = [] ∧ m.fenced = false ∧ m.spares ≠ 0 ∧
       96 ∉ NMap.vals m.map ∧ m.retired.getLsbD 96 = false ∧
       (∀ q, q < 96 → q ∈ NMap.vals m.map ∨ m.retired.getLsbD q = true) ∧ s.positionOf 767 < 100) ∧
      (let s : State := { s0 with sec := { s0.sec with unrecorded := [7] } }
       s.power.on = true ∧ 7 ∈ s.sec.unrecorded) := by
  refine ⟨⟨rfl, rfl, rfl, rfl, by decide, by decide, rfl, fun q hq => .inl ?_, by decide⟩, rfl, by decide⟩
  revert q
  decide

theorem witness_FencedDieGoesOff :
    ∀ die < 8, s0.fenced die = false ∧ s0.power.on = true ∧ s0.stage = .ready := by decide

/-! ### Coherence -/

def pa0 : Nat := 0x10008001000
def reg0 : Nat := s0.regionOfLine pa0

/-- Line `pa0` with transaction `t`, held by the stop of die 0 as `line`; its region has a filter entry. -/
def sC (t : Txn) (l : CLine) : State :=
  { s0 with coh := { s0.coh with
    txns := [(pa0, t)]
    caches := [(stopOfDie 0, [(pa0, l)])]
    filter := [(reg0, 1)] } }

theorem witness_LineRequests :
    (let own : Txn := { stop := stopOfDie 0, kind := .own }
     ∀ coh ∈ [s0.coh, { s0.coh with txns := [(pa0, own)] }], let s : State := { s0 with coh := coh }
       s.isLp pa0 = true ∧ s.asked 10 pa0 = false ∧ s.outstanding 10 < 256 ∧ s.domain (s.memDomain pa0) = .idle ∧
         (∀ b ∈ s.coh.backInv, b.region ≠ s.regionOfLine pa0) ∧ s.hostRuns = true ∧
         s.hostReaches pa0 = true ∧ s.cacheOf 10 = [] ∧ (∀ r ∈ s.coh.retries, r.line ≠ pa0) ∧
         pa0 ∉ s.coh.atomBuf) ∧
      NMap.has pa0 s0.coh.txns = false ∧ NMap.has pa0 (sC { stop := 10, kind := .own } line).coh.txns = true ∧
      (∀ h : Bool, let t : Txn := { stop := 10, kind := .own, toSnoop := [stopOfDie 0] }
        let l : CLine := { line with st := .m, hold := h }
        NMap.find pa0 (sC t l).coh.txns = some t ∧ stopOfDie 0 ∈ t.toSnoop ∧ stopOfDie 0 ≠ 10 ∧
          (sC t l).firstSnoop (stopOfDie 0) ((sC t l).regionOfLine pa0) t.seq = true ∧
          NMap.find pa0 ((sC t l).cacheOf (stopOfDie 0)) = some l ∧ l.hold = h ∧ t.kind ≠ .read ∧
          stopOfDie 0 ∉ t.toAnswer ∧ (sC t l).coh.holds = []) ∧
      (∀ stop ∈ [0, 5], NMap.find pa0 (s0.cacheOf stop) = none) ∧
      (let a : SnoopAnswer := { stop := stopOfDie 0, empty := true }
       let t : Txn := { stop := 10, kind := .own, toAnswer := [stopOfDie 0], answers := [a] }
       let s := sC t line
       NMap.find pa0 s.coh.txns = some t ∧ t.answers = [a] ∧ a.stop = stopOfDie 0 ∧
         s.firstAnswer (stopOfDie 0) (s.homeOf pa0) a.seq = true ∧ t.memData = none ∧
         (NMap.findD [] (s.homeOf pa0) s.ms.lpIn).length + 2 ≤ 32 ∧ s.coh.sent = [] ∧ s.dbg.elbase = 0 ∧
         s.dbg.tren = false) := by
  refine ⟨fun coh hc => ?_, rfl, rfl, fun h => ⟨rfl, by decide, by decide, by cases h <;> decide +kernel, rfl, rfl, by decide, by decide, rfl⟩,
    by decide, rfl, rfl, rfl, by decide +kernel, rfl, by decide, rfl, rfl, rfl⟩
  simp only [List.mem_cons, List.not_mem_nil, or_false] at hc
  rcases hc with rfl | rfl <;> refine ⟨rfl, rfl, by decide, rfl, ?_, rfl, rfl, rfl, ?_, ?_⟩ <;> decide

theorem witness_LineGrants :
    (∀ k ∈ [CohKind.read, .own, .claim], let t : Txn := { stop := stopOfDie 1, kind := k, way := 15, memData := some ⟨[], false, 0⟩ }
      let s := sC t line
      NMap.find pa0 s.coh.txns = some t ∧ t.granted = false ∧ t.toSnoop = [] ∧ t.ticket = 0 ∧ t.toAnswer = [] ∧
        s.hasEntry (s.regionOfLine pa0) = true ∧ t.stop ≠ 10 ∧ t.kind ≠ .upgrade ∧ t.way < 16 ∧
        s.zlineNext t.stop pa0 = false ∧ (if t.dirty.isSome then t.dirty else t.memData) = some ⟨[], false, 0⟩) ∧
      (let t : Txn := { stop := stopOfDie 0, kind := .claim, way := 15 }
       let z : SbEntry := { (entry (.cache pa0)) with zline := some false }
       let s : State := { st { grpM with sb := [z] } with coh := (sC t line).coh }
       NMap.find pa0 s.coh.txns = some t ∧ s.hasEntry (s.regionOfLine pa0) = true ∧ t.stop ≠ 10 ∧
         s.zlineNext t.stop pa0 = true) ∧
      (let t : Txn := { stop := stopOfDie 7, kind := .read, granted := true }
       let s := sC t line
       NMap.find pa0 s.coh.txns = some t ∧ t.granted = true ∧ s.firstAnswer t.stop (s.homeOf pa0) t.doneSeq = true ∧
         t.stop < 11 ∧ (s.regionOfLine pa0, 1) ∈ s.coh.filter) ∧
      (let r : Retry := { stop := stopOfDie 0, line := pa0, kind := .read, way := 0, called := true }
       let s : State := { s0 with coh := { s0.coh with retries := [r] } }
       s.coh.retries = r :: [] ∧ r.called = true ∧ r.stop ≠ 10 ∧ NMap.has pa0 s.coh.txns = false ∧ r.kind ≠ .upgrade) := by
  refine ⟨fun k hk => ?_, ⟨rfl, rfl, by decide, by decide +kernel⟩, ⟨rfl, rfl, by decide +kernel, by decide,
    List.mem_singleton.2 rfl⟩, rfl, rfl, by decide, rfl, by decide⟩
  simp only [List.mem_cons, List.not_mem_nil, or_false] at hk
  rcases hk with rfl | rfl | rfl <;> exact ⟨rfl, rfl, rfl, rfl, rfl, rfl, by decide, by decide, by decide, by decide +kernel, rfl⟩

theorem witness_WritesAndScrubs :
    (let b : BackInv := { region := reg0, stops := [stopOfDie 0] }
     let s : State := { s0 with coh := { s0.coh with
       backInv := [b], filter := [(reg0, 1)], caches := [(stopOfDie 0, [(pa0, line)])] } }
     s.coh.backInv = [b] ∧ b.stops = [stopOfDie 0] ∧ stopOfDie 0 ≠ 10 ∧ s.firstSnoop (stopOfDie 0) reg0 b.seq = true ∧
       (∀ l ∈ s.cacheOf (stopOfDie 0), l.2.hold = false) ∧ s.regionOfLine pa0 = reg0) ∧
      (let m : Miss := { stop := stopOfDie 0, line := pa0, kind := .read, way := 15, accepted := true }
       let s : State := { s0 with coh := { s0.coh with misses := [m] } }
       s.coh.misses = [m] ∧ m.stop = stopOfDie 0 ∧ m.accepted = true ∧ NMap.has pa0 s.coh.txns = false ∧
         (∀ r ∈ s.coh.retries, r.line ≠ pa0) ∧ pa0 ∉ s.coh.atomBuf) ∧
      (∀ tag : Bool, let w : MemWrite := { line := pa0, bytes := [(0, 1), (127, 2)], tag := if tag then s0.tagNow + 1 else 0 }
        let s : State := { s0 with coh := { s0.coh with sent := [w] } }
        s.coh.sent = w :: [] ∧ w.victim = none ∧ s.lpRoom pa0 = true ∧ NMap.wf w.bytes = true ∧ s.accepts w.tag pa0 = !tag) ∧
      s0.power.on = true ∧ s0.isLp (pa0 + 127) = true ∧ (∃ d, s0.homeOf (lineOf (pa0 + 127)) = d) ∧ s0.dbg.elbase = 0 ∧
      s0.dbg.tren = false := by
  refine ⟨⟨rfl, rfl, by decide, by decide +kernel, ?_, rfl⟩, ⟨rfl, rfl, rfl, rfl, ?_, ?_⟩, fun tag => ?_, rfl, rfl, ⟨_, rfl⟩, rfl, rfl⟩
  · intro l hl
    rcases List.mem_singleton.1 hl with rfl
    rfl
  · decide
  · decide
  · cases tag <;> exact ⟨rfl, rfl, rfl, rfl, rfl⟩

/-! ### Rings and commands -/

def cmd (op desc : Nat) : Cmd := { count := 5, desc := BitVec.ofNat 512 (op * 2 ^ 24 + desc) }

/-- The admin ring as `r`, and memory with the bytes `cells`. -/
def sAd (r : Ring) (cells : List Host.Cell) : State :=
  { s0 with
    fe := { s0.fe with en := true, admin := r, ringbase := 0x10008020000 }
    ms := { s0.ms with mem := { cells := cells } } }

def adm : Ring := { dbell := 0x10008010000, rbase := 0x10008011000, cbase := 0x10008012000, msiaddr := 0x14000000, msidata := 1 }

theorem witness_RingFetch :
    (∀ t ∈ [(0 : Nat), 1, 64, 65], let s := sAd adm (if t = 0 then [] else [(0x10008010000, BitVec.ofNat 8 t)])
      s.feServes = true ∧ s.dbg.tren = false ∧ s.cohNat adm.dbell 8 = t ∧
        s.cohNat (adm.rbase + 64 * (adm.head % 2 ^ adm.rlog2)) 64 = 0) ∧
      stampOk adm adm.head 0 = false ∧ adm.window ≠ 0 ∧
      (let s := sAd adm [(0x10008010000, 1), (0x10008011002, 3)]
       let d := s.cohNat (adm.rbase + 64 * (adm.head % 2 ^ adm.rlog2)) 64
       s.cohNat adm.dbell 8 = 1 ∧ stampOk adm adm.head d = true ∧ nfield d 31 24 = 0 ∧ nfield d 20 17 = 1) ∧
      (let r : Ring := { adm with tail := 1, reread := true, tries := 8 }
       let s := sAd r []
       s.feServes = true ∧ r.reread = true ∧ r.dbOwed = false ∧ r.dberr = false ∧ r.head ≠ r.tail ∧ r.window ≠ 0 ∧ r.waitdb = false ∧
         stampOk r r.head (s.cohNat (r.rbase + 64 * (r.head % 2 ^ r.rlog2)) 64) = false) := by
  refine ⟨fun t ht => ?_, rfl, by decide, ⟨rfl, by decide +kernel, by decide +kernel, by decide +kernel⟩,
    rfl, rfl, rfl, rfl, by decide, by decide, rfl, by decide +kernel⟩
  simp only [List.mem_cons, List.not_mem_nil, or_false] at ht
  rcases ht with rfl | rfl | rfl | rfl <;> exact ⟨rfl, rfl, by decide +kernel, by decide +kernel⟩

/-- A scratch share of context 1 in die 0, which its share list lies in. -/
def scr : ShareRun :=
  { vbase := 0x200000, lbase := 0, ngran := 1, scratch := true, rdonly := false, die := 0, anydie := false
    resident := true, filled := true, placed := [(0, 0)], slot := 9 }

def ctxR (cs : CtxState) (m : Cmd) : Ctx :=
  { ward := 1, state := cs, wslots := 1, slist := 0x200000, shares := [scr], htab := 0x20000, hlog2 := 3, mapRead := true
    map := [(7, ⟨100, 0, false, false, false⟩)], rings := [(2, { cmds := [m] })] }

/-- Ring 2 of context 1 holds the command `m`, and memory the bytes `cells`. -/
def sR (cs : CtxState) (m : Cmd) (cells : List Host.Cell) : State :=
  { s0 with
    fe := { s0.fe with en := true, ctxs := [(1, ctxR cs m)] }
    ms := { s0.ms with mem := { cells := cells } } }

def ring12 : RingId := .ring 1 2

theorem witness_CommandsStart :
    ∀ op ∈ [0, 1, 2, 3, 4], ∀ hs ∈ [([] : NMap (List (Nat × Nat))), [(15, [(0, 0)])]],
      let m : Cmd := { cmd op 0 with launch := some 0 }
      let l : Launch := { lnch with hasps := hs }
      let s : State := { sR .resident m [] with fe := { (sR .resident m []).fe with launches := [(0, l)] } }
      s.startable ring12 [op] = some ({ cmds := [m] }, m) ∧ m.launch = some 0 ∧ s.launch? 0 = some l ∧
        (s.ctx l.ctx).state = .resident ∧ s.peersOf l = [] ∧ NMap.wf l.hasps = true ∧ s.haspsFree l = true := by
  intro op ho hs hh
  simp only [List.mem_cons, List.not_mem_nil, or_false] at ho hh
  rcases ho with rfl | rfl | rfl | rfl | rfl <;> rcases hh with rfl | rfl <;>
    exact ⟨by decide +kernel, rfl, rfl, rfl, rfl, rfl, rfl⟩

/-- A SIGNAL or WAIT on tumbler identifier 7, and one on the fence record at 0x20000 with value `v`. -/
def onTum (op v : Nat) : Cmd := cmd op (2 ^ 128 + 7 * 2 ^ 132 + v * 2 ^ 256 + 2 ^ 320)
def onFence (op v : Nat) : Cmd := cmd op (0x20000 * 2 ^ 192 + v * 2 ^ 256 + 2 ^ 320)

/-- A fence record of value 3 bound to tumbler identifier 7. -/
def fenceCells : List Host.Cell := [(0x10008001000, 3), (0x10008001008, 7)]

theorem okSome {α β : Type} (x : Except α β) (h : x.toBool = true) : ∃ t, x = .ok t := by
  cases x with
  | ok t => exact ⟨t, rfl⟩
  | error e => cases h

theorem witness_SignalAndWait :
    (∀ op ∈ [5, 6], let m := onTum op 5; let s := sR .resident m []
      (s.ctx 1).state = .resident ∧ s.startable ring12 [op] = some ({ cmds := [m] }, m) ∧ m.tgt = true ∧
        s.tumTarget 1 false m.tid = .global 100 ∧ s.waiters = [] ∧ (∀ b ∈ [m], b.count = m.count → b = m) ∧
        (s.tum 100).count < m.val) ∧
      (onTum 6 0).val ≤ (s0.tum 100).count ∧
      (∀ v ∈ [3, 5], let m := onFence 5 v; let s := sR .resident m fenceCells
        s.startable ring12 [5] = some ({ cmds := [m] }, m) ∧ m.tgt = false ∧ s.fenceRecord 1 m.fence = .ok (3 + 7 * 2 ^ 64) ∧
          s.chkWrite 1 m.fence 16 192 = .ok () ∧ s.tumTarget 1 false 7 = .global 100 ∧ m.val = v ∧
          ∃ t, s.feWrite 1 m.tag m.fence (natBytes 16 (if v = 3 then (3 + 7 * 2 ^ 64) ||| 2 ^ 81 else 7 * 2 ^ 64 + 5)) = .ok t) ∧
      (let m := onFence 6 3; let s := sR .resident m fenceCells
       s.startable ring12 [6] = some ({ cmds := [m] }, m) ∧ m.tgt = false ∧ s.fenceRecord 1 m.fence = .ok (3 + 7 * 2 ^ 64) ∧
         s.tumTarget 1 false 7 = .global 100 ∧ m.val ≤ nfield (3 + 7 * 2 ^ 64) 63 0) ∧
      (let m : Cmd := { onFence 6 3 with state := .waiting, bound := some (none, 100) }; let s := sR .resident m fenceCells
       s.feServes = true ∧ s.ring? ring12 = some { cmds := [m] } ∧ ({ cmds := [m] } : Ring).waiting = some m ∧
         m.tgt = false ∧ s.ringWaits ring12 = false ∧ s.fenceRecord 1 m.fence = .ok (3 + 7 * 2 ^ 64)) ∧
      (let m : Cmd := { onTum 6 5 with state := .waiting, bound := some (none, 100) }
       let s : State := { sR .resident m [] with time := { now := 2 ^ 20 }, waiters := [⟨.ring ring12, 100, m.val⟩] }
       s.ring? ring12 = some { cmds := [m] } ∧ ({ cmds := [m] } : Ring).waiting = some m ∧ m.timeout ≠ 0 ∧ s.fe.frozen = none ∧
         m.start + 2 ^ (m.timeout + 19) ≤ s.nowN) := by
  refine ⟨fun op ho => ?_, by decide, fun v hv => ?_,
    ⟨by decide +kernel, by decide +kernel, by decide +kernel, rfl, by decide⟩,
    ⟨rfl, by decide +kernel, by decide +kernel, by decide +kernel, rfl, by decide +kernel⟩,
    by decide +kernel, by decide +kernel, by decide, rfl, by decide⟩
  · simp only [List.mem_cons, List.not_mem_nil, or_false] at ho
    rcases ho with rfl | rfl <;>
      exact ⟨rfl, by decide +kernel, by decide +kernel, by decide +kernel, rfl, fun b hb _ => List.mem_singleton.1 hb,
        by decide +kernel⟩
  · simp only [List.mem_cons, List.not_mem_nil, or_false] at hv
    rcases hv with rfl | rfl <;>
      exact ⟨by decide +kernel, by decide +kernel, by decide +kernel, by decide +kernel, by decide +kernel, by decide +kernel,
        okSome _ (by decide +kernel)⟩

/-! The share list of context 1, which holds no run, and the commands on handles and shares. -/

theorem resolve_scr (cs : CtxState) (m : Cmd) (cells : List Host.Cell) (va : Nat) (h1 : 0x200000 ≤ va) (h2 : va < 0x400000) :
    ∃ i, (sR cs m cells).resolve 1 va .read = .ok (.share 0 i none) := by
  have hc : canonical va = true := by
    unfold canonical
    rw [Nat.shiftRight_eq_div_pow, show va / 2 ^ 56 = 0 by omega]; rfl
  have hx : (sR cs m cells).ctx 1 = ctxR cs m := rfl
  have hs : (ctxR cs m).shareAt va = some scr := by
    have e1 : decide (scr.vbase ≤ va) = true := decide_eq_true h1
    have e2 : decide (va < scr.vbase + scr.ngran * 2 ^ 21) = true := decide_eq_true (by simp only [scr]; omega)
    simp only [Ctx.shareAt, ctxR, List.find?_cons, e1, e2]
    rfl
  have hp : NMap.find ((va - scr.vbase) / 2 ^ 21) scr.placed = some 0 := by
    rw [show (va - scr.vbase) / 2 ^ 21 = 0 by simp only [scr]; omega]; rfl
  refine ⟨0 % 4096 * 2 ^ 21 + (va - scr.vbase) % 2 ^ 21, ?_⟩
  unfold State.resolve
  rw [hx]
  simp only [hc, hs, hp, Bool.true_eq_false, if_false]
  rfl

theorem read_scr (cs : CtxState) (m : Cmd) (cells : List Host.Cell) : ∀ n va, 0x200000 ≤ va → va + n ≤ 0x400000 →
    (sR cs m cells).feReadN 1 va n = .ok (List.replicate n 0)
  | 0, _, _, _ => rfl
  | n + 1, va, h1, h2 => by
    obtain ⟨i, hi⟩ := resolve_scr cs m cells va h1 (by omega)
    unfold State.feReadN
    rw [hi]
    simp only [State.targetRead, read_scr cs m cells n (va + 1) (by omega) (by omega)]
    rfl

theorem noShares (cs : CtxState) (m : Cmd) (cells : List Host.Cell) : (sR cs m cells).shareList 1 = .ok [] := by
  have h : ∀ n va, 0x200000 ≤ va → va + 32 * n ≤ 0x400000 →
      entriesAt (fun a => (sR cs m cells).chkTable 1 a 32) va n = .ok (List.replicate n 0) := by
    intro n
    induction n with
    | zero => intro va _ _; rfl
    | succ n ih =>
      intro va h1 h2
      have hr : (sR cs m cells).chkTable 1 va 32 = .ok 0 := by
        simp only [State.chkTable, State.feNat, read_scr cs m cells 32 va h1 (by omega), Except.map]
        rfl
      unfold entriesAt
      simp only [hr, Chk.bind, ih (va + 32) (by omega) (by omega)]
      rfl
  unfold State.shareList
  rw [show ((sR cs m cells).ctx 1).slist = 0x200000 from rfl, h 256 _ (show 0x200000 ≤ 0x200000 by decide) (by decide)]
  decide +kernel

/-- A handle table at 0x20000 whose entry 7 is `state`, and a share list entry at 0x20000. -/
def handleCells (state : Byte) : List Host.Cell := [(0x10008001000 + 32 * 7 + 17, state)]

theorem witness_HandlesSharesQuery :
    (let m := cmd 8 (7 * 2 ^ 128 + 0x1000 * 2 ^ 192 + 1 * 2 ^ 256 + 2 ^ 320); let s := sR .resident m []
     s.startable ring12 [8] = some ({ cmds := [m] }, m) ∧ field m.desc 147 128 < 2 ^ (s.ctx 1).hlog2 ∧
       field m.desc 319 256 ≠ 0 ∧ canonical (field m.desc 255 192) = true ∧
       canonicalRange (field m.desc 255 192) (field m.desc 319 256) = true ∧ s.handle 1 7 = .ok 0 ∧
       field m.desc 147 128 = 7 ∧ s.chkCanWrite 1 ((s.ctx 1).handleAt 7) 32 = .ok ()) ∧
      (let m := cmd 9 (7 * 2 ^ 128); let s := sR .resident m (handleCells 0x10)
       s.startable ring12 [9] = some ({ cmds := [m] }, m) ∧ field m.desc 159 128 % 2 ^ 20 = 7 ∧
         s.handle 1 7 = .ok (2 ^ 140) ∧ s.chkCanWrite 1 ((s.ctx 1).handleAt 7) 32 = .ok ()) ∧
      (let m := cmd 10 (0x20080 * 2 ^ 128); let s := sR .resident m []
       s.startable ring12 [10] = some ({ cmds := [m] }, m) ∧ field m.desc 191 128 = 0x20080 ∧ 0x20080 % 128 = 0 ∧
         canonical 0x20080 = true ∧ s.chkWrite 1 0x20080 128 128 = .ok () ∧
         s.boundHandles 1 0 (2 ^ (s.ctx 1).hlog2) = .ok (0, 0) ∧
         ∃ t, s.feWrite 1 m.tag 0x20080 (s.usageRecord 1 (0, 0)) = .ok t) ∧
      (let m := cmd 7 (0x20000 * 2 ^ 128 + 2 ^ 192)
       let s := sR .idle m [(0x10008001003, 0x40), (0x1000800100B, 0x40), (0x10008001010, 1)]
       s.startable ring12 [7] = some ({ cmds := [m] }, m) ∧ bitAt m.desc 201 = false ∧
         s.shareRuns 1 m.desc = .ok [runOf (0x40000000 + 0x40000000 * 2 ^ 64 + 2 ^ 128) 0] ∧ (s.ctx 1).state ≠ .resident) ∧
      (let m := cmd 7 (0x20000 * 2 ^ 128 + 2 ^ 192 + 2 ^ 201)
       let cells : List Host.Cell := [(0x10008001003, 0x40), (0x1000800100B, 0x40), (0x10008001010, 1)]
       let s : State := { sR .resident m cells with
         ms := { (sR .resident m cells).ms with sram := [(3, 0x40), (11, 0x40), (16, 1)] } }
       s.startable ring12 [7] = some ({ cmds := [m] }, m) ∧ bitAt m.desc 201 = true ∧
         s.releaseRuns 1 m.desc = .ok [runOf (0x40000000 + 0x40000000 * 2 ^ 64 + 2 ^ 128) 0] ∧
         ∀ x ∈ (s.ctx 1).shares, x.slot ≠ 0) := by
  refine ⟨⟨by decide +kernel, by decide +kernel, by decide +kernel, by decide +kernel, by decide +kernel, by decide +kernel,
      by decide +kernel, by decide +kernel⟩,
    ⟨by decide +kernel, by decide +kernel, by decide +kernel, by decide +kernel⟩,
    ⟨by decide +kernel, by decide +kernel, rfl, rfl, by decide +kernel, by decide +kernel, ?_⟩,
    ⟨by decide +kernel, by decide +kernel, ?_, by decide⟩, by decide +kernel, by decide +kernel, by decide +kernel, ?_⟩
  · exact okSome _ (by decide +kernel)
  · unfold State.shareRuns
    rw [noShares]
    decide +kernel
  · intro x hx
    rcases List.mem_singleton.1 hx with rfl
    decide

theorem witness_PartitionAndSnapshot :
    (let m := cmd 0x10 ((63 + 1 * 2 ^ 6) * 2 ^ 128 + 0x10008013000 * 2 ^ 192); let r : Ring := { adm with cmds := [m] }
     let s := sAd r [(0x10008013004, 1)]
     s.startable .admin [0x10] = some (r, m) ∧ field m.desc 133 128 = 63 ∧ field m.desc 139 134 = 1 ∧
       field m.desc 255 192 % 8 = 0 ∧ s.isLpRange (field m.desc 255 192) 8 = true ∧
       (planOf (s.cohNat (field m.desc 255 192) 8)).valid = true) ∧
      (let m := cmd 0x11 (0x10008014000 * 2 ^ 128 + snapBytes * 2 ^ 192); let r : Ring := { adm with cmds := [m] }
       let s := sAd r []
       s.startable .admin [0x11] = some (r, m) ∧ field m.desc 191 128 % 4096 = 0 ∧
         s.isLpRange (field m.desc 191 128) snapBytes = true ∧ snapBytes ≤ field m.desc 255 192) ∧
      (let m : Cmd := { cmd 0x11 0 with state := .started }; let r : Ring := { adm with cmds := [m] }
       let s : State := { sAd r [] with fe := { (sAd r []).fe with frozen := some 0 } }
       s.fe.frozen = some 0 ∧ s.fe.admin.cmds = [m] ∧ m.op = 0x11 ∧ m.state = .started ∧
         (∀ k ∈ s.cores, k.2.matrixDone = true) ∧ s.tile? 0 0 = some tile ∧ tile.haltedAt = none) := by
  refine ⟨⟨by decide +kernel, by decide +kernel, by decide +kernel, by decide +kernel, by decide +kernel, by decide +kernel⟩,
    ⟨by decide +kernel, by decide +kernel, by decide +kernel, by decide +kernel⟩, rfl, rfl, by decide +kernel, rfl, ?_, rfl, rfl⟩
  intro k hk
  rcases List.mem_singleton.1 hk with rfl
  rfl

theorem witness_CompletionEntry :
    let m : Cmd := { cmd 0 (2 ^ 32) with state := .ended 8 192 5 0, tag := s0.tagNow }
    let r : Ring := { adm with cmds := [m], head := 64, tail := 64, ctail := 63 }
    let s := sAd r []
    let e := s.fe.ringbase + 48
    s.feServes = true ∧ s.dbg.tren = false ∧ s.fe.admin.cmds = [m] ∧ m.launch = none ∧ m.pins = [] ∧ m.tag = s.tagNow ∧
      r.head = r.tail ∧ (r.nextEntry + 32 ≤ e ∨ e + 9 ≤ r.nextEntry) ∧ bitAt m.desc 32 = true ∧ r.msiaddr ≠ 0 ∧
      1 ≤ r.msidata ∧ r.msidata ≤ 2047 ∧ ∀ c ∈ s.fe.ctxs, ∀ q ∈ c.2.rings, q.2.dbOwed = false := by
  refine ⟨rfl, rfl, rfl, rfl, rfl, rfl, rfl, ?_, by decide +kernel, by decide, by decide, by decide, ?_⟩ <;> decide +kernel

/-- Context 1 in a state, its slot 0 too. -/
def sQ (cs : CtxState) (slot : Nat) : State :=
  { sR cs (cmd 1 0) [] with
    fe := { (sR cs (cmd 1 0) []).fe with slots := if slot = 0 then [] else [(0, { ctx := 1, state := slot, ward := 1 })]
                                         ctbase := 0x10008020000 } }

theorem witness_ResidencyAndCounters :
    (let s := sQ .idle 0
     s.feServes = true ∧ s.needsSlot 1 = true ∧ s.outranked 1 = false ∧ (s.slot 0).state = 0 ∧
       s.wardSlots (s.ctx 1).ward < (s.ctx 1).wslots) ∧
      (let s := sQ .loading 1
       s.feServes = true ∧ (s.ctx 1).state = .loading ∧ (s.ctx 1).leaving = false ∧ (s.ctx 1).mapRead = true ∧
         (s.ctx 1).mapAsk = [] ∧ s.shareList 1 = .ok []) ∧
      (let s0 := sQ .evicting 3
       let s : State := { s0 with cores := [], fe := { s0.fe with ctxs := [(1, { s0.ctx 1 with shares := [] })] } }
       (s.ctx 1).holdsSlot s.fe.slots 1 = true ∧ (s.slot (s.ctx 1).slot).state = 3 ∧ s.tilesOf 1 = [] ∧ s.power.on = true ∧
         (s.ctx 1).shares = [] ∧ (s.ctx 1).leaving = false ∧ (s.ctx 1).state ≠ .faulted) ∧
      (s0.fe.mirror = false ∧ s0.power.on = true ∧ s0.stage = .ready) ∧
      (let s := sQ .idle 0
       s.power.on = true ∧ s.fe.en = true ∧ (s.ctx 1).state ≠ .off ∧ (s.ctx 1).state ≠ .invalid ∧ s.fe.frozen = none ∧
         s.epochClosed = false) ∧
      (let c : Ctx := { ward := 1, state := .resident, counters := [(31, { n := 1 })] }
       let s : State := { s0 with
         dbg := { s0.dbg with sample := true }
         fe := { s0.fe with ctxs := [(1, c)] } }
       s.dbg.sample = true ∧ s.fe.ctxs = [(1, s.ctx 1)] ∧ (s.ctx 1).state ≠ .off ∧ (s.ctx 1).state ≠ .invalid ∧
         (s.ctx 1).counters = [(31, { n := 1 })] ∧ SatCount.slot { n := 1 } ≠ 0) := by
  refine ⟨⟨rfl, by decide +kernel, by decide +kernel, rfl, by decide⟩, ⟨rfl, rfl, rfl, rfl, rfl, ?_⟩,
    ⟨rfl, rfl, rfl, rfl, rfl, rfl, by decide⟩, ⟨rfl, rfl, rfl⟩, ⟨rfl, rfl, by decide, by decide, rfl, rfl⟩,
    rfl, rfl, by decide, by decide, rfl, by decide +kernel⟩
  decide +kernel

/-! ### The set-up window -/

theorem witness_WindowErrors :
    (∀ req ∈ [({} : Requester), { port := .host }], s0.portLive req = true) ∧
      (0xFFFFF % 8 ≠ 0) ∧ regAt 0xFFFF8 = none ∧ (regAt 0x10000 ≠ none ∧ privileged .vu = false) ∧
      (let s : State := { s0 with stage := .keeper }
       s.portLive {} = true ∧ regAt 0x10000 ≠ none ∧ s.blockReady 0x10000 = false) := by
  refine ⟨fun req hr => ?_, by decide, by decide +kernel, ⟨by decide +kernel, rfl⟩, rfl, by decide +kernel, rfl⟩
  simp only [List.mem_cons, List.not_mem_nil, or_false] at hr
  rcases hr with rfl | rfl <;> rfl

/-- The registers that the statements name are reached from the control port. -/
theorem reached : ∀ off ∈ [0x50040, 0x80038, 0x40000, 0x20000, 0x00000, 0x50050, 0x10000, 0x10020, 0x10028, 0x40018, 0x30000,
    0x30008, 0x80008, 0x80018, 0x80020, 0x80030, 0x80058, 0x80050],
    ∀ write : Bool, s0.portLive {} = true ∧ s0.gate {} off 8 write = none := by decide +kernel

theorem witness_WindowRegisters :
    (∀ off ∈ [0x50040, 0x80038, 0x40000, 0x20000, 0x00000], Reaches s0 {} off true) ∧
      (∀ off ∈ [0x00000, 0x50050], Reaches s0 {} off false) ∧ s0.fe.en = false ∧
      s0.isLpRange (field (0x10000000000 : DWord) 51 12 * 4096) 0x4000 = true ∧
      (s0.isLpRange (field (0x1000 : DWord) 51 12 * 4096) 0x4000 = false ∧ field (0x1000 : DWord) 51 12 ≠ 0) ∧
      (let s : State := { s0 with fe := { s0.fe with en := true } }
       Reaches s {} 0x20000 true ∧ s.fe.en = true) := by
  refine ⟨fun off ho => ?_, fun off ho => ?_, rfl, by decide, by decide, reached _ (by decide) true, rfl⟩ <;>
    simp only [List.mem_cons, List.not_mem_nil, or_false] at ho
  · rcases ho with rfl | rfl | rfl | rfl | rfl <;> exact reached _ (by decide) true
  · rcases ho with rfl | rfl <;> exact reached _ (by decide) false

/-- The cells that hold `v` in `n` bytes from an address. -/
def le (a n v : Nat) : List Host.Cell :=
  ((List.range n).map (fun i => (a + i, BitVec.ofNat 8 (v / 256 ^ i)))).filter (fun c => c.2 != 0)

/-- The admin ring, a ward entry for ward 1, a context descriptor for context 2 and its ring 0. -/
def setup : List Host.Cell :=
  le 0x10008001000 64 (6 * 2 ^ 64 + 6 * 2 ^ 69) ++
  le 0x10008020000 64 (0x10008011000 + 6 * 2 ^ 64 + 6 * 2 ^ 69 + 0x10008010000 * 2 ^ 128 + 0x10008012000 * 2 ^ 192) ++
  le 0x10008030010 16 (2 ^ 7) ++ le 0x10008040200 256 (1 + 2 ^ 36 + 0x20000 * 2 ^ 128)

def sF (cells : List Host.Cell) (en : Bool) : State :=
  { s0 with
    fe := { s0.fe with en := en, ctxbase := 0x10008040000, slotbase := 0x10008050000, ringbase := 0x10008020000
                       wardbase := 0x10008030000, ctbase := 0x10008060000 }
    ms := { s0.ms with mem := { cells := cells } } }

theorem witness_FrontEndRegisters :
    (let s := sF setup false; let r := ringOf (s.cohNat s.fe.ringbase 64)
     Reaches s {} 0x10000 true ∧ s.fe.en = false ∧ s.fe.ctxbase ≠ 0 ∧ s.fe.slotbase ≠ 0 ∧ s.fe.ringbase ≠ 0 ∧
       s.fe.wardbase ≠ 0 ∧ s.fe.ctbase ≠ 0 ∧ r.inRange = true ∧ r.aligned = true ∧ s.ringInMemory r = true) ∧
      (Reaches s0 {} 0x10000 true ∧ s0.fe.en = false ∧ s0.fe.ctxbase = 0) ∧
      (∀ ward : Bool, let s := sF (if ward then setup else setup.filter (fun c => c.1 != 0x10008030010)) true
        let d := s.cohNat (s.ctxAddr 2) 256
        let we := s.wardEntry (nfield d 9 0)
        let c := ctxOfDesc d we
        let s1 := s.updCtx 2 (fun _ => { c with activating := true })
        let r : Ring := { rlog2 := 6, clog2 := 6 }
        Reaches s {} 0x10020 true ∧ s.fe.en = true ∧ (s.ctx 2).state = .off ∧ s1.ringTable 2 c = .ok ([r], none) ∧
          s1.activationCause d we c [r] false = if ward then 0 else 2) ∧
      (let s := sF [] true
       Reaches s {} 0x10028 true ∧ s.fe.en = true ∧ (s.ctx 1).state ≠ .off ∧ (s.ctx 1).state ≠ .invalid ∧
         (s.ctx 1).rings = [] ∧ (s.ctx 1).holdsSlot s.fe.slots 1 = false) ∧
      (Reaches s0 {} 0x40018 true ∧ s0.waiters = [] ∧ (s0.tum s0.ms.tmSel).armed = false) ∧
      (Reaches s0 {} 0x30000 true ∧ waysOf 0xF0000000 7 = 15 ∧
        ∀ d, d < 8 → waysOf 0 d ≠ 15 ∧ (waysOf 0 d = NMap.findD 0 d s0.ms.shareways ∨ s0.shareOn d = false)) ∧
      Reaches s0 {} 0x30008 true := by
  refine ⟨⟨reached _ (by decide) true, rfl, by decide, by decide, by decide, by decide, by decide, by decide +kernel,
      by decide +kernel, by decide +kernel⟩, ⟨reached _ (by decide) true, rfl, rfl⟩, fun ward => ?_,
    ⟨reached _ (by decide) true, rfl, by decide, by decide, rfl, rfl⟩, ⟨reached _ (by decide) true, rfl, rfl⟩,
    ⟨reached _ (by decide) true, rfl, by decide⟩, reached _ (by decide) true⟩
  cases ward <;> exact ⟨reached _ (by decide) true, rfl, rfl, by decide +kernel, by decide +kernel⟩

/-- The group of `st x`, and a token that covers ward 1 with every right. -/
def sG (x : Machine.Group) : State :=
  { st x with
    sec := { s0.sec with tokens := [(0, { wfirst := 1, wlast := 1, rights := 15, expiry := 1000 })] }
    dbg := { s0.dbg with rsel := 1 + 16 * 63, trbase := 0x10008000000, trsize := 0x1000 } }

theorem witness_DebugRegisters :
    (let s := sG grp
     s.group? g0 = some grp ∧ (∀ off ∈ [0x80008, 0x80018, 0x80020, 0x80058, 0x80050], Reaches s {} off true) ∧
       field (0x10000 : DWord) 9 0 = g0.core ∧ field (0x10000 : DWord) 15 10 = g0.place ∧ bitAt (0x10000 : DWord) 18 = false ∧
       field (0x10000 : DWord) 17 16 = 1 ∧ s.hasRight 0 (s.wardOf g0) = true ∧ grp.halted = false ∧ grp.wait = .none ∧
       s.matrixBusy g0 = false ∧ s.hasRight 1 1 = true ∧ s.dbg.tren = false ∧ s.dbg.trbase ≠ 0 ∧ s.dbg.trsize ≠ 0) ∧
      (s0.group? g0 = some grp ∧ Reaches s0 {} 0x80008 true ∧ s0.hasRight 0 (s0.wardOf g0) = false) ∧
      (let x : Machine.Group := { grp with halted := true }; let s := sG x
       s.group? g0 = some x ∧ Reaches s {} 0x80008 true ∧ s.hasRight 0 (s.wardOf g0) = true ∧ x.halted = true ∧
         x.pending = none ∧ x.wait = .none ∧ x.haltReq = none ∧ x.repackHeld = false ∧ s.selected = g0 ∧ Reaches s {} 0x80030 false ∧ Reaches s {} 0x80030 true ∧
         s.item g0 x s.dbg.rsel = some 0 ∧ s.dbg.rsel = BitVec.ofNat 64 (1 + 16 * 63)) ∧
      (let x : Machine.Group := { grp with halted := true, repackHeld := true }; let s := sG x
       s.group? g0 = some x ∧ Reaches s {} 0x80008 true ∧ s.hasRight 0 (s.wardOf g0) = true ∧ x.halted = true ∧
         x.pending = none ∧ x.wait = .none ∧ x.haltReq = none ∧ x.pcWritten = false) ∧
      (field (0x20000 : DWord) 17 16 = 2 ∧ field (0x30000 : DWord) 17 16 = 3) ∧
      (let x : Machine.Group := { grp with halted := true }
       let s : State := { sG x with dbg := { (sG x).dbg with rsel := 3 } }
       Reaches s {} 0x80030 true ∧ s.dbg.rsel = 3 ∧ (0x10040 : DWord).toNat % 8 = 0) := by
  have h : ∀ (d : Debug) (x : Machine.Group), ∀ off ∈ [0x80008, 0x80018, 0x80020, 0x80058, 0x80050, 0x80030], ∀ w : Bool,
      Reaches { sG x with dbg := d } {} off w := by
    intro d x off ho w
    refine ⟨rfl, ?_⟩
    have := (reached off (by revert off; decide) w).2
    exact this
  refine ⟨⟨rfl, fun off ho => h _ _ off (by revert off; decide) true, by decide, by decide, by decide, by decide, by decide,
      rfl, rfl, rfl, by decide, rfl, by decide, by decide⟩, ⟨rfl, reached _ (by decide) true, by decide⟩,
    ⟨rfl, h _ _ _ (by decide) true, by decide, rfl, rfl, rfl, rfl, rfl, rfl, h _ _ _ (by decide) false, h _ _ _ (by decide) true,
      by decide +kernel, rfl⟩, ⟨rfl, h _ _ _ (by decide) true, by decide, rfl, rfl, rfl, rfl, rfl⟩, ⟨by decide, by decide⟩,
    h _ _ _ (by decide) true, rfl, by decide⟩

/-! ### Security, bring-up, power -/

/-- READY, with nothing in flight. -/
def sB : State := { State.reset with stage := .ready }

theorem reachedB : ∀ off ∈ [0x70010, 0x70018, 0x70028, 0x70058, 0x70030, 0x60000], ∀ write : Bool,
    sB.portLive {} = true ∧ sB.gate {} off 8 write = none := by decide +kernel

theorem witness_TokensAndUpdates :
    (Reaches sB {} 0x70010 false ∧ Reaches sB {} 0x70018 true) ∧
      (∃ s : State, s.sec.result = 8) ∧
      (let t : Token := { wfirst := 0, wlast := 1023, rights := 15, expiry := 5 }
       let s : State := { sB with sec := { sB.sec with tokens := [(3, t)], keeperNs := 5 } }
       NMap.find 3 s.sec.tokens = some t ∧ Reaches s {} 0x70028 true ∧ field (3 : DWord) 1 0 = 3 ∧ t.expiry ≤ s.sec.keeperNs) ∧
      (Reaches sB {} 0x70058 true ∧ bitAt (1 : DWord) 0 = true ∧ bitAt (1 : DWord) 1 = false ∧ sB.sec.updstat ≠ 1) ∧
      (∀ fail ∈ [0, 3], let s : State := { sB with sec := { sB.sec with updstat := 1, updFail := fail } }
        s.sec.updstat = 1 ∧ s.sec.updFail = fail) ∧
      (let s : State := { sB with sec := { sB.sec with booted := true, bankA := { sB.sec.bankA with state := 1 } } }
       Reaches s {} 0x70058 true ∧ bitAt (2 : DWord) 0 = false ∧ bitAt (2 : DWord) 1 = true ∧ s.sec.fromBuffer = false ∧
         s.sec.booted = true ∧ (s.sec.bank s.sec.bootedB).state = 1 ∧ s.stage = .ready) :=
  ⟨⟨reachedB _ (by decide) false, reachedB _ (by decide) true⟩, ⟨{ sB with sec := { sB.sec with result := 8 } }, rfl⟩,
    ⟨rfl, reachedB _ (by decide) true, by decide, by decide⟩,
    ⟨reachedB _ (by decide) true, by decide, by decide, by decide⟩, fun _ _ => ⟨rfl, rfl⟩,
    reachedB _ (by decide) true, by decide, by decide, rfl, rfl, rfl, rfl⟩

theorem witness_Attestation :
    ∀ st ∈ [SpdmStage.start, .version, .caps, .algs], let s : State := { sB with sec := { sB.sec with spdm := st } }
      s.power.on = true ∧ s.pins.perst = false ∧ s.stage ≠ .rom ∧ s.stage ≠ .failed ∧ s.sec.spdm = st := by
  intro st hs
  simp only [List.mem_cons, List.not_mem_nil, or_false] at hs
  rcases hs with rfl | rfl | rfl | rfl <;> exact ⟨rfl, rfl, by decide, by decide, rfl⟩

/-- A keeper image of kind 1 and no body in the recovery buffer. -/
def sRec : State := { State.reset with stage := .failed, sec := { State.reset.sec with recovery := [(0, 1)] } }

theorem witness_BringUp :
    (∀ ns ∈ [0, 99999999, 100000000], let s : State := { sB with power := { sB.power with pwrEn := false, sinceFall := ns } }
     s.power.pwrEn = false ∧ (s.power.sinceFall < 100000000 ∨ 100000000 ≤ s.power.sinceFall)) ∧
      (let s : State := { sB with power := { sB.power with on := false } }
       s.power.on = false ∧ s.power.tripLatch = false) ∧
      (sB.power.on = true ∧ 2969 < railReset 10 ∧ Reaches sB {} 0x70030 true ∧ field (0xC01D : DWord) 15 0 = 0xC01D ∧
        field (0xC01C : DWord) 15 0 ≠ 0xC01D) ∧
      (let f := State.reset.sec.firstBank
       State.reset.power.on = true ∧ State.reset.stage = .rom ∧ f.2.bankFails (f.2.bank f.1) 0 = none) ∧
      (let s : State := { State.reset with sec := { State.reset.sec with bankA := {}, bankB := {} } }
       let f := s.sec.firstBank
       s.power.on = true ∧ s.stage = .rom ∧ f.2.bankFails (f.2.bank f.1) 0 ≠ none ∧ f.2.bankFails (f.2.bank (!f.1)) 1 ≠ none) ∧
      (let s : State := { State.reset with stage := .failed }
       Reaches s {} 0x70008 true ∧ bitAt (0x10 : DWord) 4 = true ∧ s.stage = .failed ∧ objKind s.recoveryByte ≠ 1) ∧
      (let v : DWord := 0x200000000010
       Reaches sRec {} 0x70008 true ∧ bitAt v 4 = true ∧ sRec.stage = .failed ∧ objKind sRec.recoveryByte = 1 ∧
         8192 + objBodylen sRec.recoveryByte ≤ (v >>> 32).toNat ∧ (v >>> 32).toNat ≤ 2 ^ 28 ∧
         sRec.sec.counter.toNat ≤ objSecver sRec.recoveryByte) ∧
      ∀ st ∈ [Stage.keeper, .training, .meminit], let s : State := { State.reset with stage := st }
        s.power.on = true ∧ (s.stage = .keeper ∨ s.stage = .training ∨ s.stage = .meminit) := by
  have g : ∀ b : Security, Reaches { State.reset with stage := .failed, sec := b } {} 0x70008 true := fun b =>
    ⟨rfl, show ({ State.reset with stage := .failed } : State).gate {} 0x70008 8 true = none by decide +kernel⟩
  refine ⟨by decide +kernel, ⟨rfl, rfl⟩, ⟨rfl, by decide, reachedB _ (by decide) true, by decide, by decide⟩, ⟨rfl, rfl, by decide +kernel⟩,
    ⟨rfl, rfl, by decide +kernel, by decide +kernel⟩, ⟨g _, by decide, rfl, by decide +kernel⟩,
    ⟨g _, by decide, rfl, by decide +kernel, by decide +kernel, by decide +kernel, by decide +kernel⟩, fun st hs => ?_⟩
  simp only [List.mem_cons, List.not_mem_nil, or_false] at hs
  rcases hs with rfl | rfl | rfl <;> refine ⟨rfl, ?_⟩ <;> decide

theorem witness_TimebaseAndControlPort :
    (∀ b : Bool, let s : State := { sB with time := { sB.time with arm := b } }
      s.power.on = true ∧ s.time.arm = b) ∧ sB.time.refOk = true ∧ sB.pins.perst = false ∧ sB.dbg.elbase = 0 ∧
      sB.dbg.tren = false := ⟨fun _ => ⟨rfl, rfl⟩, rfl, rfl, rfl, rfl⟩

theorem witness_PowerControl :
    (Reaches sB {} 0x60000 true ∧ (∀ cap ∈ [(1000 : DWord), 2800],
        1000 ≤ field (cap ||| 0x3C0000) 11 0 ∧ field (cap ||| 0x3C0000) 11 0 ≤ 2800 ∧ field (cap ||| 0x3C0000) 21 16 ≤ 60) ∧
      (∀ v ∈ [(999 : DWord), 2801, 0x3D0000 + 1000], field v 11 0 < 1000 ∨ 2800 < field v 11 0 ∨ 60 < field v 21 16)) ∧
      (sB.power.on = true ∧ sB.stage ≠ .rom ∧ sB.stage ≠ .failed ∧ sB.power.exc = false ∧ sB.power.therm = false ∧
        hottest [] ≤ 95) ∧
      (∀ d ∈ [0, 15, 27], sB.stage = .ready ∧ d < 32 ∧ d ∉ sB.power.waking ∧ (sB.domain d).code < (sB.domTarget d).code ∧
        sB.mayEnter d (sB.domTarget d) = true) ∧
      (∀ x ∈ [DomState.clamped, .logicOff, .off],
        let s : State := { sB with power := { sB.power with domains := [(15, x)], waking := [15] } }
        s.power.on = true ∧ s.domain 15 ≠ .idle ∧ s.fenced (domDie 15) = false ∧ 15 ∈ s.power.waking) := by
  refine ⟨⟨reachedB _ (by decide) true, fun v hv => ?_, fun v hv => ?_⟩, ⟨rfl, by decide, by decide, rfl, rfl, by decide +kernel⟩,
    by decide +kernel, by decide +kernel⟩ <;> simp only [List.mem_cons, List.not_mem_nil, or_false] at hv
  · rcases hv with rfl | rfl <;> decide +kernel
  · rcases hv with rfl | rfl | rfl <;> decide +kernel

theorem witness_ExcursionsAndTemperatures :
    (∀ rail, rail ≤ 10 → railReset rail ≤ railReset rail ∧ railReset rail < railWarn sB.power.vnow rail) ∧
      (sB.power.on = true ∧ sB.power.exc = false) ∧
      (let s : State := { sB with power := { sB.power with exc := true } }
       s.power.exc = true ∧ s.domain 23 ≠ .off) ∧
      (let s : State := { sB with power := { sB.power with vcomp := 0 } }
       s.power.on = true ∧ 100 ≤ hottest [100] ∧ s.power.vcomp = 0 ∧ hottest [97] ≤ 97) ∧
      (110 ≤ hottest [110] ∨ 105 ≤ sensor [110] 14 ∨ 125 ≤ sensor [110] 13) ∧ (0x10 : Byte).getLsbD 4 = true ∧
      (0x50 : BitVec 7) = sB.pins.i3cStatic := by decide +kernel

/-! ### The host side -/

theorem reachedH : ∀ off ∈ [0xB0010, 0xB0018, 0xB0020, 0xB0028], ∀ write : Bool,
    sB.portLive {} = true ∧ sB.gate {} off 8 write = none := by decide +kernel

def sH (h : Hinge) : State := { sB with hinge := h }

theorem witness_HingeLossAndEpochs :
    (∀ h : Hinge, Reaches (sH h) {} 0xB0010 true ∧ Reaches (sH h) {} 0xB0018 true) ∧
      (sB.hinge.quiescing = false ∧ sB.stage = .ready ∧ sB.power.on = true ∧ field (0x4057 : DWord) 15 0 = 0x4057 ∧
        field (0x4056 : DWord) 15 0 ≠ 0x4057) ∧
      (∀ stopped : Bool, let s : State := { sH { quiescing := true, since := 5, tilesStopped := stopped } with
          time := { now := 1000005 } }
        s.hinge.quiescing = true ∧ s.hinge.tilesStopped = stopped ∧ s.hinge.since + 1000000 ≤ s.nowN ∧
          s.resetWaits = false) ∧
      ((sH { waitEpoch := true }).hinge.waitEpoch = true ∧ bitAt (1 : DWord) 0 = true ∧ bitAt (0 : DWord) 0 = false) ∧
      sB.hinge.retrain = false ∧ (sH { retrain := true }).hinge.retrain = true := by
  refine ⟨fun h => ⟨⟨rfl, ?_⟩, ⟨rfl, ?_⟩⟩, ⟨rfl, rfl, rfl, by decide, by decide⟩, 
      fun stopped => ⟨rfl, rfl, by cases stopped <;> decide, rfl⟩,
    ⟨rfl, by decide, by decide⟩, rfl, rfl⟩
  · exact (reachedH 0xB0010 (by decide) true).2
  · exact (reachedH 0xB0018 (by decide) true).2

/-- Root port 1 trained to one lane, its IOMMU Bare; hart 0 runs; the host's cache as given. -/
def sHd (c : NMap CLine) : State :=
  { sB with
    hinge := { sB.hinge with rports := [(1, { width := 1 })] }
    coh := { sB.coh with caches := [(10, c)] } }

theorem witness_HostAndDma :
    (let s := sHd []
     s.hostRuns = true ∧ s.rportLive 1 = true ∧
       (s.rport 1).pieces s.free 7 0x14047000 true 4 (4 / 4096 + 2) = some [(0x14047000, 4)] ∧
       hostDevice 0x14047000 4 = some (.imsic 0x47000) ∧ 0x47000 % 4096 = 0 ∧
       (∀ w : Bool, (s.rport 1).pieces s.free 7 (Config.lpBase + 4000) w 128 (128 / 4096 + 2) =
         some [(Config.lpBase + 4000, 96), (Config.lpBase + 4096, 32)]) ∧
       [((Config.lpBase : Nat) + 4000, 96), (Config.lpBase + 4096, 32)].all s.dmaReaches = true ∧
       (∀ q ∈ [((Config.lpBase : Nat) + 4000, 96), (Config.lpBase + 4096, 32)], hostDevice q.1 q.2 = none) ∧
       [(0, 1)].all s.dmaReaches = false) ∧
      (let s : State := { sHd [] with hinge := { sB.hinge with rports := [(1, { width := 16, bare := false })] } }
       s.rportLive 1 = true ∧ ∀ w : Bool, (s.rport 1).pieces s.free 7 0x1000 w 4 (4 / 4096 + 2) = none) ∧
      (linkWidth 16 = true ∧ linkWidth 0 = true ∧ linkWidth 3 = false) ∧
      (∀ acc ∈ [HostAcc.load 0 1, .fetch 0 4, .store 0 [1], .lr 0 4, .sc 0 [1, 2, 3, 4], .atomic 0 4 .add false 1 0],
        (sHd []).hinge.hartOn 0 = true ∧ 0 < hostLen acc ∧ (sHd []).hinge.hostq = [] ∧ hostPa acc = 0 ∧
          (sHd []).isLpRange 0 (hostLen acc) = false ∧ hostDevice 0 (hostLen acc) = none) ∧
      (let s : State := { sHd [] with fe := { State.reset.fe with plans := [(0, {})] } }
       s.isLpRange Config.lpBase 8 = true ∧ (s.hostReaches Config.lpBase && s.hostReaches (Config.lpBase + 7)) = false) ∧
      ((sHd []).isLpRange 0x11007FF8 8 = false ∧ hostDevice 0x11007FF8 8 = some (.mtimer 0x7FF8)) ∧
      (∀ bad : Bool, let l : CLine := { st := .e, bytes := List.replicate 128 7, poison := bad }
        let pa := (Config.lpBase : Nat) + 120
        let s := sHd [(Config.lpBase, l)]
        s.hostRuns = true ∧ s.isLpRange pa 8 = true ∧ (s.hostReaches pa && s.hostReaches (pa + 8 - 1)) = true ∧
          NMap.find (lineOf pa) (s.cacheOf 10) = some l ∧ l.poison = bad ∧ pa % 128 + 8 ≤ 128 ∧ l.st ≠ .s ∧
          NMap.find (lineOf pa) ((sHd []).cacheOf 10) = none) ∧
      (let s : State := { s0 with io := { s0.io with stale := pages, invalidated := pages } }
       s.hostRuns = true ∧ ∀ pv ∈ s.underWay, ∀ l ∈ s.io.invalidated, l.pasid = pv.1 → l.va / 4096 * 4096 ≤ pv.2 →
         l.va + l.size ≤ pv.2) := by
  refine ⟨by decide +kernel, by decide +kernel, by decide, by decide +kernel, by decide +kernel, by decide +kernel,
    by decide +kernel, rfl, ?_⟩
  intro pv hp
  change pv ∈ ([] : List (Nat × Nat)) at hp
  cases hp

/-! ### Ports and spans -/

def sPort (p : Port) : State := { sB with ports := [(15, p)] }

theorem witness_Ports :
    (∀ b : Bool, (sPort { seated := b }).port 15 = { seated := b } ∧ (sPort { seated := b }).portsRun = true) ∧
      (let p : Port := { seated := true, partner := some {} }
       (sPort p).port 15 = p ∧ p.trained = false ∧ p.partner.isSome = true ∧ 2 ≤ (p.goodLanes 0xC).length) ∧
      (let p : Port := { seated := true, failed := [0, 1] }
       (sPort p).port 15 = p ∧ p.partner = none ∧ 2 ≤ (p.goodLanes 15).length ∧ (sPort p).span.state ≠ .forming) ∧
      (∀ n ∈ [2, 3], let p : Port := { seated := true, trained := true, up := true, lanes := List.range n }
        (sPort p).port 15 = p ∧ p.up = true ∧ 0 ∈ p.lanes ∧ p.lanes.length = n) ∧
      (∀ tried ∈ [7, 8], let p : Port := { up := true, unacked := [1, 2], retryAt := some 2, retries := tried }
        (sPort p).port 15 = p ∧ p.dropping = false ∧ 1 ∈ p.unacked ∧ (∀ v, NMap.findD 0 v p.waiting = 0) ∧
          (p.acked 1).unacked = 2 :: [] ∧ (p.acked 1).retryAt = some 2 ∧ (p.acked 1).retries = tried) ∧
      (let p : Port := { up := true, dropping := true }
       (sPort p).port 15 = p ∧ p.up = true ∧ p.dropping = true) ∧
      (let i : ModInfo := { moduleId := 7 }
       let e : RosterEntry := { ord := 2, moduleId := 7 }
       let s : State := { sPort { up := true, partner := some i } with span := { state := .member, ord := 1, roster := [e] } }
       s.inSpan = true ∧ s.span.master = false ∧
         s.span.roster.find? (fun e => e.moduleId == i.moduleId && e.ord != s.span.ord) = some e) := by
  refine ⟨fun b => ⟨rfl, rfl⟩, ⟨rfl, rfl, rfl, by decide⟩, ⟨rfl, rfl, by decide, by decide⟩, by decide, fun n hn => ?_,
    ⟨rfl, rfl, rfl⟩, by decide⟩
  simp only [List.mem_cons, List.not_mem_nil, or_false] at hn
  rcases hn with rfl | rfl <;> exact ⟨rfl, rfl, by decide, fun _ => rfl, rfl, rfl, rfl⟩

theorem reachedS : ∀ off ∈ [0x50000, 0x50010, 0x50030], sB.portLive {} = true ∧ sB.gate {} off 8 true = none := by
  decide +kernel

def sSpan (x : Span) : State := { sB with span := x, ports := [(0, { up := true }), (1, { up := true })] }

theorem reachesS (x : Span) (off : Nat) (h : off ∈ [0x50000, 0x50010, 0x50030]) : Reaches (sSpan x) {} off true :=
  ⟨rfl, (reachedS off h).2⟩

/-- Member 1 of a span whose members are 1 and 2. -/
def span12 (master : Bool) : Span :=
  { en := true, state := .member, ord := 1, master := master, masterOrd := if master then 1 else 2, levels := { ring := 0x10 }
    roster := [{ ord := 1, moduleId := 0 }, { ord := 2, moduleId := 7, links := [3] }, { ord := 3, moduleId := 8, links := [2] }]
    reserved := [9], known := [{ moduleId := 7 }] }

theorem witness_SpanFormation :
    (∀ x, Reaches (sSpan x) {} 0x50000 true ∧ Reaches (sSpan x) {} 0x50010 true ∧ Reaches (sSpan x) {} 0x50030 true) ∧
      ((∀ st : SpanState, (sSpan { state := st }).span.state = st ∧ (sSpan { state := st }).stage = .ready ∧
        (sSpan { state := st }).span.en = false) ∧
       (let s : State := { sB with stage := .training }
        Reaches s {} 0x50000 true ∧ s.span.en = false ∧ s.stage ≠ .ready)) ∧
      (let s := sSpan (span12 true)
       s.inSpan = true ∧ s.span.master = true ∧ field (0x91 : DWord) 15 4 ∈ s.span.reserved ∧
         field (0x81 : DWord) 15 4 ∉ s.span.reserved ∧
         (4 < field (0x5000002 : DWord) 26 24 ∧ (levelOf s.span.levels 0).toNat ≤ ((0x100002 : DWord).extractLsb' 16 8).toNat) ∧
         (field (0xF0002 : DWord) 26 24 ≤ 4 ∧ ((0xF0002 : DWord).extractLsb' 16 8).toNat < (levelOf s.span.levels 0).toNat) ∧
         s.span.prep = none ∧ (∃ r ∈ s.span.roster, r.ord ≠ s.span.ord) ∧ s.windowOpen = false) ∧
      (let x : Machine.Group := { grp with loads := [{ (pend rawAcc) with lanes := [{ rawAcc with tgt := .window 2 0 true, txid := some 3 }] }] }
       (st x).windowOpen = true) ∧
      (let s := sSpan { span12 true with state := .forming, lastNews := 0 }
       let info : ModInfo := { moduleId := 6 }
       let new := [info].filter (fun i => i.moduleId != s.sec.ident.moduleId && !(s.span.known.any (fun k => k.moduleId == i.moduleId)))
       s.carries {} 0 = true ∧ (s.port 0).foreign = false ∧ s.span.state = .forming ∧ new ≠ [] ∧ s.portsRun = true ∧
         ({ s with time := { now := 10000000 } } : State).nowN = 10000000 ∧
         pickMaster ((s.span.known ++ [s.myInfo]).map (fun i => (i.moduleId, i.master))) = some s.sec.ident.moduleId) ∧
      (pickMaster ([((7 : DWord), true), (0, false)]) ≠ some 0) ∧
      (∀ master : Bool, let s := sSpan (span12 master); let info : ModInfo := { moduleId := 6, levels := { ring := 0x10 } }
        s.carries {} 0 = true ∧ s.inSpan = true ∧ (s.port 0).foreign = false ∧ s.span.master = master ∧
          (∀ r ∈ s.span.roster, r.moduleId ≠ info.moduleId) ∧ levelsAtLeast info.levels s.span.levels = true ∧
          levelsAtLeast {} s.span.levels = false ∧ ordinalFor (s.span.roster.map (·.ord)) s.span.reserved info = some 0) ∧
      ordinalFor (List.range 4096) [] {} = none ∧
      (let s := sSpan { state := .forming }; let e : RosterEntry := { ord := 4, moduleId := 0 }
       [e].find? (fun r => r.moduleId == s.sec.ident.moduleId) = some e) := by
  refine ⟨fun x => ⟨reachesS x _ (by decide), reachesS x _ (by decide), reachesS x _ (by decide)⟩,
    ⟨fun st => ⟨rfl, rfl, rfl⟩, ⟨rfl, by decide +kernel⟩, rfl, by decide⟩,
    ⟨rfl, rfl, by decide, by decide, by decide +kernel, by decide +kernel, rfl, by decide, rfl⟩, by decide +kernel,
    ⟨rfl, rfl, rfl, by decide, rfl, rfl, by decide +kernel⟩, by decide, fun master => ?_, by decide +kernel, by decide⟩
  cases master <;> exact ⟨rfl, rfl, rfl, rfl, by decide, by decide +kernel, by decide +kernel, by decide +kernel⟩

/-- Member 1 at time `now`, the others unheard since `since`. -/
def sMem (master : Bool) (now : DWord) : State := { sSpan (span12 master) with time := { now := now } }

def hdr2 : MsgHdr := { dst := 1, src := 2 }

/-- A message of member 2 arrives. -/
theorem arrives2 (master : Bool) (b : MsgBody) (hv : b.vc < 6) : Arrives (sSpan (span12 master)) hdr2 b :=
  { carried := by
      have : ∀ v, v < 6 → (sSpan (span12 master)).carries hdr2 v = true := by cases master <;> decide
      exact this _ hv
    here := by cases master <;> rfl
    member := by cases master <;> rfl
    current := by cases master <;> rfl }

theorem witness_SpanMembers :
    (∀ master : Bool, let s := sMem master 2000000
      s.portsRun = true ∧ s.inSpan = true ∧ s.span.lastBeat + 250000 ≤ s.nowN ∧ s.span.master = master ∧
        s.reachable 2 = true ∧ NMap.findD 0 2 s.span.heard + 1500000 ≤ s.nowN ∧ s.span.masterHeard + 2000000 ≤ s.nowN) ∧
      (let r := (span12 true).roster
       majority r [1, 3] = true ∧ majority r [1] = false ∧ masterOf (r.filter (fun e => e.ord != 2)) = 1) ∧
      (let s := sSpan { span12 false with state := .leaving }
       s.span.state = .leaving ∧ s.span.leaveSent = false ∧ s.sharedLaunch = false ∧ s.windowStores = false ∧ s.others ≠ []) ∧
      (let s := sSpan { span12 true with state := .leaving, roster := [{ ord := 1, moduleId := 0 }], en := false }
       s.others = [] ∧ s.span.en = false) ∧
      (let s := sSpan { span12 true with levels := {}, memLevels := [(2, ownLevels), (3, ownLevels)] }
       s.span.master = true ∧ s.span.prep = none ∧ s.raisedLevels ≠ s.span.levels ∧ ∃ r ∈ s.span.roster, r.ord ≠ s.span.ord) ∧
      (∀ (master : Bool) (b : MsgBody), b.vc < 6 → Arrives (sSpan (span12 master)) hdr2 b) ∧
      (newer 5 4 = true ∧ newer 4 5 = false ∧ newer 0 0xFFFFFFFF = true) ∧
      (hdr2.src = (span12 false).masterOrd ∧ (span12 false).state = .member ∧
        (sSpan (span12 false)).windowBusy = false ∧ (sSpan (span12 true)).reachable 3 = true) ∧
      (let r : RosterEntry := { ord := 1, moduleId := 0 }
       [r].find? (fun r => r.moduleId == sB.sec.ident.moduleId) = some r ∧
         ([] : List RosterEntry).find? (fun r => r.moduleId == sB.sec.ident.moduleId) = none) ∧
      (∃ r ∈ dropLink (span12 true).roster 2 3, r.ord ≠ 3 ∧ 3 ∈ r.links) = False ∧
      (∃ r ∈ dropLink [{ ord := 1, links := [3] }, { ord := 2, links := [3] }] 2 3, r.ord ≠ 3 ∧ 3 ∈ r.links) ∧
      ((∃ r ∈ (span12 true).roster, r.ord ∉ [1] ∧ r.ord ≠ 2) ∧ ∀ r ∈ (span12 true).roster, r.ord ∈ [1, 3] ∨ r.ord = 2) ∧
      (let h : Hasp := { launch := 0, cores := [(1, 0), (2, 0)], sent := true }
       2 ∈ h.modules ∧ (span12 false).held = [] ∧ h.gen = 0 ∧ h.sent = true) := by
  refine ⟨fun master => ?_, ⟨by decide, by decide, by decide⟩, ⟨rfl, rfl, rfl, rfl, by decide⟩, ⟨rfl, rfl⟩,
    ⟨rfl, rfl, by decide +kernel, by decide⟩, arrives2, by decide, ⟨rfl, rfl, rfl, rfl⟩, ⟨by decide, rfl⟩, ?_, by decide,
    ⟨by decide, by decide⟩, by decide, rfl, rfl, rfl⟩
  · cases master <;> exact ⟨rfl, rfl, by decide, rfl, rfl, by decide, by decide⟩
  · rw [eq_iff_iff]; decide

/-! ### Messages of launches and windows -/

/-- Context 1 serves SCID 5, a ward entry allows ward 1 plan 0, and memory holds a span record for core 0 at 0x20000. -/
def sSrv (en : Bool) (cells : List Host.Cell) : State :=
  { s0 with
    span := { span12 false with sctab := 0x10008003000 }
    ports := [(0, { up := true })]
    fe := { s0.fe with en := en, wardbase := 0x10008030000 }
    ms := { s0.ms with mem := { cells := cells } } }

def srvCells : List Host.Cell :=
  [(0x10008001000, 1), (0x10008001041, 0x40), (0x10008001043, 1), (0x10008003004, 5), (0x10008003006, 1), (0x10008030010, 0x80)]

theorem arrivesSrv (en : Bool) (cells : List Host.Cell) (fr : Option Nat) (w : Nat) (b : MsgBody) (hv : b.vc < 6) :
    Arrives { sSrv en cells with fe := { (sSrv en cells).fe with frozen := fr } } { hdr2 with ward := w } b :=
  { carried := by
      have : ∀ v, v < 6 → (sSrv true []).carries hdr2 v = true := by decide
      exact this _ hv
    here := rfl
    member := rfl
    current := rfl }

/-- What a PLACE comes to, as data. -/
def placed : Placed → Option (Option Launch)
  | .take l => some (some l)
  | .wait => some none
  | _ => none

theorem placed_take {p : Placed} {l : Launch} (h : placed p = some (some l)) : p = .take l := by
  cases p <;> simp_all [placed]

theorem placed_wait {p : Placed} (h : placed p = some none) : p = .wait := by
  cases p <;> simp_all [placed]

def fields1 : LaunchFields := { spanRec := 0x20000, gx := 1, gy := 1, gz := 1, nthread := 32, lnum := 3 }

def served1 : Launch :=
  { ctx := 1, ring := 0, count := 0, go := true, fields := fields1, origin := some 2, scid := 5, chain := [(1, 0)]
    homes := [(1, 0)], total := 1 }

/-- A launch of this module over members 1 and 2, and one served for member 2. -/
def own3 : Launch := { lnch with fields := { lnch.fields with lnum := 3 }, chain := [(1, 0), (2, 0)], homes := [(1, 0), (2, 0)] }
def sNamed (l : Launch) : State := { sSrv true [] with fe := { (sSrv true []).fe with launches := [(0, l)] } }

theorem witness_LaunchAndTumblerMessages :
    (∀ b : MsgBody, b.vc < 6 → ∀ (en : Bool) (cells : List Host.Cell) (fr : Option Nat) (w : Nat),
      Arrives { sSrv en cells with fe := { (sSrv en cells).fe with frozen := fr } } { hdr2 with ward := w } b) ∧
      ((sSrv false []).fe.en = false ∧ (sSrv false []).onPlace 2 5 fields1 = .refuse) ∧
      (let s := sSrv true srvCells
       (s.tookFlits hdr2 (.place 5 fields1)).onPlace 2 5 fields1 = .take served1 ∧ s.onPlace 2 5 fields1 = .take served1) ∧
      (let s : State := { sSrv true srvCells with fe := { (sSrv true srvCells).fe with frozen := some 0 } }
       (s.tookFlits hdr2 (.place 5 fields1)).onPlace 2 5 fields1 = .wait ∧ s.onPlace 2 5 fields1 = .wait) ∧
      ((sNamed own3).launchNamed (sNamed own3).here 3 = some (0, own3) ∧
        (sNamed served1).launchNamed (sNamed served1).here 3 = none ∧
        (sNamed served1).launchNamed 2 3 = some (0, served1) ∧ (sNamed own3).launchNamed 2 3 = none) ∧
      (let m : RelayMsg := { origin := 1, lnum := 3, modOrd := 2, core := 0, dir := true }
       ((sNamed own3).tookFlits hdr2 (.relay m)).relayIn m ≠ none ∧
         ((sNamed served1).tookFlits hdr2 (.relay m)).relayIn m = none) ∧
      (((sNamed own3).tum 65535).ward = hdr2.ward ∧ ((sNamed own3).tum 65535).ward ≠ ({ hdr2 with ward := 1 } : MsgHdr).ward) ∧
      (∀ tx : Bool, let s : State := { sSrv true [] with
          span := { (sSrv true []).span with txids := if tx then [(0, 2)] else [] } }
        s.hasTx hdr2.txid hdr2.src = tx) ∧
      (hdr2.src = (sNamed own3).span.masterOrd ∧ (sNamed own3).span.master = false) := by
  refine ⟨fun b hv en cells fr w => arrivesSrv en cells fr w b hv, ⟨rfl, rfl⟩,
    ⟨placed_take (by decide +kernel), placed_take (by decide +kernel)⟩,
    ⟨placed_wait (by decide +kernel), placed_wait (by decide +kernel)⟩, ⟨rfl, rfl, rfl, rfl⟩, ⟨?_, rfl⟩, ⟨rfl, by decide⟩,
    fun tx => by cases tx <;> rfl, rfl, rfl⟩
  intro h
  cases h

/-- Requests of a peer for the first line of memory. -/
def asks : List MsgBody :=
  [.read Config.lpBase 64 true, .read Config.lpBase 128 true, .write Config.lpBase [1] true true,
   .bulkwrite Config.lpBase [1, 2] false false, .lr Config.lpBase 8 63 true, .sc Config.lpBase [0, 0, 0, 1] 63 true,
   .atomic Config.lpBase 8 .add false [(1, 0)] false]

theorem witness_WindowMessages :
    (∀ b : MsgBody, b.vc < 6 → Arrives (sSrv true srvCells) { hdr2 with ward := 1 } b) ∧
      (∀ b ∈ asks, let t := (sSrv true srvCells).tookFlits hdr2 b
        t.windowAllowed { hdr2 with ward := 1 } Config.lpBase 128 = true ∧ t.domain (t.memDomain Config.lpBase) = .idle ∧
          t.windowAllowed hdr2 Config.lpBase 128 = false) ∧
      (let s : State := { sSrv true srvCells with power := { s0.power with domains := [(26, .logicOff)] } }
       ∀ b ∈ asks, (s.tookFlits hdr2 b).domain ((s.tookFlits hdr2 b).memDomain Config.lpBase) ≠ .idle) ∧
      (let s := sSrv true srvCells
       ∃ u old bad, (s.tookFlits hdr2 (.atomic Config.lpBase 8 .add false [(1, 0)] false)).doAtom 0 .add 8 false 0
         (.uncached Config.lpBase) (operandLanes [(1, 0)]) = some (u, old, bad)) ∧
      (let s : State := { sSrv true [] with span := { (sSrv true []).span with txids := [(0, 2)] } }
       s.hasTx hdr2.txid hdr2.src = true) ∧
      (sSrv true []).hasTx hdr2.txid hdr2.src = false ∧ (sSrv true []).group? g0 = some grp :=
  ⟨fun b hv => arrivesSrv true srvCells none 1 b hv, by decide +kernel, by decide +kernel, ⟨_, _, _, rfl⟩, rfl, rfl, rfl⟩

theorem witness_HartsLeaveReset :
    ∀ h : Hinge, Reaches (sH h) {} 0xB0020 true ∧ Reaches (sH h) {} 0xB0028 true := fun _ =>
  ⟨⟨rfl, (reachedH 0xB0020 (by decide) true).2⟩, rfl, (reachedH 0xB0028 (by decide) true).2⟩

theorem witness_RailBelowItsResetThreshold :
    ∀ rail, rail ≤ 10 → sB.power.on = true ∧ railReset rail - 1 < railReset rail := by decide

theorem witness_StepRunsTheFront :
    ({ sB with pending := [.meminitDone, .iofenceC] } : State).pending = .meminitDone :: [.iofenceC] ∧
      sB.pending = [] ∧
      (∀ vc ∈ [(34, 0), (40, 498), (40, 499), (30, 499)],
        let s : State := { sB with power := { sB.power with vnow := vc.1, vphase := vc.2 } }
        s.power.on = true ∧ s.time.phase < 999 ∧ s.span.invs = [] ∧ s.power.riseOwed = false ∧ s.power.vcomp = 34 ∧
          s.power.vnow = vc.1 ∧ s.power.vphase = vc.2) ∧
      ∀ owed : Bool, ∀ ns ∈ [0, 99999998, 99999999],
        let s : State := { sB with power := { sB.power with on := false, riseOwed := owed, sinceFall := ns } }
        s.power.on = false ∧ s.span.invs = [] ∧ s.power.riseOwed = owed := by
  refine ⟨rfl, rfl, by decide +kernel, by decide +kernel⟩

theorem witness_EveryStepKeepsMemoryCanonical :
    State.reset.ms.mem.wf = true ∧ (∃ t, step State.reset = .next t) ∧
      ({ cells := [(5, 1), (6, 2)] } : Mem).wf = true := ⟨rfl, ⟨_, rfl⟩, by decide⟩
end Sys2Proof.Tests
end

/-! The set-up window's registers (O40): what an access that reaches a register comes to, and the rule of a base
register. -/

namespace Sys2Proof.Machine

/-! ### The control port's FIFO -/

@[simp] theorem State.cpTake_time (s : State) (req : Requester) (off : Nat) : (s.cpTake req off).time = s.time := by
  unfold State.cpTake; split <;> rfl
@[simp] theorem State.cpTake_fe (s : State) (req : Requester) (off : Nat) : (s.cpTake req off).fe = s.fe := by
  unfold State.cpTake; split <;> rfl
@[simp] theorem State.cpTake_ms (s : State) (req : Requester) (off : Nat) : (s.cpTake req off).ms = s.ms := by
  unfold State.cpTake; split <;> rfl
@[simp] theorem State.cpTake_sec (s : State) (req : Requester) (off : Nat) : (s.cpTake req off).sec = s.sec := by
  unfold State.cpTake; split <;> rfl
@[simp] theorem State.cpTake_dbg (s : State) (req : Requester) (off : Nat) : (s.cpTake req off).dbg = s.dbg := by
  unfold State.cpTake; split <;> rfl

/-- Which addresses are LPDDR5X is the part's, which the identity record names (R410). -/
@[simp] theorem State.cpTake_isLpRange (s : State) (req : Requester) (off pa n : Nat) :
    (s.cpTake req off).isLpRange pa n = s.isLpRange pa n := by
  unfold State.cpTake; split <;> rfl

/-! ### An access that reaches its register -/

section Access

variable {s t : State} {req : Requester} {off : Nat} {v : DWord} {r : SetReg}

theorem Reaches.winWrite_done {op : State → RegW} (h : Reaches s req off true)
    (hop : op (s.cpTake req off) = .done t) : s.winWrite req off 8 op = t := by
  obtain ⟨hlive, hgate⟩ := h
  simp [State.winWrite, hlive, hgate, hop]

theorem Reaches.winWrite_drop {op : State → RegW} {kind : Nat} (h : Reaches s req off true)
    (hop : op (s.cpTake req off) = .drop kind t) : s.winWrite req off 8 op = t.accError req off kind true := by
  obtain ⟨hlive, hgate⟩ := h
  simp [State.winWrite, hlive, hgate, hop]

theorem Reaches.winRead_eq {op : State → DWord × State} (h : Reaches s req off false)
    (hop : op (s.cpTake req off) = (v, t)) : s.winRead req off 8 op = t.cpGive req v := by
  obtain ⟨hlive, hgate⟩ := h
  simp [State.winRead, hlive, hgate, hop]

/-- The recovery buffer lies above the set-up window (R539). -/
theorem State.inRecovery_of_window (s : State) (req : Requester) (hoff : off < 0x100000) :
    s.inRecovery req off = false := by
  have hbelow : ¬ 0x10000000 ≤ off := by omega
  simp [State.inRecovery, hbelow]

theorem exec_registerWrite_window (s : State) (req : Requester) (v : DWord) (hoff : off < 0x100000) :
    exec (.registerWrite req off 8 v) s = .next (s.regWrite req off 8 v) := by
  have hwin : ¬ 0x100000 ≤ off := by omega
  change execRegisterWrite req off 8 v s = _
  simp [execRegisterWrite, s.inRecovery_of_window req hoff, hwin, okay]

theorem exec_registerRead_window (s : State) (req : Requester) (hoff : off < 0x100000) :
    exec (.registerRead req off 8) s = .next (s.regRead req off 8) := by
  have hwin : ¬ 0x100000 ≤ off := by omega
  change execRegisterRead req off 8 s = _
  simp [execRegisterRead, s.inRecovery_of_window req hoff, hwin, okay]

theorem Reaches.registerWrite_done (h : Reaches s req off true) (hoff : off < 0x100000) (hr : regAt off = some r)
    (hw : (s.cpTake req off).writeReg r v = .done t) : exec (.registerWrite req off 8 v) s = .next t := by
  rw [exec_registerWrite_window s req v hoff, State.regWrite, h.winWrite_done (by simpa only [hr] using hw)]

theorem Reaches.registerWrite_drop {kind : Nat} (h : Reaches s req off true) (hoff : off < 0x100000)
    (hr : regAt off = some r) (hw : (s.cpTake req off).writeReg r v = .drop kind t) :
    exec (.registerWrite req off 8 v) s = .next (t.accError req off kind true) := by
  rw [exec_registerWrite_window s req v hoff, State.regWrite, h.winWrite_drop (by simpa only [hr] using hw)]

theorem Reaches.registerRead_eq (h : Reaches s req off false) (hoff : off < 0x100000) (hr : regAt off = some r)
    (hv : (s.cpTake req off).readReg r = (v, t)) : exec (.registerRead req off 8) s = .next (t.cpGive req v) := by
  rw [exec_registerRead_window s req hoff, State.regRead, h.winRead_eq (by simpa only [hr] using hv)]

end Access

/-! ### Base registers (R547, R575) -/

section Base

variable {s : State} {a n : Nat} {locked : Bool} {f : State → State}

theorem State.writeBase_outside (ha : a ≠ 0) (hlp : s.isLpRange a n = false) :
    s.writeBase a n locked f = .drop 4 s := by
  simp [State.writeBase, ha, hlp]

theorem State.writeBase_locked (hlp : s.isLpRange a n = true) : s.writeBase a n true f = .drop 5 s := by
  simp [State.writeBase, hlp]

theorem State.writeBase_done (hlp : s.isLpRange a n = true) : s.writeBase a n false f = .done (f s) := by
  simp [State.writeBase, hlp]

end Base

/-- WD.WARDBASE is a base register of 16 KiB that takes no write while FE.CTL.EN is set (R547). -/
theorem State.writeReg_wardbase (s : State) (v : DWord) :
    s.writeReg .wdWardbase v = s.writeBase (field v 51 12 * 4096) 0x4000 s.fe.en
      (fun t => { t with fe := { t.fe with wardbase := field v 51 12 * 4096 } }) := rfl

/-! ### The statement -/

/-- A write of WD.WARDBASE sets the base, or is dropped: outside LPDDR5X with KIND 4 (R575), while FE.CTL.EN is set with
KIND 5 (R547). -/
theorem registerWrite_wardbase (s : State) (req : Requester) (v : DWord) (h : Reaches s req 0x20000 true) :
    (s.fe.en = false → s.isLpRange (field v 51 12 * 4096) 0x4000 = true → exec (.registerWrite req 0x20000 8 v) s =
      .next { s.cpTake req 0x20000 with fe := { s.fe with wardbase := field v 51 12 * 4096 } }) ∧
    (s.isLpRange (field v 51 12 * 4096) 0x4000 = false → field v 51 12 ≠ 0 →
      exec (.registerWrite req 0x20000 8 v) s = .next ((s.cpTake req 0x20000).accError req 0x20000 4 true)) ∧
    (s.fe.en = true → s.isLpRange (field v 51 12 * 4096) 0x4000 = true →
      exec (.registerWrite req 0x20000 8 v) s = .next ((s.cpTake req 0x20000).accError req 0x20000 5 true)) := by
  have hr : regAt 0x20000 = some .wdWardbase := rfl
  refine ⟨fun hen hlp => ?_, fun hlp hv => ?_, fun hen hlp => ?_⟩
  · refine h.registerWrite_done (by decide) hr ?_
    rw [State.writeReg_wardbase, State.cpTake_fe, hen, State.writeBase_done (by simpa using hlp), State.cpTake_fe]
  · refine h.registerWrite_drop (by decide) hr ?_
    rw [State.writeReg_wardbase, State.writeBase_outside (by omega) (by simpa using hlp)]
  · refine h.registerWrite_drop (by decide) hr ?_
    rw [State.writeReg_wardbase, State.cpTake_fe, hen, State.writeBase_locked (by simpa using hlp)]

/-- Settles O40: each register by its own operation, after the access has reached it. -/
theorem windowRegisters : Obligations.WindowRegisters := by
  intro s req v
  refine ⟨fun h => ?tbLoad, fun h => ?csel, fun h => ?tmSel, registerWrite_wardbase s req v, fun h => ?moduleIdRead,
    fun h => ?tbNowRead, fun h => ?moduleIdWrite⟩
  case tbLoad => exact h.registerWrite_done (r := .spTbload) (by decide) rfl (by simp [State.writeReg])
  case csel => exact h.registerWrite_done (r := .dbCsel) (by decide) rfl (by simp [State.writeReg])
  case tmSel => exact h.registerWrite_done (r := .tmSel) (by decide) rfl (by simp [State.writeReg])
  case moduleIdRead =>
    exact h.registerRead_eq (r := .idModuleId) (by decide) rfl (by simp [State.readReg, State.regValue])
  case tbNowRead => exact h.registerRead_eq (r := .spTbnow) (by decide) rfl (by simp [State.readReg, State.regValue])
  case moduleIdWrite => exact h.registerWrite_done (r := .idModuleId) (by decide) rfl rfl

end Sys2Proof.Machine

/-! The state after reset (O59). -/

namespace Sys2Proof.Machine

/-- All 24 groups are in region 0 after reset, and none in another (R550). -/
theorem State.reset_staged (i : Nat) : NMap.findD 0 i State.reset.ms.staged = if i = 0 then 0xFFFFFF else 0 := by
  have hstaged : State.reset.ms.staged = [(0, 0xFFFFFF)] := rfl
  by_cases hi : i = 0
  · simp [hi, hstaged, NMap.findD, NMap.find_cons]
  · simp [hi, hstaged, NMap.findD, NMap.find_cons, Ne.symm hi]

/-- Settles O59: the maps of tumblers, retention entries, ways, power domains and counters hold no entry after reset, so
every key reads as its default; the staged groups are the one map read by cases. -/
theorem resetState : Obligations.ResetState := by
  -- bring-up, the timebase and the tumblers (R523, R41, R322)
  refine ⟨rfl, rfl, rfl, fun _ => rfl, ?_⟩
  -- the hinge and the retention table (R417, R426, R558)
  refine ⟨rfl, rfl, rfl, rfl, rfl, rfl, fun _ => ⟨rfl, rfl⟩, ?_⟩
  -- interleave, ways and plans (R285, R550)
  refine ⟨State.reset_staged 0, fun i hi => (State.reset_staged i).trans (if_neg hi), fun _ => rfl, rfl, rfl, ?_⟩
  -- the front end, the span, the trace and the event log (R546, R552, R557)
  refine ⟨rfl, rfl, rfl, rfl, rfl, ?_⟩
  -- power (R473)
  refine ⟨rfl, rfl, rfl, rfl, rfl, fun _ => rfl, ?_⟩
  -- module counters, ID.ACCERR, debug tokens (R518, R543, R554), and the model's own queue and memory
  exact ⟨fun _ => rfl, rfl, rfl, rfl, rfl⟩

end Sys2Proof.Machine

/-! One step of the block: the command at the front of its queue, or a nanosecond on an empty one (O58). -/

namespace Sys2Proof

/-! ### Maps -/

variable {α β : Type}

@[simp] theorem NMap.find_mapVals (f : Nat → α → β) (k : Nat) (m : NMap α) :
    NMap.find k (NMap.mapVals f m) = (NMap.find k m).map (f k) := by
  induction m with
  | nil => rfl
  | cons c m ih =>
    obtain ⟨j, v⟩ := c
    change NMap.find k ((j, f j v) :: NMap.mapVals f m) = _
    rw [NMap.find_cons, NMap.find_cons, ih]
    split
    · next h => rw [h]; rfl
    · rfl

/-- A function that keeps the default may be applied before or after reading a key. -/
theorem NMap.findD_mapVals (f : Nat → α → β) (d : α) (k : Nat) (m : NMap α) :
    NMap.findD (f k d) k (NMap.mapVals f m) = f k (NMap.findD d k m) := by
  rw [NMap.findD, NMap.find_mapVals, NMap.findD]
  cases NMap.find k m <;> rfl

end Sys2Proof

namespace Sys2Proof.Machine

/-! ### What an idle step comes to -/

/-- With no SP.WININV write open there is none to complete (R451). -/
theorem State.settleInv_of_noInvs {s : State} (h : s.span.invs = []) : s.settleInv = s := by
  simp [State.settleInv, h]

/-- No rise of PWR_EN is owed, or its 100 ms are not over: nothing happens (R563). -/
theorem State.settleRise_of_early {s : State} (h : s.power.riseOwed = false ∨ s.power.sinceFall < 100000000) :
    s.settleRise = s := by
  refine if_neg fun ⟨howed, hpast⟩ => ?_
  rcases h with h | h
  · simp [h] at howed
  · omega

/-- The rise that was owed takes effect as a cold start (R523, R563). -/
theorem State.settleRise_of_due {s : State} (h : s.power.riseOwed = true) (hpast : 100000000 ≤ s.power.sinceFall) :
    s.settleRise = s.coldStart :=
  if_pos ⟨h, hpast⟩

/-- VCOMP's move changes VCOMP and its phase alone. -/
theorem Power.move_only (p : Power) : p.move = { p with vcomp := p.move.vcomp, vphase := p.move.vphase } := by
  unfold Power.move
  split
  · rfl
  · split <;> rfl

/-- Every nanosecond but the last of a microsecond adds 1 to the timebase (R41). -/
theorem TimeBase.tick_of_phase {t : TimeBase} (h : t.phase < 999) :
    t.tick = { t with now := t.now + 1, phase := t.phase + 1 } :=
  if_pos h

theorem State.tick_of_powered {s : State} (hon : s.power.on = true) :
    s.tick = ({ s with time := s.time.tick, power := s.power.move
                       sec := { s.sec with keeperNs := s.sec.keeperNs + 1 } } : State).drainFifos :=
  if_pos hon

theorem State.tick_of_dark {s : State} (hoff : s.power.on = false) : s.tick = { s with power := s.power.dark } :=
  if_neg (by simp [hoff])

/-- With power, and neither a SP.WININV write open nor a rise owed, an idle step is a nanosecond of the clocks. -/
theorem State.idle_of_powered {s : State} (hon : s.power.on = true) (hinvs : s.span.invs = [])
    (howed : s.power.riseOwed = false) : s.idle = s.tick := by
  have htick := State.tick_of_powered hon
  have hinv : s.tick.settleInv = s.tick := State.settleInv_of_noInvs (by rw [htick]; exact hinvs)
  have hmove : s.power.move.riseOwed = false := by rw [Power.move_only]; exact howed
  rw [State.idle, hinv]
  exact State.settleRise_of_early (.inl (by rw [htick]; exact hmove))

/-- Without power an idle step counts the time since PWR_EN fell, then looks whether a rise is due (R563). -/
theorem State.idle_of_dark {s : State} (hoff : s.power.on = false) (hinvs : s.span.invs = []) :
    s.idle = ({ s with power := s.power.dark } : State).settleRise := by
  rw [State.idle, State.tick_of_dark hoff]
  exact congrArg State.settleRise (State.settleInv_of_noInvs (s := { s with power := s.power.dark }) hinvs)

theorem Power.dark_sinceFall (p : Power) : p.dark.sinceFall = min 100000000 (p.sinceFall + 1) := rfl

/-! ### VCOMP on its way to the setpoint (R36) -/

theorem Power.move_of_reached {p : Power} (h : p.vcomp = p.vnow) : p.move.vcomp = p.vcomp := by
  rw [Power.move, if_pos h]

theorem Power.move_of_waiting {p : Power} (h : p.vcomp ≠ p.vnow) (hph : p.vphase < 499) :
    p.move.vcomp = p.vcomp ∧ p.move.vphase = p.vphase + 1 := by
  rw [Power.move, if_neg h, if_pos hph]; exact ⟨rfl, rfl⟩

theorem Power.move_of_below {p : Power} (h : p.vcomp < p.vnow) (hph : 499 ≤ p.vphase) :
    p.move.vcomp = p.vcomp + 1 ∧ p.move.vphase = 0 := by
  rw [Power.move, if_neg (by omega), if_neg (by omega)]; exact ⟨if_pos h, rfl⟩

theorem Power.move_of_above {p : Power} (h : p.vnow < p.vcomp) (hph : 499 ≤ p.vphase) :
    p.move.vcomp = p.vcomp - 1 ∧ p.move.vphase = 0 := by
  rw [Power.move, if_neg (by omega), if_neg (by omega)]; exact ⟨if_neg (by omega), rfl⟩

/-! ### The statement -/

/-- Settles O58: the step's two arms, and the idle step with power and without. -/
theorem stepRunsTheFront : Obligations.StepRunsTheFront := by
  refine ⟨fun c queue s hp => ?front, fun s hp => ?empty, fun s hon hphase hinvs howed => ?powered,
    fun s hoff hinvs => ⟨fun hearly => ?early, fun howed hpast => ?due⟩⟩
  case front => rw [step, hp]
  case empty => rw [step, hp]
  case powered =>
    rw [State.idle_of_powered hon hinvs howed, State.tick_of_powered hon, TimeBase.tick_of_phase hphase]
    refine ⟨?_, fun n => ⟨NMap.findD_mapVals (fun _ q => q.drop 1) [] n _,
        NMap.findD_mapVals (fun _ q => q.drop 1) [] n _⟩,
      Power.move_of_reached, Power.move_of_waiting, Power.move_of_below, Power.move_of_above⟩
    rw [Power.move_only s.power]
    rfl
  case early =>
    have hdark := s.power.dark_sinceFall
    rw [State.idle_of_dark hoff hinvs]
    exact State.settleRise_of_early (hearly.imp id fun h => show s.power.dark.sinceFall < _ by omega)
  case due =>
    have hdark := s.power.dark_sinceFall
    have hrise := State.settleRise_of_due (s := { s with power := s.power.dark }) howed
      (show _ ≤ s.power.dark.sinceFall by omega)
    rw [State.idle_of_dark hoff hinvs, hrise]
    exact ⟨rfl, rfl, rfl⟩

end Sys2Proof.Machine

/-! The timebase pins and the control port (O46). -/

namespace Sys2Proof.Machine

/-! ### A source raised (R413) -/

theorem mem_addNew_self {α : Type} [DecidableEq α] (a : α) (l : List α) : a ∈ addNew a l := by
  by_cases h : a ∈ l <;> simp [addNew, h]

/-- A source that its domain does not let through stays pending. -/
theorem State.aplicDeliver_held {s : State} {n : Nat}
    (h : ¬ ((s.aplicReg (s.aplicDom n) 0).testBit 8 = true ∧ s.aplicReg (s.aplicDom n) (4 * n) % 8 ≠ 0 ∧
      (s.aplicReg (s.aplicDom n) 0x1E00).testBit n = true)) : s.aplicDeliver n = s := by
  refine if_neg fun hc => h ?_
  simp only [Bool.and_eq_true, bne_iff_ne] at hc
  exact ⟨hc.1.1.2, hc.1.2, hc.2⟩

/-- A pending source that its domain lets through goes to its target's interrupt file. -/
theorem State.aplicDeliver_sent {s : State} {n : Nat} (hp : n ∈ s.hinge.aplic)
    (hdom : (s.aplicReg (s.aplicDom n) 0).testBit 8 = true) (hsrc : s.aplicReg (s.aplicDom n) (4 * n) % 8 ≠ 0)
    (hen : (s.aplicReg (s.aplicDom n) 0x1E00).testBit n = true) :
    s.aplicDeliver n = ({ s with hinge := { s.hinge with aplic := s.hinge.aplic.filter (· != n) } } : State).msi
      (aplicFile (s.aplicDom n) (s.aplicReg (s.aplicDom n) (0x3000 + 4 * n)))
      (s.aplicReg (s.aplicDom n) (0x3000 + 4 * n) % 2048) :=
  if_pos (by simp [hp, hdom, hsrc, hen])

/-- An MSI of an identity from 1 to 2,047 becomes pending in its file. -/
theorem State.msi_valid {s : State} {a d : Nat} (h1 : 1 ≤ d) (h2 : d ≤ 2047) :
    s.msi a d = { s with hinge := { s.hinge with imsic := addNew (a, d) s.hinge.imsic } } :=
  if_pos ⟨h1, h2⟩

/-- Raising a source is what `Raises` says: it is pending, or has been sent as an MSI. -/
theorem State.raises_raiseAplic (s : State) (n : Nat) : Raises s (s.raiseAplic n) n := by
  refine ⟨fun hstays => ?_, fun ⟨hdom, hsrc, hen⟩ hid => ?_⟩
  · exact State.aplicDeliver_held hstays
  · have hsent : s.raiseAplic n = _ := State.aplicDeliver_sent (mem_addNew_self n s.hinge.aplic) hdom hsrc hen
    rw [hsent]
    exact State.msi_valid hid (by omega)

/-! ### A keeper event without an event log and without a trace (R515, R516) -/

/-- No trace record is taken while DB.TRCTL.EN is clear. -/
theorem State.trace_of_off {s : State} (h : s.dbg.tren = false) (type ward ctx core place high : Nat) :
    s.trace type ward ctx core place high = s :=
  if_neg (by simp [State.tracing, h])

/-- Without an event log and a trace, a keeper event is counted and raises source 1. -/
theorem State.keeperEvent_of_bare {s : State} (hlog : s.dbg.elbase = 0) (htr : s.dbg.tren = false) (code info : Nat) :
    s.keeperEvent code info =
      ({ s with dbg := { s.dbg with elcount := s.dbg.elcount + 1 } } : State).raiseAplic 1 := by
  rw [State.keeperEvent, State.logEvent, if_pos hlog]
  exact State.trace_of_off (by rw [State.raiseAplic_dbg]; exact htr) _ _ _ _ _ _

/-- Such an event raises source 1 and changes nothing else but the count of events. -/
theorem State.raises_keeperEvent {s : State} (hlog : s.dbg.elbase = 0) (htr : s.dbg.tren = false) (code info : Nat) :
    Raises { s with time := (s.keeperEvent code info).time, dbg := (s.keeperEvent code info).dbg }
      (s.keeperEvent code info) 1 := by
  rw [State.keeperEvent_time, State.keeperEvent_of_bare hlog htr, State.raiseAplic_dbg]
  exact State.raises_raiseAplic _ 1

/-! ### The pins (R42, R43) -/

/-- With its slew added, the timebase lies at a whole second, which is at most half a second away. -/
theorem toWholeSecond_spec (now : Nat) : -500000000 ≤ toWholeSecond now ∧ toWholeSecond now ≤ 500000000 ∧
    ((now : Int) + toWholeSecond now) % 1000000000 = 0 := by
  unfold toWholeSecond
  extract_lets r
  split <;> omega

theorem TimeBase.pps_armed {t : TimeBase} (h : t.arm = true) :
    t.pps = { t with now := t.load, arm := false, slew := 0, phase := 0, copies := [] } :=
  if_pos h

theorem TimeBase.pps_unarmed {t : TimeBase} (h : t.arm = false) :
    t.pps = { t with slew := toWholeSecond t.now.toNat } :=
  if_neg (by simp [h])

theorem exec_tbPpsEdge {s : State} (hon : s.power.on = true) :
    exec .tbPpsEdge s = .next { s with time := s.time.pps } :=
  congrArg Host.Outcome.next (if_pos hon)

/-- The loss of TB_REF: the internal oscillator takes over and REFLOST is set, with keeper event 4. -/
theorem exec_tbRefLost {s : State} (hon : s.power.on = true) (href : s.time.refOk = true) :
    exec .tbRefLost s =
      .next (({ s with time := { s.time with refOk := false, reflost := true } } : State).keeperEvent 4 0) :=
  if_pos ⟨hon, href⟩

/-! ### The statement -/

/-- Settles O46: the TB_PPS edge by what ARM says (the nearest whole second is the model's choice, logs 126 and 127), and
the loss of TB_REF through the keeper's event and the source it raises (log 139). -/
theorem timebaseAndControlPort : Obligations.TimebaseAndControlPort := by
  intro s
  refine ⟨fun hon harm => ?armed, fun hon harm => ?unarmed, fun hon href => ?refLost, rfl, rfl,
    fun cause hc => ?reset, rfl, fun hon hperst => ?config⟩
  case armed => rw [exec_tbPpsEdge hon, TimeBase.pps_armed harm]
  case unarmed =>
    rw [exec_tbPpsEdge hon, TimeBase.pps_unarmed harm]
    exact ⟨_, rfl, rfl, toWholeSecond_spec _⟩
  case refLost =>
    refine ⟨_, exec_tbRefLost hon href, ?_, ?_, State.keeperEvent_elcount _ 4 0, fun hlog htr => ?_⟩
    · rw [State.keeperEvent_time]
    · rw [State.keeperEvent_time]
    · exact State.raises_keeperEvent (s := { s with time := { s.time with refOk := false, reflost := true } }) hlog htr 4 0
  case reset =>
    cases cause with
    | perst => exact absurd rfl hc
    | hotReset => rfl
    | linkDown => rfl
    | flr => rfl
  case config => exact if_neg (by simp [hon, hperst])

end Sys2Proof.Machine

/-! Supply excursions, temperatures, trips and management over I3C (O48). -/

namespace Sys2Proof.Machine

/-! ### ALERT_N (R571) -/

/-- While some alert bit is set, ALERT_N is low. -/
theorem State.driveAlert_alert {s : State} (h : s.alertBits ≠ 0) (old : Nat) : (s.driveAlert old).pins.alert = true := by
  simp [State.driveAlert, h]

/-- An open excursion is alert bit 3. -/
theorem State.alertBits_of_exc {s : State} (h : s.power.exc = true) : s.alertBits ≠ 0 := by
  have hbit : b2n s.power.exc = 1 := by rw [h]; rfl
  unfold State.alertBits
  omega

@[simp] theorem State.driveAlert_power (s : State) (old : Nat) : (s.driveAlert old).power = s.power := rfl

/-! ### Excursions (R474, R475, R567) -/

/-- A reading below the warning threshold and not below the reset threshold, with no excursion open, opens one. -/
theorem exec_excursionOpen {s : State} {rail mv : Nat} (hon : s.power.on = true) (hrail : rail ≤ 10)
    (hwarn : mv < railWarn s.power.vnow rail) (hreset : railReset rail ≤ mv) (hexc : s.power.exc = false) :
    exec (.excursionOpen rail mv) s = .next (({ s with power := { s.power with
      rails := NMap.ins rail mv s.power.rails, exc := true, excno := s.power.excno + 1, excRail := rail, excMin := mv
      excStart := s.nowN, recs := s.openRecord } } : State).driveAlert s.alertBits) := by
  have hin : ¬ (s.power.on = false ∨ rail > 10 ∨ mv ≥ railWarn s.power.vnow rail ∨ mv < railReset rail) := by
    rw [hon]
    rintro (h | h | h | h)
    · contradiction
    all_goals omega
  change execExcursionOpen rail mv s = _
  rw [execExcursionOpen, if_neg hin, if_neg (by simp [hexc])]

theorem mem_addNew_of_mem {α : Type} [DecidableEq α] {a b : α} {l : List α} (h : a ∈ l) : a ∈ addNew b l := by
  unfold addNew
  split
  · exact h
  · exact List.mem_append_left _ h

/-- Numbers noted one after another: those noted before stay, and each of the list is noted. -/
theorem mem_foldl_addNew {f : Nat → Nat} {l m : List Nat} {x : Nat} (h : x ∈ m ∨ ∃ d ∈ l, f d = x) :
    x ∈ l.foldl (fun m d => addNew (f d) m) m := by
  induction l generalizing m with
  | nil => simpa using h
  | cons d l ih =>
    refine ih ?_
    rcases h with h | ⟨e, he, rfl⟩
    · exact .inl (mem_addNew_of_mem h)
    · rcases List.mem_cons.mp he with rfl | he
      · exact .inl (mem_addNew_self _ _)
      · exact .inr ⟨e, he, rfl⟩

/-- The state when the close of an excursion has written its record's header and logged the event (R475, R477). -/
def State.excursionLogged (s : State) : State :=
  let s1 := match s.power.recs.find? (fun r => !r.closed) with
    | none => s
    | some r => s.cohWrite 0 r.addr (s.excHeader r)
  s1.keeperEvent 3 s1.power.excno.toNat

theorem State.excursionLogged_power (s : State) : s.excursionLogged.power = s.power := by
  unfold State.excursionLogged
  split <;> simp

theorem State.excursionLogged_elcount (s : State) : s.excursionLogged.dbg.elcount = s.dbg.elcount + 1 := by
  unfold State.excursionLogged
  split
  · exact State.keeperEvent_elcount _ _ _
  · rw [State.keeperEvent_elcount, (State.cohWrite_memOnly s _ _ _).dbg]

/-- The stacks that are scrubbed at the close: those that are not off (R475). -/
def State.stacksOn (s : State) : List Nat := (List.range 8).filter (fun d => s.domain (16 + d) != .off)

/-- The close of an open excursion: EXC is cleared, and a scrub of those stacks is asked for. -/
theorem exec_excursionClose {s : State} (hexc : s.power.exc = true) :
    exec .excursionClose s = .next (({ s.excursionLogged with
      power := { s.excursionLogged.power with
        exc := false, rails := []
        recs := (s.excursionLogged.power.recs.map (fun r => { r with closed := true })).filter (fun r => !r.left.isEmpty) }
      ms := { s.excursionLogged.ms with
        fastScrub := s.excursionLogged.stacksOn.foldl (fun m d => addNew (32 + d) m) s.excursionLogged.ms.fastScrub }
      } : State).driveAlert s.alertBits) :=
  if_neg (by simp [hexc])

/-! ### Temperatures (R570) -/

/-- HOT after a reading: set at 100 °C with VCOMP at its lowest, clear at 97 °C. -/
def Power.hotAfter (p : Power) (temps : Temps) : Bool :=
  (decide (hottest temps ≥ 100) && p.vcomp == 0) || (p.hot && decide (hottest temps > 97))

theorem Power.hotAfter_of_hot {p : Power} {temps : Temps} (h : 100 ≤ hottest temps) (hv : p.vcomp = 0) :
    p.hotAfter temps = true := by
  simp [Power.hotAfter, h, hv]

theorem Power.hotAfter_of_cool {p : Power} {temps : Temps} (h : hottest temps ≤ 97) : p.hotAfter temps = false := by
  have h100 : ¬ hottest temps ≥ 100 := by omega
  have h97 : ¬ hottest temps > 97 := by omega
  simp [Power.hotAfter, h100, h97]

theorem exec_thermalAlert {s : State} (hon : s.power.on = true) (temps : Temps) :
    ∃ u, exec (.thermalAlert temps) s = .next u ∧ u.power.temps = temps ∧ u.power.hot = s.power.hotAfter temps :=
  ⟨_, if_neg (by simp [hon]), rfl, rfl⟩

/-! ### The statement -/

/-- Settles O48: an excursion's open and close, the readings, and the bytes of the keeper's table, each by its command. -/
theorem excursionsAndTemperatures : Obligations.ExcursionsAndTemperatures := by
  intro s rail mv temps index b static dynamic
  refine ⟨fun hon hrail hwarn hreset hexc => ?opens, fun hexc => ?closes, fun hon => ?alert, fun hon hhot => ?trip,
    fun hon hi => ?read, fun hon hb => ?write, fun hi => ?ignored, fun hon hst => ?setdasa⟩
  case opens =>
    exact ⟨_, exec_excursionOpen hon hrail hwarn hreset hexc, rfl, rfl, rfl, rfl, rfl,
      State.driveAlert_alert (State.alertBits_of_exc rfl) _⟩
  case closes =>
    refine ⟨_, exec_excursionClose hexc, rfl, s.excursionLogged_elcount, fun d hd hon =>
      mem_foldl_addNew (.inr ⟨d, ?_, rfl⟩)⟩
    simpa [State.stacksOn, hd, State.domain, State.excursionLogged_power] using hon
  case alert =>
    obtain ⟨u, hu, htemps, hhot⟩ := exec_thermalAlert hon temps
    exact ⟨u, hu, htemps, fun h hv => hhot.trans (Power.hotAfter_of_hot h hv), fun h =>
      hhot.trans (Power.hotAfter_of_cool h)⟩
  case trip =>
    exact ⟨_, if_pos ⟨hon, hhot⟩, rfl, rfl, rfl, rfl, rfl⟩
  case read =>
    change execI3cRead index s = _
    rw [execI3cRead, if_neg (by simp [hon]), if_neg hi]
  case write => exact ⟨_, if_pos ⟨hon, rfl, hb⟩, rfl⟩
  case ignored => exact if_neg fun h => hi h.2.1
  case setdasa => exact if_pos ⟨hon, hst⟩

end Sys2Proof.Machine

/-! PW.CTL, VCOMP and the states of power domains (O47). -/

namespace Sys2Proof.Machine

/-! ### PW.CTL (R471) -/

@[simp] theorem State.cpTake_power (s : State) (req : Requester) (off : Nat) : (s.cpTake req off).power = s.power := by
  unfold State.cpTake; split <;> rfl

theorem State.writePwCtl_done {s : State} {v : DWord} (hlo : 1000 ≤ field v 11 0) (hhi : field v 11 0 ≤ 2800)
    (hset : field v 21 16 ≤ 60) :
    s.writePwCtl v = .done { s with power := { s.power with
      cap := field v 11 0, op := v.extractLsb' 12 2, vset := field v 21 16, hosttol := field v 55 32 } } := by
  have hin : ¬ (field v 11 0 < 1000 ∨ 2800 < field v 11 0 ∨ 60 < field v 21 16) := by omega
  have hop : (v >>> 12).setWidth 2 = v.extractLsb' 12 2 := by ext i hi; simp
  rw [State.writePwCtl, if_neg hin, hop]

theorem State.writePwCtl_drop {s : State} {v : DWord}
    (h : field v 11 0 < 1000 ∨ 2800 < field v 11 0 ∨ 60 < field v 21 16) : s.writePwCtl v = .drop 4 s :=
  if_pos h

theorem exec_pwCtl (s : State) (req : Requester) (v : DWord) :
    exec (.pwCtl req v) s = .next (s.winWrite req 0x60000 8 (fun t => t.writePwCtl v)) := rfl

/-! ### VCOMP (R34, R472, R473) -/

/-- The setpoint taken is the highest up to `top` that meets the cap; 0.55 V is taken where none does. -/
theorem setpointFor_spec (draw cap top : Nat) :
    setpointFor draw cap top ≤ top ∧
      (setpointFor draw cap top = 0 ∨ Config.powerAt draw (setpointFor draw cap top) ≤ cap) ∧
      ∀ n, setpointFor draw cap top < n → n ≤ top → cap < Config.powerAt draw n := by
  induction top with
  | zero => exact ⟨le_rfl, .inl rfl, fun n h1 h2 => absurd (h1.trans_le h2) (lt_irrefl _)⟩
  | succ v ih =>
    obtain ⟨hle, hmeets, hmax⟩ := ih
    unfold setpointFor
    split
    · next hcap => exact ⟨le_rfl, .inr hcap, fun n h1 h2 => absurd (h1.trans_le h2) (lt_irrefl _)⟩
    · next hcap =>
      refine ⟨hle.trans v.le_succ, hmeets, fun n h1 h2 => ?_⟩
      rcases Nat.le_succ_iff.mp h2 with h | rfl
      · exact hmax n h1 h
      · exact not_le.mp hcap

/-- While the junctions hold nothing back, the setpoint follows the request and the cap alone. -/
theorem exec_vcompControl_free {s : State} {temps : Temps} (hon : s.power.on = true) (hrom : s.stage ≠ .rom)
    (hfail : s.stage ≠ .failed) (hexc : s.power.exc = false) (htherm : s.power.therm = false)
    (hcool : hottest temps ≤ 95) (power vin : Nat) :
    ∃ u, exec (.vcompControl power vin temps) s = .next u ∧ u.power = { s.power with
      pin := power % 2 ^ 16, vin := vin % 2 ^ 16, temps := temps, energy := s.power.energy.add 63 (10 * power)
      vnow := setpointFor s.free s.power.capNow s.power.request
      caplim := decide (setpointFor s.free s.power.capNow s.power.request < s.power.request), therm := false } := by
  have hruns : ¬ (s.power.on = false ∨ s.stage = .rom ∨ s.stage = .failed) := by simp [hon, hrom, hfail]
  have hcold : ¬ hottest temps > 95 := by omega
  change ∃ u, execVcompControl power vin temps s = _ ∧ _
  rw [execVcompControl, if_neg hruns]
  simp [State.draw, hexc, htherm, hcold]

/-- An excursion holds the setpoint (R475). -/
theorem exec_vcompControl_exc {s : State} (hon : s.power.on = true) (hrom : s.stage ≠ .rom)
    (hfail : s.stage ≠ .failed) (hexc : s.power.exc = true) (power vin : Nat) (temps : Temps) :
    ∃ u, exec (.vcompControl power vin temps) s = .next u ∧ u.power.vnow = s.power.vnow := by
  have hruns : ¬ (s.power.on = false ∨ s.stage = .rom ∨ s.stage = .failed) := by simp [hon, hrom, hfail]
  change ∃ u, execVcompControl power vin temps s = _ ∧ _
  rw [execVcompControl, if_neg hruns]
  simp [State.draw, hexc]

/-! ### Domains (R465 to R470) -/

@[simp] theorem State.domain_setDomain_same (s : State) (d : Nat) (x : DomState) : (s.setDomain d x).domain d = x := by
  simp [State.domain, State.setDomain]

theorem State.domain_setDomain_ne (s : State) {d e : Nat} (h : e ≠ d) (x : DomState) :
    (s.setDomain d x).domain e = s.domain e := by
  simp [State.domain, State.setDomain, h]

/-- A domain that has a new state is not waited for any more. -/
theorem State.not_mem_waking_setDomain (s : State) (d : Nat) (x : DomState) : d ∉ (s.setDomain d x).power.waking := by
  simp [State.setDomain]

/-- The states of domains are power's. -/
theorem State.domain_congr {s t : State} (h : t.power = s.power) (d : Nat) : t.domain d = s.domain d := by
  rw [State.domain, State.domain, h]

theorem MemOnly.power {s t : State} (h : MemOnly s t) : t.power = s.power :=
  (congrArg State.power (Eq.trans h rfl)).trans rfl

@[simp] theorem State.evictLine_power (s : State) (stop line : Nat) : (s.evictLine stop line).power = s.power := by
  unfold State.evictLine
  split
  · rfl
  · split <;> rfl

/-- An LLC written back and emptied leaves power alone. -/
@[simp] theorem State.flushLLC_power (s : State) (stop : Nat) : (s.flushLLC stop).power = s.power := by
  refine foldl_keeps (fun t : State => t.power = s.power) _ (fun t l ht => ?_) _ _ rfl
  rw [(State.acceptSent_memOnly _ _).power, State.evictLine_power, ht]

@[simp] theorem State.copyLine_power (s : State) (r : ShareRun) (off key : Nat) :
    (s.copyLine r off key).power = s.power := by
  unfold State.copyLine; split <;> rfl

/-- A granule filled is bonded SRAM written; power is left alone. -/
@[simp] theorem State.fillGranule_power (s : State) (r : ShareRun) (i g : Nat) : (s.fillGranule r i g).power = s.power := by
  unfold State.fillGranule
  extract_lets s1
  have h1 : s1.power = s.power := rfl
  split
  · exact h1
  · exact foldl_keeps (fun t : State => t.power = s.power) _ (fun t j ht => by rw [State.copyLine_power, ht]) _ _ h1

@[simp] theorem State.wakeStack_power (s : State) (die : Nat) : (s.wakeStack die).power = s.power := by
  refine foldl_keeps (fun t : State => t.power = s.power) _ (fun t nc ht => ?_) _ _ rfl
  refine foldl_keeps (fun t : State => t.power = s.power) _ (fun t r ht => ?_) _ _ ht
  refine foldl_keeps (fun t : State => t.power = s.power) _ (fun t ig ht => ?_) _ _ ht
  split
  · rw [State.fillGranule_power, ht]
  · exact ht

/-- DOMAIN_ENTRY of a domain that may go deeper: it is in the state its tolerance allows. -/
theorem exec_domainEntry_deeper {s : State} {d : Nat} (hon : s.power.on = true) (hready : s.stage = .ready) (hd : d < 32)
    (hwaking : d ∉ s.power.waking) (hexc : s.power.exc = false) (hdeeper : (s.domain d).code < (s.domTarget d).code)
    (hmay : s.mayEnter d (s.domTarget d) = true) :
    ∃ t : State, t.power = s.power ∧ exec (.domainEntry d) s = .next (t.setDomain d (s.domTarget d)) := by
  have hasks : ¬ (s.power.on = false ∨ s.stage ≠ .ready ∨ d ≥ 32 ∨ s.power.waking.contains d = true) := by
    simp [hon, hready, hd, hwaking]
  have hup : ¬ (s.domTarget d).code < (s.domain d).code := by omega
  have henters : ¬ ((s.domTarget d).code = (s.domain d).code ∨ s.power.exc = true ∨
      s.mayEnter d (s.domTarget d) = false) := by
    simpa [hexc, hmay] using Nat.ne_of_gt hdeeper
  refine ⟨if 16 ≤ d ∧ d < 24 ∧ s.domain d = .idle then s.flushLLC (stopOfDie (d - 16)) else s, ?_, ?_⟩
  · split
    · exact State.flushLLC_power _ _
    · rfl
  · change execDomainEntry d s = _
    rw [execDomainEntry, if_neg hasks, if_neg hup, if_neg henters]

/-- The caches of the half's cores are empty after a wake from a state that lost its logic. -/
theorem State.core_wakeHalf {s : State} {c d : Nat} (h : s.halfOf c = d) :
    ((s.wakeHalf d).core c).l1 = [] ∧ ((s.wakeHalf d).core c).icache = [] := by
  rw [State.core, State.wakeHalf, NMap.findD, NMap.find_mapVals]
  cases NMap.find c s.cores with
  | none => exact ⟨rfl, rfl⟩
  | some k => simp [h]

/-- A domain idle again, with what its state did not keep restored (R470). -/
def State.woken (s : State) (d : Nat) : State :=
  if d < 16 then (if s.domain d = .clamped then s.setDomain d .idle else (s.setDomain d .idle).wakeHalf d)
  else if d < 24 then (if s.domain d = .off then (s.setDomain d .idle).wakeStack (d - 16) else s.setDomain d .idle)
  else s.setDomain d .idle

theorem State.woken_of_clamped {s : State} {d : Nat} (hd : d < 16) (h : s.domain d = .clamped) :
    s.woken d = s.setDomain d .idle := by
  rw [State.woken, if_pos hd, if_pos h]

theorem State.woken_of_lost {s : State} {d : Nat} (hd : d < 16) (h : s.domain d ≠ .clamped) :
    s.woken d = (s.setDomain d .idle).wakeHalf d := by
  rw [State.woken, if_pos hd, if_neg h]

/-- What is restored is in the cores and the bonded SRAM: power holds the new state of the domain, and nothing else. -/
theorem State.woken_power (s : State) (d : Nat) : (s.woken d).power = (s.setDomain d .idle).power := by
  unfold State.woken
  split
  · split <;> rfl
  · split
    · split
      · exact State.wakeStack_power _ _
      · rfl
    · rfl

/-- WAKE_COMPLETE of a domain that a requester waits for, on a die that is not fenced. -/
theorem exec_wakeComplete {s : State} {d : Nat} (hon : s.power.on = true) (hlow : s.domain d ≠ .idle)
    (hfence : d < 24 → s.fenced (domDie d) = false) (hwaits : d < 16 → d ∈ s.power.waking) :
    exec (.wakeComplete d) s = .next (s.woken d) := by
  have hwakes : ¬ (s.power.on = false ∨ s.domain d = .idle ∨ (d < 24 ∧ s.fenced (domDie d) = true) ∨
      (d < 16 ∧ s.power.waking.contains d = false)) := by
    rintro (h | h | ⟨h, hf⟩ | ⟨h, hw⟩)
    · simp [hon] at h
    · exact hlow h
    · simp [hfence h] at hf
    · simp [hwaits h] at hw
  change execWakeComplete d s = _
  rw [execWakeComplete, if_neg hwakes, State.woken]
  split
  · rfl
  · split <;> rfl

/-! ### The statement -/

/-- Settles O47: PW.CTL by its range, VCOMP by the search for the highest setpoint (logs 66 and 67), and domains by the
state they enter (a memory or SRAM domain wakes without a request, log 68). -/
theorem powerControl : Obligations.PowerControl := by
  intro s req v d
  refine ⟨fun hr => ⟨fun hlo hhi hset => ?taken, fun hout => ?dropped⟩,
    fun power vin temps hon hrom hfail => ⟨fun hexc htherm hcool => ?vcomp, fun hexc =>
      exec_vcompControl_exc hon hrom hfail hexc power vin temps⟩, fun _ => rfl,
    fun hon hready hd hwaking hexc hdeeper hmay => ?enters, fun hon hlow hfence hwaits => ?wakes⟩
  case taken =>
    rw [exec_pwCtl, hr.winWrite_done (State.writePwCtl_done hlo hhi hset), State.cpTake_power]
  case dropped => rw [exec_pwCtl, hr.winWrite_drop (State.writePwCtl_drop hout)]
  case vcomp =>
    obtain ⟨u, hu, hp⟩ := exec_vcompControl_free hon hrom hfail hexc htherm hcool power vin
    obtain ⟨hle, hmeets, hmax⟩ := setpointFor_spec s.free s.power.capNow s.power.request
    refine ⟨u, s.free, hu, ?_⟩
    rw [hp]
    exact ⟨hle, hmeets, hmax, rfl, rfl, rfl, rfl, rfl, rfl⟩
  case enters =>
    obtain ⟨t, ht, hu⟩ := exec_domainEntry_deeper hon hready hd hwaking hexc hdeeper hmay
    exact ⟨_, hu, State.domain_setDomain_same _ _ _, fun e he =>
      (State.domain_setDomain_ne _ he _).trans (State.domain_congr ht e)⟩
  case wakes =>
    have hpower := s.woken_power d
    refine ⟨_, exec_wakeComplete hon hlow hfence hwaits, ?_, ?_, fun hd hlost c hc => ?_, fun hd hkept => ?_⟩
    · rw [State.domain_congr hpower, State.domain_setDomain_same]
    · rw [hpower]
      exact s.not_mem_waking_setDomain d .idle
    · rw [State.woken_of_lost hd hlost]
      exact State.core_wakeHalf hc
    · rw [State.woken_of_clamped hd hkept]
      rfl

end Sys2Proof.Machine

/-! SREAD and SWRITE (O10): what SREAD writes, and what reading a value does beside it. -/

namespace Sys2Proof.Machine

section Sread

variable {s : State} {g : Site} {x : Group} {e : Enc}

/-- An effect that puts the group back as `y`, over a state that it may have changed: the group moves on, and no more. -/
theorem State.settle_put {t : State} {y : Group} (hh : y.haltReq = none) (hs : y.stepping = false) :
    s.settle g x x.pc (t.put g y) = t.after g y (y.pc + 8) := by
  rw [State.put, State.settle, State.complete_eq _ g y none (State.group_setGroup_same t g y) hh hs]
  rw [State.moved, State.setGroup_setGroup]
  rfl

/-- SREAD of a value that the lanes share: into a u register, with what the read itself does (R75, R141). -/
theorem exec_sread_shared (hname : field e.imm 7 0 ∈ srNames) (hsh : ¬ field e.imm 7 0 < 2)
    (h : Issues s g x e { ops := [(.none, e.a), (.none, e.b), (.u, e.d)]
                          rsv := e.type != 0 || field e.imm 23 8 != 0 }) :
    exec (.sread g e) s = .next ((s.srRead g x (field e.imm 7 0)).after g
      (x.wu e.d (BitVec.ofNat 64 (s.srValue g x (field e.imm 7 0)))) (x.pc + 8)) := by
  have hlane : srPerLane (field e.imm 7 0) = false := by
    simp only [srPerLane, Bool.or_eq_false_iff, beq_eq_false_iff_ne]
    omega
  have hknown : srNames.contains (field e.imm 7 0) = true := by simpa using hname
  change execSread g e s = _
  rw [execSread]
  simp only [hknown, hlane]
  rw [State.issue_eq h rfl]
  exact congrArg okay (State.settle_put (y := x.wu e.d _) h.noHalt h.noStep)

/-- The u register that SREAD writes is the only one that changes. -/
theorem WritesU.of_wu {c : Instr} {n : Nat} {v : DWord} (h : Moves s c g (x.wu n v) (x.pc + 8)) : WritesU s c g x n v :=
  ⟨_, h, rfl, fun r => Group.ru_wu x n r v⟩

end Sread

/-! ### Values that the lanes share, read without a trace (R75) -/

/-- The names whose reading changes nothing beside the register: neither sr.time nor a value that binds the tile to its
core. -/
def srPlain : List Nat := [2, 3, 4, 8, 9, 10, 12, 13, 14, 18, 21, 32, 33]

/-- The value of such a name, from the group, its tile and its tile's launch. -/
def State.sharedValue (s : State) (x : Group) (t : Tile) (k : Launch) (name : Nat) : Option Nat :=
  if name = 2 then some x.index else if name = 3 then some t.nthread else if name = 4 then some x.active.toNat
  else if name = 8 then some (t.index % k.fields.gx) else if name = 9 then some (t.index / k.fields.gx % k.fields.gy)
  else if name = 10 then some (t.index / k.fields.gx / k.fields.gy)
  else if name = 12 then some k.fields.gx else if name = 13 then some k.fields.gy
  else if name = 14 then some k.fields.gz else if name = 18 then some s.here
  else if name = 21 then some k.chain.length
  else if name = 32 then some x.fflags.toNat else if name = 33 then some x.frm.toNat else none

section Shared

variable {s : State} {g : Site} {x : Group} {e : Enc} {t : Tile} {k : Launch} {name v : Nat}

/-- A value found by a chain of tests comes from the first test or from the rest of the chain. -/
theorem eq_or_of_ite_some {c : Prop} [Decidable c] {a b : Nat} {r : Option Nat} (h : (if c then some a else r) = some b) :
    (c ∧ a = b) ∨ r = some b := by
  by_cases hc : c
  · exact .inl ⟨hc, Option.some.inj ((if_pos hc).symm.trans h)⟩
  · exact .inr ((if_neg hc).symm.trans h)

theorem State.srValue_of_shared (ht : s.tile? g.core x.tile = some t) (hk : s.launch? t.launch = some k)
    (hv : s.sharedValue x t k name = some v) : name ∈ srPlain ∧ s.srValue g x name = v := by
  unfold State.sharedValue at hv
  iterate 13
    obtain ⟨rfl, rfl⟩ | hv := eq_or_of_ite_some hv
    · exact ⟨by decide, by simp only [State.srValue, ht, hk, Option.getD_some]⟩
  contradiction

theorem srNames_of_plain (h : name ∈ srPlain) : name ∈ srNames ∧ ¬ name < 2 := by
  revert name
  decide

theorem State.srRead_of_plain (h : name ∈ srPlain) : s.srRead g x name = s := by
  have hne : name ≠ 24 ∧ name ≠ 16 ∧ name ≠ 17 ∧ name ≠ 20 := by
    revert name
    decide
  simp [State.srRead, hne]

theorem exec_sread_plain (ht : s.tile? g.core x.tile = some t) (hk : s.launch? t.launch = some k)
    (hv : s.sharedValue x t k (field e.imm 7 0) = some v)
    (h : Issues s g x e { ops := [(.none, e.a), (.none, e.b), (.u, e.d)]
                          rsv := e.type != 0 || field e.imm 23 8 != 0 }) :
    WritesU s (.sread g e) g x e.d (BitVec.ofNat 64 v) := by
  obtain ⟨hplain, hval⟩ := State.srValue_of_shared ht hk hv
  obtain ⟨hname, hsh⟩ := srNames_of_plain hplain
  have hexec := exec_sread_shared hname hsh h
  rw [State.srRead_of_plain hplain, hval] at hexec
  exact .of_wu hexec

end Shared

/-! ### sr.core, sr.die and sr.spanrank (R228) -/

section CoreBound

variable {s : State} {g : Site} {x : Group} {e : Enc} {t : Tile} {k : Launch} {v : Nat}

theorem State.srValue_of_place (ht : s.tile? g.core x.tile = some t) (hk : s.launch? t.launch = some k) {name : Nat}
    (hv : (name = 16 ∧ v = g.core) ∨ (name = 17 ∧ v = g.core / 96) ∨
      (name = 20 ∧ k.chain.findIdx? (fun c => c.1 == s.here && c.2 == g.core) = some v)) :
    (name = 16 ∨ name = 17 ∨ name = 20) ∧ s.srValue g x name = v := by
  rcases hv with ⟨rfl, rfl⟩ | ⟨rfl, rfl⟩ | ⟨rfl, hi⟩
  · exact ⟨.inl rfl, rfl⟩
  · exact ⟨.inr (.inl rfl), rfl⟩
  · simp [State.srValue, ht, hk, hi]

/-- Reading where the tile runs binds it to its core. -/
theorem State.srRead_of_place {name : Nat} (h : name = 16 ∨ name = 17 ∨ name = 20) :
    s.srRead g x name = s.updTile g.core x.tile (fun t => { t with coreBound := true }) := by
  have hne : name ≠ 24 := by omega
  rw [State.srRead, if_neg hne, if_pos h]

end CoreBound

/-! ### sr.time (R44) -/

/-- A copy of the timebase: not behind what it gave before, and within 2 ns of B0's counter, modulo 2^64. -/
theorem State.timeCopy_spec (s : State) (place : Nat) :
    (∀ last, NMap.find place s.time.copies = some last → (s.timeCopy place + 2 ^ 64 - last) % 2 ^ 64 < 2 ^ 63) ∧
      (NMap.find place s.time.copies ≠ some (s.timeCopy place) →
        (s.timeCopy place + 2 + 2 ^ 64 - s.time.now.toNat) % 2 ^ 64 ≤ 4) := by
  have hnow : s.time.now.toNat < 2 ^ 64 := s.time.now.isLt
  cases hf : NMap.find place s.time.copies with
  | none =>
    have hcopy : s.timeCopy place = if s.time.now.toNat < 2 then s.time.now.toNat
        else (s.time.now.toNat + 2 ^ 64 + Config.freeNat s.free % 5 - 2) % 2 ^ 64 := by
      simp only [State.timeCopy, State.nowN, hf]; rfl
    refine ⟨fun _ h => by simp at h, fun _ => ?_⟩
    rw [hcopy]
    split <;> omega
  | some last =>
    let v := (s.time.now.toNat + 2 ^ 64 + Config.freeNat s.free % 5 - 2) % 2 ^ 64
    have hcopy : s.timeCopy place = if (v + 2 ^ 64 - last) % 2 ^ 64 < 2 ^ 63 then v else last := by
      simp only [State.timeCopy, State.nowN, hf, v]; rfl
    by_cases hahead : (v + 2 ^ 64 - last) % 2 ^ 64 < 2 ^ 63
    · rw [hcopy, if_pos hahead]
      refine ⟨fun _ h => Option.some.inj h ▸ hahead, fun _ => ?_⟩
      simp only [v]
      omega
    · rw [hcopy, if_neg hahead]
      refine ⟨fun _ h => ?_, fun h => absurd rfl h⟩
      obtain rfl := Option.some.inj h
      omega

/-- SREAD of sr.time writes the die's copy and fixes it (R44). -/
theorem exec_sread_time {s : State} {g : Site} {x : Group} {e : Enc} (hn : field e.imm 7 0 = 24)
    (h : Issues s g x e { ops := [(.none, e.a), (.none, e.b), (.u, e.d)]
                          rsv := e.type != 0 || field e.imm 23 8 != 0 }) :
    exec (.sread g e) s = .next ((s.seeTime (g.core / 96)).after g
      (x.wu e.d (BitVec.ofNat 64 (s.timeCopy (g.core / 96)))) (x.pc + 8)) := by
  have hexec := exec_sread_shared (by simp [hn, srNames]) (by omega) h
  rw [hn] at hexec
  exact hexec

/-! ### The values of the lanes, and SWRITE -/

section Lanes

variable {s : State} {g : Site} {x : Group} {e : Enc}

/-- SREAD of a value that differs between lanes writes a t register in the lanes of the guard (R75, R141). -/
theorem exec_sread_lanes (hsh : field e.imm 7 0 < 2)
    (h : Issues s g x e { ops := [(.none, e.a), (.none, e.b), (.t, e.d)]
                          rsv := e.type != 0 || field e.imm 23 8 != 0 }) :
    Moves s (.sread g e) g (x.wts e.d (fun l =>
      BitVec.ofNat 32 (if field e.imm 7 0 = 0 then l else NMap.findD 0 l x.tids)) (lanesOf (x.guard e))) (x.pc + 8) := by
  have hname : field e.imm 7 0 = 0 ∨ field e.imm 7 0 = 1 := by omega
  have hlane : srPerLane (field e.imm 7 0) = true := by
    rcases hname with h | h <;> simp [srPerLane, h]
  have hknown : srNames.contains (field e.imm 7 0) = true := by
    rcases hname with h | h <;> simp [srNames, h]
  change execSread g e s = _
  rw [execSread]
  simp only [hknown, hlane]
  rw [State.issue_eq h rfl]
  have honly := Group.wts_only x e.d
    (fun l => BitVec.ofNat 32 (if field e.imm 7 0 = 0 then l else NMap.findD 0 l x.tids)) (lanesOf (x.guard e))
  have hput := State.settle_put (s := s) (g := g) (x := x) (t := s) ((congrArg Group.haltReq honly).trans h.noHalt)
    ((congrArg Group.stepping honly).trans h.noStep)
  exact congrArg okay (hput.trans (by rw [congrArg Group.pc honly]))

/-- SWRITE moves the group on with the register that its name selects written (R75). -/
theorem exec_swrite (h : Issues s g x e { ops := [(.none, e.d), (.u, e.a), (.none, e.b)]
                                          rsv := e.type != 0 || field e.imm 23 8 != 0
                                          extra := if field e.imm 7 0 = 32 ∨ field e.imm 7 0 = 33 then [] else [3] }) :
    Moves s (.swrite g e) g (if field e.imm 7 0 = 32 then { x with fflags := (x.ru e.a).setWidth 5 }
      else { x with frm := (x.ru e.a).setWidth 2 }) (x.pc + 8) :=
  congrArg okay (State.issueReg_eq
    (dec := fun _ _ => { ops := [(.none, e.d), (.u, e.a), (.none, e.b)], rsv := e.type != 0 || field e.imm 23 8 != 0
                         extra := if field e.imm 7 0 = 32 ∨ field e.imm 7 0 = 33 then [] else [3] })
    (f := fun x _ => if field e.imm 7 0 = 32 then { x with fflags := (x.ru e.a).setWidth 5 }
      else { x with frm := (x.ru e.a).setWidth 2 }) h (by split <;> rfl) (by split <;> rfl) (by split <;> rfl))

end Lanes

/-! ### The statement -/

/-- Settles O10: each name by what its reading does to the state, the register write being the same for all. -/
theorem specialValues : Obligations.SpecialValues := by
  intro s g x e t k name shared
  refine ⟨fun ht hk v hv h => exec_sread_plain ht hk hv h, fun ht hk h => ⟨fun v hv => ?place, fun hn => ?time⟩,
    fun hn h => ?lanes, fun h => ⟨fun hn => ?fflags, fun hn => ?frm⟩⟩
  case place =>
    obtain ⟨hplace, hval⟩ := State.srValue_of_place (x := x) ht hk hv
    have hname : name ∈ srNames ∧ ¬ name < 2 := by
      rcases hplace with h | h | h <;> simp [h, srNames]
    have hexec := exec_sread_shared hname.1 hname.2 h
    rw [State.srRead_of_place hplace, hval] at hexec
    exact ⟨_, rfl, fun r => Group.ru_wu x e.d r _, hexec⟩
  case time =>
    obtain ⟨hback, hnear⟩ := s.timeCopy_spec (g.core / 96)
    exact ⟨_, s.timeCopy (g.core / 96), rfl, fun r => Group.ru_wu x e.d r _, hback, hnear, exec_sread_time hn h⟩
  case lanes =>
    refine ⟨_, exec_sread_lanes hn h, Group.wts_only x e.d _ _, fun l r hl hr => ?_⟩
    rw [Group.rt_wts x e.d _ _ l r e.dst.isLt hr]
    simp only [mem_lanesOf, hl, true_and]
    rfl
  case fflags => exact (exec_swrite h).trans (by rw [if_pos hn])
  case frm => exact (exec_swrite h).trans (by rw [if_neg (by omega)])

end Sys2Proof.Machine

/-! What leaves this module's part in a span alone: the operations over memory, faults, tiles, launches and hasp lines that
may follow the end of a wait or of a request to a peer, and the requests outstanding through a level commit. -/

namespace Sys2Proof.Machine

/-! ### Repeated operations -/

theorem State.foldl_span {β : Type} {f : State → β → State} (hf : ∀ t b, (f t b).span = t.span) (l : List β) (s : State) :
    (l.foldl f s).span = s.span :=
  foldl_keeps (fun t : State => t.span = s.span) f (fun t b ht => (hf t b).trans ht) l s rfl

theorem MemOnly.span {s t : State} (h : MemOnly s t) : t.span = s.span :=
  (congrArg State.span (Eq.trans h rfl)).trans rfl

theorem LogOnly.span {s t : State} (h : LogOnly s t) : t.span = s.span :=
  (congrArg State.span (Eq.trans h rfl)).trans rfl

/-! ### Memory and the front end's writes (R293, R576) -/

@[simp] theorem State.memAccept_span (s : State) (line : Nat) (bytes : NMap Byte) (poison : Bool) (tag : Nat) :
    (s.memAccept line bytes poison tag).span = s.span := (State.memAccept_memOnly s line bytes poison tag).span

@[simp] theorem State.acceptSent_span (s : State) (line : Nat) : (s.acceptSent line).span = s.span :=
  (State.acceptSent_memOnly s line).span

@[simp] theorem State.targetWrite_span (s : State) (t : Target) (tag : Nat) (bytes : List Byte) :
    (s.targetWrite t tag bytes).span = s.span := by
  cases t with
  | cache pa => simp [State.targetWrite]
  | uncached pa => exact State.foldl_span (fun t lm => by simp) _ s
  | share die a back =>
    have h1 : ((s.sramWrite die a bytes).stampSram die a bytes.length back).span = s.span := by
      unfold State.stampSram; split <;> rfl
    cases back <;> simp [State.targetWrite, h1]
  | window p pa c => rfl
  | mmio pa => rfl

@[simp] theorem State.feWriteBytes_span (s : State) (ctx tag va : Nat) (bytes : List Byte) :
    (s.feWriteBytes ctx tag va bytes).span = s.span := by
  induction bytes generalizing s va with
  | nil => rfl
  | cons b bs ih =>
    unfold State.feWriteBytes
    split
    · rw [ih]; simp
    · rfl

theorem State.feWrite_span {s t : State} {ctx tag va : Nat} {bytes : List Byte} (h : s.feWrite ctx tag va bytes = .ok t) :
    t.span = s.span := by
  unfold State.feWrite at h
  split at h
  · cases h; simp
  · cases h

@[simp] theorem State.feStore_span (s : State) (ctx tag va : Nat) (bytes : List Byte) :
    (s.feStore ctx tag va bytes).span = s.span := by
  unfold State.feStore
  split
  · next h => exact State.feWrite_span h
  · rfl

@[simp] theorem State.pageRequest_span (s : State) (ctx va : Nat) : (s.pageRequest ctx va).span = s.span := by
  unfold State.pageRequest
  extract_lets p
  split <;> rfl

@[simp] theorem State.sawPage_span (s : State) (ctx va : Nat) : (s.sawPage ctx va).span = s.span := rfl

@[simp] theorem State.noteIoFault_span (s : State) (ctx detail va : Nat) : (s.noteIoFault ctx detail va).span = s.span := by
  unfold State.noteIoFault
  extract_lets c
  split <;> rfl

@[simp] theorem State.translated_span (s : State) (ctx : Nat) (k : AccKind) (vas : List Nat) :
    (s.translated ctx k vas).span = s.span := by
  unfold State.translated State.drawStale
  extract_lets c io
  split <;> rfl

@[simp] theorem State.syncCtx_span (s : State) (n : Nat) : (s.syncCtx n).span = s.span := by simp [State.syncCtx]

@[simp] theorem State.setSlot_span (s : State) (i : Nat) (x : Slot) : (s.setSlot i x).span = s.span := by simp [State.setSlot]

@[simp] theorem State.syncSlotOf_span (s : State) (ctx : Nat) : (s.syncSlotOf ctx).span = s.span := by
  unfold State.syncSlotOf
  extract_lets c
  split
  · simp
  · rfl

/-! ### Halts and the ends of waits (R502, R506) -/

@[simp] theorem State.debugEvent_span (s : State) (g : Site) (causes n lane brk addr : Nat) :
    (s.debugEvent g causes n lane brk addr).span = s.span := (State.debugEvent_only s g causes n lane brk addr).span

@[simp] theorem State.halt_span (s : State) (g : Site) (causes n lane brk addr : Nat) :
    (s.halt g causes n lane brk addr).span = s.span := by
  unfold State.halt
  split
  · simp
  · unfold State.haltNow
    split
    · rfl
    · simp

@[simp] theorem State.complete_span (s : State) (g : Site) (next : Option DWord) (watch : Option (Nat × Nat × Nat)) :
    (s.complete g next watch).span = s.span := by
  unfold State.complete
  split
  · rfl
  · extract_lets y s1 asked causes w
    split
    · rfl
    · simp [s1]

@[simp] theorem State.endWait_span (s : State) (g : Site) : (s.endWait g).span = s.span := by
  unfold State.endWait
  split
  · rfl
  · split
    · rfl
    · split
      · rfl
      · simp

@[simp] theorem State.endTumWait_span (s : State) (g : Site) (outcome : Bool) : (s.endTumWait g outcome).span = s.span := by
  unfold State.endTumWait
  extract_lets fin
  split <;> simp [fin]

/-! ### Tiles stopped (R106, R353) -/

@[simp] theorem State.writeStatus_span (s : State) (core key : Nat) (t : Tile) (sp : Spindle) (state cause desc addr : Nat) :
    (s.writeStatus core key t sp state cause desc addr).span = s.span := by
  unfold State.writeStatus
  split
  · rfl
  · split
    · unfold State.putStatus
      extract_lets s1
      have h1 : s1.span = s.span := State.translated_span _ _ _ _
      split
      · exact h1
      · exact h1
      · rw [State.targetWrite_span, h1]
    · rfl

@[simp] theorem State.stopSpindles_span (s : State) (core key : Nat) (t : Tile) (but : List Nat) :
    (s.stopSpindles core key t but).span = s.span := by
  refine State.foldl_span (fun t ns => ?_) _ s
  split
  · simp
  · rfl

@[simp] theorem State.releaseHalted_span (s : State) (core key reason : Nat) :
    (s.releaseHalted core key reason).span = s.span := by
  refine State.foldl_span (fun t pg => ?_) _ s
  split
  · simp
  · rfl

theorem State.excEntry_span (s : State) (r : ExcRec) (core key entry : Nat) :
    (s.excEntry r core key entry).1.span = s.span := by
  unfold State.excEntry
  split
  · rfl
  · extract_lets r1
    split
    next s2 r2 hput =>
      have h2 : s2.span = s.span := by
        split at hput
        · cases hput; simp
        · cases hput; rfl
      split
      · rw [State.cohPut_span, h2]
      · exact h2

@[simp] theorem State.excursionTile_span (s : State) (core key : Nat) (t : Tile) (mismatch : Bool) :
    (s.excursionTile core key t mismatch).span = s.span := by
  unfold State.excursionTile
  extract_lets l entry
  exact foldl_keeps (fun p : State × List ExcRec => p.1.span = s.span) _
    (fun p r hp => (State.excEntry_span p.1 r core key entry).trans hp) _ _ rfl

@[simp] theorem State.tileGone_span (s : State) (core key : Nat) (why : Option StopWhy) :
    (s.tileGone core key why).span = s.span := by
  unfold State.tileGone
  split
  · rfl
  · extract_lets mism again s1 l s2 last s3 left s4 mine posted s5 s6 s7
    have h2 : s2.span = s.span := by simp [s2, s1]
    have h6 : s6.span = s.span := by
      simp only [s6, s5, s4, s3, State.updCore_span, State.updLaunch_span, State.updCtx_span, h2]
    have h7 : s7.span = s.span := by
      simp only [s7]
      split
      · exact h6
      · exact h6
    rw [State.syncSlotOf_span, h7]

@[simp] theorem State.stopTile_span (s : State) (core key : Nat) (why : StopWhy) (but : List Nat) :
    (s.stopTile core key why but).span = s.span := by
  unfold State.stopTile
  split
  · rfl
  · extract_lets s1 s2
    have h2 : s2.span = s.span := by
      simp only [s2]
      split <;> simp [s1]
    rw [State.tileGone_span, h2]

@[simp] theorem State.stopCtxTiles_span (s : State) (ctx : Nat) : (s.stopCtxTiles ctx).span = s.span :=
  State.foldl_span (fun t ck => by simp) _ s

/-! ### A context faulted (R106, R576) -/

@[simp] theorem State.writeFault_span (s : State) (ctx tag rcd : Nat) : (s.writeFault ctx tag rcd).span = s.span := by
  unfold State.writeFault
  extract_lets owe
  split
  · rfl
  · split
    · next h =>
      unfold State.tryFault at h
      extract_lets a at h
      split at h
      · cases h
      · exact State.feWrite_span h
    · simp [owe]
    · rfl

@[simp] theorem State.faultContext_span (s : State) (ctx : Nat) (launch : Option Nat) (rcd : Nat) :
    (s.faultContext ctx launch rcd).span = s.span := by
  simp [State.faultContext, State.haltLaunches, State.dropRingWaits]

@[simp] theorem State.feFault_span (s : State) (ctx detail va : Nat) : (s.feFault ctx detail va).span = s.span := by
  simp [State.feFault]

/-! ### Launches served for peers (R457) -/

@[simp] theorem State.movePin_span (s : State) (ctx i : Nat) (up : Bool) : (s.movePin ctx i up).span = s.span := by
  unfold State.movePin
  split
  · simp [State.putHandle]
  · simp
  · split <;> simp
  · rfl

@[simp] theorem State.dropLaunch_span (s : State) (k : Nat) : (s.dropLaunch k).span = s.span := by
  unfold State.dropLaunch
  extract_lets s1
  simp only [s1]
  split
  · exact State.foldl_span (fun t i => by simp [State.unpin]) _ s
  · rfl

@[simp] theorem State.finalAll_span (s : State) (lines : List Nat) : (s.finalAll lines).span = s.span := by
  refine State.foldl_span (fun t l => ?_) _ s
  extract_lets s1
  split <;> simp [s1]

@[simp] theorem State.sendReports_span (s : State) (o : Nat) (l : Launch) (done : List (Nat × List Nat)) :
    (s.sendReports o l done).span = s.span := by
  unfold State.sendReports
  split
  · split <;> simp
  · exact (State.foldl_span (fun t b => by simp) _ _).trans (by simp)

@[simp] theorem State.reportServed_span (s : State) (k : Nat) : (s.reportServed k).span = s.span := by
  unfold State.reportServed
  split
  · rfl
  · split
    · rfl
    · split
      · rfl
      · extract_lets done left s1 s2 s3
        have h1 : s1.span = s.span := by simp only [s1]; split <;> simp
        have h3 : s3.span = s.span := by simp only [s3]; split <;> simp [s2, h1]
        split
        · rw [State.dropLaunch_span, h3]
        · exact h3

@[simp] theorem State.reportAll_span (s : State) : s.reportAll.span = s.span :=
  State.foldl_span (fun t k => by simp) _ s

/-! ### Hasp lines (R345, R349) -/

@[simp] theorem State.haspRelease_span (s : State) (line : Nat) (h : Hasp) : (s.haspRelease line h).span = s.span :=
  (State.foldl_span (fun t g => by simp) _ _).trans rfl

@[simp] theorem State.haspSettle_span (s : State) (line fuel : Nat) : (s.haspSettle line fuel).span = s.span := by
  induction fuel generalizing s with
  | zero => rfl
  | succ fuel ih =>
    unfold State.haspSettle
    split
    · rfl
    · split
      · rfl
      · split
        · rfl
        · split
          · split <;> simp
          · split
            · extract_lets ms s1 s2
              have h2 : s2.span = s.span := State.foldl_span (fun t m => by simp) _ s1
              split
              · rw [ih, State.haspRelease_span, h2]
              · rfl
            · split <;> simp

@[simp] theorem State.haspSettleAll_span (s : State) : s.haspSettleAll.span = s.span :=
  State.foldl_span (fun t nh => by simp) _ s

@[simp] theorem State.haspReleased_span (s : State) (line gen : Nat) : (s.haspReleased line gen).span = s.span := by
  unfold State.haspReleased
  split
  · split <;> simp
  · rfl

/-! ### Requests outstanding (R438, R445, R462) -/

theorem State.foldl_txids {β : Type} {f : State → β → State} (hf : ∀ t b, (f t b).span.txids = t.span.txids) (l : List β)
    (s : State) : (l.foldl f s).span.txids = s.span.txids :=
  foldl_keeps (fun t : State => t.span.txids = s.span.txids) f (fun t b ht => (hf t b).trans ht) l s rfl

@[simp] theorem State.toAll_span (s : State) (b : MsgBody) : (s.toAll b).span = s.span :=
  State.foldl_span (fun t m => by simp) _ s

@[simp] theorem State.toEpoch_txids (s : State) (e : BitVec 32) : (s.toEpoch e).span.txids = s.span.txids := by
  unfold State.toEpoch; split <;> simp

@[simp] theorem State.haspArrive_txids (s : State) (line gen src : Nat) :
    (s.haspArrive line gen src).span.txids = s.span.txids := by
  unfold State.haspArrive
  split
  · split
    · split <;> simp
    · rfl
  · split
    next i s1 hdraw =>
      cases hdraw
      extract_lets old f s2
      split
      · rw [State.foldl_span (fun t m => by simp)]
      · rfl

@[simp] theorem State.haspHeld_txids (s : State) (m : HeldHasp) : (s.haspHeld m).span.txids = s.span.txids := by
  unfold State.haspHeld
  split
  · split <;> simp
  · split <;> simp

@[simp] theorem State.afterEpoch_txids (s : State) : s.afterEpoch.span.txids = s.span.txids := by
  unfold State.afterEpoch
  extract_lets s1 now later
  have h1 : s1.span = s.span := by
    refine State.foldl_span (fun t nh => ?_) _ s
    extract_lets h
    split
    · rfl
    · split
      · split
        · rfl
        · exact State.foldl_span (fun t m => by simp) _ t
      · split <;> simp
  rw [State.haspSettleAll_span, State.foldl_txids (fun t m => by simp)]
  have htx : s1.span.txids = s.span.txids := congrArg Span.txids h1
  exact htx

@[simp] theorem State.startCommit_txids (s : State) (lv : Levels) : (s.startCommit lv).span.txids = s.span.txids := by
  simp [State.startCommit]

@[simp] theorem State.commitLevels_txids (s : State) : s.commitLevels.span.txids = s.span.txids := by
  unfold State.commitLevels
  split
  · rfl
  · split
    · rfl
    · extract_lets _ s1 s2
      have h2 : s2.span.txids = s.span.txids := by
        rw [State.afterEpoch_txids, State.toAll_span, State.toEpoch_txids]
      clear_value s2
      split
      · exact h2
      · extract_lets s3
        have h3 : s3.span.txids = s2.span.txids := rfl
        split
        · rw [State.startCommit_txids, h3, h2]
        · rw [h3, h2]

@[simp] theorem State.drained_txids (s : State) : s.drained.span.txids = s.span.txids := by
  unfold State.drained
  split
  · rfl
  · extract_lets _ s1
    split
    · rw [State.commitLevels_txids]
    · rw [State.sendTo_span]

@[simp] theorem State.settleInv_txids (s : State) : s.settleInv.span.txids = s.span.txids := by
  unfold State.settleInv; split <;> rfl

/-- What follows an answer leaves the requests outstanding as they are. -/
@[simp] theorem State.afterAnswer_txids (s : State) : s.afterAnswer.span.txids = s.span.txids := by
  simp [State.afterAnswer]

end Sys2Proof.Machine

/-! Messages of launches, relay, tumblers and the timebase (O54): what a message that arrives comes to, and then each
message by its own effect. -/

namespace Sys2Proof.Machine

/-! ### A message that arrives (R437, R445) -/

section Arrive

variable {s : State} {hdr : MsgHdr} {b : MsgBody}

theorem Arrives.inSpan (h : Arrives s hdr b) : s.inSpan = true := by
  have hm := h.member
  simp only [State.reachable, Bool.and_eq_true] at hm
  exact hm.1.1

/-- A message that arrives has its flits taken and its effect; where it cannot be taken yet, nothing happens. -/
theorem Arrives.receive_eq (h : Arrives s hdr b) (f : State → Option State) :
    s.receive hdr b f = (f (s.tookFlits hdr b)).getD s := by
  simp [State.receive, h.carried, h.here]

/-- Its sender is a current member, whose port and flits have no part in that. -/
theorem Arrives.fromMember_eq (h : Arrives s hdr b) : (s.tookFlits hdr b).fromMember hdr = true := h.member

theorem Arrives.stale_eq (h : Arrives s hdr b) : (s.tookFlits hdr b).stale hdr = false := h.current

@[simp] theorem State.tookFlits_tum (s : State) (hdr : MsgHdr) (b : MsgBody) (n : Nat) :
    (s.tookFlits hdr b).tum n = s.tum n := rfl

/-- A control message that arrives has its effect. -/
theorem Arrives.control_eq (h : Arrives s hdr b) (f : State → State) : s.control hdr b f = f (s.tookFlits hdr b) := by
  simp [State.control, h.receive_eq, h.fromMember_eq, h.stale_eq]

/-- An answer that arrives has its effect while its request is outstanding. -/
theorem Arrives.answered_eq (h : Arrives s hdr b) (f : State → State) : s.answered hdr b f =
    if s.hasTx hdr.txid hdr.src then f (s.tookFlits hdr b) else s.tookFlits hdr b := by
  have htx : (s.tookFlits hdr b).hasTx hdr.txid hdr.src = s.hasTx hdr.txid hdr.src := rfl
  simp [State.answered, h.receive_eq, h.fromMember_eq, htx]

end Arrive

/-! ### PLACE (R455, R456, R458) -/

section Place

variable {s : State} {hdr : MsgHdr} {scid : Nat} {f : LaunchFields}

/-- A PLACE that does not wait for a page of what it names: its effect, or nothing while it waits. -/
theorem exec_place (h : Arrives s hdr (.place scid f)) (hpage : ∀ n va, s.onPlace hdr.src scid f ≠ .page n va) :
    exec (.place hdr scid f) s =
      .next (((s.tookFlits hdr (.place scid f)).placeMessage hdr scid f).getD s) := by
  change execPlace hdr scid f s = _
  have hrec : (s.receive hdr (.place scid f) (fun t =>
      if t.fromMember hdr && !t.stale hdr then t.placeMessage hdr scid f else some t)) =
      ((s.tookFlits hdr (.place scid f)).placeMessage hdr scid f).getD s := by
    simp [h.receive_eq, h.fromMember_eq, h.stale_eq]
  rw [execPlace, hrec]
  split
  · split
    · next n va hp => exact absurd hp (hpage n va)
    · rfl
  · rfl

/-- A module that is leaving, whose front end is off, or whose contexts do not serve the SCID refuses. -/
theorem State.onPlace_refuse {src : Nat} (h : s.span.state = .leaving ∨ s.fe.en = false ∨ s.servingCtx scid = none) :
    s.onPlace src scid f = .refuse := by
  unfold State.onPlace
  rcases h with h | h | h
  · rw [if_pos (.inl h)]
  · rw [if_pos (.inr h)]
  · rw [h, ite_self]

end Place

/-! ### The origin and its members (R456 to R458) -/

section Origin

variable {s : State} {hdr : MsgHdr} {lnum : Nat} {k : Nat} {l : Launch}

/-- The indices that a PULL is answered with: up to 64, none once the LAUNCH stops. -/
def Launch.batchSize (l : Launch) : Nat := if l.stops then 0 else Nat.min 64 (l.total - l.next)

theorem Launch.nextBatch_eq (l : Launch) : l.nextBatch = (List.range l.batchSize).map (fun i => l.next + i) := by
  unfold Launch.nextBatch Launch.batchSize
  split <;> rfl

theorem State.answerPull_named (h : s.launchNamed s.here lnum = some (k, l)) :
    s.answerPull hdr lnum = (s.updLaunch k (fun l' => { l' with
      next := l'.next + l.batchSize
      out := NMap.ins hdr.src (NMap.findD 0 hdr.src l'.out + l.batchSize) l'.out })).sendTo
        hdr.src (.batch lnum ((List.range l.batchSize).map (fun i => l.next + i))) hdr.txid := by
  simp only [State.answerPull, h, Launch.nextBatch_eq, List.length_map, List.length_range]

theorem State.answerPull_unnamed (h : s.launchNamed s.here lnum = none) :
    s.answerPull hdr lnum = s.sendTo hdr.src (.batch lnum []) hdr.txid := by
  simp only [State.answerPull, h]

theorem State.takeBatch_unnamed {src : Nat} {ts : List Nat} (h : s.launchNamed src lnum = none) :
    s.takeBatch src lnum ts = s := by
  simp only [State.takeBatch, h]

/-- An empty batch is the last. -/
theorem State.takeBatch_last {src : Nat} (h : s.launchNamed src lnum = some (k, l)) :
    s.takeBatch src lnum [] = (s.updLaunch k (fun l => { l with pulled := false, noMore := true })).reportServed k := by
  simp only [State.takeBatch, h]
  rfl

theorem State.takeBatch_more {src : Nat} {ts : List Nat} (h : s.launchNamed src lnum = some (k, l)) (hts : ts ≠ []) :
    s.takeBatch src lnum ts = (s.updLaunch k (fun l => { l with
      pulled := false, batches := l.batches ++ [(ts.length, ts)]
      pool := if l.stops then [] else l.pool ++ ts })).reportServed k := by
  cases ts with
  | nil => exact absurd rfl hts
  | cons t ts =>
    simp only [State.takeBatch, h]
    rfl

end Origin

/-! ### Tumblers of this module that peers use (R324 to R326, R333) -/

section Tumblers

variable {s : State} {hdr : MsgHdr} {n scid : Nat} {op : TumOp}

/-- An operation of the tumbler's own ward joins those on their way to the unit. -/
theorem exec_tarriveMessage_own (h : Arrives s hdr (.tarrive n scid op)) (hward : (s.tum n).ward = hdr.ward ∨ op = .mark) :
    exec (.tarriveMessage hdr n scid op) s = .next { s.tookFlits hdr (.tarrive n scid op) with
      tumq := s.tumq ++ [⟨.peer hdr.src hdr.txid, n, op⟩] } := by
  change execTarriveMessage hdr n scid op s = _
  rw [execTarriveMessage, h.receive_eq, h.fromMember_eq, State.tookFlits_tum, if_neg (by simp), if_pos hward]
  rfl

/-- A message's flits taken, M of the tumbler set and the misuse reported (R333). -/
def State.misused (s : State) (hdr : MsgHdr) (n : Nat) (b : MsgBody) : State :=
  ({ s.tookFlits hdr b with dbg := { s.dbg with misuse := s.dbg.misuse ++ [(hdr.src, n)] } } : State).setTum n
    { s.tum n with m := true }

/-- An operation of another ward that asks for no answer: the misuse, and nothing else. -/
theorem exec_tarriveMessage_misuse (h : Arrives s hdr (.tarrive n scid op)) (hward : (s.tum n).ward ≠ hdr.ward)
    (hmark : op ≠ .mark) (htest : ∀ v, op ≠ .test v) :
    exec (.tarriveMessage hdr n scid op) s = .next (s.misused hdr n (.tarrive n scid op)) := by
  have hother : ¬ ((s.tum n).ward = hdr.ward ∨ op = .mark) := not_or.mpr ⟨hward, hmark⟩
  change execTarriveMessage hdr n scid op s = _
  rw [execTarriveMessage, h.receive_eq, h.fromMember_eq, State.tookFlits_tum, if_neg (by simp), if_neg hother]
  cases op with
  | test v => exact absurd rfl (htest v)
  | mark => exact absurd rfl hmark
  | arrive _ | depart _ | wait _ => rfl

/-- A TTEST of another ward is answered, with an outcome that is open. -/
theorem exec_tarriveMessage_test {v : Nat} (h : Arrives s hdr (.tarrive n scid (.test v)))
    (hward : (s.tum n).ward ≠ hdr.ward) :
    exec (.tarriveMessage hdr n scid (.test v)) s =
      .next (({ s.misused hdr n (.tarrive n scid (.test v)) with free := s.free + 1 } : State).sendTo hdr.src
        (.twake (Config.freeBool s.free)) hdr.txid hdr.ward) := by
  have hother : ¬ ((s.tum n).ward = hdr.ward ∨ TumOp.test v = .mark) :=
    not_or.mpr ⟨hward, by simp⟩
  change execTarriveMessage hdr n scid (.test v) s = _
  rw [execTarriveMessage, h.receive_eq, h.fromMember_eq, State.tookFlits_tum, if_neg (by simp), if_neg hother]
  rfl

/-- The check of a map entry is answered: the ward must be the tumbler's, and unless it is shared the serving context its
owner. -/
theorem exec_tmapchk {shared : Bool} (h : Arrives s hdr (.tmapchk n scid shared)) :
    exec (.tmapchk hdr n scid shared) s = .next ((s.tookFlits hdr (.tmapchk n scid shared)).sendTo hdr.src
      (.twake ((s.tum n).ward == hdr.ward &&
        (shared || (s.tookFlits hdr (.tmapchk n scid shared)).servingCtx scid == some (s.tum n).owner)))
      hdr.txid hdr.ward) := by
  change execTmapchk hdr n scid shared s = _
  rw [execTmapchk, h.receive_eq, h.fromMember_eq, if_neg (by simp)]
  rfl

end Tumblers

/-! ### TWAKE (R326) -/

/-- A transaction answered for good is outstanding no more. -/
theorem State.hasTx_endTx (s : State) (tx peer : Nat) : (s.endTx tx peer).hasTx tx peer = false := by
  simp [State.hasTx, State.endTx]

theorem State.hasTx_congr {s t : State} (h : t.span.txids = s.span.txids) (tx peer : Nat) :
    t.hasTx tx peer = s.hasTx tx peer := by
  rw [State.hasTx, State.hasTx, h]

/-- What an answer to a wait, a test or a check does: the waits end, the commands and map entries go on, and what follows
an answer follows. -/
def State.takeTwake (s : State) (tx peer : Nat) (outcome : Bool) : State :=
  let t := (s.tumGroups tx).foldl (fun st g => st.endTumWait g outcome) (s.endTx tx peer)
  ({ t with fe := { t.fe with ctxs := NMap.mapVals (fun _ c => c.woken tx outcome) t.fe.ctxs } } : State).afterAnswer

theorem State.takeTwake_txids (s : State) (tx peer : Nat) (outcome : Bool) :
    (s.takeTwake tx peer outcome).span.txids = (s.endTx tx peer).span.txids := by
  unfold State.takeTwake
  extract_lets t
  have ht : t.span = (s.endTx tx peer).span := State.foldl_span (fun t g => by simp) _ _
  rw [State.afterAnswer_txids, ← ht]

theorem exec_twake {s : State} {hdr : MsgHdr} {b : Bool} (h : Arrives s hdr (.twake b)) :
    exec (.twake hdr b) s = .next (if s.hasTx hdr.txid hdr.src then
      (s.tookFlits hdr (.twake b)).takeTwake hdr.txid hdr.src b else s.tookFlits hdr (.twake b)) :=
  congrArg okay (h.answered_eq _)

/-! ### TBSYNC (R45) -/

/-- A member takes the offset from its master's timebase as its slew. -/
theorem exec_tbsync {s : State} {hdr : MsgHdr} {time : DWord} (h : Arrives s hdr (.tbsync time))
    (hsrc : hdr.src = s.span.masterOrd) (hmem : s.span.master = false) (before : Nat) :
    exec (.tbsync hdr time before) s = .next { s.tookFlits hdr (.tbsync time) with
      time := { s.time with slew := signedOf 64 ((time - s.time.now).toNat + before + (s.port hdr.port).latency) } } := by
  have hlat : ((s.tookFlits hdr (.tbsync time)).port hdr.port).latency = (s.port hdr.port).latency := by
    simp [State.tookFlits]
  change execTbsync hdr time before s = _
  rw [execTbsync, h.receive_eq, hlat]
  exact congrArg okay (congrArg (fun o : Option State => o.getD s) (congrArg some (if_pos ⟨h.inSpan, hmem, hsrc⟩)))

/-! ### The statement -/

/-- Settles O54: each message by its effect on a state that has taken its flits; the request that a TWAKE answers is ended
before anything that follows, and none of that opens another. What the model chooses here is in logs 24, 62, 105, 108, 110
and 116. -/
theorem launchAndTumblerMessages : Obligations.LaunchAndTumblerMessages := by
  intro s hdr scid lnum n f r b took
  refine ⟨fun hno hs h => ?refuse, fun l ht hs h => ?take, fun h ht hs => ?wait, fun k l hl => ?named, fun hl => ?unnamed,
    fun ts hl h => ?batchUnnamed, fun k l hl => ⟨fun h => ?last, fun ts hts h => ?more⟩,
    fun m => ⟨fun t ht h => ?relay, fun ht h => ?relayWaits⟩,
    fun op => ⟨fun hw h => exec_tarriveMessage_own h hw, fun hw hm ht h => exec_tarriveMessage_misuse h hw hm ht⟩,
    fun hw v => ⟨Config.freeBool s.free, fun h => exec_tarriveMessage_test h hw⟩,
    fun shared => ⟨fun hw h => ?foreign, fun hw h => ?shared, fun hw h => ?served⟩,
    fun h => ⟨fun hno => ?late, fun hyes => ?answer⟩, fun time before hsrc hmem h => exec_tbsync h hsrc hmem before⟩
  case refuse =>
    have ht : (s.tookFlits hdr (.place scid f)).onPlace hdr.src scid f = .refuse := State.onPlace_refuse hno
    rw [exec_place h (by simp [hs]), State.placeMessage, ht]
    rfl
  case take =>
    rw [exec_place h (by simp [hs]), State.placeMessage, ht]
    rfl
  case wait =>
    rw [exec_place h (by simp [hs]), State.placeMessage, ht]
    rfl
  case named =>
    have ht (body : MsgBody) : (s.tookFlits hdr body).launchNamed (s.tookFlits hdr body).here lnum = some (k, l) := hl
    refine ⟨fun h => congrArg okay ?_, fun h => congrArg okay ?_, fun h => congrArg okay ?_⟩
    · rw [h.control_eq, ht]
    · rw [h.control_eq, ht]
    · rw [h.control_eq, State.answerPull_named (ht _)]
      rfl
  case unnamed =>
    have ht (body : MsgBody) : (s.tookFlits hdr body).launchNamed (s.tookFlits hdr body).here lnum = none := hl
    refine ⟨fun h => congrArg okay ?_, fun h => congrArg okay ?_, fun h => congrArg okay ?_⟩
    · rw [h.control_eq, ht]
      rfl
    · rw [h.control_eq, ht]
      rfl
    · rw [h.control_eq, State.answerPull_unnamed (ht _)]
  case batchUnnamed => exact congrArg okay ((h.control_eq _).trans (State.takeBatch_unnamed hl))
  case last => exact congrArg okay ((h.control_eq _).trans (State.takeBatch_last hl))
  case more => exact congrArg okay ((h.control_eq _).trans (State.takeBatch_more hl hts))
  case relay =>
    refine congrArg okay ((h.receive_eq _).trans ?_)
    rw [h.fromMember_eq, if_pos rfl, ht]
    rfl
  case relayWaits =>
    refine congrArg okay ((h.receive_eq _).trans ?_)
    rw [h.fromMember_eq, if_pos rfl, ht]
    rfl
  case foreign => rw [exec_tmapchk h, beq_false_of_ne hw, Bool.false_and]
  case shared => rw [exec_tmapchk h, hw, beq_self_eq_true, Bool.true_and, Bool.true_or]
  case served => rw [exec_tmapchk h, hw, beq_self_eq_true, Bool.true_and, Bool.false_or]
  case late => rw [exec_twake h, hno, if_neg (by simp)]
  case answer =>
    refine ⟨_, (exec_twake h).trans (by rw [hyes, if_pos rfl]), ?_⟩
    rw [State.hasTx_congr (State.takeTwake_txids _ _ _ _), State.hasTx_endTx]

end Sys2Proof.Machine

/-! Branches, calls and returns (O11), after the laws of a group that moves on. -/

namespace Sys2Proof.Machine

/-! ### A group that moves on -/

@[simp] theorem State.moved_setGroup (s : State) (g : Site) (y z : Group) (next : DWord) :
    (s.setGroup g y).moved g z next = s.moved g z next := by
  simp [State.moved]

@[simp] theorem State.after_setGroup (s : State) (g : Site) (y z : Group) (next : DWord) :
    (s.setGroup g y).after g z next = s.after g z next := by
  simp [State.after]

section Settle

variable {s t : State} {g : Site} {x y : Group} {pc : DWord}

/-- An instruction that completes at the next instruction, and changes nothing after what its effect did. -/
theorem State.settle_step (hy : t.group? g = some y) (hh : y.haltReq = none) (hs : y.stepping = false) :
    s.settle g x pc (.step t) = t.after g y (y.pc + 8) := by
  rw [State.settle, State.complete_eq t g y none hy hh hs]; rfl

/-- The same for one that completes at a target. -/
theorem State.settle_jump (hy : t.group? g = some y) (hh : y.haltReq = none) (hs : y.stepping = false) (next : DWord) :
    s.settle g x pc (.jump t next) = t.after g y next := by
  rw [State.settle, State.complete_eq t g y (some next) hy hh hs]; rfl

/-- The same for a jump of a group that its effect has replaced. -/
theorem State.settle_jump_setGroup (hh : y.haltReq = none) (hs : y.stepping = false) (next : DWord) :
    s.settle g x pc (.jump (s.setGroup g y) next) = s.after g y next :=
  (State.settle_jump (State.group_setGroup_same s g y) hh hs next).trans (State.after_setGroup s g y y next)

end Settle

/-! ### What each form comes to (R60, R100, R139, R140) -/

section Branch

variable {s : State} {g : Site} {x : Group} {e : Enc}

theorem exec_nop (h : Issues s g x e { rsv := plainRsv e }) : Moves s (.nop g e) g x (x.pc + 8) :=
  congrArg okay ((State.issue_eq (dec := fun _ _ => { rsv := plainRsv e }) h rfl).trans
    (State.settle_step h.here h.noHalt h.noStep))

/-- Two paths and room for the rejoin entry and one more: the first path runs, above the entry of the other (R60, R61). -/
theorem State.diverge_two (lanes m m' : LaneMask) (rpc t t' : DWord) (hroom : x.stack.length + 2 ≤ 32) :
    s.diverge g x lanes rpc [(t, m), (t', m')] = .jump (s.setGroup g { x with
      stack := { pc := t', rpc := some rpc, mask := m' } :: { pc := rpc, rpc := x.crpc, mask := x.active } :: x.stack
      active := m, crpc := some rpc }) t :=
  if_neg (by simp only [List.length_cons, List.length_nil]; omega)

/-- BRA jumps where its guard holds on every active lane, and diverges otherwise (R60, R139). -/
theorem exec_bra (h : Issues s g x e { rsv := e.type != 0 ||
      (if e.pred == 0 && !e.neg then braRpc e != 0 else braRpc e == 0) }) :
    exec (.bra g e) s = .next (s.settle g x x.pc (
      if x.guard e = x.active then .jump s (branchTarget x.pc e)
      else s.diverge g x (x.guard e) (x.pc + 8 * (braRpc e).setWidth 64)
        [(x.pc + 8, x.active &&& ~~~x.guard e), (branchTarget x.pc e, x.guard e)])) :=
  congrArg okay (State.issue_eq (dec := fun _ _ => { rsv := e.type != 0 ||
      (if e.pred == 0 && !e.neg then braRpc e != 0 else braRpc e == 0) }) h rfl)

theorem exec_call (h : Issues s g x e { ops := [(.u, e.d), (.none, e.a), (.none, e.b)], rsv := e.type != 0
                                        extra := callGuard x (x.guard e) }) :
    Moves s (.call g e) g (x.wu e.d (x.pc + 8)) (branchTarget x.pc e) := by
  change execCall g e s = _
  rw [execCall, State.issue_eq h rfl]
  exact congrArg okay (State.settle_jump_setGroup (y := x.wu e.d (x.pc + 8)) h.noHalt h.noStep _)

theorem exec_ret (hal : (x.ru e.a).toNat % 8 = 0)
    (h : Issues s g x e { ops := [(.none, e.d), (.u, e.a), (.none, e.b)], rsv := e.type != 0 || e.imm != 0
                          extra := callGuard x (x.guard e) }) :
    Moves s (.ret g e) g x (x.ru e.a) := by
  change execRet g e s = _
  rw [execRet, State.issue_eq h rfl]
  simp only [hal]
  exact congrArg okay (State.settle_jump h.here h.noHalt h.noStep _)

/-! ### BRX -/

theorem lanesOf_ne_nil {m : LaneMask} (hm : m ≠ 0) : lanesOf m ≠ [] := by
  intro hnil
  refine hm (BitVec.eq_of_getLsbD_eq fun l hl => ?_)
  have hout : l ∉ lanesOf m := by simp [hnil]
  simpa [mem_lanesOf, hl] using hout

/-- Lanes that all go to one target give a list of that target alone. -/
theorem foldl_sortedNew_const {f : Nat → Nat} {v : Nat} {ls : List Nat} (hls : ls ≠ []) (hf : ∀ l ∈ ls, f l = v) :
    ls.foldl (fun ts l => sortedNew (f l) ts) [] = [v] := by
  obtain ⟨a, ls, rfl⟩ := List.exists_cons_of_ne_nil hls
  obtain ⟨ha, hrest⟩ := List.forall_mem_cons.mp hf
  have hstays : ∀ ls : List Nat, (∀ l ∈ ls, f l = v) → ls.foldl (fun ts l => sortedNew (f l) ts) [v] = [v] := by
    intro ls hv
    induction ls with
    | nil => rfl
    | cons b ls ih =>
      obtain ⟨hb, hbs⟩ := List.forall_mem_cons.mp hv
      rw [List.foldl_cons, hb, show sortedNew v [v] = [v] by simp [sortedNew]]
      exact ih hbs
  rw [List.foldl_cons, ha]
  exact hstays ls hrest

/-- BRX with one aligned target in every active lane jumps there (R60, R83, R139). -/
theorem exec_brx_uniform {t : DWord} (hal : t.toNat % 8 = 0) (hall : x.guard e = x.active)
    (ht : ∀ l, x.active.getLsbD l = true → x.rt2 l e.a = t)
    (h : Issues s g x e { ops := [(.none, e.d), (.t2, e.a), (.none, e.b)], rsv := e.type != 0 || e.imm == 0 }) :
    Moves s (.brx g e) g x t := by
  have htarget : ∀ l ∈ lanesOf x.active, (if x.active.getLsbD l then x.rt2 l e.a else x.pc + 8) = t := by
    intro l hl
    have hact := ((mem_lanesOf _ _).mp hl).2
    rw [if_pos hact, ht l hact]
  have hone := foldl_sortedNew_const (lanesOf_ne_nil (hall ▸ h.lanes)) (fun l hl => congrArg BitVec.toNat (htarget l hl))
  have haligned : (lanesOf x.active).find? (fun l =>
      (if x.active.getLsbD l then x.rt2 l e.a else x.pc + 8).toNat % 8 != 0) = none :=
    List.find?_eq_none.mpr fun l hl => by rw [htarget l hl]; simp [hal]
  change execBrx g e s = _
  rw [execBrx, State.issue_eq h rfl]
  simp only [hall, haligned, hone, List.map_cons, List.map_nil, BitVec.ofNat_toNat, BitVec.setWidth_eq]
  exact congrArg okay (State.settle_jump h.here h.noHalt h.noStep _)

end Branch

/-! ### The statement -/

/-- Settles O11: each form by where it jumps; a divergent BRA by what it pushes. -/
theorem controlTransfer : Obligations.ControlTransfer := by
  intro s g x e plain target rpc
  refine ⟨exec_nop, fun h => ⟨fun hall => ?uniform, fun hsome hroom => ?divergent⟩,
    fun h t hal hall ht => exec_brx_uniform hal hall ht h, exec_call, fun h hal => exec_ret hal h⟩
  case uniform =>
    have hexec := exec_bra h
    rw [if_pos hall] at hexec
    exact hexec.trans (congrArg okay (State.settle_jump h.here h.noHalt h.noStep _))
  case divergent =>
    have hexec := exec_bra h
    rw [if_neg hsome, State.diverge_two _ _ _ _ _ _ hroom] at hexec
    exact hexec.trans (congrArg okay (State.settle_jump_setGroup (by exact h.noHalt) (by exact h.noStep) _))

end Sys2Proof.Machine

/-! EXIT, REPACK and BRK (O19). -/

namespace Sys2Proof

/-! ### Maps -/

variable {α : Type}

/-- A key that a filter takes out is not found. -/
theorem NMap.find_filter_none {p : Nat × α → Bool} {k : Nat} (h : ∀ v, p (k, v) = false) (m : NMap α) :
    NMap.find k (m.filter p) = none := by
  induction m with
  | nil => rfl
  | cons c m ih =>
    obtain ⟨j, v⟩ := c
    by_cases hp : p (j, v) = true
    · have hj : j ≠ k := fun e => by simp [e, h] at hp
      rw [List.filter_cons_of_pos hp, NMap.find_cons, if_neg hj, ih]
    · rw [List.filter_cons_of_neg hp, ih]

/-- An entry under another key stays where a key is taken out. -/
theorem NMap.mem_del_of_ne {k : Nat} {c : Nat × α} (hc : c.1 ≠ k) {m : NMap α} (h : c ∈ m) : c ∈ NMap.del k m := by
  induction m with
  | nil => exact h
  | cons d m ih =>
    obtain ⟨j, w⟩ := d
    rw [NMap.del]
    rcases List.mem_cons.mp h with rfl | h
    · rw [if_neg hc]; exact List.mem_cons_self
    · split
      · exact ih h
      · exact List.mem_cons_of_mem _ (ih h)

/-- An entry under another key stays where a key is written. -/
theorem NMap.mem_ins_of_ne {k : Nat} {v : α} {c : Nat × α} (hc : c.1 ≠ k) {m : NMap α} (h : c ∈ m) :
    c ∈ NMap.ins k v m := by
  induction m with
  | nil => exact absurd h List.not_mem_nil
  | cons d m ih =>
    obtain ⟨j, w⟩ := d
    rw [NMap.ins]
    split
    · exact List.mem_cons_of_mem _ h
    · rcases List.mem_cons.mp h with rfl | h
      · rw [if_neg (Ne.symm hc)]; exact List.mem_cons_self
      · split
        · exact List.mem_cons_of_mem _ h
        · exact List.mem_cons_of_mem _ (ih h)

end Sys2Proof

namespace Sys2Proof.Machine

/-! ### A group's place -/

@[simp] theorem State.updGroup_setGroup (s : State) (g : Site) (x : Group) (f : Group → Group) :
    (s.setGroup g x).updGroup g f = s.setGroup g (f x) := by
  simp [State.updGroup]

/-- What an update of a core keeps of its groups is there afterwards. -/
theorem State.group_updCore (s : State) (c : Nat) {f : Core → Core} (hf : (f (s.core c)).groups = (s.core c).groups)
    (h : Site) : (s.updCore c f).group? h = s.group? h := by
  by_cases hc : h.core = c
  · subst hc; simp [State.group?, hf]
  · simp [State.group?, hc]

@[simp] theorem State.group_turn (s : State) (g h : Site) : (s.turn g).group? h = s.group? h :=
  s.group_updCore g.core (by split <;> rfl) h

@[simp] theorem State.group_updTile (s : State) (c key : Nat) (f : Tile → Tile) (h : Site) :
    (s.updTile c key f).group? h = s.group? h :=
  s.group_updCore c (f := fun k => { k with tiles := NMap.modify key f k.tiles }) rfl h

theorem State.groups_updTile (s : State) (c key : Nat) (f : Tile → Tile) :
    ((s.updTile c key f).core c).groups = (s.core c).groups := by
  simp [State.updTile]

@[simp] theorem State.tile_setGroup (s : State) (g : Site) (x : Group) (c key : Nat) :
    (s.setGroup g x).tile? c key = s.tile? c key := by
  by_cases hc : c = g.core
  · subst hc; simp [State.tile?, State.setGroup]
  · simp [State.tile?, State.setGroup, hc]

@[simp] theorem State.matrixBusy_setGroup (s : State) (g : Site) (x : Group) :
    (s.setGroup g x).matrixBusy g = s.matrixBusy g := by
  simp [State.matrixBusy, State.setGroup]

/-! ### EXIT (R54, R62) -/

/-- The group at a place is gone; the other groups, memory and coherence stand as they were. -/
structure FreesPlace (s : State) (g : Site) (u : State) : Prop where
  gone   : u.group? g = none
  others : ∀ h : Site, h ≠ g → u.group? h = s.group? h
  ms     : u.ms = s.ms
  coh    : u.coh = s.coh

/-- Taking a place's group out of its core frees the place, whatever else of the core changes. -/
theorem FreesPlace.of_updCore {s : State} {g : Site} {f : Core → Core}
    (hf : ((s.updCore g.core f).core g.core).groups = NMap.del g.place (s.core g.core).groups) :
    FreesPlace s g (s.updCore g.core f) where
  gone := by rw [State.group?, hf, NMap.find_del_same]
  others h hne := by
    by_cases hc : h.core = g.core
    · have hp : h.place ≠ g.place := fun hp => hne (by cases h; cases g; simp_all)
      rw [State.group?, hc, hf, NMap.find_del_ne hp, State.group?, hc]
    · rw [State.group?, State.core_updCore_ne s hc, State.group?]
  ms := rfl
  coh := rfl

/-- What keeps the groups, memory and coherence keeps a place free. -/
theorem FreesPlace.trans {s u v : State} {g : Site} (h : FreesPlace s g u) (hg : ∀ p, v.group? p = u.group? p)
    (hms : v.ms = u.ms) (hcoh : v.coh = u.coh) : FreesPlace s g v where
  gone := (hg g).trans h.gone
  others p hne := (hg p).trans (h.others p hne)
  ms := hms.trans h.ms
  coh := hcoh.trans h.coh

theorem State.haspSettleAll_of_none {s : State} (h : s.hasps = []) : s.haspSettleAll = s := by
  simp [State.haspSettleAll, h]

/-- A group that ends while its tile has another frees its place (R54). -/
theorem State.groupEnd_freesPlace {s : State} {g : Site} {x : Group} {t : Tile} (hx : s.group? g = some x)
    (ht : s.tile? g.core x.tile = some t) (hasps : s.hasps = [])
    (hother : ∃ p ∈ (s.core g.core).groups, p.1 ≠ g.place ∧ p.2.tile = x.tile) (pc : DWord) :
    FreesPlace s g (s.groupEnd g pc) := by
  obtain ⟨p, hp, hplace, htile⟩ := hother
  unfold State.groupEnd
  split
  · next hnone => simp [hx] at hnone
  · next x' hx' =>
    obtain rfl := Option.some.inj (hx.symm.trans hx')
    split
    · next hnone => simp [ht] at hnone
    · extract_lets mine s1 s2 s3
      have hs1 : (s1.core g.core).groups = NMap.del g.place (s.core g.core).groups := by
        simp only [s1, State.core_updCore_same]
        split <;> rfl
      have hs3 : (s3.core g.core).groups = (s1.core g.core).groups := s1.groups_updTile g.core x.tile _
      have hstays : p ∈ (s3.core g.core).groups := by
        rw [hs3, hs1]
        exact NMap.mem_del_of_ne hplace hp
      have hleft : ((s3.core g.core).groupsOf x.tile).isEmpty = false :=
        List.isEmpty_eq_false_iff_exists_mem.mpr ⟨p, List.mem_filter.mpr ⟨hstays, by simp [htile]⟩⟩
      rw [hleft, if_neg Bool.false_ne_true, State.haspSettleAll_of_none (show s3.hasps = [] from hasps)]
      exact (FreesPlace.of_updCore hs1).trans (fun h => s1.group_updTile g.core x.tile _ h) rfl rfl

section Exit

variable {s : State} {g : Site} {x : Group} {e : Enc}

/-- EXIT that leaves threads takes those of its guard's lanes out, and the group goes on. -/
theorem exec_exit_stays (hleft : x.threads &&& ~~~x.guard e ≠ 0) (h : Issues s g x e { rsv := plainRsv e }) :
    Moves s (.exit g e) g (x.retire (x.guard e)) (x.pc + 8) := by
  have hthreads : ¬ (x.retire (x.guard e)).threads = 0 := hleft
  change execExit g e s = _
  rw [execExit, State.issue_eq h (by rw [decide_eq_true hleft]; rfl)]
  simp only [hthreads]
  exact congrArg okay (State.settle_put (y := x.retire (x.guard e)) h.noHalt h.noStep)

/-- EXIT of a group's last threads ends it; the group's loads, atomics, fence, matrix instructions and posted operations
on local tumblers are done by then (log 15). -/
theorem exec_exit_ends (hleft : x.threads &&& ~~~x.guard e = 0) (hloads : x.loads = []) (hatoms : x.atoms = [])
    (hfence : x.fence = none) (hbusy : s.matrixBusy g = false) (hposted : s.localPosted g = false)
    (h : Issues s g x e { rsv := plainRsv e }) :
    exec (.exit g e) s = .next (((s.setGroup g (x.retire (x.guard e))).groupEnd g x.pc).turn g) := by
  have hthreads : (x.retire (x.guard e)).threads = 0 := hleft
  change execExit g e s = _
  rw [execExit, State.issue_eq h (by simp [hloads, hatoms, hfence, hbusy, hposted])]
  simp only [hthreads]
  rfl

end Exit

/-! ### REPACK (R64, R67) -/

section Repack

variable {s : State} {g : Site} {x : Group} {e : Enc}

/-- REPACK of a group whose accesses are done (log 16), and which no other group of its tile waits for at the same PC. -/
theorem exec_repack (hloads : x.loads = []) (hatoms : x.atoms = []) (hfence : x.fence = none) (hsb : x.sb = [])
    (hpend : s.pendingP g x = []) (h : Issues s g x e { ops := [(.none, e.d), (.none, e.a), (.none, e.b)]
                                                        rsv := e.type != 0 || field e.imm 23 8 != 0 })
    (halone : x.threads = BitVec.allOnes 32 ∨ x.stack ≠ [] ∨
      s.repackRefused g x = false ∧ s.parkedAt g x.tile x.pc = []) :
    exec (.repack g e) s = .next (s.settle g x x.pc (
      if x.threads = BitVec.allOnes 32 ∨ x.stack ≠ [] ∨ field e.imm 7 0 = 0 then .step s
      else .wait (s.setGroup g { x with wait := .parked }))) := by
  change execRepack g e s = _
  rw [execRepack, State.issue_eq h (by simp [hloads, hatoms, hfence, hsb, hpend])]
  dsimp only
  rw [if_neg (by simp [h.noStep])]
  by_cases hnothing : x.threads = BitVec.allOnes 32 ∨ x.stack ≠ []
  · rw [if_pos hnothing, if_pos (hnothing.imp id .inl)]
  · obtain ⟨hrefused, hparked⟩ : s.repackRefused g x = false ∧ s.parkedAt g x.tile x.pc = [] := by tauto
    rw [if_neg hnothing, if_neg (by simp [hrefused]), hparked]
    simp only [List.foldl_nil]
    by_cases hwait : field e.imm 7 0 = 0
    · rw [if_pos hwait, if_pos (Or.inr (Or.inr hwait))]
    · rw [if_neg hwait, if_neg (by tauto)]

end Repack

/-! ### What a debug event leaves of the groups (R313, R516) -/

/-- A group but for its reservations. -/
def Group.noResv (x : Group) : Group := { x with resv := [] }

/-- Every group stands as it was but for its reservations. -/
def GroupsKept (s t : State) : Prop := ∀ g, (t.group? g).map Group.noResv = (s.group? g).map Group.noResv

theorem GroupsKept.refl (s : State) : GroupsKept s s := fun _ => rfl
theorem GroupsKept.trans {s t u : State} (h1 : GroupsKept s t) (h2 : GroupsKept t u) : GroupsKept s u :=
  fun g => (h2 g).trans (h1 g)

theorem GroupsKept.of_group {s t : State} (h : ∀ g, t.group? g = s.group? g) : GroupsKept s t := fun g => by rw [h g]

theorem GroupsKept.of_cores {s t : State} (h : t.cores = s.cores) : GroupsKept s t :=
  .of_group fun g => by rw [State.group?, State.group?, State.core, State.core, h]

theorem GroupsKept.foldl {β : Type} {f : State → β → State} (hf : ∀ s b, GroupsKept s (f s b)) (l : List β) (s : State) :
    GroupsKept s (l.foldl f s) :=
  foldl_keeps (GroupsKept s) f (fun t b h => h.trans (hf t b)) l s (.refl s)

/-- The group at a place, where the groups are kept. -/
theorem GroupsKept.group {s t : State} (h : GroupsKept s t) {g : Site} {x : Group} (hx : s.group? g = some x) :
    ∃ r, t.group? g = some { x with resv := r } := by
  have hg := h g
  rw [hx, Option.map_some, Option.map_eq_some_iff] at hg
  obtain ⟨y, hy, hsame⟩ := hg
  exact ⟨y.resv, hy.trans (congrArg (fun z : Group => some { z with resv := y.resv }) hsame)⟩

theorem State.group_killResv (s : State) (p : Nat → Bool) (gr : Granule) (g : Site) :
    (s.killResv p gr).group? g = (s.group? g).map (fun x =>
      if p g.core then { x with resv := x.resv.filter (fun lr => lr.2 != gr) } else x) := by
  simp only [State.group?, State.core, State.killResv, NMap.findD, NMap.find_mapVals]
  cases NMap.find g.core s.cores with
  | none => rfl
  | some k => by_cases hp : p g.core = true <;> simp [hp]

theorem State.killResv_groupsKept (s : State) (p : Nat → Bool) (gr : Granule) : GroupsKept s (s.killResv p gr) := by
  intro g
  rw [State.group_killResv, Option.map_map]
  congr 1
  funext x
  by_cases hp : p g.core = true <;> simp [hp, Group.noResv]

theorem State.memAccept_groupsKept (s : State) (line : Nat) (bytes : NMap Byte) (poison : Bool) (tag : Nat) :
    GroupsKept s (s.memAccept line bytes poison tag) := by
  unfold State.memAccept
  split
  · exact (GroupsKept.of_cores rfl).trans (State.killResv_groupsKept _ _ _)
  · exact .of_cores rfl

theorem State.victimDone_groupsKept (s : State) (v : Option (Nat × Nat)) : GroupsKept s (s.victimDone v) := by
  unfold State.victimDone; split <;> exact .of_cores rfl

theorem State.acceptSent_groupsKept (s : State) (line : Nat) : GroupsKept s (s.acceptSent line) := by
  unfold State.acceptSent
  extract_lets ws c s1
  have h1 : GroupsKept s s1 := .of_cores rfl
  exact h1.trans (.foldl (fun st w => (st.memAccept_groupsKept _ _ _ _).trans (State.victimDone_groupsKept _ _)) _ _)

theorem State.flushLine_groupsKept (s : State) (line : Nat) : GroupsKept s (s.flushLine line) := by
  unfold State.flushLine
  extract_lets s0 hs fl s1 s2
  have h0 : GroupsKept s s0 := s.killResv_groupsKept _ _
  have h1 : GroupsKept s s1 := h0.trans (s0.acceptSent_groupsKept line)
  have h2 : GroupsKept s s2 := by
    simp only [s2]
    split
    · exact h1.trans (s1.memAccept_groupsKept _ _ _ _)
    · exact h1.trans (s1.memAccept_groupsKept _ _ _ _)
    · exact h1
  split
  · exact h0
  · exact h2.trans (.of_cores rfl)

theorem State.rereadTxn_groupsKept (s : State) (line : Nat) : GroupsKept s (s.rereadTxn line) := by
  unfold State.rereadTxn
  split
  · exact .refl s
  · split <;> exact .of_cores rfl

theorem State.cohWriteLine_groupsKept (s : State) (tag line : Nat) (bytes : NMap Byte) :
    GroupsKept s (s.cohWriteLine tag line bytes) := by
  unfold State.cohWriteLine
  extract_lets c s1
  have h1 : GroupsKept s s1 := .of_cores rfl
  exact ((h1.trans (s1.flushLine_groupsKept line)).trans (State.memAccept_groupsKept _ _ _ _ _)).trans
    (State.rereadTxn_groupsKept _ _)

/-- A write by an agent that does not cache takes reservations from the groups and nothing else (R313). -/
theorem State.cohWrite_groupsKept (s : State) (tag pa : Nat) (bytes : List Byte) :
    GroupsKept s (s.cohWrite tag pa bytes) := by
  unfold State.cohWrite
  refine GroupsKept.foldl (fun st lm => ?_) _ _
  exact st.cohWriteLine_groupsKept tag lm.1 lm.2

theorem State.traceOpen_groupsKept (s : State) : GroupsKept s s.traceOpen := by
  unfold State.traceOpen
  extract_lets d s1 next b s2
  have h1 : GroupsKept s s1 := by
    simp only [s1]
    split
    · exact s.cohWrite_groupsKept _ _ _
    · exact .refl s
  split
  · exact h1.trans (.of_cores rfl)
  · have h2 : GroupsKept s1 s2 := .of_cores rfl
    exact (h1.trans h2).trans (s2.cohWrite_groupsKept _ _ _)

theorem State.trace_groupsKept (s : State) (type ward ctx core place high : Nat) :
    GroupsKept s (s.trace type ward ctx core place high) := by
  unfold State.trace
  extract_lets stale s1 a s2
  have h1 : GroupsKept s s1 := by
    simp only [s1]
    split
    · exact .refl s
    · exact s.traceOpen_groupsKept
  split
  · split
    · exact h1
    · exact (h1.trans (s1.cohWrite_groupsKept _ _ _)).trans (.of_cores rfl)
  · exact .refl s

theorem State.raiseAplic_cores (s : State) (n : Nat) : (s.raiseAplic n).cores = s.cores := by
  unfold State.raiseAplic State.aplicDeliver State.msi
  extract_lets dom target
  split
  · split <;> rfl
  · rfl

theorem State.logEvent_groupsKept (s : State) (type ward ctx core place high : Nat) :
    GroupsKept s (s.logEvent type ward ctx core place high) := by
  unfold State.logEvent
  extract_lets n s1 d s2
  have h1 : GroupsKept s s1 := by
    simp only [s1]
    split
    · exact .refl s
    · exact s.cohWrite_groupsKept _ _ _
  have h2 : GroupsKept s1 (s2.raiseAplic 1) := .of_cores (s2.raiseAplic_cores 1)
  exact (h1.trans h2).trans (State.trace_groupsKept _ _ _ _ _ _ _)

/-! ### BRK (R101, R502, R503) -/

/-- A debug event takes no byte of memory with neither an event log nor a trace (R515). -/
theorem State.logEvent_ms_of_bare {s : State} (hlog : s.dbg.elbase = 0) (htr : s.dbg.tren = false)
    (type ward ctx core place high : Nat) : (s.logEvent type ward ctx core place high).ms = s.ms := by
  rw [State.logEvent, if_pos hlog]
  rw [State.trace_of_off (by rw [State.raiseAplic_dbg]; exact htr)]
  unfold State.raiseAplic State.aplicDeliver State.msi
  extract_lets dom target
  split
  · split <;> rfl
  · rfl

/-- A group halted with no matrix instruction in flight stands as it was, halted, but for its wait and what only its halt
and its reservations concern. -/
theorem State.halt_of_idle {s : State} {g : Site} {x : Group} (hx : s.group? g = some x) (hbusy : s.matrixBusy g = false)
    (causes n lane brk addr : Nat) :
    (∃ y, (s.halt g causes n lane brk addr).group? g = some y ∧ y.halted = true ∧ y.pc = x.pc ∧ y.t = x.t ∧ y.u = x.u ∧
      y.p = x.p) ∧
    (s.dbg.elbase = 0 → s.dbg.tren = false → (s.halt g causes n lane brk addr).ms = s.ms) := by
  rw [State.halt, hbusy, if_neg Bool.false_ne_true, State.haltNow]
  split
  · next hnone => simp [hx] at hnone
  · next x' hx' =>
    obtain rfl := Option.some.inj (hx.symm.trans hx')
    extract_lets s1 s2
    refine ⟨?_, fun hlog htr => (State.logEvent_ms_of_bare (s := s2) hlog htr _ _ _ _ _ _).trans rfl⟩
    have hs2 : s2.group? g = _ := (s1.group_updTile g.core x.tile _ g).trans (s.group_setGroup_same g _)
    obtain ⟨r, hy⟩ := (s2.logEvent_groupsKept _ _ _ _ _ _).group hs2
    exact ⟨_, hy, rfl, rfl, rfl, rfl, rfl⟩

section Brk

variable {s : State} {g : Site} {x : Group} {e : Enc}

theorem exec_brk (hdone : x.drained = true)
    (h : Issues s g x e { ops := [(.none, e.d), (.none, e.a), (.none, e.b)]
                          rsv := e.type != 0 || field e.imm 23 16 != 0 }) :
    exec (.brk g e) s = .next (s.settle g x x.pc (
      if s.hasRight 0 (s.wardOf g) then .fin ((s.setGroup g (x.goTo (x.pc + 8))).halt g (4 + (if x.stepping then 2 else 0))
        0 0 (field e.imm 15 0) (x.goTo (x.pc + 8)).pc.toNat)
      else .step s)) := by
  change execBrk g e s = _
  rw [execBrk, State.issue_eq h hdone]

end Brk

/-- The registers of a group stay where they are as it moves on. -/
theorem Group.goTo_regs (x : Group) (n : DWord) : (x.goTo n).t = x.t ∧ (x.goTo n).u = x.u ∧ (x.goTo n).p = x.p := by
  unfold Group.goTo; rw [Group.popAll_only]; exact ⟨rfl, rfl, rfl⟩

/-! ### The statement -/

/-- Settles O19: EXIT by whether threads are left, REPACK by whether there is something to gain, BRK by the right to halt. -/
theorem threadEndAndDebugBreak : Obligations.ThreadEndAndDebugBreak := by
  intro s g x e t ht
  refine ⟨fun h => ⟨fun hleft => ?stays, fun hleft hloads hatoms hfence hbusy hposted hasps hregion hother => ?ends⟩,
    fun h hloads hatoms hfence hsb hpend => ⟨fun hnothing => ?nothing, fun hgain hstack hrefused hparked =>
      ⟨fun hzero => ?noWait, fun hwait => ?parks⟩⟩,
    fun h hdone => ⟨fun hright => ?noRight, fun hright hbusy => ?halts⟩⟩
  case stays =>
    exact ⟨_, exec_exit_stays hleft h, rfl, rfl, rfl, fun l hl => NMap.find_filter_none (fun _ => by simp [hl]) _,
      rfl, rfl, rfl, rfl⟩
  case ends =>
    have hothers : ∃ p ∈ ((s.setGroup g (x.retire (x.guard e))).core g.core).groups,
        p.1 ≠ g.place ∧ p.2.tile = x.tile := by
      obtain ⟨p, hp, hplace, htile⟩ := hother
      refine ⟨p, ?_, hplace, htile⟩
      rw [State.setGroup, State.core_updCore_same]
      exact NMap.mem_ins_of_ne hplace hp
    have hend := State.groupEnd_freesPlace (s.group_setGroup_same g (x.retire (x.guard e)))
      ((s.tile_setGroup g _ _ _).trans ht) hasps hothers x.pc
    exact ⟨_, exec_exit_ends hleft hloads hatoms hfence hbusy hposted h, (State.group_turn _ g g).trans hend.gone,
      fun p hp => by rw [State.group_turn, hend.others p hp, State.group_setGroup_ne s hp], hend.ms, hend.coh⟩
  case nothing =>
    have hexec := exec_repack hloads hatoms hfence hsb hpend h (hnothing.imp id .inl)
    rw [if_pos (hnothing.imp id .inl)] at hexec
    exact hexec.trans (congrArg okay (State.settle_step h.here h.noHalt h.noStep))
  case noWait =>
    have hexec := exec_repack hloads hatoms hfence hsb hpend h (.inr (.inr ⟨hrefused, hparked⟩))
    rw [if_pos (.inr (.inr hzero))] at hexec
    exact hexec.trans (congrArg okay (State.settle_step h.here h.noHalt h.noStep))
  case parks =>
    have hexec := exec_repack hloads hatoms hfence hsb hpend h (.inr (.inr ⟨hrefused, hparked⟩))
    rw [if_neg (by tauto), State.settle, State.updGroup_setGroup] at hexec
    exact hexec
  case noRight =>
    have hexec := exec_brk hdone h
    rw [if_neg (by simp [hright])] at hexec
    exact hexec.trans (congrArg okay (State.settle_step h.here h.noHalt h.noStep))
  case halts =>
    have hexec := exec_brk hdone h
    rw [if_pos hright] at hexec
    obtain ⟨ht, hu, hp⟩ := x.goTo_regs (x.pc + 8)
    obtain ⟨⟨y, hy, hhalt, hpc, hyt, hyu, hyp⟩, hms⟩ :=
      State.halt_of_idle (State.group_setGroup_same s g (x.goTo (x.pc + 8)))
      ((s.matrixBusy_setGroup g _).trans hbusy) (4 + (if x.stepping then 2 else 0)) 0 0 (field e.imm 15 0)
      (x.goTo (x.pc + 8)).pc.toNat
    exact ⟨_, y, hexec, (State.group_turn _ g g).trans hy, hhalt, hpc, hyt.trans ht, hyu.trans hu, hyp.trans hp,
      fun hlog htr => hms hlog htr⟩

end Sys2Proof.Machine

/-! What ends the waits of a group (O20). -/

namespace Sys2Proof

/-- What is found in a map is an entry of it. -/
theorem NMap.mem_of_find {α : Type} {k : Nat} {v : α} {m : NMap α} (h : NMap.find k m = some v) : (k, v) ∈ m := by
  induction m with
  | nil => simp at h
  | cons c m ih =>
    obtain ⟨j, w⟩ := c
    rw [NMap.find_cons] at h
    split at h
    · next hj => simp [← hj, Option.some.inj h]
    · exact List.mem_cons_of_mem _ (ih h)

end Sys2Proof

namespace Sys2Proof.Machine

/-! ### A group whose wait is over -/

/-- Neither halted nor about to halt, and at the PC its instructions gave it. -/
structure Group.Quiet (x : Group) : Prop where
  notHalted : x.halted = false
  ownPc     : x.pcWritten = false
  noHalt    : x.haltReq = none
  noStep    : x.stepping = false

theorem State.updGroup_of_group {s : State} {g : Site} {x : Group} (hx : s.group? g = some x) (f : Group → Group) :
    s.updGroup g f = s.setGroup g (f x) := by
  rw [State.updGroup, hx]

/-- The end of a wait moves such a group on to the next instruction. -/
theorem State.endWait_eq {s : State} {g : Site} {x : Group} (hx : s.group? g = some x) (hq : x.Quiet) :
    s.endWait g = s.moved g { x with wait := .none } (x.pc + 8) := by
  obtain ⟨hhalted, hpc, hhalt, hstep⟩ := hq
  unfold State.endWait
  split
  · next hnone => simp [hx] at hnone
  · next x' hx' =>
    obtain rfl := Option.some.inj (hx.symm.trans hx')
    rw [if_neg (by simp [hhalted]), if_neg (by simp [hpc]),
      State.complete_eq _ g { x with wait := .none } none (State.group_setGroup_same s g _) hhalt hstep,
      State.moved_setGroup]
    rfl

/-! ### What a group that moves on leaves -/

section Moved

variable (s : State) (g : Site) (z : Group) (next : DWord)

theorem State.core_moved : (s.moved g z next).core g.core =
    Core.endReads { s.core g.core with groups := NMap.ins g.place (z.goTo next) (s.core g.core).groups } (5 + g.place) := by
  simp [State.moved, State.setGroup]

theorem State.moved_groups : ((s.moved g z next).core g.core).groups =
    NMap.ins g.place (z.goTo next) (s.core g.core).groups := by
  rw [State.core_moved]; rfl

@[simp] theorem State.group_moved_same : (s.moved g z next).group? g = some (z.goTo next) := by
  rw [State.group?, State.moved_groups, NMap.find_ins_same]

theorem State.group_moved_ne {h : Site} (hne : h ≠ g) : (s.moved g z next).group? h = s.group? h :=
  (State.group_updCore _ g.core (f := fun k => k.endReads (5 + g.place)) rfl h).trans (State.group_setGroup_ne s hne _)

@[simp] theorem State.tile_moved (c key : Nat) : (s.moved g z next).tile? c key = s.tile? c key := by
  by_cases hc : c = g.core
  · subst hc; rw [State.tile?, State.core_moved]; rfl
  · simp [State.tile?, State.moved, State.setGroup, hc]

@[simp] theorem Group.goTo_pending : (z.goTo next).pending = z.pending := by
  unfold Group.goTo; rw [Group.popAll_only]

/-- No group of a core has a fault pending, where none had before and the group that moves on has none. -/
theorem State.moved_pending (hz : z.pending = none) (h : ∀ q ∈ (s.core g.core).groups, q.2.pending = none) :
    ∀ q ∈ ((s.moved g z next).core g.core).groups, q.2.pending = none := by
  intro q hq
  rw [State.moved_groups] at hq
  rcases NMap.mem_ins hq with rfl | hq
  · exact (z.goTo_pending next).trans hz
  · exact h q hq

end Moved

/-! ### REPACK's waits (R64 to R66, R107) -/

section Repack

variable {s : State} {g : Site} {x : Group}

theorem exec_repackWaitExpiry (hx : s.group? g = some x) (hq : x.Quiet) (hwait : x.wait = .parked) :
    exec (.repackWaitExpiry g) s = .next (s.moved g { x with wait := .none } (x.pc + 8)) := by
  change execRepackWaitExpiry g s = _
  simp only [execRepackWaitExpiry, hx, if_pos hwait, State.endWait_eq hx hq]

/-- With no fault pending and none held back, none is taken when a merge is over (R107). -/
theorem State.takeLate_of_none {c key : Nat} (hpend : ∀ q ∈ (s.core c).groups, q.2.pending = none)
    (hlate : ∀ t, s.tile? c key = some t → t.late = []) : s.takeLate c key = s := by
  unfold State.takeLate
  split
  · rfl
  · next t ht =>
    extract_lets own
    have hown : own = [] := List.filterMap_eq_nil_iff.mpr fun q hq => by
      simp [hpend q (List.mem_filter.mp hq).1]
    rw [hown, hlate t ht]
    rfl

theorem exec_mergeComplete {p : Nat} {y : Group} (hx : s.group? g = some x) (hqx : x.Quiet)
    (hwait : x.wait = .merging p true) (hp : p ≠ g.place) (hy : s.group? ⟨g.core, p⟩ = some y) (hqy : y.Quiet)
    (hthreads : y.threads ≠ 0) (hpend : ∀ q ∈ (s.core g.core).groups, q.2.pending = none)
    (hlate : ∀ t, s.tile? g.core x.tile = some t → t.late = []) :
    exec (.mergeComplete g) s = .next ((s.moved g { x with wait := .none } (x.pc + 8)).moved
      ⟨g.core, p⟩ { y with wait := .none } (y.pc + 8)) := by
  have hne : (⟨g.core, p⟩ : Site) ≠ g := fun he => hp (congrArg Site.place he)
  have hy1 : (s.moved g { x with wait := .none } (x.pc + 8)).group? ⟨g.core, p⟩ = some y :=
    (State.group_moved_ne s g _ _ hne).trans hy
  have hpend1 := State.moved_pending s g { x with wait := .none } (x.pc + 8)
    (hpend _ (NMap.mem_of_find hx)) hpend
  have hpend2 := State.moved_pending _ ⟨g.core, p⟩ { y with wait := .none } (y.pc + 8)
    (hpend _ (NMap.mem_of_find hy)) hpend1
  have htake := State.takeLate_of_none (key := x.tile) hpend2 (fun t ht => hlate t (by simpa using ht))
  change execMergeComplete g s = _
  simp only [execMergeComplete, hx, hwait, State.endWait_eq hx hqx, if_true, hy1, if_neg hthreads,
    State.endWait_eq hy1 hqy, htake, ite_self]

end Repack

/-! ### TWAIT's timeout (R138) -/

section Timeout

variable {s : State} {g : Site} {x : Group} {loc : Bool} {id n v pdst d : Nat}

theorem Group.wp_pc (x : Group) (n : Nat) (lanes val : LaneMask) : (x.wp n lanes val).pc = x.pc := by
  rw [Group.wp_only]

/-- A TWAIT that ends writes its outcome in the active lanes, and the group moves on (R99, R138). -/
theorem State.endTumWait_eq {deadline : Option Nat} (hx : s.group? g = some x) (hq : x.Quiet)
    (hwait : x.wait = .twait loc id n v pdst deadline) (outcome : Bool) :
    s.endTumWait g outcome = s.moved g { x.wp pdst x.active (if outcome then BitVec.allOnes 32 else 0) with wait := .none }
      (x.pc + 8) := by
  have hy := Group.wp_only x pdst x.active (if outcome then BitVec.allOnes 32 else 0)
  have hqy : (x.wp pdst x.active (if outcome then BitVec.allOnes 32 else 0)).Quiet := by
    obtain ⟨hhalted, hpc, hhalt, hstep⟩ := hq
    rw [hy]
    exact ⟨hhalted, hpc, hhalt, hstep⟩
  unfold State.endTumWait
  simp only [hx, Option.map_some, hwait]
  rw [State.updGroup_of_group hx, State.endWait_eq (State.group_setGroup_same s g _) hqy, State.moved_setGroup,
    Group.wp_pc]

/-- The state with a group's TWAIT taken out of the units that hold it. -/
def State.leaveTumblers (s : State) (g : Site) : State :=
  let isWait (op : TumOp) : Bool := match op with | .wait _ => true | _ => false
  ({ s with
    waiters := s.waiters.filter (fun w => !(w.src == .group g))
    tumq := s.tumq.filter (fun q => !(q.src == .group g && isWait q.op)) } : State).updCore g.core (fun k => { k with
      ltq := k.ltq.filter (fun (o : LocalOp) => !(o.place == g.place && isWait o.op)) })

theorem State.group_leaveTumblers (s : State) (g h : Site) : (s.leaveTumblers g).group? h = s.group? h :=
  State.group_updCore _ g.core rfl h

/-- A TWAIT past its deadline leaves the units and writes false (R138). -/
theorem exec_twaitTimeout (hx : s.group? g = some x) (hq : x.Quiet) (hwait : x.wait = .twait loc id n v pdst (some d))
    (hdue : d ≤ s.time.now.toNat) (hfrozen : s.fe.frozen = none) : exec (.twaitTimeout g) s = .next
      ((s.leaveTumblers g).moved g { x.wp pdst x.active 0 with wait := .none } (x.pc + 8)) := by
  have hend := State.endTumWait_eq ((s.group_leaveTumblers g g).trans hx) hq hwait false
  change execTwaitTimeout g s = _
  simp only [execTwaitTimeout, hx, Option.map_some, hwait]
  rw [if_neg (by simp [State.nowN, hfrozen]; omega)]
  exact congrArg okay hend

end Timeout

/-! ### Fences (R310, R311) -/

section Fence

variable {s : State} {g : Site} {x : Group} {f : FenceWait}

/-- A fence that only orders ends; from die scope on the L1 and the instruction cache are dropped with it. -/
theorem exec_fenceComplete_order (hx : s.group? g = some x) (hf : x.fence = some f) (hmet : x.fenceMet f = true)
    (hdone : f.done = false) : exec (.fenceComplete g) s = .next (
      if 2 ≤ f.scope then (s.setGroup g { x with fence := none }).dropL1 g.core
      else s.setGroup g { x with fence := none }) := by
  change execFenceComplete g s = _
  simp only [execFenceComplete, hx, hf]
  rw [if_neg (by simp [hmet]), if_pos hdone]

theorem State.finalLines_nil (s : State) (core : Nat) : s.finalLines core [] = some s := rfl

/-- FENCE.DONE of a group that has brought every store to its final endpoint ends its wait. -/
theorem exec_fenceComplete_done (hx : s.group? g = some x) (hf : x.fence = some f) (hmet : x.fenceMet f = true)
    (hdone : f.done = true) (hdirty : x.dirtied = []) (hwin : x.winDone = []) (hundeliv : x.undeliv = none) :
    exec (.fenceComplete g) s = .next ((
      if 2 ≤ f.scope then (s.setGroup g { x with fence := none }).dropL1 g.core
      else s.setGroup g { x with fence := none }).endWait g) := by
  change execFenceComplete g s = _
  simp only [execFenceComplete, hx, hf]
  rw [if_neg (by simp [hmet]), if_neg (by simp [hdone]), if_neg (by simp [hwin]), hdirty, State.finalLines_nil]
  simp only [State.updGroup_of_group hx, hundeliv, ite_self, ← hdirty]

end Fence

/-! ### Instruction fetch (R574) -/

section Fetch

variable {s : State} {g : Site} {x : Group} {core owner pa : Nat} {l : CLine}

theorem State.updCore_updCore (s : State) (c : Nat) (f f' : Core → Core) :
    (s.updCore c f).updCore c f' = s.updCore c (fun k => f' (f k)) := by
  simp [State.updCore, State.setCore, State.core]

theorem lineOf_lineOf (a : Nat) : lineOf (lineOf a) = lineOf a := by
  unfold lineOf; omega

/-- The state with one more line read of a core's readers. -/
def State.withLineRead (s : State) (core : Nat) (r : LineRead) : State :=
  s.updCore core (fun k => { k with lineReads := k.lineReads ++ [r] })

/-- A reader with no line read under way gets at once a line that the die's LLC holds (R270). -/
theorem State.askLine_held (hl : s.llcLine core pa = some l) (hnone : ∀ r ∈ (s.core core).lineReads, r.owner ≠ owner) :
    ∃ r : LineRead, r.owner = owner ∧ r.line = lineOf pa ∧ r.reply = some (l.bytes, l.poison) ∧
      s.askLine core owner (lineOf pa) = s.withLineRead core r := by
  have hheld : s.llcLine core (lineOf pa) = some l := by rw [State.llcLine, lineOf_lineOf]; exact hl
  have hmine : ¬ (s.core core).lineReads.any (fun r => r.owner == owner && r.line == lineOf pa) = true := by
    simp only [List.any_eq_true, not_exists, not_and]
    intro r hr hmine
    simp [hnone r hr] at hmine
  refine ⟨⟨owner, ((s.readerTile core owner).map (·.plan.ways)).getD 0, lineOf pa, _⟩, rfl, rfl, rfl, ?_⟩
  unfold State.askLine
  rw [hheld]
  exact congrArg (s.setCore core) (if_neg hmine)

/-- A line read that has its data is what its reader gets, where it is the reader's first. -/
theorem State.bulkLine_withLineRead {r : LineRead} (hvia : s.viaLlc core r.owner = true) (hline : r.line = lineOf pa)
    (hnone : ∀ q ∈ (s.core core).lineReads, q.owner ≠ r.owner) :
    (s.withLineRead core r).bulkLine core r.owner (.cache pa) = r.reply := by
  have hreads : ((s.withLineRead core r).core core).lineReads = (s.core core).lineReads ++ [r] := by
    rw [State.withLineRead, State.core_updCore_same]
  have hvia' : (s.withLineRead core r).viaLlc core r.owner = true := by
    rw [← hvia, State.viaLlc, State.viaLlc, State.withLineRead, State.core_updCore_same]
  have hfirst : (s.core core).lineReads.find? (fun q => q.owner == r.owner && q.line == lineOf pa) = none :=
    List.find?_eq_none.mpr fun q hq => by simp [hnone q hq]
  simp only [State.bulkLine, hvia', if_true, hreads, List.find?_append, hfirst]
  simp [hline]

/-- Line reads given back leave no trace of one that was asked for alone. -/
theorem State.endReads_withLineRead (r : LineRead) :
    (s.withLineRead core r).updCore core (fun k => k.endReads r.owner) = s.updCore core (fun k => k.endReads r.owner) := by
  rw [State.withLineRead, State.updCore_updCore]
  refine congrArg (s.setCore core) ?_
  simp [Core.endReads]

theorem State.translated_cores (s : State) (ctx : Nat) (k : AccKind) (vas : List Nat) :
    (s.translated ctx k vas).cores = s.cores := by
  unfold State.translated State.drawStale
  extract_lets c io
  split <;> rfl

/-- A line enters an instruction cache that has room, and nothing gives way (R574). -/
theorem State.icachePut_of_room {key : Nat} (h : (s.core core).icache.length < 512) :
    s.icachePut core key = s.updCore core (fun k => { k with icache := addNew key k.icache }) :=
  if_pos (by simp [h])

theorem exec_instructionFetchFill (hx : s.group? g = some x)
    (htarget : (s.groupView g).resolve (s.ctxOf g) x.pc.toNat .fetch = .ok (.cache pa))
    (hvia : s.viaLlc g.core (5 + g.place) = true) (hl : s.llcLine g.core pa = some l) (hpoison : l.poison = false)
    (hnone : ∀ r ∈ (s.core g.core).lineReads, r.owner ≠ 5 + g.place) (hroom : (s.core g.core).icache.length < 512) :
    exec (.instructionFetchFill g) s = .next (((s.updCore g.core (fun k => k.endReads (5 + g.place))).translated (s.ctxOf g)
      .fetch [x.pc.toNat]).updCore g.core (fun k => { k with icache := addNew (lineOf pa) k.icache })) := by
  obtain ⟨r, howner, hline, hreply, hask⟩ := State.askLine_held hl hnone
  have hask' : s.bulkAsk g.core (5 + g.place) [.cache pa] = s.withLineRead g.core r := (if_pos hvia).trans hask
  have hgot : (s.withLineRead g.core r).bulkLine g.core (5 + g.place) (.cache pa) = some (l.bytes, false) := by
    rw [← hpoison, ← hreply, ← howner]
    exact State.bulkLine_withLineRead (howner ▸ hvia) hline (howner ▸ hnone)
  have hend : (s.withLineRead g.core r).updCore g.core (fun k => k.endReads (5 + g.place)) =
      s.updCore g.core (fun k => k.endReads (5 + g.place)) := howner ▸ State.endReads_withLineRead r
  have hcore : ((s.updCore g.core (fun k => k.endReads (5 + g.place))).translated (s.ctxOf g) .fetch [x.pc.toNat]).core
      g.core = (s.core g.core).endReads (5 + g.place) := by
    rw [State.core, State.translated_cores]
    exact State.core_updCore_same s g.core _
  change execInstructionFetchFill g s = _
  simp only [execInstructionFetchFill, hx, htarget, hask', hgot, fetchKey, hend]
  exact congrArg okay (State.icachePut_of_room (by rw [hcore]; exact hroom))

end Fetch

/-! ### A page that the host maps (R84, R262, R576) -/

/-- The list of contexts may stand in another form than in `s`, each context reading as it did there and none activating;
translation, cores, memory and coherence are those of `s`. -/
structure FrontEndIdle (s t : State) : Prop where
  io    : t.io = s.io
  cores : t.cores = s.cores
  ms    : t.ms = s.ms
  coh   : t.coh = s.coh
  ctxs  : ∀ n, t.ctx n = s.ctx n
  quiet : ∀ c ∈ t.fe.ctxs, c.2.activating = false

theorem FrontEndIdle.group {s t : State} (h : FrontEndIdle s t) (g : Site) : t.group? g = s.group? g := by
  rw [State.group?, State.core, h.cores]; rfl

theorem FrontEndIdle.activating {s t : State} (h : FrontEndIdle s t) (n : Nat) : (t.ctx n).activating = false := by
  rw [State.ctx, NMap.findD]
  cases hf : NMap.find n t.fe.ctxs with
  | none => rfl
  | some c => exact h.quiet _ (NMap.mem_of_find hf)

/-- An update that leaves a context as it is. -/
theorem FrontEndIdle.updCtx {s t : State} (h : FrontEndIdle s t) {n : Nat} {f : Ctx → Ctx} (hf : f (t.ctx n) = t.ctx n) :
    FrontEndIdle s (t.updCtx n f) where
  io := h.io
  cores := h.cores
  ms := h.ms
  coh := h.coh
  ctxs m := by
    by_cases hm : m = n
    · rw [hm, State.ctx_updCtx_same, hf, h.ctxs]
    · rw [State.ctx_updCtx_ne _ hm, h.ctxs]
  quiet c hc := by
    rcases NMap.mem_ins hc with rfl | hc
    · rw [hf]; exact h.activating n
    · exact h.quiet c hc

theorem FrontEndIdle.settle {s t : State} (h : FrontEndIdle s t)
    (howed : ∀ n, (s.ctx n).owedPins = [] ∧ (s.ctx n).owedFaults = []) (n : Nat) : FrontEndIdle s ((t.settlePins n).settleFaults n) := by
  have hpins : FrontEndIdle s (t.settlePins n) := by
    have hnone : (t.ctx n).owedPins = [] := by rw [h.ctxs]; exact (howed n).1
    rw [State.settlePins, hnone]
    exact h.updCtx (by rw [← hnone])
  have hnone : ((t.settlePins n).ctx n).owedFaults = [] := by rw [hpins.ctxs]; exact (howed n).2
  rw [State.settleFaults, hnone]
  exact hpins.updCtx (by rw [← hnone])

theorem FrontEndIdle.resumeActivations {s t : State} (h : FrontEndIdle s t) (pasid : Nat) :
    t.resumeActivations pasid = t := by
  have hnone : t.fe.ctxs.filter (fun nc => nc.2.activating && nc.2.pasid == pasid) = [] :=
    List.filter_eq_nil_iff.mpr fun c hc => by simp [h.quiet c hc]
  rw [State.resumeActivations, hnone, List.foldl_nil]

/-- A front end that owes nothing, with no ring to serve and no activation under way, has nothing to take up again. -/
theorem State.resumeFrontEnd_idle {s : State} (hctxs : ∀ c ∈ s.fe.ctxs, c.2.activating = false ∧ c.2.rings = [])
    (howed : ∀ n, (s.ctx n).owedPins = [] ∧ (s.ctx n).owedFaults = []) (pasid : Nat) :
    FrontEndIdle s (s.resumeFrontEnd pasid) := by
  have hself : FrontEndIdle s s := ⟨rfl, rfl, rfl, rfl, fun _ => rfl, fun c hc => (hctxs c hc).1⟩
  have hrings : (s.fe.ctxs.filter (fun nc => nc.2.pasid == pasid)).map (fun nc => (nc.1, NMap.keys nc.2.rings)) =
      (s.fe.ctxs.filter (fun nc => nc.2.pasid == pasid)).map (fun nc => (nc.1, [])) :=
    List.map_congr_left fun c hc => by rw [(hctxs c (List.mem_filter.mp hc).1).2]; rfl
  have hfold := foldl_keeps (FrontEndIdle s) (fun t (nc : Nat × Ctx) => (t.settlePins nc.1).settleFaults nc.1)
    (fun t nc h => h.settle howed nc.1) (s.fe.ctxs.filter (fun nc => nc.2.pasid == pasid)) s hself
  unfold State.resumeFrontEnd
  rw [hrings]
  simp only [List.foldl_map, List.foldl_nil]
  rw [hfold.resumeActivations]
  exact hfold

/-- The state with a page that the host has mapped: its request answered, its leaf in the tables, and the group that
waited for it going on (R84, log 9). -/
def State.pageMapped (s : State) (g : Site) (x : Group) (pasid va : Nat) (l : Leaf) : State :=
  ({ s with io := { s.io with
    requests := s.io.requests.filter (· != (pasid, va / 4096))
    leaves := s.io.leaves ++ [{ l with pasid := pasid }] } } : State).setGroup g { x with wait := .none }

/-- The answer to a page request that one group waits for, while the front end has nothing to take up again. -/
theorem exec_pageRequestResponse {s : State} {g : Site} {x : Group} {pasid va lane : Nat} (l : Leaf)
    (hx : s.group? g = some x) (hasked : (pasid, va / 4096) ∈ s.io.requests)
    (hctxs : ∀ c ∈ s.fe.ctxs, c.2.activating = false ∧ c.2.rings = [])
    (howed : ∀ n, (s.ctx n).owedPins = [] ∧ (s.ctx n).owedFaults = [])
    (hwaits : s.pageWaiters pasid (va / 4096) = [(g, va, lane)]) :
    ∃ u, exec (.pageRequestResponse pasid va (some l)) s = .next u ∧ FrontEndIdle (s.pageMapped g x pasid va l) u := by
  refine ⟨_, ?_, State.resumeFrontEnd_idle (s := s.pageMapped g x pasid va l) hctxs howed pasid⟩
  change execPageRequestResponse pasid va (some l) s = _
  unfold execPageRequestResponse
  rw [if_neg (by simpa using hasked), hwaits]
  simp only [List.foldl_cons, List.foldl_nil]
  rw [State.updGroup_of_group (x := x) (by exact hx)]
  rfl

/-! ### The statement -/

/-- Settles O20: a wait ends by what it waits for; the page that the host maps is a leaf of the answer's own (logs 9 and
49). -/
theorem groupEvents : Obligations.GroupEvents := by
  intro s g x quiet hx hquiet
  have hquiets : ∀ y, quiet y → y.Quiet := fun y ⟨hhalted, hpc, hhalt, hstep⟩ => ⟨hhalted, hpc, hhalt, hstep⟩
  have hq := hquiets x hquiet
  refine ⟨exec_repackWaitExpiry hx hq,
    fun p y hwait hp hy hqy hthreads hpend hlate =>
      exec_mergeComplete hx hq hwait hp hy (hquiets y hqy) hthreads hpend hlate,
    fun loc id n v pdst d hwait hdue hfrozen => ?timeout,
    fun f hf hmet => ⟨fun hdone hscope => ?orders, fun hdone hscope => ?ordersWide,
      fun hdone hwait hdirty hwin hundeliv => ?done⟩,
    fun pa l htarget hvia hl hpoison hnone hroom =>
      exec_instructionFetchFill hx htarget hvia hl hpoison hnone hroom,
    fun pasid va l hasked hctxs howed hwaits => ?page⟩
  case timeout =>
    refine ⟨_, exec_twaitTimeout hx hq hwait hdue hfrozen, State.group_moved_same _ g _ _, fun w hw => ?_,
      fun w hw hother => ?_, rfl, rfl⟩
    · have hkept := (List.mem_filter.mp hw).2
      simpa using hkept
    · exact List.mem_filter.mpr ⟨hw, by simpa using hother⟩
  case orders =>
    rw [exec_fenceComplete_order hx hf hmet hdone, if_neg (by omega)]
  case ordersWide =>
    rw [exec_fenceComplete_order hx hf hmet hdone, if_pos hscope]
    rfl
  case done =>
    have hexec := exec_fenceComplete_done hx hf hmet hdone hdirty hwin hundeliv
    have hqy : ({ x with fence := none } : Group).Quiet := ⟨hq.notHalted, hq.ownPc, hq.noHalt, hq.noStep⟩
    have hy := State.group_setGroup_same s g { x with fence := none }
    by_cases hscope : 2 ≤ f.scope
    · have hy' : ((s.setGroup g { x with fence := none }).dropL1 g.core).group? g = some { x with fence := none } :=
        (State.group_updCore _ g.core rfl g).trans hy
      rw [if_pos hscope, State.endWait_eq hy' hqy] at hexec
      refine ⟨_, hexec, State.group_moved_same _ g _ _, fun _ => ?_, rfl, rfl⟩
      rw [State.core_moved, State.dropL1, State.core_updCore_same]
      exact ⟨rfl, rfl⟩
    · rw [if_neg hscope, State.endWait_eq hy hqy] at hexec
      exact ⟨_, hexec, State.group_moved_same _ g _ _, fun hwide => absurd hwide hscope, rfl, rfl⟩
  case page =>
    obtain ⟨u, hexec, hu⟩ := exec_pageRequestResponse l hx hasked hctxs howed hwaits
    exact ⟨u, hexec, hu.io, (hu.group g).trans (State.group_setGroup_same _ g _),
      fun h hne => (hu.group h).trans (State.group_setGroup_ne _ hne _), hu.ctxs, hu.ms, hu.coh⟩

end Sys2Proof.Machine


/-! The integer, compare, uniform and cross-lane forms (O2 to O7, O9): each is an instruction that only changes registers of
its group, so its statement is what it writes. -/

namespace Sys2Proof.Machine

/-! ### What the register writes keep of their group -/

section Only

variable (x : Group) (e : Enc) (lanes : LaneMask)

theorem Group.out_only (f : Nat → Word) : x.out e lanes f = { x with t := (x.out e lanes f).t } :=
  Group.wts_only x e.d f (lanesOf lanes)

theorem Group.out2_only (f : Nat → DWord) : x.out2 e lanes f = { x with t := (x.out2 e lanes f).t } :=
  Group.wts2_only x e.d f (lanesOf lanes)

theorem Group.rt_out (f : Nat → Word) {l r : Nat} (hl : l < 32) (hr : r < 256) :
    (x.out e lanes f).rt l r = if lanes.getLsbD l ∧ r = e.d then f l else x.rt l r := by
  rw [Group.out, Group.rt_wts x e.d f _ l r e.dst.isLt hr]
  simp only [mem_lanesOf, hl, true_and]

theorem Group.rt_out2 (f : Nat → DWord) {l r : Nat} (hd : e.d < 255) (hl : l < 32) (hr : r < 256) :
    (x.out2 e lanes f).rt l r =
      if lanes.getLsbD l ∧ r = e.d then (f l).extractLsb' 0 32
      else if lanes.getLsbD l ∧ r = e.d + 1 then (f l).extractLsb' 32 32
      else x.rt l r := by
  rw [Group.out2, Group.rt_wts2 x e.d f _ l r hd hr]
  simp only [mem_lanesOf, hl, true_and]

end Only

/-! ### Operand fields of a word that decodes (R71, R117, R142) -/

/-- A legal word has no reserved field. -/
theorem Dec.legal_rsv {d : Dec} {alloc : Nat} (h : d.illegal alloc = none) : d.rsv = false := by
  simp only [Dec.illegal, List.min?_eq_none_iff, List.append_eq_nil_iff] at h
  by_contra hrsv
  simp [hrsv] at h

/-- A legal word has no operand out of its range. -/
theorem Dec.legal_op {d : Dec} {alloc : Nat} (h : d.illegal alloc = none) {o : Opd × Nat} (ho : o ∈ d.ops) :
    Opd.bad alloc o.1 o.2 = [] := by
  simp only [Dec.illegal, List.min?_eq_none_iff, List.append_eq_nil_iff, List.flatten_eq_nil_iff, List.mem_map] at h
  exact h.1.2 _ ⟨o, ho, rfl⟩

theorem Opd.even_of_t2 {alloc f : Nat} (h : Opd.bad alloc .t2 f = []) : f % 2 = 0 := by
  simp only [Opd.bad, List.append_eq_nil_iff] at h
  by_contra hodd
  simp [hodd] at h

/-- An immediate in use stays below the bits its form has (R128). -/
theorem lt_of_legalI {e : Enc} {types subs : List Nat} {n alloc : Nat} {toPred : Bool}
    (h : (intDecI types subs n toPred e).illegal alloc = none) : e.imm.toNat < 2 ^ n := by
  have hrsv := Dec.legal_rsv h
  simp only [intDecI, Bool.or_eq_false_iff, decide_eq_false_iff_not, not_le, ge_iff_le] at hrsv
  exact hrsv.2

/-- A pair lies inside the 256 t registers (R71). -/
theorem Issues.pair_lt {s : State} {g : Site} {x : Group} {e : Enc} {d : Dec} (h : Issues s g x e d)
    (ho : (Opd.t2, e.d) ∈ d.ops) : e.d < 255 := by
  have heven : e.d % 2 = 0 := Opd.even_of_t2 (Dec.legal_op h.legal ho)
  have hlt : e.d < 256 := e.dst.isLt
  omega

/-! ### An instruction that only writes registers -/

section Writes

variable {s : State} {g : Site} {x : Group} {e : Enc} {c : Instr} {dec : Group → LaneMask → Dec}
  {eff : Group → LaneMask → Group}

theorem Moves.of_issueReg {y : Group} (hc : exec c s = okay (s.issueReg g e dec eff))
    (h : Issues s g x e (dec x (x.guard e))) (hy : eff x (x.guard e) = y) (hhalt : y.haltReq = x.haltReq)
    (hstep : y.stepping = x.stepping) (hpc : y.pc = x.pc) : Moves s c g y (x.pc + 8) := by
  subst hy
  exact hc.trans (congrArg okay (State.issueReg_eq h hhalt hstep hpc))

theorem WritesT.of_out {f : Nat → Word} (hc : exec c s = okay (s.issueReg g e dec eff))
    (h : Issues s g x e (dec x (x.guard e))) (hf : eff x (x.guard e) = x.out e (x.guard e) f) :
    WritesT s c g x (x.guard e) e.d f := by
  have honly := x.out_only e (x.guard e) f
  exact ⟨_, Moves.of_issueReg hc h hf (by rw [honly]) (by rw [honly]) (by rw [honly]), honly,
    fun l r hl hr => x.rt_out e _ f hl hr⟩

theorem WritesT2.of_out2 {f : Nat → DWord} (hc : exec c s = okay (s.issueReg g e dec eff))
    (h : Issues s g x e (dec x (x.guard e))) (hd : e.d < 255) (hf : eff x (x.guard e) = x.out2 e (x.guard e) f) :
    WritesT2 s c g x (x.guard e) e.d f := by
  have honly := x.out2_only e (x.guard e) f
  exact ⟨_, Moves.of_issueReg hc h hf (by rw [honly]) (by rw [honly]) (by rw [honly]), honly,
    fun l r hl hr => x.rt_out2 e _ f hd hl hr⟩

/-- A predicate is written from a mask (R73). -/
theorem WritesP.of_wp {m : LaneMask} {f : Nat → Bool} (hc : exec c s = okay (s.issueReg g e dec eff))
    (h : Issues s g x e (dec x (x.guard e))) (hw : eff x (x.guard e) = x.wp e.d (x.guard e) m)
    (hm : ∀ l, l < 32 → m.getLsbD l = f l) : WritesP s c g x (x.guard e) e.d f := by
  have honly := x.wp_only e.d (x.guard e) m
  refine ⟨_, Moves.of_issueReg hc h hw (by rw [honly]) (by rw [honly]) (by rw [honly]), honly, fun l r hl _ => ?_⟩
  rw [Group.rp_wp x e.d r l _ m hl, hm l hl]

theorem WritesP.of_outP {f : Nat → Bool} (hc : exec c s = okay (s.issueReg g e dec eff))
    (h : Issues s g x e (dec x (x.guard e))) (hf : eff x (x.guard e) = x.outP e (x.guard e) f) :
    WritesP s c g x (x.guard e) e.d f :=
  .of_wp hc h hf fun l hl => maskWhere_getLsbD f l hl

theorem WritesU.of_issueReg {v : DWord} (hc : exec c s = okay (s.issueReg g e dec eff))
    (h : Issues s g x e (dec x (x.guard e))) (hv : eff x (x.guard e) = x.wu e.d v) : WritesU s c g x e.d v :=
  .of_wu (Moves.of_issueReg hc h hv rfl rfl rfl)

end Writes

/-! ### Lane results (R85, R123, R126) -/

theorem type_toNat_eq_one {v : BitVec 4} : v.toNat = 1 ↔ v = 1 :=
  BitVec.toNat_inj (x := v) (y := 1)

theorem halfOf_eq_extractLsb' (sub : Nat) (v : DWord) : halfOf sub v = v.extractLsb' (if sub = 0 then 0 else 32) 32 := by
  unfold halfOf
  split <;> ext i hi <;> simp

theorem mulAddWide_zero (type : Nat) (a b : Word) : mulAddWide type a b 0 = BitVec.ofInt 64 (intOf type a * intOf type b) := by
  simp [mulAddWide, intOf]

theorem shiftRight_typed (type : BitVec 4) (n : Nat) (v : Word) :
    shiftRight type.toNat n v = if type = 1 then v.sshiftRight (n % 32) else v >>> (n % 32) := by
  simp only [shiftRight, type_toNat_eq_one]

theorem minOf_eq (type : Nat) (a b : Word) : minOf type a b = if intOf type b < intOf type a then b else a := by
  simp only [minOf, ← not_lt, ite_not]

theorem maxOf_eq (type : Nat) (a b : Word) : maxOf type a b = if intOf type a < intOf type b then b else a := by
  simp only [maxOf, ge_iff_le, ← not_lt, ite_not]

theorem bitReverse_getLsbD (v : Word) {i : Nat} (hi : i < 32) : (bitReverse v).getLsbD i = v.getLsbD (31 - i) :=
  maskWhere_getLsbD _ i hi

/-- The low byte of an immediate put above the low 24 bits of a register (R126). -/
theorem topByte_append (v : Word) (n : BitVec 24) :
    ((n.setWidth 8) ++ (v.setWidth 24 : BitVec 24) : BitVec 32) =
      (v &&& 0x00FFFFFF#32) ||| (BitVec.ofNat 32 n.toNat <<< 24) := by
  have hmask : ∀ i, i < 32 → (0x00FFFFFF#32).getLsbD i = decide (i < 24) := by decide
  refine BitVec.eq_of_getLsbD_eq fun i hi => ?_
  rw [BitVec.getLsbD_or, BitVec.getLsbD_and, hmask i hi, BitVec.getLsbD_append]
  by_cases hlow : i < 24
  · simp [hlow]
  · have hbyte : i - 24 < 8 := by omega
    simp [hlow, hi, hbyte]

/-- The uniform operations by code. -/
theorem uniOp_eq (code : Nat) (a b : DWord) : uniOp code a b =
    if code = 0 then a + b else if code = 1 then a - b else if code = 2 then a * b
    else if code = 3 then a &&& b else if code = 4 then a ||| b else if code = 5 then a ^^^ b
    else if code = 6 then a <<< (b.toNat % 64) else if code = 7 then a >>> (b.toNat % 64)
    else if code = 8 then a.sshiftRight (b.toNat % 64)
    else if code = 9 then (if b.toInt < a.toInt then b else a)
    else if code = 10 then (if a.toInt < b.toInt then b else a)
    else if code = 11 then (if b.toNat < a.toNat then b else a)
    else if code = 12 then (if a.toNat < b.toNat then b else a)
    else a := by
  match code with
  | 0 | 1 | 2 | 3 | 4 | 5 | 6 | 7 | 8 => rfl
  | 9 | 10 | 11 | 12 => simp only [uniOp, ge_iff_le, ← not_lt, ite_not]; rfl
  | _ + 13 => simp [uniOp]

/-- One truth value in every lane. -/
theorem getLsbD_allLanes (b : Bool) {l : Nat} (hl : l < 32) :
    (if b then BitVec.allOnes 32 else 0 : LaneMask).getLsbD l = b := by
  cases b
  · exact BitVec.getLsbD_zero
  · exact (BitVec.getLsbD_allOnes).trans (decide_eq_true hl)

/-- The lane that LXCH reads (R86). -/
theorem lxchLane_eq (sub n sel l : Nat) : lxchLane sub n sel l =
    if sub = 0 then sel % 32 else if sub = 1 then (l + n) % 32 else if sub = 2 then (l ^^^ n) % 32 else n % 32 := by
  match sub with
  | 0 | 1 | 2 => rfl
  | _ + 3 => simp [lxchLane]

/-! ### The statements -/

/-- Settles O2: each form by its operation on the lane's sources. -/
theorem integerRegisterForms : Obligations.IntegerRegisterForms := by
  intro s g x e
  refine ⟨fun h => ⟨.of_out rfl h rfl, .of_out rfl h rfl, .of_out rfl h rfl, .of_out rfl h rfl⟩,
    fun h => ⟨.of_out rfl h ?shiftr, .of_out rfl h ?min, .of_out rfl h ?max⟩, fun h => .of_out rfl h ?mul,
    fun h => .of_out rfl h ?muladd, fun h hw => ⟨.of_out rfl h (if_neg (by simp [hw])), .of_out rfl h (if_neg (by simp [hw]))⟩⟩
  case shiftr => simp only [shiftRight_typed]
  case min => simp only [minOf_eq]
  case max => simp only [maxOf_eq]
  case mul => simp only [halfOf_eq_extractLsb', mulAddWide_zero]
  case muladd => simp only [halfOf_eq_extractLsb', mulAddWide]

/-- Settles O3: each form by its operation on the lane's sources, BITREV bit by bit. -/
theorem integerSelectForms : Obligations.IntegerSelectForms := by
  intro s g x e
  refine ⟨fun h => ⟨.of_out rfl h rfl, .of_out rfl h rfl, .of_out rfl h rfl, _, .of_out rfl h rfl, fun l i hi => ?bitrev⟩,
    fun h hw => .of_out rfl h (if_neg (by simp [hw])), fun h => .of_out rfl h rfl, fun h => .of_out rfl h rfl⟩
  case bitrev => exact bitReverse_getLsbD _ hi

/-- Settles O4: each form by its operation on the lane's source and the sign-extended immediate. -/
theorem integerImmediateForms : Obligations.IntegerImmediateForms := by
  intro s g x e
  refine ⟨fun h => ⟨.of_out rfl h rfl, .of_out rfl h rfl, .of_out rfl h rfl⟩, fun h => .of_out rfl h rfl,
    fun h => .of_out rfl h ?shiftr, fun h hw => .of_out rfl h (if_neg (by simp [hw])), fun h => .of_out rfl h ?mov⟩
  case shiftr =>
    have himm : e.imm.toNat < 32 := (lt_of_legalI h.legal :)
    simp only [shiftRight_typed, Nat.mod_eq_of_lt himm]
  case mov => simp only [topByte_append]; rfl

/-- Settles O5: the pair's low register takes bits 31 to 0 of the result, the next one bits 63 to 32. -/
theorem integerPairForms : Obligations.IntegerPairForms := by
  intro s g x e
  refine ⟨fun h hw => ?reg, fun h hw => ?imm, fun h hw => ?mov⟩
  case reg =>
    have hd := h.pair_lt (by simp [intDec, regKind, hw])
    exact ⟨.of_out2 rfl h hd (if_pos hw), .of_out2 rfl h hd (if_pos hw)⟩
  case imm => exact .of_out2 rfl h (h.pair_lt (by simp [intDecI, regKind, hw])) (if_pos hw)
  case mov => exact .of_out2 rfl h (h.pair_lt (by simp [intDec, regKind, hw])) (if_pos hw)

/-- Settles O6: each compare by its condition on the lane's sources. -/
theorem compareForms : Obligations.CompareForms := by
  intro s g x e
  exact ⟨fun h => .of_outP rfl h rfl, fun h => .of_outP rfl h rfl,
    fun h => .of_wp rfl h rfl fun l hl => getLsbD_allLanes _ hl, fun h => .of_wp rfl h rfl fun l hl => getLsbD_allLanes _ hl⟩

/-- Settles O7: the operation of the code, on the second register or on the immediate. -/
theorem uniformForms : Obligations.UniformForms := by
  intro s g x e op
  refine ⟨fun h => .of_issueReg rfl h (congrArg (x.wu e.d) (uniOp_eq _ _ _)), fun h => .of_issueReg rfl h ?imm⟩
  case imm =>
    by_cases hmove : e.subI = 13
    · simp only [hmove, if_true, Enc.imm64]
    · simp only [hmove, if_false]
      exact congrArg (x.wu e.d) (uniOp_eq _ _ _)

/-- Settles O9: LXCH by the lane it reads, LQUERY by what SUB makes of the lanes where the predicate holds. -/
theorem crossLaneForms : Obligations.CrossLaneForms := by
  intro s g x e n other
  refine ⟨fun h => .of_out rfl h ?lxch, fun h => ⟨fun hs => ?some, fun hs => ?every, fun hs => ?mask, fun hs => ?count⟩⟩
  case lxch => simp only [lxchLane_eq]; rfl
  case some =>
    refine .of_wp (m := if x.guard e &&& x.rp e.a != 0 then BitVec.allOnes 32 else 0) rfl h ?_
      fun l hl => getLsbD_allLanes _ hl
    simp only [hs, bne_iff_ne, ne_eq, ite_not]
  case every =>
    refine .of_wp (m := if x.guard e &&& x.rp e.a == x.guard e then BitVec.allOnes 32 else 0) rfl h ?_
      fun l hl => getLsbD_allLanes _ hl
    simp only [hs, beq_iff_eq]
  case mask => exact .of_out rfl h (by simp only [hs])
  case count => exact .of_out rfl h (by simp only [hs]; rfl)

end Sys2Proof.Machine


/-! Floating and conversion forms (O8): a result in a t register or a pair, and the flags of its lanes. -/

namespace Sys2Proof.Machine

/-! ### Results with flags (R92) -/

/-- Floating results in the lanes of the guard, in pairs where they are 64 bits wide, with their flags raised. -/
def Group.results (x : Group) (e : Enc) (lanes : LaneMask) (wide : Bool) (f : Nat → Nat × FFlags) : Group :=
  (if wide then x.out2 e lanes (fun l => BitVec.ofNat 64 (f l).1)
    else x.out e lanes (fun l => BitVec.ofNat 32 (f l).1)).raiseFlags (orFlags (fun l => (f l).2) (lanesOf lanes))

theorem Group.outF_eq_results (x : Group) (e : Enc) (lanes : LaneMask) (f : Nat → Nat × FFlags) :
    x.outF e lanes f = x.results e lanes (e.type == 6) f := by
  simp only [Group.outF, Group.results, beq_iff_eq]
  rfl

theorem Group.results_only (x : Group) (e : Enc) (lanes : LaneMask) (wide : Bool) (f : Nat → Nat × FFlags) :
    x.results e lanes wide f =
      { x with t := (x.results e lanes wide f).t, fflags := (x.results e lanes wide f).fflags } := by
  cases wide with
  | true =>
    simp only [Group.results, if_true]
    rw [x.out2_only e lanes]
    rfl
  | false =>
    simp only [Group.results]
    rw [if_neg (by decide), x.out_only e lanes]
    rfl

theorem Group.results_fflags (x : Group) (e : Enc) (lanes : LaneMask) (wide : Bool) (f : Nat → Nat × FFlags) :
    (x.results e lanes wide f).fflags = x.fflags ||| orFlags (fun l => (f l).2) (lanesOf lanes) := by
  cases wide with
  | true => simp only [Group.results, if_true, Group.raiseFlags]; rw [x.out2_only e lanes]
  | false => simp only [Group.results, Group.raiseFlags]; rw [if_neg (by decide), x.out_only e lanes]

theorem extractLsb'_low_ofNat (v : Nat) : (BitVec.ofNat 64 v).extractLsb' 0 32 = BitVec.ofNat 32 v := by
  refine BitVec.eq_of_toNat_eq ?_
  simp only [BitVec.extractLsb'_toNat, BitVec.toNat_ofNat, Nat.shiftRight_zero]
  omega

theorem extractLsb'_high_ofNat (v : Nat) : (BitVec.ofNat 64 v).extractLsb' 32 32 = BitVec.ofNat 32 (v / 2 ^ 32) := by
  refine BitVec.eq_of_toNat_eq ?_
  simp only [BitVec.extractLsb'_toNat, BitVec.toNat_ofNat, Nat.shiftRight_eq_div_pow]
  omega

theorem Group.rt_results (x : Group) (e : Enc) (lanes : LaneMask) {wide : Bool} (f : Nat → Nat × FFlags) {l r : Nat}
    (hd : wide = true → e.d < 255) (hl : l < 32) (hr : r < 256) :
    (x.results e lanes wide f).rt l r =
      if lanes.getLsbD l ∧ r = e.d then BitVec.ofNat 32 (f l).1
      else if wide = true ∧ lanes.getLsbD l ∧ r = e.d + 1 then BitVec.ofNat 32 ((f l).1 / 2 ^ 32)
      else x.rt l r := by
  cases wide with
  | true =>
    refine (x.rt_out2 e lanes (fun l => BitVec.ofNat 64 (f l).1) (hd rfl) hl hr).trans ?_
    simp only [extractLsb'_low_ofNat, extractLsb'_high_ofNat, true_and]
  | false =>
    refine (x.rt_out e lanes (fun l => BitVec.ofNat 32 (f l).1) hl hr).trans ?_
    simp only [Bool.false_eq_true, false_and, if_false]

/-- A flag is in the OR over lanes where some lane has it. -/
theorem orFlags_getLsbD (f : Nat → FFlags) (ls : List Nat) (i : Nat) :
    (orFlags f ls).getLsbD i = true ↔ ∃ l ∈ ls, (f l).getLsbD i = true := by
  have hfold : ∀ (ls : List Nat) (a : FFlags), (ls.foldl (fun a l => a ||| f l) a).getLsbD i = true ↔
      a.getLsbD i = true ∨ ∃ l ∈ ls, (f l).getLsbD i = true := by
    intro ls
    induction ls with
    | nil => simp
    | cons b ls ih =>
      intro a
      rw [List.foldl_cons, ih, BitVec.getLsbD_or, Bool.or_eq_true, or_assoc]
      simp
  rw [orFlags, hfold]
  simp

/-- Flags raised by the lanes of a mask, bit by bit. -/
theorem raised_getLsbD (held : FFlags) (f : Nat → FFlags) (lanes : LaneMask) (i : Nat) :
    (held ||| orFlags f (lanesOf lanes)).getLsbD i = true ↔
      held.getLsbD i = true ∨ ∃ l, l < 32 ∧ lanes.getLsbD l = true ∧ (f l).getLsbD i = true := by
  simp only [BitVec.getLsbD_or, Bool.or_eq_true, orFlags_getLsbD, mem_lanesOf, and_assoc]

section Writes

variable {s : State} {g : Site} {x : Group} {e : Enc} {c : Instr} {dec : Group → LaneMask → Dec}
  {eff : Group → LaneMask → Group} {f : Nat → Nat × FFlags} {wide : Bool}

theorem WritesF.of_results (hc : exec c s = okay (s.issueReg g e dec eff)) (h : Issues s g x e (dec x (x.guard e)))
    (hd : wide = true → e.d < 255) (hf : eff x (x.guard e) = x.results e (x.guard e) wide f) :
    WritesF s c g x (x.guard e) e.d wide f := by
  have honly := x.results_only e (x.guard e) wide f
  refine ⟨_, Moves.of_issueReg hc h hf (by rw [honly]) (by rw [honly]) (by rw [honly]), honly,
    fun l r hl hr => x.rt_results e _ f hd hl hr, fun i _ => ?_⟩
  rw [Group.results_fflags]
  exact raised_getLsbD x.fflags _ _ i

/-- The destination of a floating form is a pair for FP64 (R71). -/
theorem Issues.fltPair_lt {types subs : List Nat} {n : Nat} {rounds flushes : Bool}
    (h : Issues s g x e (fltDec types subs n false e rounds flushes)) (hw : (e.type == 6) = true) : e.d < 255 := by
  refine h.pair_lt ?_
  simp only [fltDec, regKind, hw]
  exact List.mem_cons_self

/-- A floating form whose TYPE says how wide it is. -/
theorem WritesF.of_outF {types subs : List Nat} {n : Nat} {rounds flushes : Bool}
    (hc : exec c s = okay (s.issueReg g e (fun _ _ => fltDec types subs n false e rounds flushes) eff))
    (h : Issues s g x e (fltDec types subs n false e rounds flushes))
    (hf : eff x (x.guard e) = x.outF e (x.guard e) f) : WritesF s c g x (x.guard e) e.d (e.type == 6) f :=
  .of_results hc h h.fltPair_lt (hf.trans (x.outF_eq_results e _ f))

end Writes

/-- A legal floating form has one of its own TYPEs (R142). -/
theorem mem_types_of_legal {e : Enc} {types subs : List Nat} {n alloc : Nat} {toPred rounds flushes : Bool}
    (h : (fltDec types subs n toPred e rounds flushes).illegal alloc = none) : e.type.toNat ∈ types := by
  have hrsv := Dec.legal_rsv h
  by_contra hout
  simp [fltDec, hout] at hrsv

/-- The sign bit of a TYPE's format (R87, R119). -/
theorem fltFmt_signBit (e : Enc) : (fltFmt e).signBit = if e.type = 6 then 2 ^ 63 else 2 ^ 31 := by
  unfold fltFmt
  split <;> rfl

/-! ### The statement -/

/-- Settles O8: each form by its result and flags in a lane; FCMP by the predicate it writes. -/
theorem floatingForms : Obligations.FloatingForms := by
  refine ⟨?results, ?fcmp⟩
  case results =>
    intro s g x e A B C wide sign
    refine ⟨fun h => ⟨.of_outF rfl h rfl, .of_outF rfl h rfl, .of_outF rfl h rfl⟩,
      fun h => ⟨.of_outF rfl h rfl, .of_outF rfl h rfl⟩, fun h => .of_outF rfl h ?fcpys, fun h => .of_outF rfl h rfl,
      fun h => ⟨.of_outF rfl h ?fabs, .of_outF rfl h ?fneg⟩, fun h => .of_results rfl h (by simp) ?fsfu,
      fun h => .of_results rfl h (fun hw => h.pair_lt (by simp [cvtDec, regKind, hw])) rfl⟩
    case fcpys => simp only [fltFmt_signBit]; rfl
    case fabs => simp only [fltFmt_signBit]; rfl
    case fneg => simp only [fltFmt_signBit]; rfl
    case fsfu =>
      have htype : e.type.toNat = 7 := List.mem_singleton.mp (mem_types_of_legal h.legal)
      have hnarrow : (e.type == 6) = false := by
        refine beq_false_of_ne fun h6 => ?_
        simp [h6] at htype
      exact (x.outF_eq_results e _ _).trans (by rw [hnarrow])
  case fcmp =>
    intro s g x e r h
    let y := x.outP e (x.guard e) fun l => (r l).1
    have honly : y = { x with p := y.p } := x.wp_only e.d (x.guard e) _
    refine ⟨y.raiseFlags (orFlags (fun l => (r l).2) (lanesOf (x.guard e))),
      Moves.of_issueReg rfl h rfl ?_ ?_ ?_, ?_, fun l n hl hn => ?_, fun i _ => ?_⟩
    · rw [honly]; rfl
    · rw [honly]; rfl
    · rw [honly]; rfl
    · rw [honly]; rfl
    · refine (x.rp_wp e.d n l (x.guard e) _ hl).trans ?_
      rw [maskWhere_getLsbD _ l hl]
    · rw [honly]
      exact raised_getLsbD x.fflags _ _ i

end Sys2Proof.Machine


/-! Loads, stores and ZLINE as they issue (O12). -/

namespace Sys2Proof.Machine

section Issue

variable {s t : State} {g : Site} {x y : Group} {e : Enc} {mode : AddrMode} {accs : List LaneAcc}

/-- An access that no watchpoint matches completes with its group replaced, over a state that it may have marked. -/
theorem State.settle_unwatched (hh : y.haltReq = none) (hs : y.stepping = false) :
    s.settle g x x.pc (.watch (t.setGroup g y) none) = t.after g y (y.pc + 8) :=
  State.settle_put (s := s) (x := x) hh hs

/-- Stores that find room in the buffer join it with the tag of their group's context (R306). -/
theorem State.putStores_of_room {vas : List Nat} {es : List SbEntry} (hroom : x.sb.length + es.length ≤ 32)
    (w : Option (Nat × Nat × Nat)) : s.putStores g x vas es w = .watch ((s.translated (s.ctxOf g) .write vas).setGroup g
      { x with order := x.order + 1, sb := x.sb ++ es.map (fun n => { n with tag := s.groupTag g }) }) w :=
  if_neg (by omega)

end Issue

/-- Settles O12: each form by the access it leaves in its group, over the marks of the leaves it used. -/
theorem loadAndStoreIssue : Obligations.LoadAndStoreIssue := by
  intro s g x mode e accs w at_ view tagged hready
  refine ⟨fun h hchk hwatch => ?ld, fun h hchk hwatch hsb hroom => ?st, fun h hchk hwatch hsb hroom => ?zline⟩
  case ld =>
    change execLd g mode e s = _
    rw [execLd, State.issue_eq h hready]
    simp only [view, w, at_] at hchk hwatch
    simp only [hchk, hwatch]
    exact congrArg okay (State.settle_unwatched h.noHalt h.noStep)
  case st =>
    have hissue : (s.orderReady g x && decide (x.sb.length < 32)) = true := by simp [hready, hsb]
    change execSt g mode e s = _
    rw [execSt, State.issue_eq h hissue]
    simp only [view, w, at_] at hchk hwatch
    simp only [hchk, hwatch]
    rw [State.putStores_of_room hroom]
    exact congrArg okay (State.settle_unwatched h.noHalt h.noStep)
  case zline =>
    have hissue : (s.orderReady g x && decide (x.sb.length < 32)) = true := by simp [hready, hsb]
    change execZline g mode e s = _
    rw [execZline, State.issue_eq h hissue]
    simp only [view, at_] at hchk hwatch
    simp only [hchk, hwatch]
    rw [State.putStores_of_room (by simpa using hroom)]
    exact congrArg okay (State.settle_unwatched h.noHalt h.noStep)

end Sys2Proof.Machine


/-! ATOM, LR and SC as they issue (O15). -/

namespace Sys2Proof.Machine

/-! ### What translating addresses changes (R262) -/

theorem State.translated_only (s : State) (ctx : Nat) (k : AccKind) (vas : List Nat) :
    s.translated ctx k vas = { s with io := (s.translated ctx k vas).io, free := (s.translated ctx k vas).free } := by
  unfold State.translated State.drawStale
  extract_lets c io
  split <;> rfl

@[simp] theorem State.translated_ms (s : State) (ctx : Nat) (k : AccKind) (vas : List Nat) :
    (s.translated ctx k vas).ms = s.ms := by rw [State.translated_only]

theorem State.translated_accepts (s : State) (ctx : Nat) (k : AccKind) (vas : List Nat) (tag pa : Nat) :
    (s.translated ctx k vas).accepts tag pa = s.accepts tag pa := by rw [State.translated_only]; rfl

/-! ### Requests of one ATOM (R304) -/

theorem mem_modAt {α : Type} {f : α → α} {y : α} : ∀ {i : Nat} {xs : List α}, y ∈ modAt f i xs → y ∈ xs ∨ ∃ x ∈ xs, y = f x
  | _, [], h => by simp [modAt] at h
  | 0, x :: xs, h => by
    rcases List.mem_cons.mp h with rfl | h
    · exact .inr ⟨x, List.mem_cons_self, rfl⟩
    · exact .inl (List.mem_cons_of_mem x h)
  | i + 1, x :: xs, h => by
    rcases List.mem_cons.mp h with rfl | h
    · exact .inl List.mem_cons_self
    · rcases mem_modAt h with h | ⟨z, hz, rfl⟩
      · exact .inl (List.mem_cons_of_mem x h)
      · exact .inr ⟨z, List.mem_cons_of_mem x hz, rfl⟩

/-- Lanes that name no span window leave no request to one. -/
theorem atomReqs_local (base : AtomReq) {accs : List (LaneAcc × DWord × DWord)}
    (h : ∀ a ∈ accs, isWindow a.1.tgt = false) : ∀ r ∈ atomReqs base accs, isWindow r.tgt = false := by
  unfold atomReqs
  refine List.foldlRecOn (motive := fun rs : List AtomReq => ∀ r ∈ rs, isWindow r.tgt = false) accs _ (by simp)
    fun rs hrs a ha r hr => ?_
  split at hr
  · rcases mem_modAt hr with hr | ⟨q, hq, rfl⟩
    · exact hrs r hr
    · exact hrs q hq
  · rcases List.mem_append.mp hr with hr | hr
    · exact hrs r hr
    · obtain rfl := List.mem_singleton.mp hr
      exact h a ha

/-- Requests of this module's own memory are not sent to a peer. -/
theorem State.sendAtoms_local (s : State) (g : Site) (ward : Nat) {rs : List AtomReq}
    (h : ∀ r ∈ rs, isWindow r.tgt = false) : s.sendAtoms g ward rs = (s, rs) := by
  induction rs with
  | nil => rfl
  | cons r rs ih =>
    obtain ⟨hr, hrs⟩ := List.forall_mem_cons.mp h
    unfold State.sendAtoms
    split
    · rename_i htgt
      simp [htgt, isWindow] at hr
    · rw [ih hrs]

theorem State.committed_of_committed {s : State} {g : Site} {x : Group} {t : Tile} (ht : s.tile? g.core x.tile = some t)
    (hc : t.committed = true) (act : State → Done) : s.committed g x act = act s := by
  simp [State.committed, State.commit, ht, hc]

/-! ### Bytes written from an offset -/

theorem Mem.writeAt_append (m : Mem) (base : Nat) (a b : NMap Byte) :
    m.writeAt base (a ++ b) = (m.writeAt base a).writeAt base b := by
  induction a generalizing m with
  | nil => rfl
  | cons c a ih => exact ih (m.write (base + c.1) c.2)

/-- Bytes written one after the other are read back. -/
theorem Mem.read_writeAt_range (m : Mem) (base off : Nat) (f : Nat → Byte) {n i : Nat} (hi : i < n) :
    (m.writeAt base ((List.range n).map fun j => (off + j, f j))).read (base + off + i) = f i := by
  induction n with
  | zero => omega
  | succ n ih =>
    rw [List.range_succ, List.map_append, Mem.writeAt_append]
    simp only [List.map_cons, List.map_nil, Mem.writeAt, Mem.read_write]
    by_cases hlast : i = n
    · subst hlast
      rw [if_pos (by omega)]
    · rw [if_neg (by omega), ih (by omega)]

theorem Mem.read_writeAt_range_ne (m : Mem) (base off : Nat) (f : Nat → Byte) {n i : Nat}
    (hi : i < base + off ∨ base + off + n ≤ i) :
    (m.writeAt base ((List.range n).map fun j => (off + j, f j))).read i = m.read i := by
  refine Mem.read_writeAt_ne _ m base i fun c hc => ?_
  obtain ⟨j, hj, rfl⟩ := List.mem_map.mp hc
  have hjn : j < n := List.mem_range.mp hj
  simp only
  omega

@[simp] theorem natBytes_length (n v : Nat) : (natBytes n v).length = n := by
  induction n generalizing v with
  | zero => rfl
  | succ n ih => simp [natBytes, ih]

theorem natBytes_getD {n i : Nat} (v : Nat) (hi : i < n) : (natBytes n v).getD i 0 = BitVec.ofNat 8 (v / 256 ^ i) := by
  induction n generalizing v i with
  | zero => omega
  | succ n ih =>
    cases i with
    | zero => simp [natBytes]
    | succ i =>
      simp only [natBytes, List.getD_cons_succ]
      rw [ih (v / 256) (by omega), Nat.div_div_eq_div_mul, pow_succ']

/-- A write that its controller accepts lies in memory (R418). -/
theorem State.memAccept_read {s : State} {line tag : Nat} (bytes : NMap Byte) (h : s.accepts tag line = true) (i : Nat) :
    (s.memAccept line bytes false tag).ms.mem.read i = (s.ms.mem.writeAt line bytes).read i := by
  unfold State.memAccept
  rw [if_pos h]
  simp only [State.killResv_ms, Bool.false_eq_true, if_false]
  split
  · exact Mem.read_setPoison _ _ _ _
  · rfl

/-! ### A line and its home (R284) -/

theorem lineOf_le_iff {a pa : Nat} (h : a % 128 = 0) : a ≤ lineOf pa ↔ a ≤ pa := by
  unfold lineOf
  omega

theorem lineOf_lt_iff {a pa : Nat} (h : a % 128 = 0) : lineOf pa < a ↔ pa < a := by
  unfold lineOf
  omega

/-- Regions begin and end at lines, so that a line's address lies in the region of its bytes. -/
theorem regionFrom_lineOf {inForce : NMap (BitVec 24)} {gb : Nat} (hgb : gb % 128 = 0) (pa fuel : Nat) :
    ∀ i rbase, rbase % 128 = 0 →
      regionFrom inForce gb (lineOf pa) fuel i rbase = regionFrom inForce gb pa fuel i rbase ∧
      ∀ r, regionFrom inForce gb pa fuel i rbase = some r → r.2.1 % 128 = 0 := by
  induction fuel with
  | zero => exact fun _ _ _ => ⟨rfl, fun _ h => by simp [regionFrom] at h⟩
  | succ fuel ih =>
    intro i rbase hb
    have hend : (rbase + (groupsOf (NMap.findD 0 i inForce)).length * gb) % 128 = 0 := by
      rw [Nat.add_mod, Nat.mul_mod, hgb, hb]
      simp
    simp only [regionFrom, lineOf_le_iff hb, lineOf_lt_iff hend]
    split
    · exact ⟨rfl, fun r h => by obtain rfl := Option.some.inj h; exact hb⟩
    · exact ih _ _ hend

theorem State.homeOf_lineOf (s : State) (pa : Nat) : s.homeOf (lineOf pa) = s.homeOf pa := by
  have hgb : s.groupBytes % 128 = 0 := by
    unfold State.groupBytes
    split <;> decide
  obtain ⟨hsame, hbase⟩ := regionFrom_lineOf (inForce := s.ms.inForce) hgb pa 16 0 Config.lpBase (by decide)
  have hregion : s.region? (lineOf pa) = s.region? pa := hsame
  unfold State.homeOf State.placeOf
  rw [hregion]
  cases hr : s.region? pa with
  | none => rfl
  | some r =>
    have hrb := hbase r hr
    have hunit : (lineOf pa - r.2.1) / 256 = (pa - r.2.1) / 256 := by
      unfold lineOf
      omega
    simp only [hunit]

theorem State.memDomain_lineOf (s : State) (pa : Nat) : s.memDomain (lineOf pa) = s.memDomain pa := by
  simp only [State.memDomain, State.homeOf_lineOf]

/-! ### One lane of an SC (R313, R314) -/

section ScLane

variable {s : State} {g : Site} {x : Group} {base : AtomReq} {a : LaneAcc} {pa : Nat} {data : DWord}

theorem State.scLane_lost (hx : s.group? g = some x) (h : NMap.find a.lane x.resv ≠ some (granuleOf a.tgt)) :
    s.scLane g base a data =
      s.setGroup g (({ x with resv := NMap.del a.lane x.resv } : Group).wp base.dst (maskOf [a.lane]) 0) := by
  have hholds : (NMap.find a.lane x.resv == some (granuleOf a.tgt)) = false := beq_false_of_ne h
  simp [State.scLane, hx, hholds]

/-- What a lane's store leaves at its controller: its bytes, the reservations on their granule gone, and the line passed
on. -/
def State.scStored (s : State) (base : AtomReq) (pa : Nat) (data : DWord) : State :=
  ((s.memAccept (lineOf pa) ((List.range base.width).map fun i =>
      (pa % 128 + i, (natBytes base.width data.toNat).getD i 0)) false base.tag).killResv (fun _ => true)
    (.raw (lineOf pa))).lpPush (lineOf pa)

theorem State.lpPush_groupsKept (s : State) (line : Nat) : GroupsKept s (s.lpPush line) := .of_cores rfl

/-- The group of a lane that has stored still stands at its place. -/
theorem State.group_scStored (hx : s.group? g = some x) :
    ∃ r, (s.scStored base pa data).group? g = some { x with resv := r } :=
  ((State.memAccept_groupsKept s _ _ _ _).trans ((State.killResv_groupsKept _ _ _).trans (State.lpPush_groupsKept _ _))).group hx

theorem State.scLane_stored (hx : s.group? g = some x) (h : NMap.find a.lane x.resv = some (granuleOf a.tgt))
    (ht : a.tgt = .uncached pa) (hidle : s.domain (s.memDomain pa) = .idle) :
    ∃ r, s.scLane g base a data =
      ((s.setGroup g { x with resv := NMap.del a.lane x.resv }).scStored base pa data).setGroup g
        (({ x with resv := r } : Group).wp base.dst (maskOf [a.lane]) (BitVec.allOnes 32)) := by
  have hawake : (s.setGroup g { x with resv := NMap.del a.lane x.resv }).awake (.uncached (lineOf pa)) = true := by
    refine beq_iff_eq.mpr (Eq.trans (congrArg s.domain ?_) hidle)
    exact s.memDomain_lineOf pa
  have hlane : s.scLane g base a data =
      ((s.setGroup g { x with resv := NMap.del a.lane x.resv }).scStored base pa data).updGroup g
        (fun y => y.wp base.dst (maskOf [a.lane]) (BitVec.allOnes 32)) := by
    simp only [State.scLane, hx, h, beq_self_eq_true, Bool.true_eq_false, if_false, ht, isWindow, State.acceptNow, lineTgt,
      hawake, lineOff, granuleOf, lineOf_lineOf, natBytes_length]
    rfl
  obtain ⟨r, hr⟩ := State.group_scStored (base := base) (pa := pa) (data := data)
    (State.group_setGroup_same s g { x with resv := NMap.del a.lane x.resv })
  exact ⟨r, hlane.trans (State.updGroup_of_group hr _)⟩

theorem State.scStored_read (h : s.accepts base.tag (lineOf pa) = true) (i : Nat) :
    (s.scStored base pa data).ms.mem.read i = (s.ms.mem.writeAt (lineOf pa) ((List.range base.width).map fun i =>
      (pa % 128 + i, (natBytes base.width data.toNat).getD i 0))).read i :=
  State.memAccept_read _ h i

theorem lineOf_add_mod (pa : Nat) : lineOf pa + pa % 128 = pa := by
  unfold lineOf
  omega

theorem State.scStored_read_at (h : s.accepts base.tag (lineOf pa) = true) {i : Nat} (hi : i < base.width) :
    (s.scStored base pa data).ms.mem.read (pa + i) = BitVec.ofNat 8 (data.toNat / 256 ^ i) := by
  have hread := Mem.read_writeAt_range s.ms.mem (lineOf pa) (pa % 128)
    (fun i => (natBytes base.width data.toNat).getD i 0) hi
  rw [lineOf_add_mod, natBytes_getD _ hi] at hread
  exact (State.scStored_read h (pa + i)).trans hread

theorem State.scStored_read_ne (h : s.accepts base.tag (lineOf pa) = true) {i : Nat}
    (hi : i < pa ∨ pa + base.width ≤ i) : (s.scStored base pa data).ms.mem.read i = s.ms.mem.read i := by
  refine (State.scStored_read h i).trans (Mem.read_writeAt_range_ne _ _ _ _ ?_)
  rw [lineOf_add_mod]
  exact hi

end ScLane

/-! ### What a predicate write of one lane does (R73) -/

theorem maskOf_lane_getLsbD {i l : Nat} (hi : i < 32) (hl : l < 32) : (maskOf [i]).getLsbD l = decide (l = i) := by
  rw [maskOf_getLsbD [i] l hl (by simpa using hi)]
  simp

theorem Group.wp_t (x : Group) (n : Nat) (lanes v : LaneMask) : (x.wp n lanes v).t = x.t := by rw [Group.wp_only]
theorem Group.wp_u (x : Group) (n : Nat) (lanes v : LaneMask) : (x.wp n lanes v).u = x.u := by rw [Group.wp_only]

theorem Group.rp_wp_lane (x : Group) (n r : Nat) {i l : Nat} (b : Bool) (hi : i < 32) (hl : l < 32) :
    ((x.wp n (maskOf [i]) (if b then BitVec.allOnes 32 else 0)).rp r).getLsbD l =
      if l = i ∧ r = n ∧ n ≠ 0 then b else (x.rp r).getLsbD l := by
  rw [x.rp_wp n r l _ _ hl, maskOf_lane_getLsbD hi hl, getLsbD_allLanes b hl]
  simp only [decide_eq_true_eq]

/-- The bytes of an access of TYPE 0 to 3 (R131). -/
def atomBytes (e : Enc) : Nat := if decide (e.type.toNat ≥ 2) then 8 else 4

/-- The lanes of an ATOM, LR or SC with their addresses (R131). -/
def Group.atomLanes (x : Group) (e : Enc) : List (Nat × Nat) := (lanesOf (x.guard e)).map (fun l => (l, x.atomAddr e l))

/-- The value that an SC stores in a lane. -/
def Group.scData (x : Group) (e : Enc) (lane : Nat) : DWord := x.atomSrc (decide (e.type.toNat ≥ 2)) e.kb e.b lane

/-- The access that an SC makes. -/
def State.scBase (s : State) (g : Site) (x : Group) (e : Enc) : AtomReq :=
  { order := x.order, pc := x.pc, op := none, width := (atomBytes e), signed := false
    dst := e.d, tgt := .mmio 0, va := 0, lanes := [], tag := s.groupTag g }

/-- The state that an SC's lanes find. -/
def State.scStart (s : State) (g : Site) (x : Group) (e : Enc) : State :=
  (s.translated (s.ctxOf g) .sc ((x.atomLanes e).map (·.2))).setGroup g { x with order := x.order + 1 }

/-- An SC of one lane at an uncached address issues, in a tile that has committed. -/
structure ScIssues (s : State) (g : Site) (x : Group) (e : Enc) (a : LaneAcc) (pa : Nat) : Prop where
  ready     : s.fencedReady g x = true
  tile      : ∃ t, s.tile? g.core x.tile = some t ∧ t.committed = true
  issues    : Issues s g x e (atomDec .p true false [0, 2] false e)
  checks    : (s.groupView g).checkLanes (s.ctxOf g) (atomBytes e) .sc (x.atomLanes e) = .ok [a]
  unwatched : s.watchHit g.core (s.wardOf g) 1 (atomBytes e) (x.atomLanes e) = none
  lane      : a.lane < 32
  tgt       : a.tgt = .uncached pa
  idle      : s.domain (s.memDomain pa) = .idle

section ScIssue

variable {s : State} {g : Site} {x : Group} {e : Enc} {a : LaneAcc} {pa : Nat}

theorem State.group_scStart : (s.scStart g x e).group? g = some { x with order := x.order + 1 } :=
  State.group_setGroup_same _ g _

theorem ScIssues.granule (h : ScIssues s g x e a pa) : granuleOf a.tgt = .raw (lineOf pa) := by rw [h.tgt]; rfl

/-- An SC that waits for nothing does what its lane does. -/
theorem ScIssues.exec_lane (h : ScIssues s g x e a pa)
    (hroom : NMap.find a.lane x.resv = some (.raw (lineOf pa)) → s.lpRoom (lineOf pa) = true) :
    exec (.sc g e) s =
      okay (s.settle g x x.pc (.step ((s.scStart g x e).scLane g (s.scBase g x e) a (x.scData e a.lane)))) := by
  have hawake : s.awake a.tgt = true := by
    rw [h.tgt]
    exact beq_iff_eq.mpr h.idle
  have hgo : ([a].any (fun a => NMap.find a.lane x.resv == some (granuleOf a.tgt) &&
      (s.needsOwn g.core a.tgt || !s.awake a.tgt || !s.sinks a.tgt)) ||
      (s.span.stalled && [a].any (fun a => isWindow a.tgt))) = false := by
    by_cases hh : NMap.find a.lane x.resv = some (.raw (lineOf pa))
    · simp [h.tgt, isWindow, State.needsOwn, State.sinks, granuleOf, hroom hh, h.tgt ▸ hawake]
    · simp [h.tgt, isWindow, granuleOf, hh]
  obtain ⟨t, ht, hc⟩ := h.tile
  have hchk := h.checks
  have hwatch := h.unwatched
  simp only [Group.atomLanes, atomBytes] at hchk hwatch
  change execSc g e s = _
  rw [execSc, State.issue_eq h.issues h.ready]
  simp only [hchk, hwatch]
  rw [if_neg (by rw [hgo]; decide), State.committed_of_committed ht hc]
  rfl

/-- Without its reservation it stores nothing and writes false (R314). -/
theorem ScIssues.exec_lost (h : ScIssues s g x e a pa) (hnone : NMap.find a.lane x.resv ≠ some (.raw (lineOf pa))) :
    exec (.sc g e) s = okay ((s.translated (s.ctxOf g) .sc ((x.atomLanes e).map (·.2))).after g
      (({ x with order := x.order + 1, resv := NMap.del a.lane x.resv } : Group).wp e.d (maskOf [a.lane]) 0) (x.pc + 8)) := by
  let y : Group := { x with order := x.order + 1, resv := NMap.del a.lane x.resv }
  have honly := y.wp_only e.d (maskOf [a.lane]) 0
  rw [h.exec_lane fun hheld => absurd hheld hnone,
    State.scLane_lost State.group_scStart (by simpa [h.granule] using hnone), State.scStart, State.setGroup_setGroup]
  refine congrArg okay ((State.settle_put (y := y.wp e.d _ 0) ?_ ?_).trans (by rw [congrArg Group.pc honly]))
  · rw [honly]; exact h.issues.noHalt
  · rw [honly]; exact h.issues.noStep

/-- The state in which its bytes have reached their controller. -/
def State.scTaken (s : State) (g : Site) (x : Group) (e : Enc) (a : LaneAcc) (pa : Nat) : State :=
  ((s.scStart g x e).setGroup g { x with order := x.order + 1, resv := NMap.del a.lane x.resv }).scStored
    (s.scBase g x e) pa (x.scData e a.lane)

theorem State.scStart_domain (pa : Nat) :
    (s.scStart g x e).domain ((s.scStart g x e).memDomain pa) = s.domain (s.memDomain pa) := by
  rw [State.scStart, State.translated_only]; rfl

/-- With it, it stores and writes true, and its group moves on (R314). -/
theorem ScIssues.exec_stored (h : ScIssues s g x e a pa) (hheld : NMap.find a.lane x.resv = some (.raw (lineOf pa)))
    (hroom : s.lpRoom (lineOf pa) = true) :
    ∃ r, exec (.sc g e) s = okay ((s.scTaken g x e a pa).after g
      (({ x with order := x.order + 1, resv := r } : Group).wp e.d (maskOf [a.lane]) (BitVec.allOnes 32)) (x.pc + 8)) := by
  obtain ⟨r, hlane⟩ := State.scLane_stored (base := s.scBase g x e) (data := x.scData e a.lane) State.group_scStart
    (by simpa [h.granule] using hheld) h.tgt ((State.scStart_domain pa).trans h.idle)
  let y : Group := { x with order := x.order + 1, resv := r }
  have honly := y.wp_only e.d (maskOf [a.lane]) (BitVec.allOnes 32)
  refine ⟨r, ?_⟩
  rw [h.exec_lane fun _ => hroom, hlane]
  refine congrArg okay ((State.settle_put (t := s.scTaken g x e a pa) (y := y.wp e.d _ _) ?_ ?_).trans
    (by rw [congrArg Group.pc honly]))
  · rw [honly]; exact h.issues.noHalt
  · rw [honly]; exact h.issues.noStep

theorem State.accepts_setGroup (s : State) (g : Site) (y : Group) (tag line : Nat) :
    (s.setGroup g y).accepts tag line = s.accepts tag line := rfl

theorem State.scTaken_accepts (hacc : s.accepts (s.groupTag g) (lineOf pa) = true) (y : Group) :
    ((s.scStart g x e).setGroup g y).accepts (s.scBase g x e).tag (lineOf pa) = true := by
  rw [State.accepts_setGroup, State.scStart, State.accepts_setGroup, State.translated_accepts]
  exact hacc

theorem State.scTaken_read_at (hacc : s.accepts (s.groupTag g) (lineOf pa) = true) {i : Nat} (hi : i < atomBytes e) :
    (s.scTaken g x e a pa).ms.mem.read (pa + i) = BitVec.ofNat 8 ((x.scData e a.lane).toNat / 256 ^ i) :=
  State.scStored_read_at (State.scTaken_accepts hacc _) hi

theorem State.scTaken_read_ne (hacc : s.accepts (s.groupTag g) (lineOf pa) = true) {i : Nat}
    (hi : i < pa ∨ pa + atomBytes e ≤ i) : (s.scTaken g x e a pa).ms.mem.read i = s.ms.mem.read i := by
  refine (State.scStored_read_ne (State.scTaken_accepts hacc _) hi).trans ?_
  rw [State.setGroup_ms, State.scStart, State.setGroup_ms, State.translated_ms]

end ScIssue

@[simp] theorem State.group_after (s : State) (g : Site) (z : Group) (next : DWord) :
    (s.after g z next).group? g = some (z.goTo next) :=
  (State.group_turn _ g g).trans (State.group_moved_same s g z next)

@[simp] theorem State.after_ms (s : State) (g : Site) (z : Group) (next : DWord) : (s.after g z next).ms = s.ms := rfl

/-! ### The statement -/

/-- Settles O15: ATOM and LR by what they leave in their group, SC by what its lane does. -/
theorem atomicIssue : Obligations.AtomicIssue := by
  intro s g x e t wide w at_ view hready ht hc
  refine ⟨fun accs h hchk hwatch hlocal => ?atom, fun accs h hchk hwatch => ?lr,
    fun a pa h hchk hwatch hlane htgt hidle => ⟨fun hnone => ?lost, fun hheld hroom hacc => ?stored⟩⟩
  case atom =>
    have hnowin : accs.any (fun a => isWindow a.tgt) = false := by
      refine List.any_eq_false.mpr fun a ha => ?_
      obtain ⟨pa, hpa | hpa⟩ := hlocal a ha <;> simp [hpa, isWindow]
    change execAtom g e s = _
    rw [execAtom, State.issue_eq h hready]
    simp only [view, w, wide, at_] at hchk hwatch
    simp only [hchk, hwatch, hnowin, Bool.and_false, Bool.false_eq_true, if_false]
    rw [State.committed_of_committed ht hc, State.sendAtoms_local]
    · exact congrArg okay (State.settle_unwatched h.noHalt h.noStep)
    · refine atomReqs_local _ fun p hp => ?_
      obtain ⟨b, hb, rfl⟩ := List.mem_map.mp hp
      simpa using List.any_eq_false.mp hnowin b hb
  case lr =>
    change execLr g e s = _
    rw [execLr, State.issue_eq h hready]
    simp only [view, w, wide, at_] at hchk hwatch
    simp only [hchk, hwatch]
    exact congrArg okay (State.settle_unwatched h.noHalt h.noStep)
  case lost =>
    have hsc : ScIssues s g x e a pa := ⟨hready, ⟨t, ht, hc⟩, h, hchk, hwatch, hlane, htgt, hidle⟩
    exact ⟨_, hsc.exec_lost hnone, Group.wp_only _ e.d _ _, fun l r hl hr => Group.rp_wp_lane _ e.d r false hlane hl⟩
  case stored =>
    have hsc : ScIssues s g x e a pa := ⟨hready, ⟨t, ht, hc⟩, h, hchk, hwatch, hlane, htgt, hidle⟩
    obtain ⟨rv, hexec⟩ := hsc.exec_stored hheld hroom
    refine ⟨_, _, hexec, State.group_after _ g _ _, fun l r hl hr => Group.rp_wp_lane _ e.d r true hlane hl,
      Group.wp_t _ _ _ _, Group.wp_u _ _ _ _, fun i hi => ?_, fun i hi => ?_⟩
    · rw [State.after_ms]
      exact State.scTaken_read_at hacc hi
    · rw [State.after_ms]
      exact State.scTaken_read_ne hacc hi

end Sys2Proof.Machine


/-! A pending load binds its data (O13). -/

namespace Sys2Proof.Machine

/-! ### Bytes of a line -/

theorem Mem.drop_readN (m : Mem) (a k n : Nat) : (m.readN a n).drop k = m.readN (a + k) (n - k) := by
  induction k generalizing a n with
  | zero => rfl
  | succ k ih =>
    cases n with
    | zero => simp [Mem.readN]
    | succ n =>
      rw [Mem.readN, List.drop_succ_cons, ih, Nat.add_sub_add_right]
      congr 1
      omega

theorem Mem.take_readN (m : Mem) (a k n : Nat) (h : k ≤ n) : (m.readN a n).take k = m.readN a k := by
  induction k generalizing a n with
  | zero => rfl
  | succ k ih =>
    obtain ⟨n, rfl⟩ := Nat.exists_eq_add_of_le' (Nat.lt_of_lt_of_le k.succ_pos h)
    rw [Mem.readN, List.take_succ_cons, ih _ _ (by omega), Mem.readN]

/-- An aligned datum of up to four bytes lies in one line, whose read holds it. -/
theorem Mem.readN_of_line (m : Mem) {pa w : Nat} (hw : w = 1 ∨ w = 2 ∨ w = 4) (hal : pa % w = 0) :
    ((m.readN (lineOf pa) 128).drop (pa % 128)).take w = m.readN pa w := by
  have hfits : w ≤ 128 - pa % 128 := by
    rcases hw with rfl | rfl | rfl <;> omega
  rw [Mem.drop_readN, Mem.take_readN _ _ _ _ hfits, lineOf_add_mod]

/-! ### A datum of up to four bytes in a t register (R80, R120) -/

/-- What a load of up to four bytes writes. -/
def loadWord (width : Nat) (sext : Bool) (bytes : List Byte) : Word :=
  if sext = true ∧ width < 4 then BitVec.ofInt 32 (signedOf (8 * width) (bytesNat bytes))
  else BitVec.ofNat 32 (bytesNat bytes)

theorem Group.writeLoad_word (x : Group) (dst : Nat) {width : Nat} (hw : width = 1 ∨ width = 2 ∨ width = 4) (sext : Bool)
    (lane : Nat) (bytes : List Byte) :
    x.writeLoad dst width sext lane bytes = x.wt lane dst (loadWord width sext bytes) := by
  rcases hw with rfl | rfl | rfl <;> cases sext <;> rfl

theorem Group.forward_of_empty {x : Group} (h : x.sb = []) (order : Nat) (t : Target) (bytes : List Byte) :
    x.forward order t bytes = bytes := by
  rw [Group.forward, h]
  rfl

/-! ### The load performs (R307) -/

section Perform

variable {s : State} {g : Site} {x : Group} {l : PendLoad} {rest : List PendLoad} {a : LaneAcc} {pa nonce : Nat}
  {bytes : List Byte}

theorem State.laneValue_of_tier {full : List Byte} (hsb : x.sb = []) (hreply : a.reply = none) (hca : l.ca = false)
    (htier : s.tierLine g.core a.tgt l.lr = some (full, false))
    (hbytes : s.scratchView nonce a.tgt ((full.drop (lineOff a.tgt)).take l.width) = bytes) :
    s.laneValue g.core nonce x l a = some (bytes, false) := by
  simp [State.laneValue, State.laneRead, hreply, hca, htier, hbytes, Group.forward_of_empty hsb]

/-- An uncached datum comes from its controller. -/
theorem State.laneValue_uncached (hsb : x.sb = []) (hreply : a.reply = none) (hca : l.ca = false)
    (hw : l.width = 1 ∨ l.width = 2 ∨ l.width = 4) (hal : pa % l.width = 0) (htgt : a.tgt = .uncached pa)
    (hidle : s.domain (s.memDomain pa) = .idle) (hpoison : lineOf pa ∉ s.ms.mem.poison) :
    s.laneValue g.core nonce x l a = some (s.ms.mem.readN pa l.width, false) := by
  refine State.laneValue_of_tier hsb hreply hca (full := s.ms.mem.readN (lineOf pa) 128) ?_ ?_
  · simp [State.tierLine, htgt, State.awake, hidle, hpoison]
  · rw [htgt]
    exact Mem.readN_of_line _ hw hal

/-- A cacheable one from the line that the die's LLC holds. -/
theorem State.laneValue_cached {c : CLine} (hsb : x.sb = []) (hreply : a.reply = none) (hca : l.ca = false)
    (hlr : l.lr = false) (htgt : a.tgt = .cache pa) (hline : s.llcLine g.core pa = some c) (hpoison : c.poison = false) :
    s.laneValue g.core nonce x l a = some ((c.bytes.drop (pa % 128)).take l.width, false) := by
  refine State.laneValue_of_tier hsb hreply hca (full := c.bytes) ?_ ?_
  · simp [State.tierLine, htgt, State.awake, hline, hlr, hpoison]
  · rw [htgt]
    rfl

/-- A load of one lane whose datum is there writes it, in its group and in what the later accesses found. -/
theorem State.loadPerform_lane (hx : s.group? g = some x) (hloads : x.loads = l :: rest) (hlanes : l.lanes = [a])
    (hca : l.ca = false) (hlr : l.lr = false) (hmem : a.tgt = .uncached pa ∨ a.tgt = .cache pa)
    (hval : s.laneValue g.core (s.nonceOf g.core x) x l a = some (bytes, false)) :
    s.loadPerform g = s.setGroup g (({ x with loads := rest } : Group).landed l.order
      fun y => y.writeLoad l.dst l.width l.sext a.lane bytes) := by
  have hwin : isWindow a.tgt = false := by rcases hmem with h | h <;> rw [h] <;> rfl
  simp only [State.loadPerform, hx, hloads, hlanes, hca, hlr, hval, List.any_cons, List.any_nil, hwin, Bool.false_and,
    Bool.or_false, List.map_cons, List.map_nil, State.l1Fill, Option.isNone_some, List.find?_cons, List.find?_nil,
    List.foldl_cons, List.foldl_nil, Bool.false_eq_true, if_false, Bool.false_or]
  refine if_neg ?_
  intro hdevice
  rcases hmem with h | h <;> simp [h] at hdevice

end Perform

/-! ### The statement -/

/-- Settles O13: the datum of the lane by where it comes from, and the register it is written to. -/
theorem loadBindsData : Obligations.LoadBindsData := by
  intro s g x l rest a pa bytes hx hloads hlanes hca hlr hsb hw hal hdst hreply hsrc
  have hmem : a.tgt = .uncached pa ∨ a.tgt = .cache pa := by
    rcases hsrc with ⟨h, _⟩ | ⟨_, h, _⟩
    · exact .inl h
    · exact .inr h
  have hval : s.laneValue g.core (s.nonceOf g.core x) x l a = some (bytes, false) := by
    rcases hsrc with ⟨htgt, hidle, hpoison, rfl⟩ | ⟨c, htgt, hline, hpoison, rfl⟩
    · exact State.laneValue_uncached hsb hreply hca hw hal htgt hidle hpoison
    · exact State.laneValue_cached hsb hreply hca hlr htgt hline hpoison
  refine ⟨_, congrArg okay (State.loadPerform_lane hx hloads hlanes hca hlr hmem hval), ?_, fun i r _ hr => ?_⟩
  · simp only [Group.writeLoad_word _ _ hw]
    rfl
  · simp only [Group.writeLoad_word _ _ hw]
    exact Group.rt_wt _ _ _ _ _ _ hdst hr

end Sys2Proof.Machine


/-! What writes, traces and faults do to the cores: a write takes reservations and no more (R313); a fault leaves no tile that
was not there, none of its own, and its context faulted (R106). -/

namespace Sys2Proof.Machine

/-! ### Writes take reservations from the groups and nothing else from the cores (R313) -/

/-- A core whose groups have kept the reservations that satisfy `q`. -/
def Core.keepResv (k : Core) (q : Nat × Granule → Bool) : Core :=
  { k with groups := NMap.mapVals (fun _ x => { x with resv := x.resv.filter q }) k.groups }

/-- Every core is as it was but for reservations taken. -/
def CoresKept (s t : State) : Prop := ∀ c, ∃ q, t.core c = (s.core c).keepResv q

theorem Core.keepResv_all (k : Core) : k.keepResv (fun _ => true) = k := by
  have hid : ∀ m : NMap Group, NMap.mapVals (fun _ x => { x with resv := x.resv.filter fun _ => true }) m = m := by
    intro m
    simp [NMap.mapVals]
  rw [Core.keepResv, hid]

theorem Core.keepResv_keepResv (k : Core) (p q : Nat × Granule → Bool) :
    (k.keepResv p).keepResv q = k.keepResv (fun r => p r && q r) := by
  simp [Core.keepResv, NMap.mapVals, List.filter_filter, Bool.and_comm]

theorem CoresKept.of_core {s t : State} (h : ∀ c, t.core c = s.core c) : CoresKept s t :=
  fun c => ⟨fun _ => true, by rw [h c, Core.keepResv_all]⟩

theorem CoresKept.refl (s : State) : CoresKept s s := .of_core fun _ => rfl

theorem CoresKept.trans {s t u : State} (h1 : CoresKept s t) (h2 : CoresKept t u) : CoresKept s u := by
  intro c
  obtain ⟨p, hp⟩ := h1 c
  obtain ⟨q, hq⟩ := h2 c
  exact ⟨_, by rw [hq, hp, Core.keepResv_keepResv]⟩

theorem CoresKept.of_cores {s t : State} (h : t.cores = s.cores) : CoresKept s t :=
  .of_core fun c => by rw [State.core, State.core, h]

theorem CoresKept.foldl {β : Type} {f : State → β → State} (hf : ∀ s b, CoresKept s (f s b)) (l : List β) (s : State) :
    CoresKept s (l.foldl f s) :=
  foldl_keeps (CoresKept s) f (fun t b h => h.trans (hf t b)) l s (.refl s)

theorem CoresKept.tile {s t : State} (h : CoresKept s t) (c key : Nat) : t.tile? c key = s.tile? c key := by
  obtain ⟨q, hq⟩ := h c
  rw [State.tile?, hq]
  rfl

/-- A group without reservations is left alone. -/
theorem CoresKept.group {s t : State} (h : CoresKept s t) {g : Site} {x : Group} (hx : s.group? g = some x)
    (hr : x.resv = []) : t.group? g = some x := by
  obtain ⟨q, hq⟩ := h g.core
  have hfind : NMap.find g.place (s.core g.core).groups = some x := hx
  simp only [State.group?, hq, Core.keepResv, NMap.find_mapVals, hfind, Option.map_some, hr, List.filter_nil]
  rw [← hr]

theorem State.killResv_coresKept (s : State) (p : Nat → Bool) (gr : Granule) : CoresKept s (s.killResv p gr) := by
  intro c
  refine ⟨fun r => !p c || r.2 != gr, ?_⟩
  have hkeep : ∀ k : Core, (if p c then { k with groups := NMap.mapVals (fun _ g => { g with resv := g.resv.filter fun r => r.2 != gr }) k.groups }
      else k) = k.keepResv fun r => !p c || r.2 != gr := by
    intro k
    by_cases hp : p c = true
    · simp [hp, Core.keepResv]
    · rw [if_neg hp]
      simp only [hp, Bool.not_false, Bool.true_or, Core.keepResv_all]
  simp only [State.core, State.killResv, NMap.findD, NMap.find_mapVals]
  cases NMap.find c s.cores with
  | none => rfl
  | some k => exact hkeep k

theorem State.memAccept_coresKept (s : State) (line : Nat) (bytes : NMap Byte) (poison : Bool) (tag : Nat) :
    CoresKept s (s.memAccept line bytes poison tag) := by
  unfold State.memAccept
  split
  · exact (CoresKept.of_cores rfl).trans (State.killResv_coresKept _ _ _)
  · exact .of_cores rfl

theorem State.victimDone_coresKept (s : State) (v : Option (Nat × Nat)) : CoresKept s (s.victimDone v) := by
  unfold State.victimDone
  split <;> exact .of_cores rfl

theorem State.acceptSent_coresKept (s : State) (line : Nat) : CoresKept s (s.acceptSent line) := by
  unfold State.acceptSent
  extract_lets ws c s1
  have h1 : CoresKept s s1 := .of_cores rfl
  exact h1.trans (.foldl (fun st w => (st.memAccept_coresKept _ _ _ _).trans (State.victimDone_coresKept _ _)) _ _)

theorem State.flushLine_coresKept (s : State) (line : Nat) : CoresKept s (s.flushLine line) := by
  unfold State.flushLine
  extract_lets s0 hs fl s1 s2
  have h0 : CoresKept s s0 := s.killResv_coresKept _ _
  have h1 : CoresKept s s1 := h0.trans (s0.acceptSent_coresKept line)
  have h2 : CoresKept s s2 := by
    simp only [s2]
    split
    · exact h1.trans (s1.memAccept_coresKept _ _ _ _)
    · exact h1.trans (s1.memAccept_coresKept _ _ _ _)
    · exact h1
  split
  · exact h0
  · exact h2.trans (.of_cores rfl)

theorem State.rereadTxn_coresKept (s : State) (line : Nat) : CoresKept s (s.rereadTxn line) := by
  unfold State.rereadTxn
  split
  · exact .refl s
  · split <;> exact .of_cores rfl

theorem State.cohWriteLine_coresKept (s : State) (tag line : Nat) (bytes : NMap Byte) :
    CoresKept s (s.cohWriteLine tag line bytes) := by
  unfold State.cohWriteLine
  extract_lets c s1
  have h1 : CoresKept s s1 := .of_cores rfl
  exact ((h1.trans (s1.flushLine_coresKept line)).trans (State.memAccept_coresKept _ _ _ _ _)).trans
    (State.rereadTxn_coresKept _ _)

theorem State.cohWrite_coresKept (s : State) (tag pa : Nat) (bytes : List Byte) : CoresKept s (s.cohWrite tag pa bytes) := by
  unfold State.cohWrite
  refine CoresKept.foldl (fun st lm => ?_) _ _
  exact st.cohWriteLine_coresKept tag lm.1 lm.2

theorem State.targetWrite_coresKept (s : State) (t : Target) (tag : Nat) (bytes : List Byte) :
    CoresKept s (s.targetWrite t tag bytes) := by
  cases t with
  | cache pa => exact s.cohWrite_coresKept tag pa bytes
  | uncached pa => exact CoresKept.foldl (fun st lm => st.memAccept_coresKept _ _ _ _) _ s
  | share die a back =>
    have h1 : CoresKept s ((s.sramWrite die a bytes).stampSram die a bytes.length back) := by
      refine .of_cores ?_
      unfold State.stampSram
      split <;> rfl
    cases back with
    | none => exact h1
    | some pa => exact h1.trans (State.cohWrite_coresKept _ tag pa bytes)
  | window p pa c => exact .refl s
  | mmio pa => exact .refl s

/-! ### Trace, event log and the front end's writes (R511 to R516, R576) -/

theorem State.traceOpen_coresKept (s : State) : CoresKept s s.traceOpen := by
  unfold State.traceOpen
  extract_lets d s1 next b s2
  have h1 : CoresKept s s1 := by
    simp only [s1]
    split
    · exact s.cohWrite_coresKept _ _ _
    · exact .refl s
  split
  · exact h1.trans (.of_cores rfl)
  · have h2 : CoresKept s1 s2 := .of_cores rfl
    exact (h1.trans h2).trans (s2.cohWrite_coresKept _ _ _)

theorem State.trace_coresKept (s : State) (type ward ctx core place high : Nat) :
    CoresKept s (s.trace type ward ctx core place high) := by
  unfold State.trace
  extract_lets stale s1 a s2
  have h1 : CoresKept s s1 := by
    simp only [s1]
    split
    · exact .refl s
    · exact s.traceOpen_coresKept
  split
  · split
    · exact h1
    · exact (h1.trans (s1.cohWrite_coresKept _ _ _)).trans (.of_cores rfl)
  · exact .refl s

theorem State.logEvent_coresKept (s : State) (type ward ctx core place high : Nat) :
    CoresKept s (s.logEvent type ward ctx core place high) := by
  unfold State.logEvent
  extract_lets n s1 d s2
  have h1 : CoresKept s s1 := by
    simp only [s1]
    split
    · exact .refl s
    · exact s.cohWrite_coresKept _ _ _
  have h2 : CoresKept s1 (s2.raiseAplic 1) := .of_cores (s2.raiseAplic_cores 1)
  exact (h1.trans h2).trans (State.trace_coresKept _ _ _ _ _ _ _)

theorem State.debugEvent_coresKept (s : State) (g : Site) (causes n lane brk addr : Nat) :
    CoresKept s (s.debugEvent g causes n lane brk addr) := State.logEvent_coresKept _ _ _ _ _ _ _

theorem State.feWriteBytes_coresKept (s : State) (ctx tag va : Nat) (bytes : List Byte) :
    CoresKept s (s.feWriteBytes ctx tag va bytes) := by
  induction bytes generalizing s va with
  | nil => exact .refl s
  | cons b bs ih =>
    unfold State.feWriteBytes
    split
    · exact ((s.targetWrite_coresKept _ tag [b]).trans (.of_cores rfl)).trans (ih _ _)
    · exact .refl s

theorem State.pageRequest_coresKept (s : State) (ctx va : Nat) : CoresKept s (s.pageRequest ctx va) := by
  unfold State.pageRequest
  extract_lets p
  split <;> exact .of_cores rfl

theorem State.tryFault_coresKept {s t : State} {ctx tag rcd : Nat} (h : s.tryFault ctx tag rcd = .ok t) :
    CoresKept s t := by
  unfold State.tryFault State.feWrite at h
  extract_lets a at h
  split at h
  · cases h
  · split at h
    · cases h
      exact s.feWriteBytes_coresKept _ _ _ _
    · cases h

theorem State.writeFault_coresKept (s : State) (ctx tag rcd : Nat) : CoresKept s (s.writeFault ctx tag rcd) := by
  unfold State.writeFault
  extract_lets owe
  split
  · exact .of_cores rfl
  · split
    · next h => exact State.tryFault_coresKept h
    · exact (s.pageRequest_coresKept ctx _).trans (.of_cores rfl)
    · exact .of_cores rfl

theorem State.setSlot_coresKept (s : State) (i : Nat) (x : Slot) : CoresKept s (s.setSlot i x) := by
  unfold State.setSlot
  exact (CoresKept.of_cores rfl).trans (State.cohWrite_coresKept _ _ _ _)

theorem State.syncSlotOf_coresKept (s : State) (ctx : Nat) : CoresKept s (s.syncSlotOf ctx) := by
  unfold State.syncSlotOf
  extract_lets c
  split
  · exact s.setSlot_coresKept _ _
  · exact .refl s

/-! ### Operations after which no new tile runs -/

/-- A place without a tile stays without one. -/
def NoNewTiles (s t : State) : Prop := ∀ c key, s.tile? c key = none → t.tile? c key = none

theorem NoNewTiles.refl (s : State) : NoNewTiles s s := fun _ _ h => h
theorem NoNewTiles.trans {s t u : State} (h1 : NoNewTiles s t) (h2 : NoNewTiles t u) : NoNewTiles s u :=
  fun c key h => h2 c key (h1 c key h)

theorem CoresKept.noNewTiles {s t : State} (h : CoresKept s t) : NoNewTiles s t := fun c key hn => (h.tile c key).trans hn

theorem NoNewTiles.foldl {β : Type} {f : State → β → State} (hf : ∀ s b, NoNewTiles s (f s b)) (l : List β) (s : State) :
    NoNewTiles s (l.foldl f s) :=
  foldl_keeps (NoNewTiles s) f (fun t b h => h.trans (hf t b)) l s (.refl s)

theorem State.tile_updCore_same (s : State) (c key : Nat) (f : Core → Core) :
    (s.updCore c f).tile? c key = NMap.find key (f (s.core c)).tiles := by
  rw [State.tile?, State.core_updCore_same]

theorem State.tile_updCore_ne (s : State) {c d : Nat} (h : d ≠ c) (key : Nat) (f : Core → Core) :
    (s.updCore c f).tile? d key = s.tile? d key := by
  rw [State.tile?, State.core_updCore_ne s h, State.tile?]

/-- A core's update that adds no tile. -/
theorem State.updCore_noNewTiles (s : State) (c : Nat) {f : Core → Core}
    (hf : ∀ k key, NMap.find key k.tiles = none → NMap.find key (f k).tiles = none) : NoNewTiles s (s.updCore c f) := by
  intro d key h
  by_cases hd : d = c
  · subst hd
    rw [State.tile_updCore_same]
    exact hf _ key h
  · rw [State.tile_updCore_ne s hd]
    exact h

/-- One that leaves the tiles as they are. -/
theorem State.updCore_sameTiles (s : State) (c : Nat) {f : Core → Core} (hf : ∀ k, (f k).tiles = k.tiles) :
    NoNewTiles s (s.updCore c f) :=
  s.updCore_noNewTiles c fun k key h => by rw [hf k]; exact h

/-! ### Tiles stopped (R106, R353) -/

theorem State.orphanStore_noNewTiles (s : State) (core : Nat) (t : Tile) (va : Nat) (tg : Target) (bs : List Byte) :
    NoNewTiles s (s.orphanStore core t va tg bs) := s.updCore_sameTiles core fun _ => rfl

theorem State.putStatus_noNewTiles (s : State) (core : Nat) (t : Tile) (va : Nat) (tg : Target) (bs : List Byte) :
    NoNewTiles s (s.putStatus core t va tg bs) := by
  unfold State.putStatus
  extract_lets s1
  have h1 : CoresKept s s1 := .of_cores (s.translated_cores _ _ _)
  refine h1.noNewTiles.trans ?_
  split
  · exact s1.orphanStore_noNewTiles core t va _ bs
  · exact s1.orphanStore_noNewTiles core t va _ bs
  · exact (s1.targetWrite_coresKept _ _ _).noNewTiles

theorem State.writeStatus_noNewTiles (s : State) (core key : Nat) (t : Tile) (sp : Spindle) (state cause desc addr : Nat) :
    NoNewTiles s (s.writeStatus core key t sp state cause desc addr) := by
  unfold State.writeStatus
  split
  · exact .refl s
  · split
    · exact s.putStatus_noNewTiles core t _ _ _
    · exact .refl s

theorem State.stopSpindles_noNewTiles (s : State) (core key : Nat) (t : Tile) (but : List Nat) :
    NoNewTiles s (s.stopSpindles core key t but) := by
  refine NoNewTiles.foldl (fun st ns => ?_) _ s
  split
  · exact st.writeStatus_noNewTiles core key t _ _ _ _ _
  · exact .refl st

theorem State.releaseHalted_coresKept (s : State) (core key reason : Nat) :
    CoresKept s (s.releaseHalted core key reason) := by
  refine CoresKept.foldl (fun st pg => ?_) _ s
  split
  · exact st.debugEvent_coresKept _ _ _ _ _ _
  · exact .refl st

theorem State.excEntry_coresKept (s : State) (r : ExcRec) (core key entry : Nat) :
    CoresKept s (s.excEntry r core key entry).1 := by
  unfold State.excEntry
  split
  · exact .refl s
  · extract_lets r1
    split
    next s2 r2 hput =>
      have h2 : CoresKept s s2 := by
        split at hput
        · cases hput; exact s.cohWrite_coresKept _ _ _
        · cases hput; exact .refl s
      split
      · exact h2.trans (s2.cohWrite_coresKept _ _ _)
      · exact h2

theorem State.excursionTile_coresKept (s : State) (core key : Nat) (t : Tile) (mismatch : Bool) :
    CoresKept s (s.excursionTile core key t mismatch) := by
  unfold State.excursionTile
  extract_lets l entry
  have h1 := foldl_keeps (fun p : State × List ExcRec => CoresKept s p.1)
    (fun p r => ((p.1.excEntry r core key entry).1, p.2 ++ [(p.1.excEntry r core key entry).2]))
    (fun p r hp => hp.trans (p.1.excEntry_coresKept r core key entry)) s.power.recs (s, []) (.refl s)
  exact h1.trans (.of_cores rfl)

/-- A tile that leaves its core is gone, and no other has come. -/
theorem State.tileGone_gone (s : State) (core key : Nat) (why : Option StopWhy) :
    NoNewTiles s (s.tileGone core key why) ∧ (s.tileGone core key why).tile? core key = none := by
  unfold State.tileGone
  split
  · next h => exact ⟨.refl s, h⟩
  · next t ht =>
    extract_lets mism again s1 l s2 last s3 left s4 mine posted s5 s6 s7
    have h2 : CoresKept s s2 := (s.excursionTile_coresKept core key t mism).trans (State.trace_coresKept _ _ _ _ _ _ _)
    have h5 : CoresKept s s5 := h2.trans (.of_cores rfl)
    have htiles : ∃ f : Core → Core, s6 = s5.updCore core f ∧ ∀ k, (f k).tiles = NMap.del key k.tiles := by
      refine ⟨_, rfl, fun k => ?_⟩
      extract_lets gone os fetches k1 k2
      split
      · split <;> rfl
      · rfl
    obtain ⟨f, hs6, hf⟩ := htiles
    have h6 : NoNewTiles s5 s6 ∧ s6.tile? core key = none := by
      rw [hs6]
      refine ⟨s5.updCore_noNewTiles core fun k i hi => ?_, by rw [State.tile_updCore_same, hf, NMap.find_del_same]⟩
      rw [hf]
      by_cases hik : i = key
      · rw [hik, NMap.find_del_same]
      · rw [NMap.find_del_ne hik, hi]
    have h7 : CoresKept s6 s7 := by
      refine .of_cores ?_
      simp only [s7]
      split <;> rfl
    have h8 := (h7.trans (s7.syncSlotOf_coresKept t.ctx)).noNewTiles
    exact ⟨(h5.noNewTiles.trans h6.1).trans h8, h8 core key h6.2⟩

theorem State.stopTile_gone (s : State) (core key : Nat) (why : StopWhy) (but : List Nat) :
    NoNewTiles s (s.stopTile core key why but) ∧ (s.stopTile core key why but).tile? core key = none := by
  unfold State.stopTile
  split
  · next h => exact ⟨.refl s, h⟩
  · extract_lets s1 s2
    have h1 : NoNewTiles s s1 := (s.releaseHalted_coresKept core key _).noNewTiles
    have h2 : NoNewTiles s s2 := by
      simp only [s2]
      split
      · exact h1
      · exact h1.trans (s1.stopSpindles_noNewTiles core key _ but)
    obtain ⟨hnew, hgone⟩ := s2.tileGone_gone core key (some why)
    exact ⟨h2.trans hnew, hgone⟩

theorem State.stopCtxTiles_noNewTiles (s : State) (ctx : Nat) : NoNewTiles s (s.stopCtxTiles ctx) := by
  unfold State.stopCtxTiles
  refine NoNewTiles.foldl (fun st ck => ?_) _ _
  exact (st.stopTile_gone ck.1 ck.2 .other []).1

/-! ### A context faulted (R106) -/

theorem State.syncCtx_ctx (s : State) (n m : Nat) : (s.syncCtx n).ctx m = s.ctx m := by
  simp [State.ctx, State.syncCtx]

theorem State.syncCtx_coresKept (s : State) (n : Nat) : CoresKept s (s.syncCtx n) := by
  unfold State.syncCtx
  exact s.cohWrite_coresKept _ _ _

theorem State.haltLaunches_cores (s : State) (ctx : Nat) (named : Option Nat) :
    (s.haltLaunches ctx named).cores = s.cores := rfl
theorem State.haltLaunches_ctx (s : State) (ctx : Nat) (named : Option Nat) (n : Nat) :
    (s.haltLaunches ctx named).ctx n = s.ctx n := rfl
theorem State.dropRingWaits_cores (s : State) (ctx : Nat) : (s.dropRingWaits ctx).cores = s.cores := rfl
theorem State.dropRingWaits_ctx (s : State) (ctx n : Nat) : (s.dropRingWaits ctx).ctx n = s.ctx n := rfl
theorem State.ctx_updCore (s : State) (c : Nat) (f : Core → Core) (n : Nat) : (s.updCore c f).ctx n = s.ctx n := rfl

/-- A context that faults is in the state faulted, and no tile has come. -/
theorem State.faultContext_faulted (s : State) (ctx : Nat) (launch : Option Nat) (rcd : Nat) :
    ((s.faultContext ctx launch rcd).ctx ctx).state = .faulted ∧ NoNewTiles s (s.faultContext ctx launch rcd) := by
  unfold State.faultContext
  extract_lets s1 s2 s3
  constructor
  · have h3 : (s3.ctx ctx).state = .faulted := by rw [State.ctx_updCtx_same]
    rw [State.syncCtx_ctx, State.dropRingWaits_ctx, State.haltLaunches_ctx, h3]
  · have h1 : NoNewTiles s s1 := (s.writeFault_coresKept ctx _ rcd).noNewTiles
    have h2 : NoNewTiles s1 s2 := s1.stopCtxTiles_noNewTiles ctx
    have h3 : CoresKept s2 ((s3.haltLaunches ctx launch).dropRingWaits ctx) :=
      .of_cores (by rw [State.dropRingWaits_cores, State.haltLaunches_cores, State.updCtx_cores])
    exact (h1.trans h2).trans (h3.trans (State.syncCtx_coresKept _ ctx)).noNewTiles

/-- A tile's fault stops the tile and faults its context (R106 steps 1 to 3). -/
theorem State.faultTile_faulted {s : State} {core key : Nat} {t : Tile} (ht : s.tile? core key = some t) (f : FaultInfo)
    (group : Nat) (but : List Nat) : ((s.faultTile core key f group but).ctx t.ctx).state = .faulted ∧
      (s.faultTile core key f group but).tile? core key = none := by
  unfold State.faultTile
  split
  · next h => exact absurd (ht.symm.trans h) (by simp)
  · next t' h =>
    obtain rfl : t' = t := Option.some.inj (h.symm.trans ht)
    extract_lets rcd s1 g
    obtain ⟨_, hgone⟩ := s1.stopTile_gone core key .other but
    obtain ⟨hstate, hnew⟩ := (s1.stopTile core key .other but).faultContext_faulted t'.ctx (some t'.launch) rcd
    constructor
    · rw [State.ctx_updCore, hstate]
    · rw [State.tile_updCore_same]
      exact hnew core key hgone

end Sys2Proof.Machine


/-! What holds of every instruction (O1), and the faults of a tile that no instruction raises (O24). -/

namespace Sys2Proof.Machine

/-! ### A group that halts stands at its place (R502) -/

section Raise

variable {s : State} {g : Site} {x : Group} {f : FaultInfo}

theorem State.group_halt (hx : s.group? g = some x) (causes n lane brk addr : Nat) :
    ∃ y, (s.halt g causes n lane brk addr).group? g = some y := by
  unfold State.halt
  split
  · rw [State.updGroup_of_group hx]
    exact ⟨_, State.group_setGroup_same s g _⟩
  · unfold State.haltNow
    split
    · next h => exact absurd (hx.symm.trans h) (by simp)
    · next y h =>
      extract_lets s1 s2
      have h2 : s2.group? g = some _ :=
        (State.group_updTile s1 g.core y.tile _ g).trans (State.group_setGroup_same s g _)
      obtain ⟨r, hr⟩ := (s2.logEvent_groupsKept _ _ _ _ _ _).group h2
      exact ⟨_, hr⟩

/-- With halt on fault armed, a fault leaves the group with it pending (R505). -/
theorem State.raise_armed (hx : s.group? g = some x) (hcls : f.cls ≠ 4) (hhof : s.wardOf g ∈ s.dbg.hof)
    (hright : s.hasRight 0 (s.wardOf g) = true) : ∃ y, (s.raise g f).group? g = some y ∧ y.pending = some f := by
  have harmed : (s.dbg.hof.contains (s.wardOf g) && s.hasRight 0 (s.wardOf g) || x.haltReq.isSome) = true := by
    simp [hhof, hright]
  obtain ⟨y, hy⟩ := State.group_halt hx
    ((x.haltReq.map (·.causes)).getD 0 + if s.dbg.hof.contains (s.wardOf g) && s.hasRight 0 (s.wardOf g) then 32 else 0)
    0 f.lane 0 f.pc.toNat
  unfold State.raise
  simp only [hx, if_neg hcls]
  rw [if_pos harmed, State.updGroup_of_group hy]
  exact ⟨_, State.group_setGroup_same _ g _, rfl⟩

/-- Without, and with no merge under way, it is taken (R106, R107). -/
theorem State.raise_taken (hx : s.group? g = some x) (hcls : f.cls ≠ 4) (hhof : s.wardOf g ∉ s.dbg.hof)
    (hhalt : x.haltReq = none) (hmerge : s.merging g.core x.tile = false) :
    s.raise g f = s.faultTile g.core x.tile f x.index := by
  unfold State.raise
  simp [hx, hcls, hhof, hhalt, hmerge]

end Raise

/-! ### Any instruction as it issues (R76, R77, R121) -/

section Issue

variable {s : State} {g : Site} {x : Group} {e : Enc} {dec : Group → LaneMask → Dec} {ready : Group → Bool}
  {eff : Group → LaneMask → Done}

theorem State.noHalt_of_canIssue (h : s.canIssue x = true) : x.haltReq = none := by
  simp only [State.canIssue, Bool.and_eq_true, Option.isNone_iff_eq_none] at h
  exact h.1.1.2

/-- An instruction whose guard is false on every active lane is a no-op. -/
theorem State.issue_noLanes (hx : s.group? g = some x) (hmay : s.canIssue x = true) (hfetch : s.fetch g x = .ready)
    (hbreak : s.breakHit g x = none) (hstep : x.stepping = false) (hregs : s.regsReady g x e {} = true)
    (hlanes : x.guard e = 0) : s.issue g e dec ready eff = s.after g x (x.pc + 8) := by
  unfold State.issue
  simp only [hx, hmay, hfetch, hbreak, hlanes, hregs]
  rw [State.complete_eq s g x none hx (State.noHalt_of_canIssue hmay) hstep]
  rfl

/-- A word of no instruction raises the illegal-instruction fault at its lowest lane. -/
theorem State.issue_other (hx : s.group? g = some x) (hmay : s.canIssue x = true) (hfetch : s.fetch g x = .ready)
    (hbreak : s.breakHit g x = none) (hregs : s.regsReady g x e {} = true) (hlanes : x.guard e ≠ 0)
    (hother : e.other.isSome = true) (hdrained : x.drained = true) :
    s.issue g e dec ready eff =
      s.raise g { cls := 1, detail := 0, lane := lowestLane (x.guard e), addr := 0, pc := x.pc } := by
  have hillegal : Dec.illegal { rsv := true } x.alloc = some 0 := rfl
  unfold State.issue
  simp only [hx, hmay, hfetch, hbreak, hlanes, hother, hregs]
  simp [hillegal, State.settle, State.raiseAt, hdrained]

end Issue

/-- A form's meaning is an issue, whatever it decodes, waits for and does. -/
def IssueForm (c : Site → Enc → Instr) : Prop :=
  ∀ (s : State) (g : Site) (e : Enc), ∃ dec ready eff, exec (c g e) s = okay (s.issue g e dec ready eff)

/-- So is that of a form that only writes registers. -/
theorem IssueForm.of_reg {c : Site → Enc → Instr} {dec : State → Site → Enc → Group → LaneMask → Dec}
    {eff : State → Site → Enc → Group → LaneMask → Group}
    (h : ∀ s g e, exec (c g e) s = okay (s.issueReg g e (dec s g e) (eff s g e))) : IssueForm c :=
  fun s g e => ⟨_, _, _, h s g e⟩

/-! ### The statements -/

/-- Settles O1: every instruction goes through `State.issue`, which looks at the guard and the MAJOR before the form. -/
theorem everyInstruction : Obligations.EveryInstruction := by
  intro s g x e m c hc hx hmay hfetch hbreak hstep hregs
  have hform : IssueForm c := by
    iterate 41
      obtain rfl | hc := List.mem_cons.mp hc
      · exact .of_reg fun _ _ _ => rfl
    iterate 28
      obtain rfl | hc := List.mem_cons.mp hc
      · exact fun _ _ _ => ⟨_, _, _, rfl⟩
    iterate 4
      obtain rfl | hc := List.mem_cons.mp hc
      · exact .of_reg fun _ _ _ => rfl
    obtain rfl | hc := List.mem_cons.mp hc
    · exact fun _ _ _ => ⟨_, _, _, rfl⟩
    obtain rfl | hc := List.mem_cons.mp hc
    · exact .of_reg fun _ _ _ => rfl
    obtain rfl := List.mem_singleton.mp hc
    exact fun _ _ _ => ⟨_, _, _, rfl⟩
  obtain ⟨dec, ready, eff, hexec⟩ := hform s g e
  refine ⟨fun hlanes => ?noLanes, fun hlanes hother hdrained => ?other⟩
  case noLanes => exact hexec.trans (congrArg okay (State.issue_noLanes hx hmay hfetch hbreak hstep hregs hlanes))
  case other =>
    let f : FaultInfo := { cls := 1, detail := 0, lane := lowestLane (x.guard e), addr := 0, pc := x.pc }
    refine ⟨s.raise g f, hexec.trans (congrArg okay
      (State.issue_other hx hmay hfetch hbreak hregs hlanes hother hdrained)), fun hhof hright => ?_,
      fun t hhof hmerge ht => ?_⟩
    · exact State.raise_armed hx (show 1 ≠ 4 by decide) hhof hright
    · rw [State.raise_taken hx (show 1 ≠ 4 by decide) hhof (State.noHalt_of_canIssue hmay) hmerge]
      exact State.faultTile_faulted ht f x.index []

section TileFaults

variable {s : State} {c key : Nat} {t : Tile}

/-- A tile whose groups wait for no merge takes its fault at once (R106, R107). -/
theorem State.takeFault_faulted (ht : s.tile? c key = some t) (hmerge : s.merging c key = false) (f : FaultInfo)
    (group : Nat) (but : Option Nat) : ((s.takeFault c key f group but).ctx t.ctx).state = .faulted ∧
      (s.takeFault c key f group but).tile? c key = none := by
  rw [State.takeFault, hmerge]
  exact State.faultTile_faulted ht f group but.toList

/-- A tile updated in its place. -/
theorem State.tile_updTile_same (ht : s.tile? c key = some t) (f : Tile → Tile) :
    (s.updTile c key f).tile? c key = some (f t) := by
  rw [State.updTile, State.tile_updCore_same, NMap.find_modify_same]
  exact congrArg (Option.map f) ht

end TileFaults

/-- Settles O24: a fault taken stops the tile and faults its context, and a tile at its budget that another module's LAUNCH
placed is marked and counted. -/
theorem tileFaultEvents : Obligations.TileFaultEvents := by
  intro s c key t ht
  refine ⟨fun m x a hrun hpoison hx hkey hmerge => ?poison, fun hbudget hfrozen hmerge => ?stop,
    fun hover hbudget hfrozen hlaunch => ?overrun⟩
  case poison =>
    subst hkey
    have hfind : (s.core c).running.find? (fun m => m.poison.isSome) = some m := by simp [hrun, hpoison]
    refine ⟨_, ?_, State.takeFault_faulted ht hmerge
      { cls := 4, detail := 6, lane := m.lane, addr := m.poison.getD 0, pc := m.pc } x.index none⟩
    simp only [exec, execMloadPoison, hfind, hx]
  case stop =>
    refine ⟨_, ?_, State.takeFault_faulted ht hmerge { cls := 8, detail := 0, lane := 0, addr := 0, pc := 0 } 0 none⟩
    simp only [exec, execBudgetStop, hfrozen, ht, if_neg (Nat.not_lt.mpr hbudget)]
    rfl
  case overrun =>
    obtain ⟨l, hl, horigin⟩ := hlaunch
    let s1 := s.updTile c key fun t => { t with overrun := true }
    let count := fun x : Ctx => { x with usage := { x.usage with overruns := x.usage.overruns.add 48 1 } }
    have hgo : ¬ (t.overrun = true ∨ t.elapsed s.nowN < t.budget ∨ s.fe.frozen.isSome = true) := by
      simp [hover, hfrozen, hbudget]
    have hexec : exec (.budgetOverrun c key) s = .next (s1.updCtx t.ctx count) := by
      simp only [exec, execBudgetOverrun, ht, if_neg hgo]
      rw [hl]
      simp only [horigin]
      rfl
    have hctx := State.ctx_updCtx_same s1 t.ctx count
    refine ⟨_, hexec, State.tile_updTile_same ht _, ?_, ?_, rfl⟩
    · rw [hctx]; rfl
    · rw [hctx]; rfl

end Sys2Proof.Machine


/-! Tiles placed by the front end (O26, R74, R228, R365): what the placement of a tile does, that a new tile and the replay
of a LAUNCH listed once are placed so, and a list with two LAUNCHes of one key that strands a replay. -/

namespace Sys2Proof.Machine

/-! ### The places of a tile's groups (R51) -/

theorem Core.places_length {k : Core} {n : Nat} {ps : List Nat} (h : k.places n = some ps) (hn : 0 < n) : ps.length = n := by
  unfold Core.places at h
  extract_lets free at h
  split at h
  · cases h
  · next p _ =>
    extract_lets rest at h
    split at h
    · next hle =>
      cases h
      simp only [List.length_cons, List.length_take]
      omega
    · cases h

theorem Core.places_nodup {k : Core} {n : Nat} {ps : List Nat} (h : k.places n = some ps) : ps.Nodup := by
  unfold Core.places at h
  extract_lets free at h
  split at h
  · cases h
  · next p _ =>
    extract_lets rest at h
    have hrest : rest.Nodup := (List.nodup_range.filter _).filter _
    have hp : p ∉ rest := by simp [rest]
    split at h
    · cases h
      exact List.nodup_cons.mpr ⟨fun hmem => hp (List.mem_of_mem_take hmem), hrest.sublist (List.take_sublist _ _)⟩
    · cases h

/-! ### Values put in under distinct keys -/

/-- The map with every pair of a list put in, in order. -/
def NMap.insAll {α : Type} (l : List (Nat × α)) (m : NMap α) : NMap α := l.foldl (fun m pg => NMap.ins pg.1 pg.2 m) m

theorem NMap.find_insAll_absent {α : Type} {k : Nat} (l : List (Nat × α)) (h : k ∉ l.map (·.1)) (m : NMap α) :
    NMap.find k (NMap.insAll l m) = NMap.find k m := by
  induction l generalizing m with
  | nil => rfl
  | cons a l ih =>
    simp only [List.map_cons, List.mem_cons, not_or] at h
    rw [NMap.insAll, List.foldl_cons, ← NMap.insAll, ih h.2, NMap.find_ins_ne h.1]

theorem NMap.find_insAll {α : Type} {k : Nat} {v : α} (l : List (Nat × α)) (hnd : (l.map (·.1)).Nodup) (hmem : (k, v) ∈ l)
    (m : NMap α) : NMap.find k (NMap.insAll l m) = some v := by
  induction l generalizing m with
  | nil => cases hmem
  | cons a l ih =>
    rw [List.map_cons, List.nodup_cons] at hnd
    rw [NMap.insAll, List.foldl_cons, ← NMap.insAll]
    obtain rfl | hmem := List.mem_cons.mp hmem
    · rw [NMap.find_insAll_absent l hnd.1, NMap.find_ins_same]
    · exact ih hnd.2 hmem _

/-- The groups of a tile of a LAUNCH at their places. -/
def startGroups (f : LaunchFields) (ps : List Nat) (tkey : Nat) : List (Nat × Group) :=
  (List.range ps.length).map fun i => (ps.getD i 0, startGroup f tkey i)

theorem startGroups_places (f : LaunchFields) (ps : List Nat) (tkey : Nat) : (startGroups f ps tkey).map (·.1) = ps := by
  refine List.ext_getElem (by simp [startGroups]) fun i _ hi => ?_
  simp [startGroups, hi]

theorem mem_startGroups (f : LaunchFields) {ps : List Nat} (tkey : Nat) {i : Nat} (hi : i < ps.length) :
    (ps.getD i 0, startGroup f tkey i) ∈ startGroups f ps tkey :=
  List.mem_map.mpr ⟨i, List.mem_range.mpr hi, rfl⟩

/-! ### What the placement of a tile leaves alone -/

theorem State.syncSlotOf_fe (s : State) (n : Nat) : ∃ slots, (s.syncSlotOf n).fe = { s.fe with slots := slots } := by
  unfold State.syncSlotOf
  extract_lets c
  split
  · exact ⟨_, State.cohWrite_fe _ _ _ _⟩
  · exact ⟨s.fe.slots, rfl⟩

theorem State.syncSlotOf_launch (s : State) (n key : Nat) : (s.syncSlotOf n).launch? key = s.launch? key := by
  obtain ⟨slots, h⟩ := s.syncSlotOf_fe n
  rw [State.launch?, h, State.launch?]

theorem State.syncSlotOf_ctx (s : State) (n m : Nat) : (s.syncSlotOf n).ctx m = s.ctx m := by
  obtain ⟨slots, h⟩ := s.syncSlotOf_fe n
  rw [State.ctx, h, State.ctx]

/-- A context that holds no slot has none brought up to date (R360). -/
theorem State.syncSlotOf_of_noSlot {s : State} {n : Nat} (h : (s.ctx n).holdsSlot s.fe.slots n = false) :
    s.syncSlotOf n = s := by
  rw [State.syncSlotOf]
  simp [h]

/-- A core that is entered loses at most its L1 (R267). -/
theorem State.enterCore_rest (s : State) (c ward key : Nat) : (s.enterCore c ward key).fe = s.fe ∧
    (s.enterCore c ward key).ms = s.ms ∧ (s.enterCore c ward key).dbg = s.dbg := by
  unfold State.enterCore
  extract_lets k s1
  have h1 : s1.fe = s.fe ∧ s1.ms = s.ms ∧ s1.dbg = s.dbg := by
    simp only [s1]
    split <;> exact ⟨rfl, rfl, rfl⟩
  exact h1

/-! ### A tile of a LAUNCH placed (R74, R228, R365) -/

/-- The tile of a LAUNCH as a run of it starts. -/
def State.tileOf (s : State) (key : Nat) (l : Launch) (run : Replay) : Tile :=
  { ctx := l.ctx, launch := key, index := run.index, mism := run.mism, coreBound := run.coreBound, lastAt := run.lastAt
    oldest := l.fields.oldest, matrix := l.fields.matrix, nthread := l.fields.nthread, nonce := s.free
    plan := s.plan (s.ctx l.ctx).plan, start := s.nowN
    budget := (if l.fields.budget ≠ 0 then l.fields.budget else if (s.ctx l.ctx).budget ≠ 0 then (s.ctx l.ctx).budget
      else 200) * 1000 }

section Place

variable {s : State} {c key : Nat} {l : Launch} {ps : List Nat}

/-- A core with room takes the tile under its first place and the groups at theirs; the trace and the slot follow. -/
theorem State.placeTile_eq (hl : s.launch? key = some l) (hkind : l.kind = .launch)
    (hps : (s.core c).places (groupsPerTile l.fields) = some ps) (run : Replay) :
    ∃ (t : State) (high : Nat), s.placeTile c key run = (t.trace 1 (s.ctx l.ctx).ward l.ctx c 0 high).syncSlotOf l.ctx ∧
      t.fe = s.fe ∧ t.ms = s.ms ∧ t.dbg = s.dbg ∧ t.tile? c (ps.headD 48) = some (s.tileOf key l run) ∧
      ∃ m, (t.core c).groups = NMap.insAll (startGroups l.fields ps (ps.headD 48)) m := by
  unfold State.placeTile
  split
  · next h => exact absurd (hl.symm.trans h) (by simp)
  · next l' h =>
    obtain rfl : l' = l := Option.some.inj (h.symm.trans hl)
    extract_lets index k f move places tkey us groups sps
    have hmove : move = false := by simp [move, hkind]
    have hplaces : places = ps := by simp [places, hmove, f, hps]
    have hgroups : groups = startGroups f ps tkey := by
      simp only [groups, hmove, hplaces]
      rfl
    split
    next nonce s1 hdraw =>
      obtain ⟨rfl, rfl⟩ : s.free = nonce ∧ { s with free := s.free + 1 } = s1 := Prod.mk.inj hdraw
      extract_lets tile s2 s3 p s3' s4
      obtain ⟨hfe, hms, hdbg⟩ := State.enterCore_rest { s with free := s.free + 1 } c k.ward key
      have hcore : (s3'.core c).tiles = NMap.ins tkey tile (s2.core c).tiles ∧
          (s3'.core c).groups = NMap.insAll groups (s2.core c).groups := by
        have h3 : s3'.core c = s3.core c := rfl
        rw [h3, State.core_updCore_same]
        extract_lets k1
        split <;> exact ⟨rfl, rfl⟩
      obtain ⟨htiles, hgs⟩ := hcore
      refine ⟨s3', _, rfl, hfe, hms, hdbg, ?_, (s2.core c).groups, ?_⟩
      · rw [State.tile?, htiles, ← hplaces, NMap.find_ins_same]
        rfl
      · rw [hgs, hgroups, ← hplaces]

/-- A tile placed on a core whose trace is off: itself, its groups, and what the front end and the memory keep. -/
theorem State.placeTile_starts (hl : s.launch? key = some l) (hkind : l.kind = .launch)
    (hps : (s.core c).places (groupsPerTile l.fields) = some ps) (hn : 0 < groupsPerTile l.fields)
    (hoff : s.dbg.tren = false) (run : Replay) :
    (s.placeTile c key run).tile? c (ps.headD 48) = some (s.tileOf key l run) ∧
      (∀ i, i < groupsPerTile l.fields → ∃ p, (s.placeTile c key run).group? ⟨c, p⟩ =
        some (startGroup l.fields (ps.headD 48) i)) ∧
      (s.placeTile c key run).launch? key = some l ∧ (∀ n, (s.placeTile c key run).ctx n = s.ctx n) ∧
      ((s.ctx l.ctx).holdsSlot s.fe.slots l.ctx = false → (s.placeTile c key run).ms = s.ms) := by
  obtain ⟨t, high, heq, hfe, hms, hdbg, htile, m, hgroups⟩ := State.placeTile_eq hl hkind hps run
  rw [State.trace_of_off (by rw [hdbg, hoff])] at heq
  have hkept := t.syncSlotOf_coresKept l.ctx
  have hctx : ∀ n, t.ctx n = s.ctx n := fun n => by rw [State.ctx, hfe, State.ctx]
  rw [heq]
  refine ⟨(hkept.tile _ _).trans htile, fun i hi => ⟨ps.getD i 0, ?_⟩, ?_, fun n => ?_, fun hslot => ?_⟩
  · refine hkept.group ?_ rfl
    rw [State.group?, hgroups]
    refine NMap.find_insAll _ ?_ (mem_startGroups _ _ (by rw [Core.places_length hps hn]; exact hi)) m
    rw [startGroups_places]
    exact Core.places_nodup hps
  · rw [State.syncSlotOf_launch, State.launch?, hfe]
    exact hl
  · rw [State.syncSlotOf_ctx, hctx]
  · rw [State.syncSlotOf_of_noSlot (by rw [hctx, hfe]; exact hslot), hms]

end Place

/-! ### The launch whose tile a core takes fits there (R365) -/

section Fits

variable {s : State} {c key : Nat} {l : Launch}

theorem State.places_of_canTake (h : s.canTake c key l = true) (hkind : l.kind = .launch) :
    ∃ ps, (s.core c).places (groupsPerTile l.fields) = some ps := by
  simp only [State.canTake, Bool.and_eq_true] at h
  obtain ⟨_, hroom⟩ := h
  simp only [Core.roomFor, hkind, Bool.and_eq_true] at hroom
  exact Option.isSome_iff_exists.mp hroom.1.1.1

theorem State.canTake_of_ringLaunch {ctx ring : Nat} (h : s.ringLaunch c ctx ring = some (key, l)) :
    s.canTake c key l = true := by
  have hready := (List.mem_filter.mp (List.mem_of_mem_head? h)).2
  simp only [State.launchReady, Bool.and_eq_true] at hready
  exact hready.2.1.1.2

theorem State.canTake_of_coreLaunch (h : s.coreLaunch c = some (key, l)) : s.canTake c key l = true := by
  unfold State.coreLaunch at h
  split at h
  · cases h
  · split at h
    · cases h
    · unfold State.ctxLaunch at h
      extract_lets last at h
      obtain ⟨i, _, hring⟩ := List.exists_of_findSome?_eq_some h
      exact State.canTake_of_ringLaunch hring

theorem findIdx_holds {α : Type} {p : α → Bool} {l : List α} {i j : Nat} {x : α} (h : findIdx p i l = some (j, x)) :
    p x = true := by
  induction l generalizing i with
  | nil => cases h
  | cons y l ih =>
    unfold findIdx at h
    split at h
    · next hp => cases h; exact hp
    · exact ih h

/-- In a map in canonical form a pair of the list is what its key finds. -/
theorem NMap.find_of_mem {α : Type} {k : Nat} {v : α} {m : NMap α} (hwf : NMap.wf m = true) (h : (k, v) ∈ m) :
    NMap.find k m = some v := by
  suffices hlo : ∀ lo, NMap.risesFrom lo m = true → lo ≤ k ∧ NMap.find k m = some v from (hlo 0 hwf).2
  clear hwf
  induction m with
  | nil => cases h
  | cons a m ih =>
    intro lo hrises
    simp only [NMap.risesFrom, Bool.and_eq_true, decide_eq_true_eq] at hrises
    obtain rfl | hmem := List.mem_cons.mp h
    · exact ⟨hrises.1, by simp [NMap.find]⟩
    · obtain ⟨hlt, hfind⟩ := ih hmem _ hrises.2
      have hne : a.1 ≠ k := by omega
      exact ⟨by omega, by simp [NMap.find, hne, hfind]⟩

/-- Of a list that holds a launch once, the replay of it that a core takes fits there. -/
theorem State.canTake_of_ctxReplay (hwf : NMap.wf s.fe.launches = true) (hl : s.launch? key = some l) {ctx i : Nat}
    {r : Replay} (h : s.ctxReplay c ctx = some (key, i, r)) : s.canTake c key l = true := by
  obtain ⟨⟨k, l'⟩, hmem, hsome⟩ := List.exists_of_findSome?_eq_some h
  have hfind := NMap.find_of_mem hwf hmem
  split at hsome
  · obtain ⟨⟨j, x⟩, hidx, hkey⟩ := Option.map_eq_some_iff.mp hsome
    cases hkey
    obtain rfl : l' = l := Option.some.inj (hfind.symm.trans hl)
    have hfits := findIdx_holds hidx
    rw [State.replayFits, Bool.and_eq_true] at hfits
    exact hfits.1
  · cases hsome

end Fits

/-! ### Where no LAUNCH is served for a peer there is nothing to report or ask (R456, R457) -/

section Own

variable {s : State} (hown : ∀ k ∈ s.fe.launches, k.2.origin = none)
include hown

theorem State.reportServed_of_own (key : Nat) : s.reportServed key = s := by
  unfold State.reportServed
  split
  · rfl
  · next l hl =>
    have horigin : l.origin = none := hown _ (NMap.mem_of_find hl)
    simp [horigin]

theorem State.reportAll_of_own : s.reportAll = s :=
  foldl_keeps (fun t => t = s) _ (fun t k (h : t = s) => by subst h; exact State.reportServed_of_own hown k) _ s rfl

theorem State.askTiles_of_own (c : Nat) : s.askTiles c = s := by
  have hnone : s.fe.launches.filter (fun kl => s.wantsTiles c kl.1 kl.2) = [] :=
    List.filter_eq_nil_iff.mpr fun kl hmem => by simp [State.wantsTiles, hown kl hmem]
  rw [State.askTiles, hnone]
  rfl

end Own

/-! ### The statement's clauses -/

/-- A tile of a launch stands on a core at its start, with a group for each 32 threads. -/
def TileStarts (s u : State) (c key : Nat) (l : Launch) (tkey : Nat) (t : Tile) : Prop :=
  u.tile? c tkey = some t ∧ t.ctx = l.ctx ∧ t.launch = key ∧ t.nthread = l.fields.nthread ∧ t.start = s.nowN ∧
    t.committed = false ∧ t.lt = [] ∧
    ∀ i, i < groupsPerTile l.fields → ∃ p, u.group? ⟨c, p⟩ = some (startGroup l.fields tkey i)

/-- A launch of which tile `n` goes to a core. -/
def Launch.handOut (l : Launch) (n : Nat) : Launch :=
  if l.hasps.isEmpty && l.origin.isNone then { l with next := l.next + 1 } else { l with pool := l.pool.filter (· != n) }

/-- One of this module's own, without hasp lines, counts the tile. -/
theorem Launch.handOut_own {l : Launch} (hhasps : l.hasps = []) (horigin : l.origin = none) (n : Nat) :
    l.handOut n = { l with next := l.next + 1 } := if_pos (by rw [hhasps, horigin]; rfl)

section Clauses

variable {s : State} {c key : Nat} {l : Launch} (hl : s.launch? key = some l) (hkind : l.kind = .launch)
  (hserves : s.feServes = true) (hidle : s.domain (s.halfOf c) = .idle) (hoff : s.dbg.tren = false)
  (hgroups : 0 < groupsPerTile l.fields)
include hl hkind hserves hidle hoff hgroups

/-- TILE_PLACE places the next new tile (R74, R365). -/
theorem exec_tilePlace_starts {n : Nat} (hcore : s.coreLaunch c = some (key, l)) (hnext : s.nextTile c l = some n)
    (hhasps : l.hasps = []) (hown : ∀ k ∈ s.fe.launches, k.2.origin = none) :
    ∃ (u : State) (tkey : Nat) (t : Tile), exec (.tilePlace c) s = .next u ∧ TileStarts s u c key l tkey t ∧ t.index = n ∧
      t.mism = 0 ∧ t.coreBound = false ∧ t.lastAt = none ∧ (u.launch? key).map (·.next) = some (l.next + 1) ∧
      ((s.ctx l.ctx).holdsSlot s.fe.slots l.ctx = false → u.ms = s.ms) := by
  have horigin : l.origin = none := hown _ (NMap.mem_of_find hl)
  obtain ⟨ps, hps⟩ := State.places_of_canTake (State.canTake_of_coreLaunch hcore) hkind
  let l1 : Launch := { l with next := l.next + 1 }
  let s2 := (s.updLaunch key (·.handOut n)).updCtx l.ctx fun c => { c with lastRing := l.ring }
  let u := s2.placeTile c key { index := n, mism := 0, on := none }
  have hl1 : s2.launch? key = some l1 :=
    (State.launch_updLaunch_same s key (·.handOut n)).trans (by rw [hl, Option.map_some, Launch.handOut_own hhasps horigin])
  have hexec : exec (.tilePlace c) s = .next { u with fe := { u.fe with lastCtx := l.ctx } } := by
    have hgo : ¬ (s.power.on = false ∨ s.fe.frozen.isSome = true) := by
      simp only [State.feServes, Bool.and_eq_true] at hserves
      simp [hserves.1.1.1, Option.isNone_iff_eq_none.mp hserves.1.2]
    simp only [exec, execTilePlace, if_neg hgo, State.reportAll_of_own hown, hserves, State.askTiles_of_own hown c]
    rw [State.placeNext, hcore]
    simp only [hidle, hnext]
    rfl
  obtain ⟨htile, hgs, hlaunch, _, hms⟩ := State.placeTile_starts (l := l1) (ps := ps) hl1 hkind hps hgroups hoff
    { index := n, mism := 0, on := none }
  refine ⟨_, ps.headD 48, _, hexec, ⟨htile, rfl, rfl, rfl, rfl, rfl, rfl, hgs⟩, rfl, rfl, rfl, rfl, ?_, fun hslot => hms ?_⟩
  · exact congrArg (Option.map (·.next)) hlaunch
  · rw [State.ctx_updCtx_same]
    exact hslot

/-- REPLAY_PLACE places the replay of a launch that the list holds once (R227, R228). -/
theorem exec_replayPlace_starts (hwf : NMap.wf s.fe.launches = true) {r : Replay} (hreplays : l.replays = [r])
    (hturn : s.coreCtx c = some l.ctx) (hreplay : s.ctxReplay c l.ctx = some (key, 0, r)) :
    ∃ (u : State) (tkey : Nat) (t : Tile), exec (.replayPlace key c) s = .next u ∧ TileStarts s u c key l tkey t ∧
      t.index = r.index ∧ t.mism = r.mism ∧ t.coreBound = r.coreBound ∧ t.lastAt = r.lastAt ∧
      (u.launch? key).map (·.replays) = some [] ∧
      NMap.findD {} 4 (u.ctx l.ctx).counters = (NMap.findD {} 4 (s.ctx l.ctx).counters).add 48 1 ∧
      ((s.ctx l.ctx).holdsSlot s.fe.slots l.ctx = false → u.ms = s.ms) := by
  obtain ⟨ps, hps⟩ := State.places_of_canTake (State.canTake_of_ctxReplay hwf hl hreplay) hkind
  let l1 : Launch := { l with replays := [] }
  let s1 := s.updLaunch key fun l => { l with replays := dropAt 0 l.replays }
  let u := (s1.placeTile c key r).countCtx l.ctx 4 1
  have hl1 : s1.launch? key = some l1 := by
    rw [State.launch_updLaunch_same, hl, Option.map_some, hreplays]
    rfl
  have hexec : exec (.replayPlace key c) s = .next { u with fe := { u.fe with lastCtx := l.ctx } } := by
    simp only [exec, execReplayPlace, hserves, hl, hturn, hreplay, hidle, ↓reduceIte, Bool.true_eq_false, ne_eq,
      not_true_eq_false]
    rfl
  obtain ⟨htile, hgs, hlaunch, hctx, hms⟩ := State.placeTile_starts (l := l1) (ps := ps) hl1 hkind hps hgroups hoff r
  refine ⟨_, ps.headD 48, _, hexec, ⟨htile, rfl, rfl, rfl, rfl, rfl, rfl, hgs⟩, rfl, rfl, rfl, rfl, ?_, ?_, hms⟩
  · exact congrArg (Option.map (·.replays)) hlaunch
  · have h : u.ctx l.ctx = _ := State.ctx_updCtx_same _ _ _
    have hcounters := congrArg (fun x : Ctx => NMap.findD {} 4 x.counters) h
    rw [hctx] at hcounters
    refine hcounters.trans ?_
    rw [NMap.findD, NMap.find_ins_same]
    rfl

end Clauses

/-! ### Two launches listed under one key

Nothing in the statement says that the list of launches holds a key once. Where it does not, the replay that fits a core may
be the second launch's, and the placement looks the key up and takes the first launch's groups, for which no core has places. -/

/-- A tile that waits for its replay on core 0. -/
def waitingReplay : Replay := { index := 0, mism := 1, on := some 0 }

/-- A launch on core 0 of tiles of `n` threads, with one replay. -/
def replayingLaunch (n : Nat) : Launch :=
  { ctx := 1, ring := 0, count := 0, go := true, fields := { gx := 1, gy := 1, gz := 1, nthread := n }, chain := [(0, 0)]
    replays := [waitingReplay] }

/-- Under one key, a launch whose tiles of 49 groups fit no core and one whose tiles of one group do. -/
def twiceListed : State :=
  { State.reset with
    stage := .ready
    fe := { State.reset.fe with
      en := true, ctxs := [(1, { ward := 1, state := .resident })]
      launches := [(0, replayingLaunch 1568), (0, replayingLaunch 32)] } }

/-- Whether a step leaves core 0 without groups. -/
def leavesNoGroups : Host.Outcome State Fault Refusal → Bool
  | .next u => (u.core 0).groups.isEmpty
  | _ => false

theorem twiceListed_coreCtx : twiceListed.coreCtx 0 = some (replayingLaunch 1568).ctx := by decide +kernel

theorem twiceListed_ctxReplay : twiceListed.ctxReplay 0 (replayingLaunch 1568).ctx = some (0, 0, waitingReplay) := by
  decide +kernel

theorem twiceListed_leavesNoGroups : leavesNoGroups (exec (.replayPlace 0 0) twiceListed) = true := by decide +kernel

/-- Refutes O26: where two launches stand under one key, the replay of the second is placed as a tile of the first, without
a group. A new tile is always placed as stated (`exec_tilePlace_starts`), and so is the replay of a launch that the list
holds once (`exec_replayPlace_starts`). -/
theorem not_tilesArePlaced : ¬ Obligations.TilesArePlaced := by
  intro h
  obtain ⟨_, hreplay⟩ := h twiceListed 0 0 (replayingLaunch 1568) rfl rfl rfl rfl rfl (by decide)
  obtain ⟨u, tkey, t, hexec, ⟨_, _, _, _, _, _, _, hstarts⟩, _⟩ :=
    hreplay waitingReplay rfl twiceListed_coreCtx twiceListed_ctxReplay
  obtain ⟨p, hp⟩ := hstarts 0 (by decide)
  have hnone := twiceListed_leavesNoGroups
  rw [hexec] at hnone
  have hempty : (u.core 0).groups = [] := List.isEmpty_iff.mp hnone
  rw [State.group?, hempty] at hp
  cases hp

end Sys2Proof.Machine


/-! MOPEN, MCLOSE and MSHAPE (O16), and the instructions that join the array queue (O17). -/

namespace Sys2Proof.Machine

/-! ### Issue of a matrix instruction (R69, R152) -/

section Issue

variable {s u : State} {g : Site} {x : Group} {e : Enc} {c : Instr} {dec : Group → LaneMask → Dec} {ready : Group → Bool}
  {eff : Group → LaneMask → Done} {lanes : LaneMask} {i : MInstr}

/-- A matrix instruction that issues without divergence has its effect. -/
theorem State.issueMatrix_eq (h : Issues s g x e (dec x (x.guard e))) (hr : ready x = true)
    (hdiv : s.divergent g x (x.guard e) = false) :
    s.issueMatrix g e dec ready eff = s.settle g x x.pc (eff x (x.guard e)) :=
  (State.issue_eq h hr).trans (congrArg (s.settle g x x.pc) (if_neg (by simp [hdiv])))

theorem State.queueReady_of_room (h : (s.core g.core).queue.length < 8) : s.queueReady g = true := decide_eq_true h

/-- The state with an instruction of a group behind the others in its core's array queue. -/
def State.queued (s : State) (g : Site) (x : Group) (lanes : LaneMask) (i : MInstr) : State :=
  s.updCore g.core (fun k => { k with
    queue := k.queue ++ [{ place := g.place, order := x.order, pc := x.pc, lane := lowestLane lanes, instr := i }] })

/-- Queueing touches the queue and the group's order number alone. -/
theorem State.enqueue_eq :
    s.enqueue g x lanes i = (s.queued g x lanes i).setGroup g { x with order := x.order + 1 } := by
  rw [State.enqueue, State.setGroup, State.setGroup, State.queued, State.updCore_updCore, State.updCore_updCore]

theorem State.enqueue_updTile (key : Nat) (f : Tile → Tile) :
    (s.enqueue g x lanes i).updTile g.core key f = (s.updTile g.core key f).enqueue g x lanes i := by
  simp only [State.enqueue, State.updTile, State.setGroup, State.updCore_updCore]

/-- A group whose instruction has been queued moves on. -/
theorem State.settle_enqueue (hh : x.haltReq = none) (hs : x.stepping = false) :
    s.settle g x x.pc (.step (u.enqueue g x lanes i)) =
      (u.queued g x lanes i).after g { x with order := x.order + 1 } (x.pc + 8) := by
  rw [State.enqueue_eq]
  exact State.settle_put (y := { x with order := x.order + 1 }) hh hs

/-- An instruction whose effect is to queue `i`, with or without an extent that a watchpoint could have overlapped (R510). -/
theorem Queues.of_issue (hc : exec c s = okay (s.issueMatrix g e dec ready eff)) (h : Issues s g x e (dec x (x.guard e)))
    (hr : ready x = true) (hdiv : s.divergent g x (x.guard e) = false)
    (heff : eff x (x.guard e) = .step (u.enqueue g x (x.guard e) i) ∨
      eff x (x.guard e) = .watch (u.enqueue g x (x.guard e) i) none) : Queues s u c g x e i := by
  have hstep : s.settle g x x.pc (eff x (x.guard e)) = s.settle g x x.pc (.step (u.enqueue g x (x.guard e) i)) :=
    heff.elim (congrArg _) (congrArg (s.settle g x x.pc))
  rw [Queues, hc, State.issueMatrix_eq h hr hdiv, hstep]
  exact congrArg okay (State.settle_enqueue h.noHalt h.noStep)

end Issue

/-! ### The region of a core (R149, R150, R154) -/

section Regions

variable {s : State} {g : Site} {x : Group} {e : Enc}

theorem exec_mshape (hdiv : s.divergent g x (x.guard e) = false)
    (h : Issues s g x e (matDec false false false (e.type != 0 || decide (e.mods.toNat > 5)) (s.regionCond g x false) e)) :
    Moves s (.mshape g e) g { x with shape := e.mods.setWidth 3 } (x.pc + 8) := by
  change execMshape g e s = _
  rw [execMshape, State.issueMatrix_eq h rfl hdiv]
  exact congrArg okay (State.settle_put (y := { x with shape := e.mods.setWidth 3 }) h.noHalt h.noStep)

/-- The region that a group opens: of its pending shape, over the lanes that hold threads (R69, R150). -/
def Group.newRegion (x : Group) (place : Nat) (stat : Bool) : Region :=
  { place := place, shape := x.shape, stat := stat, lanes := x.threads, depth := x.stack.length }

/-- The state with a region opened over empty accumulators. -/
def State.withRegion (s : State) (c : Nat) (r : Region) : State :=
  s.updCore c (fun k => { k with region := some r, acc := [] })

theorem exec_mopen (hdiv : s.divergent g x (x.guard e) = false)
    (h : Issues s g x e (matDec false false false (e.type != 0 || decide (e.mods.toNat > 1)) (s.regionCond g x false) e))
    (hnone : (s.core g.core).region = none) (hall : x.threads &&& ~~~x.active = 0) :
    exec (.mopen g e) s =
      .next ((s.withRegion g.core (x.newRegion g.place (e.mods.getLsbD 0))).after g x (x.pc + 8)) := by
  have hgroup : (s.withRegion g.core (x.newRegion g.place (e.mods.getLsbD 0))).group? g = some x :=
    (State.group_updCore s g.core (by rfl) g).trans h.here
  change execMopen g e s = _
  rw [execMopen, State.issueMatrix_eq h (by rw [hnone]; rfl) hdiv, if_neg (by simp [hall])]
  exact congrArg okay (State.settle_step hgroup h.noHalt h.noStep)

/-- The state with the region of a core closing. -/
def State.closingRegion (s : State) (c : Nat) : State :=
  s.updCore c (fun k => { k with region := k.region.map (fun r => { r with closing := true }) })

theorem exec_mclose (hdiv : s.divergent g x (x.guard e) = false)
    (h : Issues s g x e (matDec false false false (e.type != 0 || e.mods != 0) (s.regionCond g x true) e))
    (hroom : (s.core g.core).queue.length < 8) :
    exec (.mclose g e) s = .next (((s.closingRegion g.core).queued g x (x.guard e) .mclose).after g
      { x with order := x.order + 1 } (x.pc + 8)) := by
  have hswap : (s.enqueue g x (x.guard e) .mclose).closingRegion g.core =
      (s.closingRegion g.core).enqueue g x (x.guard e) .mclose := by
    simp only [State.closingRegion, State.enqueue, State.setGroup, State.updCore_updCore]
  change execMclose g e s = _
  rw [execMclose, State.issueMatrix_eq h (State.queueReady_of_room hroom) hdiv]
  exact congrArg okay ((congrArg (fun t => s.settle g x x.pc (.step t)) hswap).trans
    (State.settle_enqueue h.noHalt h.noStep))

end Regions

/-- A group that moves on leaves its core's matrix array alone. -/
theorem State.core_after_array (s : State) (g : Site) (z : Group) (next : DWord) :
    ((s.after g z next).core g.core).region = (s.core g.core).region ∧
      ((s.after g z next).core g.core).queue = (s.core g.core).queue ∧
      ((s.after g z next).core g.core).acc = (s.core g.core).acc := by
  rw [State.after, State.turn, State.core_updCore_same]
  split <;> rw [State.core_moved] <;> exact ⟨rfl, rfl, rfl⟩

/-- Settles O16: each instruction by its effect on the group or on its core. -/
theorem matrixRegions : Obligations.MatrixRegions := by
  intro s g x e hdiv
  refine ⟨exec_mshape hdiv, exec_mopen hdiv, fun h hroom => ?mclose⟩
  case mclose =>
    obtain ⟨hregion, hqueue, hacc⟩ := State.core_after_array
      ((s.closingRegion g.core).queued g x (x.guard e) .mclose) g { x with order := x.order + 1 } (x.pc + 8)
    refine ⟨_, exec_mclose hdiv h hroom, hregion.trans ?_, hqueue.trans ?_, State.group_after _ g _ _, hacc.trans ?_,
      rfl, rfl, rfl⟩ <;> simp [State.queued, State.closingRegion]

/-! ### MRELAY (R205, R230) -/

/-- A receive that finds fewer than two messages retained, or not both used, commits nothing. -/
theorem State.relayCommit_none {s : State} {core key : Nat} {dir : Bool} (h : ∀ t, s.tile? core key = some t →
    (((s.core core).relay dir).kept t).length < 2 ∨ t.served dir < 2) : s.relayCommit core key dir = (true, s) := by
  unfold State.relayCommit
  split
  · rfl
  · next t ht => exact if_pos (h t ht)

/-- Neither does an MRELAY that receives nothing. -/
theorem State.relayFirst_none {s : State} {core key role : Nat} {dir : Bool}
    (h : role = 0 ∨ s.hasPrev core dir = false ∨ ∀ t, s.tile? core key = some t →
      (((s.core core).relay dir).kept t).length < 2 ∨ t.served dir < 2) :
    (if role = 0 ∨ s.hasPrev core dir = false then (true, s) else s.relayCommit core key dir) = (true, s) := by
  split
  · rfl
  · next hgets =>
    obtain ⟨hrole, hprev⟩ := not_or.mp hgets
    exact State.relayCommit_none ((h.resolve_left hrole).resolve_left hprev)

/-! ### The statement -/

/-- Settles O17: each instruction by what it puts into the queue. That MLOAD and MDRAIN mark the leaves of their extents
as they issue rests on how the model holds the IOMMU's tables (log 9). -/
theorem matrixInstructionsQueue : Obligations.MatrixInstructionsQueue := by
  intro s g x e lanes reg fmt acc va dir pitchL pitchD rowsL rowsD rm hdiv hroom
  have hready := State.queueReady_of_room hroom
  refine ⟨fun pages h hfence hatoms hva hpitch hpages hwatch => ?mload, fun h => .of_issue rfl h hready hdiv (.inl rfl),
    fun h => .of_issue rfl h hready hdiv (.inl rfl), fun h hfence hatoms hsb => ⟨fun hchuck => ?chuck,
    fun pages hmem hva hpages hwatch => ?memory⟩, fun h hdrained hnocommit => ?mrelay,
    fun h => .of_issue rfl h hready hdiv (.inl rfl)⟩
  case mload =>
    refine .of_issue rfl h (by simp [hready, hfence, hatoms]) hdiv (.inr ?_)
    refine (if_neg (not_or.mpr ⟨not_not.mpr hva, not_not.mpr hpitch⟩)).trans ?_
    simp only [rowsL, reg, fmt, va, pitchL, lanes] at hpages hwatch
    simp only [bitAt, hpages, hwatch]
    rfl
  case chuck =>
    exact .of_issue rfl h (by simp [hready, hfence, hatoms, hsb]) hdiv (.inl (if_pos hchuck))
  case memory =>
    refine .of_issue rfl h (by simp [hready, hfence, hatoms, hsb]) hdiv (.inr ?_)
    refine (if_neg (by simpa [bitAt] using hmem)).trans ((if_neg (not_not.mpr hva)).trans ?_)
    simp only [rowsD, reg, fmt, va, pitchD, lanes] at hpages hwatch
    simp only [hpages, hwatch]
    rfl
  case mrelay =>
    have hfirst : (if field e.mods 3 2 = 0 ∨ s.hasPrev g.core (bitAt (x.ru e.a) 0) = false then (true, s)
        else s.relayCommit g.core x.tile (bitAt (x.ru e.a) 0)) = (true, s) := State.relayFirst_none hnocommit
    refine .of_issue rfl h (by simp [hready, hdrained]) hdiv (.inl ?_)
    refine Eq.trans ?_ (congrArg Done.step (State.enqueue_updTile x.tile _))
    simp only [hfirst]
    rfl

end Sys2Proof.Machine


/-! The array queue's head starts, a running matrix instruction finishes, and a held relay send goes on (O23). -/

namespace Sys2Proof.Machine

theorem State.updCore_setCore (s : State) (c : Nat) (k : Core) (f : Core → Core) :
    (s.setCore c k).updCore c f = s.setCore c (f k) := by
  simp [State.updCore, State.setCore, State.core]

/-! ### Start (R152) -/

section Start

variable {s : State} {c key : Nat} {r : Region} {m : MEntry} {rest : List MEntry}

/-- The core's region is open over a tile, and the head of its queue may start beside what runs. -/
structure State.Starts (s : State) (c key : Nat) (r : Region) (m : MEntry) (rest : List MEntry) : Prop where
  queue  : (s.core c).queue = m :: rest
  region : (s.core c).region = some r
  tile   : s.regionTile c = some key
  may    : mayStart (s.core c).running m.instr = true

/-- The state with the queue's head moved among the running instructions, as `e`. -/
def State.started (s : State) (c : Nat) (rest : List MEntry) (e : MEntry) : State :=
  s.setCore c { s.core c with queue := rest, running := (s.core c).running ++ [e] }

theorem State.started_eq (s : State) (c : Nat) (rest : List MEntry) (e : MEntry) :
    (s.setCore c { s.core c with queue := rest }).updCore c (fun k => { k with running := k.running ++ [e] }) =
      s.started c rest e := State.updCore_setCore ..

/-- Whether every output of a set is checked (R223). -/
def AccSet.allChecked (a : AccSet) (r : Region) : Bool :=
  (List.range (outCount r.stat r.shape)).all (fun o => a.outClass r.stat r.shape o == .checked)

/-- The head of the queue as it runs: an MCLOSE as it was queued, and an MCHK over a set without a mismatch with the note
whether all of its outputs are checked. -/
inductive Core.StartsAs (k : Core) (r : Region) (m : MEntry) : MEntry → Prop
  | mclose (hm : m.instr = .mclose) : k.StartsAs r m m
  | mchk {acc pdst : Nat} {mask : LaneMask} (hm : m.instr = .mchk acc pdst mask)
      (hok : (k.accSet acc).mismatch r.stat = false) :
      k.StartsAs r m { m with added := (k.accSet acc).allChecked r }

/-- The head of the queue starts by running (R152). -/
theorem exec_arrayStart {e : MEntry} (h : s.Starts c key r m rest) (he : (s.core c).StartsAs r m e) :
    exec (.arrayStart c) s = .next (s.started c rest e) := by
  obtain ⟨hqueue, hregion, htile, hmay⟩ := h
  change okay (s.arrayStart c) = okay _
  congr 1
  unfold State.arrayStart
  dsimp only
  split
  · next m' rest' r' key' hqueue' hregion' htile' =>
    obtain ⟨rfl, rfl⟩ := List.cons.inj (hqueue.symm.trans hqueue')
    obtain rfl := Option.some.inj (hregion.symm.trans hregion')
    rw [if_neg (by simp [hmay])]
    cases he with
    | mclose hm => simp only [hm, State.started_eq]
    | mchk hm hok => simp only [hm, hok, Bool.false_eq_true, if_false, State.started_eq, AccSet.allChecked]
  · next hnot => exact absurd htile (hnot m rest r key hqueue hregion)

end Start

/-! ### Finish (R154, R223) -/

section Finish

variable {s : State} {c : Nat} {m : MEntry} {rest : List MEntry} {x : Group}

theorem State.dropRunning_head (h : (s.core c).running = m :: rest) :
    s.dropRunning c 0 = s.setCore c { s.core c with running := rest } := by
  rw [State.dropRunning, State.updCore, h, dropAt]

/-- A group that no halt waits for is left alone. -/
theorem State.settleHalt_noHalt {g : Site} (hx : s.group? g = some x) (hh : x.haltReq = none) : s.settleHalt g = s := by
  simp only [State.settleHalt, hx, hh]

theorem State.core_dropRunning (s : State) (c i : Nat) :
    (s.dropRunning c i).core c = { s.core c with running := dropAt i (s.core c).running } := State.core_updCore_same ..

theorem State.tile_dropRunning (s : State) (c i key : Nat) : (s.dropRunning c i).tile? c key = s.tile? c key :=
  State.tile_updCore_same ..

theorem State.accSet_dropRunning (s : State) (c i acc : Nat) :
    ((s.dropRunning c i).core c).accSet acc = (s.core c).accSet acc := by
  rw [State.core_dropRunning]
  rfl

theorem State.group_dropRunning (s : State) (c i : Nat) (g : Site) : (s.dropRunning c i).group? g = s.group? g :=
  s.group_updCore c (by rfl) g

/-- The first of the running instructions, without poison and not held, is the one that finishes. -/
theorem findIdx_ready (hrun : (s.core c).running = m :: rest) (hpoison : m.poison = none) (hheld : m.held = false) :
    findIdx MEntry.ready 0 (s.core c).running = some (0, m) := by
  rw [hrun]
  exact if_pos (by simp [MEntry.ready, hpoison, hheld])

/-- MCLOSE finishes: the region is gone with its accumulators. -/
theorem exec_matrixInstructionFinish_mclose (hrun : (s.core c).running = m :: rest) (hpoison : m.poison = none)
    (hheld : m.held = false) (hx : s.group? ⟨c, m.place⟩ = some x) (hh : x.haltReq = none) (hm : m.instr = .mclose) :
    exec (.matrixInstructionFinish c) s =
      .next (s.setCore c { s.core c with running := rest, region := none, acc := [] }) := by
  have hgroup : ((s.dropRunning c 0).updCore c (fun k => { k with region := none, acc := [] })).group? ⟨c, m.place⟩ =
      some x := (State.group_updCore _ c (by rfl) _).trans ((s.group_dropRunning c 0 _).trans hx)
  change execMatrixInstructionFinish c s = _
  simp only [execMatrixInstructionFinish, State.matrixFinish, findIdx_ready hrun hpoison hheld, hm]
  rw [State.settleHalt_noHalt hgroup hh, State.dropRunning_head hrun, State.updCore_setCore]

/-- MCHK finishes: its group holds the answer in the predicate. -/
theorem exec_matrixInstructionFinish_mchk {acc pdst : Nat} {mask : LaneMask} (hrun : (s.core c).running = m :: rest)
    (hpoison : m.poison = none) (hheld : m.held = false) (hx : s.group? ⟨c, m.place⟩ = some x) (hh : x.haltReq = none)
    (hm : m.instr = .mchk acc pdst mask) :
    exec (.matrixInstructionFinish c) s = .next ((s.setCore c { s.core c with running := rest }).setGroup ⟨c, m.place⟩
      (x.wp pdst mask (if m.added then BitVec.allOnes 32 else 0))) := by
  have hhalt : (x.wp pdst mask (if m.added then BitVec.allOnes 32 else 0)).haltReq = none := by
    rw [Group.wp_only]
    exact hh
  change execMatrixInstructionFinish c s = _
  simp only [execMatrixInstructionFinish, State.matrixFinish, findIdx_ready hrun hpoison hheld, hm]
  rw [State.updGroup_of_group ((s.group_dropRunning c 0 _).trans hx),
    State.settleHalt_noHalt (State.group_setGroup_same _ _ _) hhalt, State.dropRunning_head hrun]

end Finish

/-! ### A relay message to another core of this module (R208, R210) -/

@[simp] theorem Core.relay_setRelay (k : Core) (dir : Bool) (r : RelayDir) : (k.setRelay dir r).relay dir = r := by
  cases dir <;> rfl

/-- A core whose incoming queue is empty accepts a message, or discards it as one it has had; one that has accepted none
yet holds it. -/
theorem Core.acceptRelay_of_empty {k : Core} {q : RelayMsg} (h : (k.relay q.dir).inq = []) :
    ∃ k', k.acceptRelay q = some k' ∧ ((k.relay q.dir).last = none → (k'.relay q.dir).inq = [q]) := by
  by_cases hre : (k.relay q.dir).resend q = true
  · refine ⟨k, if_pos hre, fun hlast => ?_⟩
    simp [RelayDir.resend, hlast] at hre
  · refine ⟨_, (if_neg hre).trans (if_neg (by simp [h])), fun _ => ?_⟩
    simp [h]

section Relay

variable {s : State} {c c2 key : Nat} {dir : Bool} {a : AccSet} {r : Region} {t : Tile} {l : Launch}

/-- The message that carries a set from a core in a direction (R208). -/
def State.relayMsg (s : State) (c : Nat) (t : Tile) (l : Launch) (dir : Bool) (a : AccSet) (r : Region) : RelayMsg :=
  { anchor := a.anchor, unset := a.unset, fast := a.fast, dir := dir, stat := r.stat, shape := r.shape, tile := t.index
    seq := if dir then t.sendSeq1 else t.sendSeq0, core := c, modOrd := s.here, lnum := l.fields.lnum
    origin := l.origin.getD s.here, words := a.words }

/-- The tile with one more send of a direction. -/
def Tile.countSend (dir : Bool) (t : Tile) : Tile :=
  if dir then { t with sendSeq1 := t.sendSeq1 + 1 } else { t with sendSeq0 := t.sendSeq0 + 1 }

/-- A send whose next core is one of this module goes through where that core accepts the message. -/
theorem State.relaySend_here (ht : s.tile? c key = some t) (hl : s.launch? t.launch = some l)
    (hnext : chainNext l.chain dir (s.here, c) = some (s.here, c2)) :
    s.relaySend c key dir a r = ((s.core c2).acceptRelay (s.relayMsg c t l dir a r)).map
      (fun k => (s.setCore c2 k).updTile c key (Tile.countSend dir)) := by
  simp only [State.relaySend, ht, hl, hnext, if_true]
  rfl

/-- Two cores after the second has accepted a message and the first has counted it. -/
theorem State.core_sent (hne : c2 ≠ c) (k : Core) (f : Tile → Tile) :
    ((s.setCore c2 k).updTile c key f).core c =
        { s.core c with tiles := NMap.modify key f (s.core c).tiles } ∧
      ((s.setCore c2 k).updTile c key f).core c2 = k := by
  rw [State.updTile, State.core_updCore_same, State.core_updCore_ne _ hne, State.core_setCore_ne s hne.symm,
    State.core_setCore_same]
  exact ⟨rfl, rfl⟩

/-- A relay entry that receives nothing, over a set without a mismatch, is done once its message is sent (R205, R222). -/
theorem State.workRelay_sent {u : State} {m : MEntry} {acc : Nat}
    (hok : ((s.core c).accSet acc).mismatch r.stat = false)
    (hsend : s.relaySend c key dir ((s.core c).accSet acc) r = some u) :
    s.workRelay c key r m acc 0 dir =
      u.updCore c (fun k => { k with running := k.running ++ [{ m with added := true, held := false }] }) := by
  simp only [State.workRelay, true_or, if_true, hok, Bool.false_eq_true, if_false, hsend]

/-- So it is where the next core is another one of this module, whose incoming queue is empty; a core that has accepted no
message yet then holds the one sent (R208, R210). -/
theorem State.workRelay_here {m : MEntry} {acc : Nat} (ht : s.tile? c key = some t) (hl : s.launch? t.launch = some l)
    (hok : ((s.core c).accSet acc).mismatch r.stat = false)
    (hnext : chainNext l.chain dir (s.here, c) = some (s.here, c2)) (hne : c2 ≠ c)
    (hinq : ((s.core c2).relay dir).inq = []) :
    ((s.workRelay c key r m acc 0 dir).core c).running =
        (s.core c).running ++ [{ m with added := true, held := false }] ∧
      ((s.workRelay c key r m acc 0 dir).core c).acc = (s.core c).acc ∧
      (((s.core c2).relay dir).last = none → (((s.workRelay c key r m acc 0 dir).core c2).relay dir).inq =
        [s.relayMsg c t l dir ((s.core c).accSet acc) r]) := by
  obtain ⟨k', haccept, hgot⟩ := Core.acceptRelay_of_empty (q := s.relayMsg c t l dir ((s.core c).accSet acc) r) hinq
  have hsend : s.relaySend c key dir ((s.core c).accSet acc) r =
      some ((s.setCore c2 k').updTile c key (Tile.countSend dir)) := by
    rw [State.relaySend_here ht hl hnext, haccept, Option.map_some]
  obtain ⟨hc, hc2⟩ := s.core_sent (key := key) hne k' (Tile.countSend dir)
  rw [State.workRelay_sent hok hsend, State.core_updCore_same, State.core_updCore_ne _ hne, hc, hc2]
  exact ⟨rfl, rfl, hgot⟩

/-- A held relay entry alone in the array is worked on again. -/
theorem exec_relaySendResume {m : MEntry} {acc : Nat} {role : BitVec 2} (hrun : (s.core c).running = [m])
    (hm : m.instr = .mrelay acc role dir) (hheld : m.held = true) (hregion : (s.core c).region = some r)
    (htile : s.regionTile c = some key) :
    exec (.relaySendResume c) s = .next ((s.dropRunning c 0).workRelay c key r m acc role dir) := by
  have hfind : findIdx (fun e : MEntry => e.held) 0 (s.core c).running = some (0, m) := by
    rw [hrun]
    exact if_pos hheld
  change execRelaySendResume c s = _
  simp only [execRelaySendResume, hfind, hregion, htile, hm]

end Relay

/-! ### The statement -/

/-- Settles O23: MCLOSE and MCHK by their start and by their finish, the held relay send by the message that the next core
accepts. -/
theorem arrayEvents : Obligations.ArrayEvents := by
  intro s c key r m rest k
  refine ⟨fun hqueue hregion htile hmay => ?start,
    fun hrun hpoison hheld x hx hh => ⟨?mclose, fun acc pdst mask hm => ?mchk⟩,
    fun acc d t l c2 hrun hm hheld hregion htile ht hl hok hnext hne hinq => ?relay⟩
  case start =>
    have h : s.Starts c key r m rest := ⟨hqueue, hregion, htile, hmay⟩
    exact ⟨fun hm => exec_arrayStart h (.mclose hm), fun _ _ _ hm hok => exec_arrayStart h (.mchk hm hok)⟩
  case mclose => exact exec_matrixInstructionFinish_mclose hrun hpoison hheld hx hh
  case mchk =>
    refine ⟨_, _, exec_matrixInstructionFinish_mchk hrun hpoison hheld hx hh hm, State.group_setGroup_same _ _ _,
      Group.wp_only .., by simp [State.setGroup], rfl, fun i n hi _ => ?_⟩
    have hlane : (if m.added then BitVec.allOnes 32 else (0 : LaneMask)).getLsbD i = m.added := by
      cases m.added with
      | false => exact BitVec.getLsbD_zero
      | true => exact BitVec.getLsbD_allOnes.trans (decide_eq_true hi)
    rw [Group.rp_wp _ _ _ _ _ _ hi, hlane]
  case relay =>
    have hacc := s.accSet_dropRunning c 0 acc
    have hother : (s.dropRunning c 0).core c2 = s.core c2 := State.core_updCore_ne s hne _
    obtain ⟨hrunning, hsets, hmsg⟩ := State.workRelay_here (s := s.dropRunning c 0) (m := m)
      ((s.tile_dropRunning c 0 key).trans ht) hl (hacc ▸ hok) hnext hne (hother ▸ hinq)
    rw [State.core_dropRunning, hrun] at hrunning
    rw [State.core_dropRunning] at hsets
    rw [hother, hacc] at hmsg
    exact ⟨_, exec_relaySendResume hrun hm hheld hregion htile, hrunning, hsets,
      fun hlast => ⟨_, hmsg hlast, rfl, rfl, rfl, rfl⟩⟩

end Sys2Proof.Machine

/-! A core retired onto a spare position, and the record of the new spare map (O27, R232, R233, R235, R490, log 86). -/

namespace Sys2Proof.Machine

/-! ### The lowest unused spare (R232) -/

/-- The lowest position that no logical core is mapped to and that is not retired is the spare taken. -/
theorem SpareMap.spare_eq {m : SpareMap} {p : Nat} (hspares : m.spares ≠ 0) (hp : p < 100) (hunused : p ∉ NMap.vals m.map)
    (hserves : m.retired.getLsbD p = false) (hlowest : ∀ q, q < p → q ∈ NMap.vals m.map ∨ m.retired.getLsbD q = true) :
    m.spare = some p := by
  rw [SpareMap.spare, if_neg hspares, List.find?_range_eq_some]
  refine ⟨by simp [hunused, hserves], List.mem_range.mpr hp, fun q hq => ?_⟩
  rcases hlowest q hq with h | h <;> simp [h]

/-- A position put in the vector of retired ones is in it. -/
theorem getLsbD_or_ofNat_two_pow (x : BitVec 100) {n : Nat} (hn : n < 100) :
    (x ||| BitVec.ofNat 100 (2 ^ n)).getLsbD n = true := by
  rw [BitVec.getLsbD_or, BitVec.getLsbD_ofNat, Nat.testBit_two_pow_self, decide_eq_true hn, Bool.and_self, Bool.or_true]

/-! ### Spare maps and positions (R235) -/

theorem State.spareMap_setSpareMap_same (s : State) (die : Nat) (m : SpareMap) :
    (s.setSpareMap die m).spareMap die = m := NMap.findD_ins_same _ _ _ _

theorem State.spareMap_setSpareMap_ne (s : State) {die d : Nat} (h : d ≠ die) (m : SpareMap) :
    (s.setSpareMap die m).spareMap d = s.spareMap d := NMap.findD_ins_ne h _ _ _

/-- Spare maps and positions are the keeper's. -/
theorem State.spareMap_congr {s t : State} (h : t.sec = s.sec) (die : Nat) : t.spareMap die = s.spareMap die := by
  rw [State.spareMap, State.spareMap, h]

theorem State.positionOf_congr {s t : State} (h : t.sec = s.sec) (c : Nat) : t.positionOf c = s.positionOf c := by
  rw [State.positionOf, State.positionOf, State.spareMap_congr h]

theorem dieOfCore_mod_inj {a b : Nat} (hdie : dieOfCore a = dieOfCore b) (hmod : a % 96 = b % 96) : a = b := by
  rw [← Nat.div_add_mod a 96, ← Nat.div_add_mod b 96, hmod, show a / 96 = b / 96 from hdie]

/-- A spare map with a core's logical position moved moves that core and no other. -/
theorem State.positionOf_setSpareMap {s : State} {c p : Nat} {m : SpareMap}
    (hm : m.map = NMap.ins (c % 96) p (s.spareMap (dieOfCore c)).map) (c2 : Nat) :
    (s.setSpareMap (dieOfCore c) m).positionOf c2 = if c2 = c then p else s.positionOf c2 := by
  rw [State.positionOf]
  by_cases hdie : dieOfCore c2 = dieOfCore c
  · rw [hdie, State.spareMap_setSpareMap_same, hm]
    split
    · next h => rw [h, NMap.findD_ins_same]
    · next h =>
      rw [NMap.findD_ins_ne (fun hmod => h (dieOfCore_mod_inj hdie hmod)), State.positionOf, hdie]
  · rw [State.spareMap_setSpareMap_ne s hdie, if_neg (fun h => hdie (congrArg dieOfCore h)), State.positionOf]

/-! ### Retirement (R232) -/

/-- The spare map after a core's position is retired in favour of position `p`. -/
def State.retiredMap (s : State) (c p : Nat) : SpareMap :=
  let m := s.spareMap (dieOfCore c)
  { m with map := NMap.ins (c % 96) p m.map, retired := m.retired ||| BitVec.ofNat 100 (2 ^ s.positionOf c)
           spares := m.spares - 1, retires := m.retires.add 16 1 }

/-- A keeper event that is counted takes nothing but reservations from the cores. -/
theorem State.countedEvent_coresKept (s : State) (i n code info : Nat) :
    CoresKept s ((s.countModule i n).keeperEvent code info) :=
  (CoresKept.of_cores rfl).trans (State.logEvent_coresKept (s.countModule i n) _ _ _ _ _ _)

/-- RETIREMENT of a core whose last tile has ended, on a die with a spare: its new spare map waits to be recorded, and
the core is no more being retired. -/
theorem exec_retirement {s : State} {c p : Nat} (hon : s.power.on = true) (hretiring : (s.core c).retiring = true)
    (htiles : (s.core c).tiles = []) (hfenced : (s.spareMap (dieOfCore c)).fenced = false)
    (hspare : (s.spareMap (dieOfCore c)).spare = some p) :
    ∃ u, exec (.retirement c) s = .next u ∧ u.sec = (s.setSpareMap (dieOfCore c) (s.retiredMap c p)).sec ∧
      (u.core c).retiring = false := by
  have hgo : ¬ ((s.core c).retiring = false ∨ ¬ (s.core c).tiles.isEmpty = true ∨
      (s.spareMap (dieOfCore c)).fenced = true ∨ s.power.on = false) := by
    simp [hon, hretiring, htiles, hfenced]
  change ∃ u, execRetirement c s = _ ∧ _
  rw [execRetirement, if_neg hgo, hspare]
  refine ⟨_, rfl, State.keeperEvent_sec _ _ _, ?_⟩
  obtain ⟨q, hq⟩ := State.countedEvent_coresKept _ 1 1 1 _ c
  rw [hq, State.core_updCore_same]
  rfl

/-! ### The record (R233, R490) -/

theorem mem_modAt_const {α : Type} (r : α) {i : Nat} {xs : List α} (h : i < xs.length) : r ∈ modAt (fun _ => r) i xs := by
  induction xs generalizing i with
  | nil => exact absurd h (Nat.not_lt_zero _)
  | cons x xs ih =>
    cases i with
    | zero => exact List.mem_cons_self
    | succ i => exact List.mem_cons_of_mem _ (ih (Nat.lt_of_succ_lt_succ h))

theorem olderCopy_lt_two (l : List CfgRecord) : olderCopy l < 2 := by
  unfold olderCopy
  split
  · split
    · decide
    · split
      · decide
      · split <;> decide
  · decide

/-- A bank holds the record that was put in it. -/
theorem Bank.mem_cfgs_putCfg (b : Bank) (r : CfgRecord) : r ∈ (b.putCfg r).cfgs := by
  unfold Bank.putCfg
  split
  · exact List.mem_append_right _ (List.mem_singleton_self r)
  · next h => exact mem_modAt_const r ((olderCopy_lt_two b.cfgs).trans_le (Nat.le_of_not_lt h))

/-- RETIREMENT_RECORD of a die whose spare map changed: the next record, in both banks, and nothing left to record. -/
theorem exec_retirementRecord {s : State} {die : Nat} (hon : s.power.on = true) (hdie : die ∈ s.sec.unrecorded) :
    exec (.retirementRecord die) s = .next { s with sec := { s.sec with
      cfg := { s.sec.cfg with seq := s.sec.cfg.seq + 1, valid := true }
      bankA := s.sec.bankA.putCfg { s.sec.cfg with seq := s.sec.cfg.seq + 1, valid := true }
      bankB := s.sec.bankB.putCfg { s.sec.cfg with seq := s.sec.cfg.seq + 1, valid := true }
      unrecorded := [] } } :=
  if_neg (by simp [hon, hdie])

/-! ### The statement -/

/-- Settles O27: the core moves by its die's new spare map, and the record follows. That the new record goes into both
banks is the model's choice (log 86); R490 asks only for two copies in each bank. -/
theorem coreRetires : Obligations.CoreRetires := by
  intro s c p d m hon
  refine ⟨fun hretiring htiles hfenced hspares hp hunused hserves hlowest => ?retires, fun die hdie => ?records⟩
  case retires =>
    obtain ⟨u, hexec, hsec, hcore⟩ := exec_retirement hon hretiring htiles hfenced
      (SpareMap.spare_eq hspares hp hunused hserves hlowest)
    have hmap : u.spareMap d = s.retiredMap c p :=
      (State.spareMap_congr hsec d).trans (s.spareMap_setSpareMap_same d _)
    have hposition : ∀ c2, u.positionOf c2 = if c2 = c then p else s.positionOf c2 := fun c2 =>
      (State.positionOf_congr hsec c2).trans (State.positionOf_setSpareMap rfl c2)
    refine ⟨u, hexec, (hposition c).trans (if_pos rfl), by rw [hmap]; rfl, fun hold => ?_, hcore, ?_,
      fun c2 _ hne _ => (hposition c2).trans (if_neg hne)⟩
    · rw [hmap]
      exact getLsbD_or_ofNat_two_pow _ hold
    · rw [hsec]
      exact mem_addNew_self d _
  case records =>
    exact ⟨_, exec_retirementRecord hon hdie, rfl, rfl, Bank.mem_cfgs_putCfg _ _, Bank.mem_cfgs_putCfg _ _, rfl⟩

end Sys2Proof.Machine

/-! A die that the keeper fences (O28, R31, R234, R468): the many operations of a fence by what none of them touches, the
states of the domains and the keeper's records, which the fence then changes by itself. -/

namespace Sys2Proof.Machine

/-! ### Operations that leave the domains' states and the keeper's records alone -/

/-- Every domain is in the state it was in, and the keeper's records are as they were. What the domains are asked to
wake and which excursions are recorded may differ. -/
structure DomainsKept (s t : State) : Prop where
  domains : t.power.domains = s.power.domains
  sec : t.sec = s.sec

theorem DomainsKept.refl (s : State) : DomainsKept s s := ⟨rfl, rfl⟩

theorem DomainsKept.trans {s t u : State} (h1 : DomainsKept s t) (h2 : DomainsKept t u) : DomainsKept s u :=
  ⟨h2.domains.trans h1.domains, h2.sec.trans h1.sec⟩

theorem DomainsKept.of_eq {s t : State} (hpower : t.power = s.power) (hsec : t.sec = s.sec) : DomainsKept s t :=
  ⟨congrArg Power.domains hpower, hsec⟩

/-- What comes before may be of any shape, as long as power and the keeper are left alone. -/
theorem DomainsKept.after {s t u : State} (h : DomainsKept t u) (hpower : t.power = s.power) (hsec : t.sec = s.sec) :
    DomainsKept s u := (DomainsKept.of_eq hpower hsec).trans h

theorem DomainsKept.foldl {β : Type} {f : State → β → State} (hf : ∀ s b, DomainsKept s (f s b)) (l : List β) (s : State) :
    DomainsKept s (l.foldl f s) :=
  foldl_keeps (DomainsKept s) f (fun t b h => h.trans (hf t b)) l s (.refl s)

theorem DomainsKept.domain {s t : State} (h : DomainsKept s t) (d : Nat) : t.domain d = s.domain d := by
  rw [State.domain, State.domain, h.domains]

theorem DomainsKept.fenced {s t : State} (h : DomainsKept s t) (die : Nat) : t.fenced die = s.fenced die := by
  rw [State.fenced, State.fenced, h.sec]

theorem LogOnly.domainsKept {s t : State} (h : LogOnly s t) : DomainsKept s t :=
  .of_eq ((congrArg State.power (Eq.trans h rfl)).trans rfl) ((congrArg State.sec (Eq.trans h rfl)).trans rfl)

theorem TraceOnly.domainsKept {s t : State} (h : TraceOnly s t) : DomainsKept s t := h.toLog.domainsKept

theorem MemOnly.domainsKept {s t : State} (h : MemOnly s t) : DomainsKept s t := h.toTrace.domainsKept

/-! ### Writes (R293, R298) -/

theorem State.cohWrite_domainsKept (s : State) (tag pa : Nat) (bytes : List Byte) :
    DomainsKept s (s.cohWrite tag pa bytes) := (s.cohWrite_memOnly tag pa bytes).domainsKept

theorem State.stampSram_domainsKept (s : State) (die a n : Nat) (back : Option Nat) :
    DomainsKept s (s.stampSram die a n back) := by
  unfold State.stampSram
  split <;> exact .of_eq rfl rfl

theorem State.sramStamped_domainsKept (s : State) (die a n : Nat) (bytes : List Byte) (back : Option Nat) :
    DomainsKept s ((s.sramWrite die a bytes).stampSram die a n back) :=
  (State.stampSram_domainsKept _ die a n back).after rfl rfl

theorem State.targetWrite_domainsKept (s : State) (t : Target) (tag : Nat) (bytes : List Byte) :
    DomainsKept s (s.targetWrite t tag bytes) := by
  cases t with
  | cache pa => exact s.cohWrite_domainsKept tag pa bytes
  | uncached pa => exact .foldl (fun st lm => (st.memAccept_memOnly _ _ _ _).domainsKept) _ s
  | share die a back =>
    have h1 := s.sramStamped_domainsKept die a bytes.length bytes back
    cases back with
    | none => exact h1
    | some pa => exact h1.trans (State.cohWrite_domainsKept _ tag pa bytes)
  | window p pa c => exact .refl s
  | mmio pa => exact .refl s

theorem State.translated_domainsKept (s : State) (ctx : Nat) (k : AccKind) (vas : List Nat) :
    DomainsKept s (s.translated ctx k vas) := by
  rw [State.translated_only]
  exact .of_eq rfl rfl

theorem State.debugEvent_domainsKept (s : State) (g : Site) (causes n lane brk addr : Nat) :
    DomainsKept s (s.debugEvent g causes n lane brk addr) := (s.debugEvent_only g causes n lane brk addr).domainsKept

theorem State.trace_domainsKept (s : State) (type ward ctx core place high : Nat) :
    DomainsKept s (s.trace type ward ctx core place high) := (s.trace_only type ward ctx core place high).domainsKept

/-- A keeper event that is counted (R516). -/
theorem State.countedEvent_domainsKept (s : State) (i n code info : Nat) :
    DomainsKept s ((s.countModule i n).keeperEvent code info) :=
  (State.keeperEvent_only _ code info).domainsKept.after rfl rfl

theorem State.setSlot_domainsKept (s : State) (i : Nat) (x : Slot) : DomainsKept s (s.setSlot i x) :=
  (State.cohWrite_domainsKept _ _ _ _).after rfl rfl

theorem State.syncSlotOf_domainsKept (s : State) (ctx : Nat) : DomainsKept s (s.syncSlotOf ctx) := by
  unfold State.syncSlotOf
  extract_lets c
  split
  · exact s.setSlot_domainsKept _ _
  · exact .refl s

/-! ### Tiles stopped (R106) -/

theorem State.putStatus_domainsKept (s : State) (core : Nat) (t : Tile) (va : Nat) (tg : Target) (bs : List Byte) :
    DomainsKept s (s.putStatus core t va tg bs) := by
  unfold State.putStatus
  extract_lets s1
  refine (s.translated_domainsKept t.ctx .write [va]).trans ?_
  split
  · exact .of_eq rfl rfl
  · exact .of_eq rfl rfl
  · exact s1.targetWrite_domainsKept _ _ _

theorem State.writeStatus_domainsKept (s : State) (core key : Nat) (t : Tile) (sp : Spindle) (state cause desc addr : Nat) :
    DomainsKept s (s.writeStatus core key t sp state cause desc addr) := by
  unfold State.writeStatus
  split
  · exact .refl s
  · split
    · exact s.putStatus_domainsKept core t _ _ _
    · exact .refl s

theorem State.stopSpindles_domainsKept (s : State) (core key : Nat) (t : Tile) (but : List Nat) :
    DomainsKept s (s.stopSpindles core key t but) := by
  refine .foldl (fun st ns => ?_) _ s
  split
  · exact st.writeStatus_domainsKept core key t _ _ _ _ _
  · exact .refl st

theorem State.releaseHalted_domainsKept (s : State) (core key reason : Nat) :
    DomainsKept s (s.releaseHalted core key reason) := by
  refine .foldl (fun st pg => ?_) _ s
  split
  · exact st.debugEvent_domainsKept _ _ _ _ _ _
  · exact .refl st

theorem State.excEntry_domainsKept (s : State) (r : ExcRec) (core key entry : Nat) :
    DomainsKept s (s.excEntry r core key entry).1 := by
  unfold State.excEntry
  split
  · exact .refl s
  · extract_lets r1
    split
    next s2 r2 hput =>
      have h2 : DomainsKept s s2 := by
        split at hput
        · cases hput; exact s.cohWrite_domainsKept _ _ _
        · cases hput; exact .refl s
      split
      · exact h2.trans (s2.cohWrite_domainsKept _ _ _)
      · exact h2

/-- The tile's entries in the excursion records touch memory and those records (R475). -/
theorem State.excursionTile_domainsKept (s : State) (core key : Nat) (t : Tile) (mismatch : Bool) :
    DomainsKept s (s.excursionTile core key t mismatch) := by
  unfold State.excursionTile
  extract_lets l entry
  have h1 := foldl_keeps (fun p : State × List ExcRec => DomainsKept s p.1)
    (fun p r => ((p.1.excEntry r core key entry).1, p.2 ++ [(p.1.excEntry r core key entry).2]))
    (fun p r hp => hp.trans (p.1.excEntry_domainsKept r core key entry)) s.power.recs (s, []) (.refl s)
  exact h1.trans ⟨rfl, rfl⟩

theorem State.tileGone_domainsKept (s : State) (core key : Nat) (why : Option StopWhy) :
    DomainsKept s (s.tileGone core key why) := by
  unfold State.tileGone
  split
  · exact .refl s
  · next t ht =>
    extract_lets mism again s1 l s2 last s3 left s4 mine posted s5 s6 s7
    have h2 : DomainsKept s s2 := (s.excursionTile_domainsKept core key t mism).trans (s1.trace_domainsKept _ _ _ _ _ _)
    have h6 : DomainsKept s2 s6 := .of_eq rfl rfl
    have h7 : DomainsKept s6 s7 := by
      simp only [s7]
      split <;> exact .of_eq rfl rfl
    exact ((h2.trans h6).trans h7).trans (s7.syncSlotOf_domainsKept t.ctx)

theorem State.stopTile_domainsKept (s : State) (core key : Nat) (why : StopWhy) (but : List Nat) :
    DomainsKept s (s.stopTile core key why but) := by
  unfold State.stopTile
  split
  · exact .refl s
  · next t ht =>
    extract_lets s1 s2
    have h1 : DomainsKept s s1 := s.releaseHalted_domainsKept core key _
    have h2 : DomainsKept s1 s2 := by
      simp only [s2]
      split
      · exact .refl s1
      · exact s1.stopSpindles_domainsKept core key t but
    exact (h1.trans h2).trans (s2.tileGone_domainsKept core key (some why))

/-! ### The die's stores completed and its LLC written back (R234, R467) -/

theorem State.l1Put_domainsKept (s : State) (core key : Nat) (bytes : List Byte) :
    DomainsKept s (s.l1Put core key bytes) := by
  unfold State.l1Put
  extract_lets l1 mine
  split
  · exact .of_eq rfl rfl
  · split
    next i s1 hdraw =>
      cases hdraw
      exact .of_eq rfl rfl

theorem State.l1Store_domainsKept (s : State) (core : Nat) (e : SbEntry) : DomainsKept s (s.l1Store core e) := by
  unfold State.l1Store
  split
  · exact .refl s
  · split
    · exact s.l1Put_domainsKept core _ _
    · exact .of_eq rfl rfl
    · exact .of_eq rfl rfl

theorem State.shareStore_domainsKept (s : State) (die a : Nat) (back : Option Nat) (bytes : NMap Byte) :
    DomainsKept s (s.shareStore die a back bytes) := by
  unfold State.shareStore
  extract_lets s1
  have h1 : DomainsKept s s1 := .foldl (fun st ob => st.sramStamped_domainsKept die _ 1 [ob.2] back) bytes s
  split
  · exact h1.trans (.of_eq rfl rfl)
  · exact h1

theorem State.mmioWrite_domainsKept (s : State) (pa : Nat) (bytes : List Byte) : DomainsKept s (s.mmioWrite pa bytes) := by
  unfold State.mmioWrite
  extract_lets hinge s1 imsic
  have h1 : DomainsKept s s1 := .of_eq rfl rfl
  split
  · exact h1.trans (s1.msi_only pa _).domainsKept
  · exact h1

/-- A store that is accepted goes to memory, a cache, a share or the hinge. -/
theorem State.acceptNow_domainsKept {s t : State} {core : Nat} {e : SbEntry} (h : s.acceptNow core e = some t) :
    DomainsKept s t := by
  unfold State.acceptNow at h
  extract_lets gr at h
  split at h
  · cases h
  · split at h
    case h_1 =>
      split at h
      · cases h
      · cases h
        exact (s.cohWriteLine_memOnly _ _ _).domainsKept
    case h_2 =>
      split at h
      · cases h
      · split at h
        · cases h
        · cases h
          exact (State.l1Store_domainsKept _ core e).after rfl rfl
    case h_3 =>
      cases h
      exact (s.memAccept_memOnly _ _ _ _).domainsKept.trans (.of_eq rfl rfl)
    case h_4 die a back _ =>
      extract_lets s1 s2 at h
      cases h
      have h1 : DomainsKept s s1 := s.shareStore_domainsKept die a back e.bytes
      have h2 : DomainsKept s1 s2 := by
        simp only [s2]
        split
        · exact (s1.cohWriteLine_memOnly _ _ _).domainsKept
        · exact .refl s1
      exact (h1.trans h2).trans ((State.l1Store_domainsKept _ core e).after rfl rfl)
    case h_5 =>
      cases h
      exact .foldl (fun st r => st.mmioWrite_domainsKept _ _) _ s
    case h_6 => cases h

theorem State.finishStore_domainsKept (s : State) (core : Nat) (e : SbEntry) : DomainsKept s (s.finishStore core e) := by
  unfold State.finishStore
  split
  · exact (s.cohWriteLine_memOnly _ _ _).domainsKept
  · cases h : s.acceptNow core e with
    | none => exact .refl s
    | some t => exact State.acceptNow_domainsKept h

theorem State.finishOrphans_domainsKept (s : State) (die : Nat) : DomainsKept s (s.finishOrphans die) := by
  unfold State.finishOrphans
  extract_lets mine
  refine .foldl (fun st ck => ?_) _ s
  split
  · extract_lets s1
    have h1 : DomainsKept st s1 := by
      refine .foldl (fun st o => ?_) _ st
      split
      · exact st.finishStore_domainsKept ck.1 _
      · exact .refl st
    exact h1.trans (.of_eq rfl rfl)
  · exact .refl st

theorem State.callNext_domainsKept (s : State) (line : Nat) : DomainsKept s (s.callNext line) := by
  unfold State.callNext
  split <;> exact .of_eq rfl rfl

theorem State.dropRetries_domainsKept (s : State) (stop : Nat) : DomainsKept s (s.dropRetries stop) := by
  unfold State.dropRetries
  extract_lets mine gone coh s1
  have h1 : DomainsKept s s1 := .of_eq rfl rfl
  exact h1.trans (.foldl (fun st (r : Retry) => st.callNext_domainsKept r.line) _ s1)

theorem State.evictLine_domainsKept (s : State) (stop line : Nat) : DomainsKept s (s.evictLine stop line) := by
  unfold State.evictLine
  split
  · exact .refl s
  · split <;> exact .of_eq rfl rfl

theorem State.flushLLC_domainsKept (s : State) (stop : Nat) : DomainsKept s (s.flushLLC stop) :=
  .foldl (fun st l => (st.evictLine_domainsKept stop l).trans (State.acceptSent_memOnly _ l).domainsKept) _ s

/-! ### Shares placed again (R278, R279) -/

theorem State.copyLine_domainsKept (s : State) (r : ShareRun) (off key : Nat) : DomainsKept s (s.copyLine r off key) := by
  unfold State.copyLine
  split <;> exact .of_eq rfl rfl

theorem State.fillGranule_domainsKept (s : State) (r : ShareRun) (i g : Nat) : DomainsKept s (s.fillGranule r i g) := by
  unfold State.fillGranule
  extract_lets s1
  have h1 : DomainsKept s s1 := .of_eq rfl rfl
  split
  · exact h1
  · exact h1.trans (.foldl (fun st j => st.copyLine_domainsKept r _ _) _ s1)

theorem State.placeGranule_domainsKept (s : State) (ctx : Nat) (r : ShareRun) (i : Nat) :
    DomainsKept s (s.placeGranule ctx r i) := by
  unfold State.placeGranule
  extract_lets c
  split
  · exact .refl s
  · split
    · exact .refl s
    · exact (State.fillGranule_domainsKept _ r i _).after rfl rfl

theorem State.moveGranules_domainsKept (s : State) (ctx die : Nat) (r : ShareRun) :
    DomainsKept s (s.moveGranules ctx die r) := by
  unfold State.moveGranules
  extract_lets moved f s1 s2
  have h1 : DomainsKept s s1 := .of_eq rfl rfl
  have h2 : DomainsKept s1 s2 := .of_eq (State.updCtx_power _ _ _) (State.updCtx_sec _ _ _)
  exact (h1.trans h2).trans (.foldl (fun st i => st.placeGranule_domainsKept ctx r i) moved s2)

theorem State.syncGrans_domainsKept (s : State) (ctx : Nat) : DomainsKept s (s.syncGrans ctx) := by
  unfold State.syncGrans
  extract_lets c
  split
  · exact s.setSlot_domainsKept _ _
  · exact .refl s

theorem State.moveShares_domainsKept (s : State) (die : Nat) : DomainsKept s (s.moveShares die) := by
  unfold State.moveShares
  refine .foldl (fun st nc => ?_) _ s
  exact (DomainsKept.foldl (fun st r => st.moveGranules_domainsKept nc.1 die r) nc.2.shares st).trans
    (State.syncGrans_domainsKept _ nc.1)

/-! ### Stopped tiles placed elsewhere or ended (R234) -/

/-- A tile placed is counted in the excursion records not yet closed (R475); the domains are left alone. -/
theorem State.placeTile_domainsKept (s : State) (core key : Nat) (run : Replay) :
    DomainsKept s (s.placeTile core key run) := by
  unfold State.placeTile
  extract_lets index
  split
  · exact .refl s
  · next l hl =>
    extract_lets k f move places tkey us groups sps
    split
    next nonce s1 hdraw =>
      cases hdraw
      extract_lets tile s2 s3 p s3' s4
      have h2 : DomainsKept s s2 := by
        simp only [s2, State.enterCore]
        split <;> exact .of_eq rfl rfl
      have h3 : DomainsKept s2 s3' := ⟨rfl, rfl⟩
      exact ((h2.trans h3).trans (s3'.trace_domainsKept _ _ _ _ _ _)).trans (s4.syncSlotOf_domainsKept l.ctx)

theorem State.endFenced_domainsKept (s : State) (key index : Nat) : DomainsKept s (s.endFenced key index) := .of_eq rfl rfl

/-- A tile placed elsewhere and counted (R234). -/
theorem State.placeCounted_domainsKept (s : State) (core key ctx : Nat) (run : Replay) :
    DomainsKept s ((s.placeTile core key run).countCtx ctx 4 1) :=
  (s.placeTile_domainsKept core key run).trans (.of_eq rfl rfl)

theorem State.rehome_domainsKept (s : State) (key : Nat) (t : Tile) : DomainsKept s (s.rehome key t) := by
  unfold State.rehome
  split
  · exact .refl s
  · next l hl =>
    split
    · exact s.endFenced_domainsKept key t.index
    · split
      · exact .of_eq rfl rfl
      · split
        · exact s.placeCounted_domainsKept _ key l.ctx _
        · exact s.endFenced_domainsKept key t.index

theorem State.rehomeReplays_domainsKept (s : State) (die key : Nat) : DomainsKept s (s.rehomeReplays die key) := by
  unfold State.rehomeReplays
  split
  · exact .refl s
  · next l hl =>
    extract_lets onDie
    refine .foldl (fun st r => ?_) _ s
    extract_lets drop
    have hdrop : DomainsKept st (drop st) := .of_eq rfl rfl
    split
    · exact hdrop.trans (State.endFenced_domainsKept _ key r.index)
    · split
      · exact .of_eq rfl rfl
      · split
        · exact hdrop.trans (State.placeCounted_domainsKept _ _ key l.ctx _)
        · exact hdrop.trans (State.endFenced_domainsKept _ key r.index)

theorem State.dropHomes_domainsKept (s : State) (die key : Nat) : DomainsKept s (s.dropHomes die key) := by
  unfold State.dropHomes
  split
  · exact .refl s
  · extract_lets lost
    exact (DomainsKept.foldl (fun st t => st.endFenced_domainsKept key t) lost _).after rfl rfl

/-! ### Hasp lines settled (R345, R348) -/

theorem State.halt_domainsKept (s : State) (g : Site) (causes n lane brk addr : Nat) :
    DomainsKept s (s.halt g causes n lane brk addr) := by
  unfold State.halt
  split
  · exact .of_eq (State.updGroup_power _ _ _) (State.updGroup_sec _ _ _)
  · unfold State.haltNow
    split
    · exact .refl s
    · extract_lets s1 s2
      have h2 : DomainsKept s s2 := .of_eq rfl rfl
      exact h2.trans (s2.debugEvent_domainsKept _ _ _ _ _ _)

theorem State.complete_domainsKept (s : State) (g : Site) (next : Option DWord) (watch : Option (Nat × Nat × Nat)) :
    DomainsKept s (s.complete g next watch) := by
  unfold State.complete
  split
  · exact .refl s
  · extract_lets y s1 asked causes w
    have h1 : DomainsKept s s1 := .of_eq rfl rfl
    split
    · exact h1
    · exact h1.trans (s1.halt_domainsKept _ _ _ _ _ _)

theorem State.endWait_domainsKept (s : State) (g : Site) : DomainsKept s (s.endWait g) := by
  unfold State.endWait
  split
  · exact .refl s
  · split
    · exact .of_eq rfl rfl
    · split
      · exact .of_eq rfl rfl
      · exact (State.complete_domainsKept _ g none none).after rfl rfl

theorem State.haspRelease_domainsKept (s : State) (line : Nat) (h : Hasp) : DomainsKept s (s.haspRelease line h) := by
  unfold State.haspRelease
  extract_lets ws h1 s1
  have hs1 : DomainsKept s s1 := .of_eq rfl rfl
  exact hs1.trans (.foldl (fun st g => st.endWait_domainsKept g) _ s1)

theorem State.sendTo_domainsKept (s : State) (dst : Nat) (body : MsgBody) (txid ward : Nat) :
    DomainsKept s (s.sendTo dst body txid ward) := .of_eq (State.sendTo_power ..) (State.sendTo_sec ..)

theorem State.haspSettle_domainsKept (s : State) (line fuel : Nat) : DomainsKept s (s.haspSettle line fuel) := by
  induction fuel generalizing s with
  | zero => exact .refl s
  | succ fuel ih =>
    unfold State.haspSettle
    split
    · exact .refl s
    · next h hh =>
      split
      · exact .refl s
      · split
        · exact .refl s
        · split
          · split
            · exact .refl s
            · exact s.haspRelease_domainsKept line h
          · split
            · extract_lets ms s1 s2
              have h1 : DomainsKept s s1 := .of_eq rfl rfl
              have h2 : DomainsKept s1 s2 := .foldl (fun st m => st.sendTo_domainsKept m _ 0 0) _ s1
              split
              · exact ((h1.trans h2).trans (s2.haspRelease_domainsKept line _)).trans (ih _)
              · exact h1
            · split
              · exact .refl s
              · exact (State.sendTo_domainsKept _ _ _ 0 0).after rfl rfl

theorem State.haspSettleAll_domainsKept (s : State) : DomainsKept s s.haspSettleAll :=
  .foldl (fun st (nh : Nat × Hasp) => st.haspSettle_domainsKept nh.1 2) s.hasps s

/-! ### The fence itself (R234, R468) -/

/-- The domains of a die: its two core halves and its SRAM stack with the LLC (R465). -/
def dieDomains (die : Nat) : List Nat := [2 * die, 2 * die + 1, 16 + die]

/-- The domains named, and no other, are off. -/
theorem NMap.findD_foldl_off (ds : List Nat) (e : Nat) (m : NMap DomState) :
    NMap.findD .idle e (ds.foldl (fun m d => NMap.ins d DomState.off m) m) =
      if e ∈ ds then DomState.off else NMap.findD .idle e m := by
  induction ds generalizing m with
  | nil => simp
  | cons d ds ih =>
    rw [List.foldl_cons, ih]
    by_cases he : e = d
    · simp [he]
    · simp [he, NMap.findD_ins_ne he]

theorem State.fenced_setSpareMap_same (s : State) (die : Nat) (m : SpareMap) : (s.setSpareMap die m).fenced die = m.fenced := by
  rw [State.fenced, State.setSpareMap, NMap.findD_ins_same]

theorem State.fenced_setSpareMap_ne (s : State) {die d : Nat} (h : d ≠ die) (m : SpareMap) :
    (s.setSpareMap die m).fenced d = s.fenced d := by
  rw [State.fenced, State.setSpareMap, NMap.findD_ins_ne h, State.fenced]

/-- DIE_FENCE of a die that serves: between the mark in its spare map and the end of its domains, no step touches
either. -/
theorem exec_dieFence {s : State} {die : Nat} (hdie : die < 8) (hfenced : s.fenced die = false) (hon : s.power.on = true)
    (hready : s.stage = .ready) :
    ∃ t u : State, exec (.dieFence die) s = .next u ∧
      DomainsKept (s.setSpareMap die { s.spareMap die with fenced := true }) t ∧ u.sec = t.sec ∧
      u.power.domains = (dieDomains die).foldl (fun m d => NMap.ins d DomState.off m) t.power.domains := by
  have hgo : ¬ (die ≥ 8 ∨ s.fenced die = true ∨ s.power.on = false ∨ s.stage ≠ .ready) := by
    simp [hdie, hfenced, hon, hready]
  change ∃ t u : State, execDieFence die s = _ ∧ _
  rw [execDieFence, if_neg hgo]
  extract_lets tiles keys m s1 s2 s3 coh s4 s5 fe s6 s7 s8 s9 s10 p s11
  have h2 : DomainsKept s1 s2 := .foldl (fun st t => st.stopTile_domainsKept t.1 t.2.1 .fence []) tiles s1
  have h3 : DomainsKept s2 s3 := ((s2.finishOrphans_domainsKept die).trans
    (State.dropRetries_domainsKept _ (stopOfDie die))).trans (State.flushLLC_domainsKept _ (stopOfDie die))
  have h4 : DomainsKept s3 s4 := .of_eq rfl rfl
  have h5 : DomainsKept s4 s5 := s4.moveShares_domainsKept die
  have h6 : DomainsKept s5 s6 := .of_eq rfl rfl
  have h7 : DomainsKept s6 s7 := .foldl (fun st k =>
    (st.rehomeReplays_domainsKept die k).trans (State.dropHomes_domainsKept _ die k)) keys s6
  have h8 : DomainsKept s7 s8 := .foldl (fun st t => st.rehome_domainsKept t.2.2.launch t.2.2) tiles s7
  have h9 : DomainsKept s8 s9 := s8.haspSettleAll_domainsKept
  have h10 : DomainsKept s9 s10 := by
    refine .foldl (fun st c => ?_) _ s9
    split <;> exact .of_eq rfl rfl
  have hkept : DomainsKept s1 s10 :=
    (((((((h2.trans h3).trans h4).trans h5).trans h6).trans h7).trans h8).trans h9).trans h10
  have hevent := s11.countedEvent_domainsKept 2 1 2 die
  clear_value s10
  exact ⟨s10, _, rfl, hkept, hevent.sec, hevent.domains⟩

/-! ### The statement -/

/-- Settles O28: the fence marks the die's spare map and puts the die's domains off; all that it does between keeps both. -/
theorem fencedDieGoesOff : Obligations.FencedDieGoesOff := by
  intro s die hdie hfenced hon hready
  obtain ⟨t, u, hexec, hkept, hsec, hdomains⟩ := exec_dieFence hdie hfenced hon hready
  have hdomain : ∀ e, u.domain e = if e ∈ dieDomains die then .off else s.domain e := fun e => by
    rw [State.domain, hdomains, NMap.findD_foldl_off, ← State.domain, hkept.domain]
    rfl
  have hmarks : ∀ e, u.fenced e = (s.setSpareMap die { s.spareMap die with fenced := true }).fenced e := fun e => by
    rw [← hkept.fenced, State.fenced, hsec, State.fenced]
  refine ⟨u, hexec, ?marked, ?_, ?_, ?_, fun e h1 h2 h3 => ?others, fun e he => ?unmarked⟩
  case marked => rw [hmarks, State.fenced_setSpareMap_same]
  case others => rw [hdomain, if_neg (by simp [dieDomains, h1, h2, h3])]
  case unmarked => rw [hmarks, State.fenced_setSpareMap_ne s he]
  all_goals rw [hdomain, if_pos (by simp [dieDomains])]

end Sys2Proof.Machine

/-! The events of the spindles (O25): a tile's local tumbler where no group of the tile waits, the buffers that a spindle
takes, gives and ends through it, and the stores of a FILL. -/

namespace Sys2Proof.Machine

/-! ### What a released wait leaves of a spindle (R331) -/

/-- A spindle after its local tumblers have been looked at: as it was, or with the wait it is in marked as met. -/
def Spindle.SeenAs (sp y : Spindle) : Prop := y = sp ∨ sp.waitsFor ≠ none ∧ y = { sp with met := true }

theorem Spindle.see_seenAs (sp : Spindle) (id count : Nat) : sp.SeenAs (sp.see id count) := by
  unfold Spindle.see
  split
  · next v hv =>
    split
    · exact .inr ⟨by simp [hv], rfl⟩
    · exact .inl rfl
  · exact .inl rfl

theorem Spindle.SeenAs.trans {x y z : Spindle} (h1 : x.SeenAs y) (h2 : y.SeenAs z) : x.SeenAs z := by
  obtain rfl | ⟨hw, rfl⟩ := h1
  · exact h2
  · obtain rfl | ⟨-, rfl⟩ := h2 <;> exact .inr ⟨hw, rfl⟩

theorem Spindle.SeenAs.eq_of_notWaiting {x y : Spindle} (h : x.SeenAs y) (hw : x.waitsFor = none) : y = x :=
  h.resolve_right fun hr => hr.1 hw

/-- Only the mark may differ. -/
theorem Spindle.SeenAs.eq_met {x y : Spindle} (h : x.SeenAs y) : y = { x with met := y.met } := by
  obtain rfl | ⟨-, rfl⟩ := h <;> rfl

/-- A step that marks waits of a core's spindles as met, and else leaves its spindles, the waits of its groups and the
memory alone. -/
structure SpindlesSeen (c : Nat) (s u : State) : Prop where
  ms : u.ms = s.ms
  waiters : (u.core c).localWaiters = (s.core c).localWaiters
  spindle : ∀ n sp, NMap.find n (s.core c).spindles = some sp →
    ∃ y, NMap.find n (u.core c).spindles = some y ∧ sp.SeenAs y

theorem SpindlesSeen.of_core {c : Nat} {s u : State} (hms : u.ms = s.ms)
    (hwaiters : (u.core c).localWaiters = (s.core c).localWaiters)
    (hspindles : (u.core c).spindles = (s.core c).spindles) : SpindlesSeen c s u :=
  ⟨hms, hwaiters, fun _ sp h => ⟨sp, hspindles ▸ h, .inl rfl⟩⟩

theorem SpindlesSeen.trans {c : Nat} {s t u : State} (h1 : SpindlesSeen c s t) (h2 : SpindlesSeen c t u) :
    SpindlesSeen c s u where
  ms := h2.ms.trans h1.ms
  waiters := h2.waiters.trans h1.waiters
  spindle n sp h := by
    obtain ⟨y, hy, hxy⟩ := h1.spindle n sp h
    obtain ⟨z, hz, hyz⟩ := h2.spindle n y hy
    exact ⟨z, hz, hxy.trans hyz⟩

/-- A spindle that waits for nothing is left as it was. -/
theorem SpindlesSeen.find_of_notWaiting {c n : Nat} {s u : State} {sp : Spindle} (h : SpindlesSeen c s u)
    (hsp : NMap.find n (s.core c).spindles = some sp) (hw : sp.waitsFor = none) :
    NMap.find n (u.core c).spindles = some sp := by
  obtain ⟨y, hy, hseen⟩ := h.spindle n sp hsp
  exact hy.trans (congrArg some (hseen.eq_of_notWaiting hw))

/-! ### Counts of local tumblers (R327, R330) -/

theorem LTumbler.count_arrive {l : LTumbler} {k : Nat} (hs : l.s = false) (hk : l.count + k < 2 ^ 32) :
    (l.apply (.arrive k)).count = l.count + k := by
  have hfit : ¬ l.count + k > tumTop := by simp only [tumTop]; omega
  simp [LTumbler.apply, countAdd, hs, hfit]

theorem LTumbler.count_depart {l : LTumbler} {k : Nat} (hs : l.s = false) (hk : k ≤ l.count) :
    (l.apply (.depart k)).count = l.count - k := by
  simp [LTumbler.apply, countSub, hs, Nat.not_lt.mpr hk]

/-- A saturating count keeps what it can hold. -/
theorem satAdd_fst {width k n : Nat} (sat : Bool) (h : n + k < 2 ^ width) : (satAdd width k n sat).1 = n + k := by
  unfold satAdd
  extract_lets top
  have htop : top = 2 ^ width - 1 := rfl
  split
  · change top = n + k
    omega
  · rfl

section Tumblers

variable {s : State} {c key i : Nat} {t : Tile}

theorem State.ltCount_of_tile (ht : s.tile? c key = some t) (i : Nat) :
    s.ltCount c key i = (NMap.findD {} i t.lt).count := by
  simp only [State.ltCount, ht]

theorem State.ltCount_congr {u : State} (h : u.tile? c key = s.tile? c key) (i : Nat) :
    u.ltCount c key i = s.ltCount c key i := by
  simp only [State.ltCount, h]

/-- With no group waiting, a wake looks at the spindles of a matrix tile and at nothing else. -/
theorem State.wakeLocal_of_noWaiters (ht : s.tile? c key = some t) (hw : (s.core c).localWaiters key i = []) :
    s.wakeLocal c key i = if t.matrix then s.updCore c (fun k => { k with
      spindles := NMap.mapVals (fun _ sp => sp.see i (s.ltCount c key i)) k.spindles }) else s := by
  simp only [State.wakeLocal, hw, ht, List.foldl_nil]

theorem State.wakeLocal_seen (ht : s.tile? c key = some t) (hw : (s.core c).localWaiters key i = []) :
    SpindlesSeen c s (s.wakeLocal c key i) := by
  rw [State.wakeLocal_of_noWaiters ht hw]
  split
  · refine ⟨rfl, by rw [State.core_updCore_same]; rfl, fun n sp h => ⟨_, ?_, sp.see_seenAs i (s.ltCount c key i)⟩⟩
    rw [State.core_updCore_same, NMap.find_mapVals, h]
    rfl
  · exact .of_core rfl rfl rfl

theorem State.tile_wakeLocal (ht : s.tile? c key = some t) (hw : (s.core c).localWaiters key i = []) :
    (s.wakeLocal c key i).tile? c key = s.tile? c key := by
  rw [State.wakeLocal_of_noWaiters ht hw]
  split
  · rw [State.tile_updCore_same]; rfl
  · rfl

/-- A tile with the reading of a local tumbler replaced. -/
def Tile.putLt (t : Tile) (i : Nat) (l : LTumbler) : Tile := { t with lt := NMap.put {} i l t.lt }

/-- An operation on a tile's local tumbler is its effect on the count, up to the context's counters, and then a wake. -/
theorem State.localApply_eq_wake (ht : s.tile? c key = some t) (i : Nat) (op : TumOp) :
    ∃ u : State, s.localApply c key i op = u.wakeLocal c key i ∧ u.ms = s.ms ∧
      u.cores = (s.updTile c key fun t' => t'.putLt i ((NMap.findD {} i t.lt).apply op)).cores := by
  simp only [State.localApply, ht]
  refine ⟨_, rfl, ?_, ?_⟩ <;> split_ifs <;> rfl

/-- With no group waiting, such an operation changes the tumbler's count as R330 says and marks waits of spindles. -/
theorem State.localApply_seen (ht : s.tile? c key = some t) (hw : (s.core c).localWaiters key i = []) (op : TumOp) :
    SpindlesSeen c s (s.localApply c key i op) ∧
      (s.localApply c key i op).tile? c key = some (t.putLt i ((NMap.findD {} i t.lt).apply op)) := by
  obtain ⟨u, hu, hms, hcores⟩ := State.localApply_eq_wake ht i op
  have hcore : u.core c = (s.updTile c key fun t' => t'.putLt i ((NMap.findD {} i t.lt).apply op)).core c := by
    rw [State.core, hcores, State.core]
  have htile : u.tile? c key = some (t.putLt i ((NMap.findD {} i t.lt).apply op)) := by
    rw [State.tile?, hcore]
    exact State.tile_updTile_same ht _
  have hwaiters : (u.core c).localWaiters = (s.core c).localWaiters := by
    rw [hcore, State.updTile, State.core_updCore_same]
    rfl
  have hspindles : (u.core c).spindles = (s.core c).spindles := by
    rw [hcore, State.updTile, State.core_updCore_same]
  have hwu : (u.core c).localWaiters key i = [] := hwaiters ▸ hw
  rw [hu]
  exact ⟨(SpindlesSeen.of_core hms hwaiters hspindles).trans (State.wakeLocal_seen htile hwu),
    (State.tile_wakeLocal htile hwu).trans htile⟩

theorem State.ltCount_localApply (ht : s.tile? c key = some t) (hw : (s.core c).localWaiters key i = []) (op : TumOp) :
    (s.localApply c key i op).ltCount c key i = ((NMap.findD {} i t.lt).apply op).count := by
  rw [State.ltCount_of_tile (State.localApply_seen ht hw op).2, Tile.putLt, NMap.findD_put_same]

end Tumblers

/-! ### A spindle replaced -/

section Replaced

variable (s : State) (c n : Nat) (sp : Spindle)

@[simp] theorem State.setSpindle_ms : (s.setSpindle c n sp).ms = s.ms := rfl

theorem State.core_setSpindle :
    (s.setSpindle c n sp).core c = { s.core c with spindles := NMap.ins n sp (s.core c).spindles } :=
  State.core_updCore_same s c _

@[simp] theorem State.find_setSpindle : NMap.find n ((s.setSpindle c n sp).core c).spindles = some sp := by
  rw [State.core_setSpindle, NMap.find_ins_same]

@[simp] theorem State.tile_setSpindle (key : Nat) : (s.setSpindle c n sp).tile? c key = s.tile? c key := by
  rw [State.tile?, State.core_setSpindle, State.tile?]

@[simp] theorem State.localWaiters_setSpindle :
    ((s.setSpindle c n sp).core c).localWaiters = (s.core c).localWaiters := by
  rw [State.core_setSpindle]
  rfl

end Replaced

/-! ### Buffers taken, given and ended (R249) -/

section Buffers

variable {s : State} {c n key : Nat} {t : Tile} {sp : Spindle}

theorem State.exec_spindleBufferTake (htile : s.spTile c = some (key, t))
    (hsp : NMap.find n (s.core c).spindles = some sp) (hphase : sp.phase = .waitEmpt) (hmet : sp.met = true) :
    exec (.spindleBufferTake c n) s = .next ((s.setSpindle c n { sp with
      phase := .run, met := false, bufOpen := true, started := sp.started + 1 }).localApply c key sp.hdr.emptt
        (.depart 1)) := by
  change execSpindleBufferTake c n s = _
  simp only [execSpindleBufferTake, htile, hsp, hphase, hmet, and_self, if_true]

theorem State.exec_spindleFulltRaise (htile : s.spTile c = some (key, t))
    (hsp : NMap.find n (s.core c).spindles = some sp) (hended : sp.raised < sp.ended) :
    exec (.spindleFulltRaise c n) s = .next (((s.setSpindle c n { sp with
      raised := sp.raised + 1
      fills := (satAdd 31 1 sp.fills sp.fillsat).1
      fillsat := (satAdd 31 1 sp.fills sp.fillsat).2 }).localApply c key sp.hdr.fullt (.arrive 1)).wakeLocal c key
        sp.hdr.emptt) := by
  change execSpindleFulltRaise c n s = _
  simp only [execSpindleFulltRaise, htile, hsp, if_pos hended]

theorem State.exec_spindleFinish (htile : s.spTile c = some (key, t)) (ht : s.tile? c key = some t)
    (hsp : NMap.find n (s.core c).spindles = some sp) (hphase : sp.phase = .final) (hraised : sp.raised = sp.ended)
    (hstatus : sp.hdr.status = 0)
    (hcount : Nat.min sp.started sp.hdr.nbuf ≤ (NMap.findD {} sp.hdr.emptt t.lt).count) :
    exec (.spindleFinish c n) s = .next ((if Nat.min sp.started sp.hdr.nbuf = 0 then s
      else s.localApply c key sp.hdr.emptt (.depart (Nat.min sp.started sp.hdr.nbuf))).setSpindle c n
        { sp with phase := .finished, met := false }) := by
  change okay (s.spFinish c n) = _
  rw [← State.ltCount_of_tile ht] at hcount
  have hgo : sp.phase = .final ∧ sp.raised = sp.ended ∧
      (sp.met = true ∨ Nat.min sp.started sp.hdr.nbuf ≤ s.ltCount c key sp.hdr.emptt) := ⟨hphase, hraised, .inr hcount⟩
  simp only [State.spFinish, htile, hsp, if_pos hgo, if_pos hstatus]

end Buffers

/-! ### The stores of a FILL (R399) -/

/-- The bytes of a repeated 8-byte pattern from a place on, with the offset in their line. -/
def patternBytes (pattern : DWord) (off pos len : Nat) : NMap Byte :=
  (List.range len).map fun i => (off + i, BitVec.ofNat 8 (pattern.toNat / 256 ^ ((pos + i) % 8)))

section Fill

variable {s : State} {c n key : Nat} {t : Tile} {sp : Spindle} {l : Launch} {dst total : Nat} {pattern : DWord}

theorem State.core_translated (s : State) (ctx : Nat) (k : AccKind) (vas : List Nat) (c : Nat) :
    (s.translated ctx k vas).core c = s.core c := by
  rw [State.core, State.translated_cores, State.core]

theorem State.launch_translated (s : State) (ctx : Nat) (k : AccKind) (vas : List Nat) (i : Nat) :
    (s.translated ctx k vas).launch? i = s.launch? i := by
  rw [State.translated_only]; rfl

theorem State.core_usedReads (s : State) (c n ctx : Nat) (vas : List Nat) :
    ((s.usedReads c n ctx vas).core c).spindles = (s.core c).spindles ∧
      ((s.usedReads c n ctx vas).core c).orphans = (s.core c).orphans := by
  rw [State.usedReads, State.core_updCore_same, State.core_translated]
  exact ⟨rfl, rfl⟩

theorem State.usedReads_ms (s : State) (c n ctx : Nat) (vas : List Nat) : (s.usedReads c n ctx vas).ms = s.ms :=
  State.translated_ms s ctx .read vas

/-- The entry that a spindle's store to a line makes for a FILL, which may cache the line (R293). -/
theorem State.orphanStore_fill (hl : s.launch? t.launch = some l) (hkind : l.kind = .fill dst total pattern) (va : Nat)
    (tg : Target) (bs : List Byte) :
    s.orphanStore c t va tg bs = s.updCore c (fun k => { k with
      orphans := k.orphans ++ [{ ctx := t.ctx, launch := t.launch, ways := t.plan.ways, store := some {
        order := 0, va := va, tgt := lineTgt tg, tag := s.launchTag t.launch, drain := true
        bytes := (List.range bs.length).map (fun i => (lineOff tg + i, bs.getD i 0)) } }] }) := by
  simp only [State.orphanStore, hl, hkind]

/-- The bytes of a FILL's piece spell the pattern. -/
theorem fillBytes_eq_patternBytes (pattern : DWord) (off pos len : Nat) :
    let bs := (List.range len).map (fun i => (natBytes 8 pattern.toNat).getD ((pos + i) % 8) 0)
    (List.range bs.length).map (fun i => (off + i, bs.getD i 0)) = patternBytes pattern off pos len := by
  intro bs
  have hlen : bs.length = len := by simp [bs]
  rw [hlen, patternBytes]
  refine List.map_congr_left fun i hi => ?_
  have hi : i < len := List.mem_range.mp hi
  have hbyte : bs.getD i 0 = (natBytes 8 pattern.toNat).getD ((pos + i) % 8) 0 := by
    simp [bs, List.getD_eq_getElem?_getD, hi]
  rw [hbyte, natBytes_getD _ (Nat.mod_lt _ (by decide))]

/-- A piece of a FILL that is not the last: its bytes leave as a store of the tile, and the spindle moves on. -/
theorem State.spMove_fill (hprog : sp.prog = .fill dst total pattern) {tg : Target}
    (htg : (s.spView c).resolve t.ctx (dst + sp.pos) .write = .ok tg)
    (hmore : sp.pos + Nat.min (total - sp.pos) (128 - (dst + sp.pos) % 128) < total) :
    s.spMove c n key t sp =
      (((s.spStore c t (dst + sp.pos) tg ((List.range (Nat.min (total - sp.pos) (128 - (dst + sp.pos) % 128))).map
        (fun i => (natBytes 8 pattern.toNat).getD ((sp.pos + i) % 8) 0))).setSpindle c n { sp with
          pos := sp.pos + Nat.min (total - sp.pos) (128 - (dst + sp.pos) % 128), pageWait := none }).usedReads c n
            t.ctx []) := by
  have hwhere : s.spWhere c t.ctx (dst + sp.pos) = .ok tg := by simp only [State.spWhere, htg]
  simp only [State.spMove, hprog, hwhere, if_neg (Nat.not_le.mpr hmore)]

theorem State.exec_spindleReadData (hon : s.power.on = true) (hfrozen : s.fe.frozen = none)
    (htile : s.spTile c = some (key, t)) (hsp : NMap.find n (s.core c).spindles = some sp) :
    exec (.spindleReadData c n) s = .next (s.spTake c n key t sp) := by
  have hruns : ¬ s.spRuns = false := by simp [State.spRuns, hon, hfrozen]
  change execSpindleReadData c n s = _
  simp only [execSpindleReadData, if_neg hruns, htile, hsp]

theorem State.spTake_fill_start (hprog : sp.prog = .fill dst total pattern) (hphase : sp.phase = .start) :
    s.spTake c n key t sp = s.setSpindle c n { sp with phase := .run } := by
  simp only [State.spTake, hprog, hphase]

theorem State.spTake_fill_run (hprog : sp.prog = .fill dst total pattern) (hphase : sp.phase = .run) :
    s.spTake c n key t sp = s.spMove c n key t sp := by
  simp only [State.spTake, hprog, hphase]

end Fill

/-! ### The statement -/

/-- Settles O25: a buffer taken, given or ended is one operation on a local tumbler, which only marks waits of spindles; a
FILL's piece is one store. -/
theorem spindleEvents : Obligations.SpindleEvents := by
  intro s c n key t sp lt htile ht hsp hwaiters
  refine ⟨fun hphase hmet hsat hcount => ?take, fun hended hsat hfit => ?raise,
    fun hphase hraised hstatus hsat hcount => ?finish, fun dst total pattern l hprog hon hfrozen hl hkind =>
      ⟨fun hphase => ?start, fun tg hphase htg => ?piece⟩⟩
  case take =>
    let sp1 : Spindle := { sp with phase := .run, met := false, bufOpen := true, started := sp.started + 1 }
    have ht1 : (s.setSpindle c n sp1).tile? c key = some t := by rw [State.tile_setSpindle, ht]
    have hw1 : ((s.setSpindle c n sp1).core c).localWaiters key sp.hdr.emptt = [] := by
      rw [State.localWaiters_setSpindle, hwaiters]
    have hseen := (State.localApply_seen ht1 hw1 (.depart 1)).1
    refine ⟨_, State.exec_spindleBufferTake htile hsp hphase hmet, ?_, ?_, hseen.ms⟩
    · exact hseen.find_of_notWaiting (State.find_setSpindle s c n sp1) rfl
    · rw [State.ltCount_localApply ht1 hw1, LTumbler.count_depart hsat hcount]
  case raise =>
    let sp1 : Spindle := { sp with
      raised := sp.raised + 1
      fills := (satAdd 31 1 sp.fills sp.fillsat).1
      fillsat := (satAdd 31 1 sp.fills sp.fillsat).2 }
    let s1 := s.setSpindle c n sp1
    let s2 := s1.localApply c key sp.hdr.fullt (.arrive 1)
    have ht1 : s1.tile? c key = some t := by rw [State.tile_setSpindle, ht]
    have hw1 : (s1.core c).localWaiters key sp.hdr.fullt = [] := by rw [State.localWaiters_setSpindle, hwaiters]
    obtain ⟨hseen1, ht2⟩ := State.localApply_seen ht1 hw1 (.arrive 1)
    have hw2 : (s2.core c).localWaiters key sp.hdr.emptt = [] := by
      rw [hseen1.waiters, State.localWaiters_setSpindle, hwaiters]
    have hseen := hseen1.trans (State.wakeLocal_seen ht2 hw2)
    obtain ⟨y, hy, hsy⟩ := hseen.spindle n sp1 (State.find_setSpindle s c n sp1)
    refine ⟨_, y, State.exec_spindleFulltRaise htile hsp hended, hy, ?_, ?_, fun _ hfills => ?_, ?_, hseen.ms⟩
    · rw [hsy.eq_met]
    · rw [hsy.eq_met]
    · rw [hsy.eq_met]
      exact satAdd_fst sp.fillsat hfills
    · rw [State.ltCount_congr (State.tile_wakeLocal ht2 hw2), State.ltCount_localApply ht1 hw1,
        LTumbler.count_arrive hsat hfit]
  case finish =>
    refine ⟨_, State.exec_spindleFinish htile ht hsp hphase hraised hstatus hcount, State.find_setSpindle .., ?_, ?_⟩
    · rw [State.ltCount_congr (State.tile_setSpindle ..)]
      split
      · next h0 => rw [h0, State.ltCount_of_tile ht, Nat.sub_zero]
      · rw [State.ltCount_localApply ht (hwaiters _), LTumbler.count_depart hsat hcount]
    · rw [State.setSpindle_ms]
      split
      · rfl
      · exact (State.localApply_seen ht (hwaiters _) _).1.ms
  case start =>
    rw [State.exec_spindleReadData hon hfrozen htile hsp, State.spTake_fill_start hprog hphase]
  case piece =>
    intro len hmore e
    refine ⟨_, State.exec_spindleReadData hon hfrozen htile hsp, ?_⟩
    rw [State.spTake_fill_run hprog hphase, State.spMove_fill hprog htg hmore]
    let s1 := s.translated t.ctx .write [dst + sp.pos]
    have hl1 : s1.launch? t.launch = some l := (State.launch_translated ..).trans hl
    have htag : s1.launchTag t.launch = s.launchTag t.launch := by
      simp only [State.launchTag, hl1, hl]
    have hcore1 : s1.core c = s.core c := State.core_translated ..
    rw [State.spStore, State.orphanStore_fill hl1 hkind, fillBytes_eq_patternBytes, htag]
    refine ⟨?_, ?_, ?_⟩
    · rw [(State.core_usedReads ..).1, State.find_setSpindle]
    · rw [(State.core_usedReads ..).2, State.core_setSpindle, State.core_updCore_same, hcore1]
      rfl
    · rw [State.usedReads_ms, State.setSpindle_ms, State.updCore_ms, State.translated_ms]

end Sys2Proof.Machine

/-! Lines granted, performed and returned (O30): what the requester installs, and the request that comes next. -/

namespace Sys2Proof.Machine

/-! ### The grant (R300 events 6 and 7) -/

/-- The state in which the home has sent the line on: dirty data of a read is on its way to the controller too. -/
def State.grantSent (s : State) (line : Nat) (t : Txn) (d : LineData) : State :=
  match t.kind, t.dirty with
  | .read, some _ => { s with coh := { s.coh with sent := s.coh.sent ++
      [{ line := line, bytes := (List.range 128).map (fun i => (i, d.bytes.getD i 0)), poison := d.poison
         tag := d.tag, src := 32 + s.homeOf line }] } }
  | _, _ => s

/-- The state in which the requester has installed the line. -/
def State.grantInstalled (s : State) (line : Nat) (t : Txn) (d : LineData) : State :=
  let s1 := s.grantSent line t d
  s1.setCache t.stop (NMap.ins line (t.copy (NMap.find line (s1.cacheOf t.stop)) d) (s1.cacheOf t.stop))

section Grant

variable {s : State} {line : Nat} {t : Txn} {d : LineData}

/-- What is sent with the line touches nothing but the writes under way. -/
theorem State.grantSent_eq (s : State) (line : Nat) (t : Txn) (d : LineData) :
    s.grantSent line t d = { s with coh := { s.coh with sent := (s.grantSent line t d).coh.sent } } := by
  unfold State.grantSent
  split <;> rfl

theorem State.grantSent_cacheOf (s : State) (line : Nat) (t : Txn) (d : LineData) (stop : Nat) :
    (s.grantSent line t d).cacheOf stop = s.cacheOf stop := by
  rw [State.grantSent_eq]
  rfl

theorem State.grantSent_of_dirtyRead (hkind : t.kind = .read) (hdirty : t.dirty = some d) :
    (s.grantSent line t d).coh.sent = s.coh.sent ++
      [{ line := line, bytes := (List.range 128).map (fun i => (i, d.bytes.getD i 0)), poison := d.poison
         tag := d.tag, src := 32 + s.homeOf line }] := by
  unfold State.grantSent
  rw [hkind, hdirty]

/-- A copy that no upgrade asked for holds the data sent: modified for an owner, exclusive or shared for a reader. -/
theorem Txn.copy_eq (own : Option CLine) (hkind : t.kind ≠ .upgrade) (hway : t.way < 16) :
    t.copy own d =
      { st := if t.kind ≠ .read then .m else if t.shared = true ∨ t.dirty.isSome = true then .s else .e
        bytes := d.bytes, poison := d.poison, tag := if t.kind ≠ .read then d.tag else 0, way := t.way } := by
  have hmod : t.way % 16 = t.way := Nat.mod_eq_of_lt hway
  have htrans : (t.way == 16) = false := by simp; omega
  unfold Txn.copy
  cases hk : t.kind with
  | read => by_cases hs : t.shared = true ∨ t.dirty.isSome = true <;> simp [hs, hmod, htrans]
  | own => simp [hmod, htrans]
  | claim => simp [hmod, htrans]
  | upgrade => exact absurd hk hkind

/-- LINE_GRANT of a transaction with every answer in: the requester, not the host, installs the line, performs what waits for
it and sends done. -/
theorem exec_lineGrant (htxn : NMap.find line s.coh.txns = some t) (hopen : t.granted = false) (hsnoop : t.toSnoop = [])
    (hticket : t.ticket = 0) (hanswer : t.toAnswer = []) (hentry : s.hasEntry (s.regionOfLine line) = true)
    (hstop : t.stop ≠ 10)
    (hdata : (if decide (t.kind = .claim) && s.zlineNext t.stop line then some { bytes := List.replicate 128 0 }
      else if t.dirty.isSome then t.dirty else t.memData) = some d) :
    let p := (s.grantInstalled line t d).performLine t.stop line (decide (t.kind = .claim) && s.zlineNext t.stop line)
    exec (.lineGrant t.stop line) s =
      .next (({ p with coh := { p.coh with seq := p.coh.seq + 1 } } : State).updTxn line (fun t => { t with
        granted := true, doneSeq := p.coh.seq + 1 })) := by
  have hlive : s.agentLive t.stop = true := by simp [State.agentLive, hstop]
  change execLineGrant t.stop line s = _
  unfold execLineGrant
  simp only [htxn, hentry, if_true]
  rw [if_neg (by simp [hopen, hsnoop, hticket, hanswer, hlive])]
  simp only [hdata]
  rw [if_neg hstop]
  rfl

end Grant

/-! ### Done and proceed (R300 event 8, R302) -/

theorem findIdx_head {α : Type} {p : α → Bool} {i : Nat} {x : α} {xs : List α} (hx : p x = true) :
    findIdx p i (x :: xs) = some (i, x) := by
  simp [findIdx, hx]

theorem findIdx_of_all_false {α : Type} {p : α → Bool} {i : Nat} {xs : List α} (h : ∀ x ∈ xs, p x = false) :
    findIdx p i xs = none := by
  induction xs generalizing i with
  | nil => rfl
  | cons x xs ih =>
    rw [findIdx, h x List.mem_cons_self, if_neg (by simp)]
    exact ih (fun y hy => h y (List.mem_cons_of_mem _ hy))

/-- Calling the next requester touches the retry entries and the order of messages only. -/
theorem State.callNext_eq (s : State) (line : Nat) :
    s.callNext line = { s with coh := { s.coh with
      seq := (s.callNext line).coh.seq, retries := (s.callNext line).coh.retries } } := by
  unfold State.callNext
  split <;> rfl

theorem State.callNext_head {s : State} {line : Nat} {r : Retry} {rest : List Retry} (hq : s.coh.retries = r :: rest)
    (hline : r.line = line) :
    (s.callNext line).coh.retries = { r with called := true, calledAt := s.coh.seq + 1 } :: rest := by
  unfold State.callNext
  rw [hq, findIdx_head (by simp [hline])]
  rfl

theorem State.callNext_of_none {s : State} {line : Nat} (h : ∀ r ∈ s.coh.retries, r.line ≠ line) :
    s.callNext line = s := by
  unfold State.callNext
  rw [findIdx_of_all_false (by simpa using h)]

theorem State.mem_setPresence {s : State} {region stop : Nat} {f : BitVec 11} (h : (region, f) ∈ s.coh.filter) :
    (region, f ||| BitVec.ofNat 11 (2 ^ stop)) ∈ (s.setPresence region stop true).coh.filter := by
  refine List.mem_map.2 ⟨(region, f), h, ?_⟩
  simp [Nat.one_shiftLeft]

theorem exec_done {s : State} {line : Nat} {t : Txn} (htxn : NMap.find line s.coh.txns = some t)
    (hgranted : t.granted = true) (hfirst : s.firstAnswer t.stop (s.homeOf line) t.doneSeq = true) :
    exec (.done line) s = .next ((s.setPresence (s.regionOfLine line) t.stop true).closeTxn line) := by
  change execDone line s = _
  simp [execDone, htxn, hgranted, hfirst, okay]

/-- Making room in a presence filter leaves the transactions, the waiting requests and the misses as they are. -/
theorem State.makeEntry_queues (s : State) (region : Nat) :
    (s.makeEntry region).coh.txns = s.coh.txns ∧ (s.makeEntry region).coh.retries = s.coh.retries ∧
      (s.makeEntry region).coh.misses = s.coh.misses := by
  unfold State.makeEntry
  extract_lets mine
  split
  · exact ⟨rfl, rfl, rfl⟩
  · split
    · exact ⟨rfl, rfl, rfl⟩
    · split
      · exact ⟨rfl, rfl, rfl⟩
      · split
        · exact ⟨rfl, rfl, rfl⟩
        · split <;> exact ⟨rfl, rfl, rfl⟩

/-- A transaction opened for a request asks what the request asked, but for an upgrade of a line that is lost; the requests
and misses that wait are those that waited. -/
theorem State.openTxn_spec (s : State) (stop line : Nat) (kind : CohKind) (way ticket : Nat) :
    ∃ t : Txn, NMap.find line (s.openTxn stop line kind way ticket).coh.txns = some t ∧ t.stop = stop ∧
      (kind ≠ .upgrade → t.kind = kind) ∧ t.way = way ∧ t.ticket = ticket ∧ t.granted = false ∧
      (s.openTxn stop line kind way ticket).coh.retries = s.coh.retries ∧
      (s.openTxn stop line kind way ticket).coh.misses = s.coh.misses := by
  unfold State.openTxn
  extract_lets k region t coh s1
  have hk (hkind : kind ≠ .upgrade) : k = kind := by simp [k, hkind]
  have htxn : NMap.find line s1.coh.txns = some t := NMap.find_ins_same ..
  split
  · obtain ⟨htxns, hretries, hmisses⟩ := s1.makeEntry_queues region
    exact ⟨t, by rw [htxns, htxn], rfl, hk, rfl, rfl, rfl, hretries, hmisses⟩
  · exact ⟨t, htxn, rfl, hk, rfl, rfl, rfl, rfl, rfl⟩

/-- PROCEED: the oldest called request of the line opens its transaction, and its retry entry is free. -/
theorem exec_proceed {s : State} {line : Nat} {r : Retry} {rest : List Retry} (hq : s.coh.retries = r :: rest)
    (hline : r.line = line) (hcalled : r.called = true) (hstop : r.stop ≠ 10) (hfree : NMap.has line s.coh.txns = false)
    (hfirst : ∀ q ∈ rest, q.called = true → q.stop = r.stop → r.calledAt ≤ q.calledAt) :
    exec (.proceed line) s = .next (({ s with coh := { s.coh with
      retries := s.coh.retries.filter (fun x => x != r) } } : State).openTxn r.stop line r.kind r.way r.ticket) := by
  have hfind : s.coh.retries.find? (fun r => r.line == line && r.called) = some r := by simp [hq, hline, hcalled]
  have hlive : s.agentLive r.stop = true := by simp [State.agentLive, hstop]
  have hnone : s.coh.retries.any (fun q => q.called && q.stop == r.stop && decide (q.calledAt < r.calledAt) &&
      s.homeOf q.line == s.homeOf line) = false := by
    rw [hq, List.any_eq_false]
    intro q hmem hcond
    simp only [Bool.and_eq_true, beq_iff_eq, decide_eq_true_eq] at hcond
    obtain ⟨⟨⟨hqcalled, hqstop⟩, hlt⟩, -⟩ := hcond
    rcases List.mem_cons.1 hmem with rfl | hmem
    · exact absurd hlt (Nat.lt_irrefl _)
    · exact absurd (hfirst q hmem hqcalled hqstop) (Nat.not_le.2 hlt)
  change execProceed line s = _
  simp [execProceed, hfind, hlive, hfree, hnone, okay]

/-! ### The statement -/

/-- Settles O30: the grant by the state in which its requester has installed the line, done by the presence bit and the next
call, proceed by the transaction that it opens. -/
theorem lineGrants : Obligations.LineGrants := by
  intro s line
  refine ⟨?grant, fun t f htxn hgranted hfirst hstop hentry => ?done,
    fun r rest hq hline hcalled hstop hfree hkind hfirst => ?proceed⟩
  case grant =>
    intro t d htxn hopen hsnoop hticket hanswer hentry hstop hkind hway claimed hdata
    refine ⟨s.grantInstalled line t d, _, _, exec_lineGrant htxn hopen hsnoop hticket hanswer hentry hstop hdata, rfl, rfl,
      ?_, ?_, ?_, ?_, fun stop l hne => ?_, fun hread hdirty => ?_⟩
    · rw [State.grantInstalled, State.cacheOf_setCache_same, NMap.find_ins_same, Txn.copy_eq _ hkind hway]
    · rw [State.grantInstalled, State.setCache_ms, State.grantSent_eq]
    · rw [State.grantInstalled, State.setCache_cores, State.grantSent_eq]
    · rw [State.grantInstalled, State.grantSent_eq]
      rfl
    · rw [State.grantInstalled]
      by_cases hs : stop = t.stop
      · subst hs
        rw [State.cacheOf_setCache_same, NMap.find_ins_ne (hne.resolve_left (by simp)), State.grantSent_cacheOf]
      · rw [State.cacheOf_setCache_ne _ hs, State.grantSent_cacheOf]
    · exact State.grantSent_of_dirtyRead hread hdirty
  case done =>
    let s1 : State := s.setPresence (s.regionOfLine line) t.stop true
    let s2 : State := { s1 with coh := { s1.coh with txns := NMap.del line s1.coh.txns } }
    refine ⟨s2.callNext line, exec_done htxn hgranted hfirst, ?_, ?_, fun r rest hq hline => ?_, fun hnone => ?_, ?_, ?_⟩
    · rw [State.callNext_eq]
      exact NMap.find_del_same ..
    · rw [State.callNext_eq]
      exact State.mem_setPresence hentry
    · exact State.callNext_head (s := s2) hq hline
    · rw [State.callNext_of_none (s := s2) hnone]
      rfl
    · rw [State.callNext_eq]
      rfl
    · rw [State.callNext_eq]
      rfl
  case proceed =>
    let s1 : State := { s with coh := { s.coh with retries := s.coh.retries.filter (fun x => x != r) } }
    obtain ⟨t, htxn, htstop, htkind, -, htticket, htopen, hretries, -⟩ := s1.openTxn_spec r.stop line r.kind r.way r.ticket
    refine ⟨_, t, exec_proceed hq hline hcalled hstop hfree hfirst, htxn, htstop, htkind hkind, htticket, htopen, ?_⟩
    rw [hretries]
    simp [s1]

end Sys2Proof.Machine

/-! Writes accepted by a controller, lines given up, and scrubs (O31): what a write that reaches its controller leaves in
memory, and what the log of an error touches beside it. -/

namespace Sys2Proof.Machine

/-! ### A region given up (R298) -/

/-- The state in which a stop has given up its lines of a region. -/
def State.gaveUp (s : State) (stop region : Nat) : State :=
  ((s.cacheOf stop).filter (fun l => s.regionOfLine l.1 == region)).foldl (fun st l => st.evictLine stop l.1) s

@[simp] theorem State.evictLine_ms (s : State) (stop line : Nat) (v : Option (Nat × Nat)) :
    (s.evictLine stop line v).ms = s.ms := by
  unfold State.evictLine
  split
  · rfl
  · split <;> rfl

/-- A line given up leaves the filters and the lines that they reclaim as they are. -/
theorem State.evictLine_filters (s : State) (stop line : Nat) (v : Option (Nat × Nat)) :
    (s.evictLine stop line v).coh.filter = s.coh.filter ∧ (s.evictLine stop line v).coh.backInv = s.coh.backInv := by
  unfold State.evictLine
  split
  · exact ⟨rfl, rfl⟩
  · split <;> exact ⟨rfl, rfl⟩

theorem State.cacheOf_dropLine (s : State) (stop line : Nat) :
    (s.dropLine stop line).cacheOf stop = NMap.del line (s.cacheOf stop) :=
  State.cacheOf_setCache_same s stop _

/-- The line given up is gone from the stop's cache, every other line stays. -/
theorem State.find_evictLine (s : State) (stop line i : Nat) (v : Option (Nat × Nat)) :
    NMap.find i ((s.evictLine stop line v).cacheOf stop) = if i = line then none else NMap.find i (s.cacheOf stop) := by
  have hdrop : NMap.find i ((s.dropLine stop line).cacheOf stop) =
      if i = line then none else NMap.find i (s.cacheOf stop) := by
    rw [State.cacheOf_dropLine]
    split
    · next h => rw [h, NMap.find_del_same]
    · next h => rw [NMap.find_del_ne h]
  unfold State.evictLine
  split
  · next hnone =>
    split
    · next h => rw [h, hnone]
    · rfl
  · split
    · exact hdrop
    · exact hdrop

/-- Lines given up one after the other. -/
theorem State.find_foldl_evictLine (stop i : Nat) (ls : NMap CLine) (s : State) :
    NMap.find i ((ls.foldl (fun st l => st.evictLine stop l.1) s).cacheOf stop) =
      if i ∈ ls.map (·.1) then none else NMap.find i (s.cacheOf stop) := by
  induction ls generalizing s with
  | nil => simp
  | cons l ls ih =>
    rw [List.foldl_cons, ih, State.find_evictLine, List.map_cons]
    by_cases hl : i = l.1 <;> by_cases hls : i ∈ ls.map (·.1) <;> simp [hl, hls]

theorem State.gaveUp_keeps (s : State) (stop region : Nat) :
    (s.gaveUp stop region).ms = s.ms ∧ (s.gaveUp stop region).coh.filter = s.coh.filter ∧
      (s.gaveUp stop region).coh.backInv = s.coh.backInv :=
  foldl_keeps (fun t : State => t.ms = s.ms ∧ t.coh.filter = s.coh.filter ∧ t.coh.backInv = s.coh.backInv) _
    (fun t l ⟨hms, hfilter, hback⟩ =>
      ⟨(t.evictLine_ms stop l.1 none).trans hms, (t.evictLine_filters stop l.1 none).1.trans hfilter,
        (t.evictLine_filters stop l.1 none).2.trans hback⟩) _ s ⟨rfl, rfl, rfl⟩

/-- The lines of the region are gone from the stop's cache, and no other line is. -/
theorem State.find_gaveUp (s : State) (stop region i : Nat) :
    NMap.find i ((s.gaveUp stop region).cacheOf stop) =
      if s.regionOfLine i = region then none else NMap.find i (s.cacheOf stop) := by
  have hmem : i ∈ ((s.cacheOf stop).filter (fun l => s.regionOfLine l.1 == region)).map (·.1) ↔
      s.regionOfLine i = region ∧ ∃ l, (i, l) ∈ s.cacheOf stop := by
    constructor
    · intro hin
      obtain ⟨⟨j, l⟩, hl, rfl⟩ := List.mem_map.1 hin
      obtain ⟨hcached, hr⟩ := List.mem_filter.1 hl
      exact ⟨by simpa using hr, l, hcached⟩
    · rintro ⟨hr, l, hcached⟩
      exact List.mem_map.2 ⟨(i, l), List.mem_filter.2 ⟨hcached, by simpa using hr⟩, rfl⟩
  rw [State.gaveUp, State.find_foldl_evictLine]
  by_cases hr : s.regionOfLine i = region
  · rw [if_pos hr]
    split
    · rfl
    · next hout =>
      cases hfind : NMap.find i (s.cacheOf stop) with
      | none => rfl
      | some l => exact absurd (hmem.2 ⟨hr, l, NMap.mem_of_find hfind⟩) hout
  · rw [if_neg hr, if_neg fun hin => hr (hmem.1 hin).1]

/-- BACK_INVALIDATION of the only region reclaimed, at the last stop that may hold it: the stop gives the region up and the
filter's entry is free. -/
theorem exec_backInvalidation {s : State} {stop region : Nat} {b : BackInv} (hone : s.coh.backInv = [b])
    (hregion : b.region = region) (hstops : b.stops = [stop]) (hstop : stop ≠ 10)
    (hfirst : s.firstSnoop stop region b.seq = true) (hfree : ∀ l ∈ s.cacheOf stop, l.2.hold = false) :
    exec (.backInvalidation stop region) s = .next { s.gaveUp stop region with coh := { (s.gaveUp stop region).coh with
      backInv := (s.gaveUp stop region).coh.backInv.filter (fun x => x.region != region)
      filter := (s.gaveUp stop region).coh.filter.filter (fun f => f.1 != region) } } := by
  have hfind : s.coh.backInv.find? (fun b => b.region == region && b.stops.contains stop) = some b := by
    simp [hone, hregion, hstops]
  have hanswers : s.stopAnswers stop = true := by simp [State.stopAnswers, hstop]
  have hnohold : ((s.cacheOf stop).filter (fun l => s.regionOfLine l.1 == region)).any (fun l => l.2.hold) = false := by
    simp only [List.any_eq_false, List.mem_filter, Bool.not_eq_true]
    exact fun l hl => hfree l hl.1
  change execBackInvalidation stop region s = _
  unfold execBackInvalidation
  simp only [hfind]
  rw [if_neg (by simp [hnohold, hanswers, hfirst])]
  simp only [hstops]
  rw [if_pos (by simp)]
  rfl

/-! ### A victim accepted (R271) -/

/-- A request for a line that nothing holds and nothing waits for opens a transaction. -/
theorem State.homeRequest_opens {s : State} {line : Nat} (hfree : NMap.has line s.coh.txns = false)
    (hwait : ∀ r ∈ s.coh.retries, r.line ≠ line) (hbuf : line ∉ s.coh.atomBuf) (stop : Nat) (kind : CohKind) (way ticket : Nat) :
    s.homeRequest stop line kind way ticket = s.openTxn stop line kind way ticket := by
  have hnone : s.coh.retries.any (fun r => r.line == line) = false := by simpa [List.any_eq_false] using hwait
  simp [State.homeRequest, hfree, hnone, hbuf]

theorem exec_victimAccept {s : State} {die line : Nat} {m : Miss} (hone : s.coh.misses = [m])
    (hstop : m.stop = stopOfDie die) (hline : m.line = line) (haccepted : m.accepted = true) :
    exec (.victimAccept die line) s =
      .next (({ s with coh := { s.coh with misses := [] } } : State).homeRequest m.stop line m.kind m.way) := by
  have hfind : s.coh.misses.find? (fun m => m.stop == stopOfDie die && m.line == line && m.accepted) = some m := by
    simp [hone, hstop, hline, haccepted]
  change execVictimAccept die line s = _
  unfold execVictimAccept
  simp only [hfind]
  simp [hone, hline]

/-! ### A write at its controller (R282, R418) -/

/-- The keys of a map in canonical form that rises from `lo` are `lo` or more. -/
theorem NMap.le_of_risesFrom {α : Type} {lo : Nat} {m : NMap α} (h : NMap.risesFrom lo m = true) :
    ∀ c ∈ m, lo ≤ c.1 := by
  induction m generalizing lo with
  | nil => simp
  | cons d m ih =>
    obtain ⟨j, w⟩ := d
    simp only [NMap.risesFrom, Bool.and_eq_true, decide_eq_true_eq] at h
    intro c hc
    rcases List.mem_cons.1 hc with rfl | hc
    · exact h.1
    · exact (Nat.le_succ_of_le h.1).trans (ih h.2 c hc)

/-- Bytes written at rising offsets are read back. -/
theorem Mem.read_writeAt {bs : NMap Byte} {lo : Nat} (h : NMap.risesFrom lo bs = true) (m : Mem) (base : Nat) :
    ∀ b ∈ bs, (m.writeAt base bs).read (base + b.1) = b.2 := by
  induction bs generalizing m lo with
  | nil => simp
  | cons d bs ih =>
    obtain ⟨o, v⟩ := d
    simp only [NMap.risesFrom, Bool.and_eq_true, decide_eq_true_eq] at h
    intro b hb
    rcases List.mem_cons.1 hb with rfl | hb
    · have hlater : ∀ c ∈ bs, base + o ≠ base + c.1 := fun c hc => by
        have hle := NMap.le_of_risesFrom h.2 c hc
        omega
      rw [Mem.writeAt, Mem.read_writeAt_ne _ _ _ _ hlater, Mem.read_write, if_pos rfl]
    · exact ih h.2 _ b hb

/-- The bytes of a write that a controller accepts; a poison mark set or cleared changes none. -/
theorem State.memAccept_bytes {s : State} {line tag : Nat} (bytes : NMap Byte) (poison : Bool)
    (h : s.accepts tag line = true) (i : Nat) :
    (s.memAccept line bytes poison tag).ms.mem.read i = (s.ms.mem.writeAt line bytes).read i := by
  unfold State.memAccept
  rw [if_pos h]
  simp only [State.killResv_ms]
  split
  · exact Mem.read_setPoison _ _ _ _
  · split
    · exact Mem.read_setPoison _ _ _ _
    · rfl

@[simp] theorem State.memAccept_sent (s : State) (line : Nat) (bytes : NMap Byte) (poison : Bool) (tag : Nat) :
    (s.memAccept line bytes poison tag).coh.sent = s.coh.sent := by
  unfold State.memAccept
  split <;> rfl

/-- WRITE_ACCEPT of the oldest write under way. -/
theorem exec_writeAccept_sent {s : State} {line : Nat} {w : MemWrite} {rest : List MemWrite}
    (hsent : s.coh.sent = w :: rest) (hline : w.line = line) (hroom : s.lpRoom line = true) :
    exec (.writeAccept (.sent line)) s = .next (((({ s with coh := { s.coh with sent := rest } } : State).memAccept line
      w.bytes w.poison w.tag).victimDone w.victim).lpPush line) := by
  change execWriteAccept (.sent line) s = _
  simp only [execWriteAccept, hsent, findIdx_head (p := fun v : MemWrite => v.line == line) (i := 0) (by simpa using hline)]
  rw [if_neg (by simp [hroom])]
  rfl

/-! ### What the log of an error touches (R282, R516) -/

/-- Of the memory system only memory itself has changed, and of the module's counts only that of dropped writes (slot 8 of
R518): what a write of an agent that does not cache may do to both. -/
structure MemWritten (s u : State) : Prop where
  ms : u.ms = { s.ms with mem := u.ms.mem }
  count : ∀ i, i ≠ 8 → NMap.findD {} i u.mcount = NMap.findD {} i s.mcount

theorem MemWritten.of_eq {s u : State} (hms : u.ms = s.ms) (hcount : u.mcount = s.mcount) : MemWritten s u :=
  ⟨by rw [hms], fun i _ => by rw [hcount]⟩

theorem MemWritten.refl (s : State) : MemWritten s s := .of_eq rfl rfl

theorem MemWritten.trans {s t u : State} (h1 : MemWritten s t) (h2 : MemWritten t u) : MemWritten s u :=
  ⟨by rw [h2.ms, h1.ms], fun i hi => (h2.count i hi).trans (h1.count i hi)⟩

theorem MemWritten.foldl {β : Type} {f : State → β → State} (hf : ∀ s b, MemWritten s (f s b)) (l : List β) (s : State) :
    MemWritten s (l.foldl f s) :=
  foldl_keeps (MemWritten s) f (fun t b h => h.trans (hf t b)) l s (.refl s)

theorem State.memAccept_memWritten (s : State) (line : Nat) (bytes : NMap Byte) (poison : Bool) (tag : Nat) :
    MemWritten s (s.memAccept line bytes poison tag) := by
  unfold State.memAccept
  split
  · exact ⟨rfl, fun _ _ => rfl⟩
  · exact ⟨rfl, fun i hi => NMap.findD_ins_ne hi _ _ _⟩

theorem State.victimDone_memWritten (s : State) (v : Option (Nat × Nat)) : MemWritten s (s.victimDone v) := by
  unfold State.victimDone
  split <;> exact .of_eq rfl rfl

theorem State.acceptSent_memWritten (s : State) (line : Nat) : MemWritten s (s.acceptSent line) := by
  unfold State.acceptSent
  extract_lets ws c s1
  have h1 : MemWritten s s1 := .of_eq rfl rfl
  exact h1.trans (.foldl (fun st w => (st.memAccept_memWritten _ _ _ _).trans (State.victimDone_memWritten _ _)) _ _)

theorem State.flushLine_memWritten (s : State) (line : Nat) : MemWritten s (s.flushLine line) := by
  unfold State.flushLine
  extract_lets s0 hs fl s1 s2
  have h0 : MemWritten s s0 := .of_eq rfl rfl
  have h1 : MemWritten s s1 := h0.trans (s0.acceptSent_memWritten line)
  have h2 : MemWritten s s2 := by
    simp only [s2]
    split
    · exact h1.trans (s1.memAccept_memWritten _ _ _ _)
    · exact h1.trans (s1.memAccept_memWritten _ _ _ _)
    · exact h1
  split
  · exact h0
  · exact h2.trans (.of_eq rfl rfl)

theorem State.rereadTxn_memWritten (s : State) (line : Nat) : MemWritten s (s.rereadTxn line) := by
  unfold State.rereadTxn
  split
  · exact .refl s
  · split <;> exact .of_eq rfl rfl

theorem State.cohWrite_memWritten (s : State) (tag pa : Nat) (bytes : List Byte) :
    MemWritten s (s.cohWrite tag pa bytes) := by
  unfold State.cohWrite
  refine MemWritten.foldl (fun st lm => ?_) _ s
  unfold State.cohWriteLine
  extract_lets c s1
  have h1 : MemWritten st s1 := .of_eq rfl rfl
  exact ((h1.trans (s1.flushLine_memWritten lm.1)).trans (State.memAccept_memWritten _ _ _ _ _)).trans
    (State.rereadTxn_memWritten _ _)

theorem State.traceOpen_memWritten (s : State) : MemWritten s s.traceOpen := by
  unfold State.traceOpen
  extract_lets d s1 next b s2
  have h1 : MemWritten s s1 := by
    simp only [s1]
    split
    · exact s.cohWrite_memWritten _ _ _
    · exact .refl s
  split
  · exact h1.trans (.of_eq rfl rfl)
  · have h2 : MemWritten s1 s2 := .of_eq rfl rfl
    exact (h1.trans h2).trans (s2.cohWrite_memWritten _ _ _)

theorem State.trace_memWritten (s : State) (type ward ctx core place high : Nat) :
    MemWritten s (s.trace type ward ctx core place high) := by
  unfold State.trace
  extract_lets stale s1 a s2
  have h1 : MemWritten s s1 := by
    simp only [s1]
    split
    · exact .refl s
    · exact s.traceOpen_memWritten
  split
  · split
    · exact h1
    · exact (h1.trans (s1.cohWrite_memWritten _ _ _)).trans (.of_eq rfl rfl)
  · exact .refl s

theorem State.raiseAplic_memWritten (s : State) (n : Nat) : MemWritten s (s.raiseAplic n) := by
  unfold State.raiseAplic State.aplicDeliver State.msi
  extract_lets dom target
  split
  · split <;> exact .of_eq rfl rfl
  · exact .of_eq rfl rfl

/-- A keeper event writes the event log and the trace, and nothing else of the memory system. -/
theorem State.keeperEvent_memWritten (s : State) (code info : Nat) : MemWritten s (s.keeperEvent code info) := by
  unfold State.keeperEvent State.logEvent
  extract_lets n s1 d s2
  have h1 : MemWritten s s1 := by
    simp only [s1]
    split
    · exact .refl s
    · exact s.cohWrite_memWritten _ _ _
  have h2 : MemWritten s1 s2 := .of_eq rfl rfl
  exact ((h1.trans h2).trans (s2.raiseAplic_memWritten 1)).trans (State.trace_memWritten _ _ _ _ _ _ _)

/-- An uncorrectable error is logged by the controller and counted, whatever its event writes to memory. -/
theorem State.memError_logged (s : State) (line : Nat) :
    (s.memError line).ms.eccLog = s.ms.eccLog ++ [(line, true)] ∧
      NMap.findD {} 5 (s.memError line).mcount = (NMap.findD {} 5 s.mcount).add 48 1 := by
  unfold State.memError
  extract_lets ms s1
  obtain ⟨hms, hcount⟩ := (s1.countModule 5 1).keeperEvent_memWritten 8 line
  exact ⟨by rw [hms]; rfl, (hcount 5 (by decide)).trans (NMap.findD_ins_same ..)⟩

/-- Without an event log and a trace, an uncorrectable error poisons its line and changes no byte. -/
theorem State.memError_poison {s : State} (hlog : s.dbg.elbase = 0) (htr : s.dbg.tren = false) (line : Nat) :
    line ∈ (s.memError line).ms.mem.poison ∧ ∀ i, (s.memError line).ms.mem.read i = s.ms.mem.read i := by
  unfold State.memError
  extract_lets ms s1
  have hms : ((s1.countModule 5 1).keeperEvent 8 line).ms = s1.ms :=
    State.logEvent_ms_of_bare (s := s1.countModule 5 1) hlog htr ..
  rw [hms]
  exact ⟨mem_addNew_self line _, fun i => Mem.read_setPoison s.ms.mem line true i⟩

/-! ### Scrubs (R283, R292) -/

/-- PATROL_SCRUB of one address that a device holds: its errors are handled by their kinds. -/
theorem exec_patrolScrub {s : State} {device a : Nat} (hon : s.power.on = true) (hlp : s.isLp a = true)
    (hhome : s.homeOf (lineOf a) = device) :
    let s0 : State := { s with ms := { s.ms with fastScrub := s.ms.fastScrub.filter (· != device) } }
    exec (.patrolScrub device [a] []) s = .next (s0.memCorrected (lineOf a)) ∧
      exec (.patrolScrub device [] [a]) s = .next (s0.memError (lineOf a)) := by
  have hmine : (s.isLp a && s.homeOf (lineOf a) == device) = true := by simp [hlp, hhome]
  constructor
  · change execPatrolScrub device [a] [] s = _
    rw [execPatrolScrub, if_neg (by simp [hon])]
    simp only [List.filter_cons, hmine, if_true, List.filter_nil, List.foldl_cons, List.foldl_nil]
  · change execPatrolScrub device [] [a] s = _
    rw [execPatrolScrub, if_neg (by simp [hon])]
    simp only [List.filter_cons, hmine, if_true, List.filter_nil, List.foldl_cons, List.foldl_nil]

/-- SRAM_SCRUB with corrected errors only: they are counted. -/
theorem exec_sramScrub_corrected {s : State} {die corrected : Nat} (hon : s.power.on = true) (hsome : 0 < corrected) :
    exec (.sramScrub die corrected []) s = .next (({ s with ms := { s.ms with
      fastScrub := s.ms.fastScrub.filter (· != 32 + die) } } : State).countModule (16 + die) corrected) := by
  change execSramScrub die corrected [] s = _
  rw [execSramScrub, if_neg (by simp [hon])]
  dsimp only
  rw [if_neg (by omega)]
  rfl

/-! ### The statement -/

/-- Settles O31: lines given up by what the stop's cache still holds, a victim by the transaction its miss opens, a write by
the epoch's rule, scrubs by the errors they meet. -/
theorem writesAndScrubs : Obligations.WritesAndScrubs := by
  intro s
  refine ⟨fun stop region b hone hregion hstops hstop hfirst hfree => ?region,
    fun die line m hone hstop hline haccepted hfree hwait hbuf => ?victim,
    fun line w rest hsent hline hvictim hroom => ?write, fun device a hon hlp hhome => ?corrected,
    fun device a hon hlp hhome => ?bad, fun die corrected hon hsome => exec_sramScrub_corrected hon hsome⟩
  case region =>
    obtain ⟨hms, hfilter, hback⟩ := s.gaveUp_keeps stop region
    refine ⟨_, exec_backInvalidation hone hregion hstops hstop hfirst hfree, ?_, fun f hf => ?_, hms, fun l hl => ?_,
      fun l hl => ?_⟩
    · simp [hback, hone, hregion]
    · simpa using (List.mem_filter.1 hf).2
    · exact (s.find_gaveUp stop region l).trans (if_pos hl)
    · exact (s.find_gaveUp stop region l).trans (if_neg hl)
  case victim =>
    let s1 : State := { s with coh := { s.coh with misses := [] } }
    obtain ⟨t, htxn, htstop, -, htway, -, -, -, hmisses⟩ := s1.openTxn_spec m.stop line m.kind m.way 0
    refine ⟨_, t, exec_victimAccept hone hstop hline haccepted, ?_⟩
    rw [State.homeRequest_opens (s := s1) hfree hwait hbuf]
    exact ⟨hmisses, htxn, htstop, htway⟩
  case write =>
    let s1 : State := { s with coh := { s.coh with sent := rest } }
    refine ⟨_, exec_writeAccept_sent hsent hline hroom, ?_⟩
    rw [hvictim]
    refine ⟨State.memAccept_sent s1 .., fun haccepts hwf => ?_, fun hdropped => ?_⟩
    · have hread (i : Nat) : (s1.memAccept line w.bytes w.poison w.tag).ms.mem.read i = (s.ms.mem.writeAt line w.bytes).read i :=
        State.memAccept_bytes (s := s1) w.bytes w.poison haccepts i
      exact ⟨fun b hb => (hread _).trans (Mem.read_writeAt hwf s.ms.mem line b hb),
        fun i hi => (hread i).trans (Mem.read_writeAt_ne w.bytes s.ms.mem line i hi)⟩
    · rw [State.memAccept_dropped s1 line w.bytes w.poison w.tag hdropped]
      exact ⟨rfl, NMap.findD_ins_same ..⟩
  case corrected => exact (exec_patrolScrub hon hlp hhome).1
  case bad =>
    let s0 : State := { s with ms := { s.ms with fastScrub := s.ms.fastScrub.filter (· != device) } }
    obtain ⟨hecc, hcount⟩ := s0.memError_logged (lineOf a)
    exact ⟨_, (exec_patrolScrub hon hlp hhome).2, hecc, hcount,
      fun hlog htr => State.memError_poison (s := s0) hlog htr (lineOf a)⟩

end Sys2Proof.Machine

/-! PARTITION and SNAPSHOT (O36): the plans that a PARTITION writes, and what a capture and its thaw leave of the front end
and of the tiles. -/

namespace Sys2Proof.Machine

/-! ### PARTITION (R285, R405) -/

/-- Entries put at `count` keys from `first` on are read back there, and no other key is touched. -/
theorem NMap.findD_foldl_put {α : Type} [DecidableEq α] (d : α) (f : Nat → α) (first count p : Nat) (m : NMap α) :
    NMap.findD d p (((List.range count).map (fun i => (first + i, f i))).foldl (fun t q => NMap.put d q.1 q.2 t) m) =
      if first ≤ p ∧ p < first + count then f (p - first) else NMap.findD d p m := by
  induction count with
  | zero => rw [if_neg (by omega)]; rfl
  | succ n ih =>
    rw [List.range_succ, List.map_append, List.foldl_append]
    simp only [List.map_cons, List.map_nil, List.foldl_cons, List.foldl_nil]
    rw [NMap.findD_put, ih]
    by_cases hlast : p = first + n
    · subst hlast
      rw [if_pos rfl, if_pos (by omega), Nat.add_sub_cancel_left]
    · have hsame : (first ≤ p ∧ p < first + n) ↔ first ≤ p ∧ p < first + (n + 1) := by omega
      simp only [if_neg hlast, hsame]

/-- Plan `i` of those that a PARTITION's descriptor names. -/
def State.namedPlan (s : State) (d : BitVec 512) (i : Nat) : Plan := planOf (s.cohNat (field d 255 192 + 8 * i) 8)

/-- The state in which a PARTITION has written its plans. -/
def State.withPlans (s : State) (d : BitVec 512) : State :=
  { s with fe := { s.fe with plans := ((List.range (field d 139 134)).map (fun i =>
    (field d 133 128 + i, s.namedPlan d i))).foldl (fun t p => NMap.put {} p.1 p.2 t) s.fe.plans } }

theorem State.plan_withPlans (s : State) (d : BitVec 512) (p : Nat) :
    (s.withPlans d).plan p = if field d 133 128 ≤ p ∧ p < field d 133 128 + field d 139 134
      then s.namedPlan d (p - field d 133 128) else s.plan p := by
  rw [State.plan, State.withPlans, State.plan]
  exact NMap.findD_foldl_put _ (s.namedPlan d) _ _ p s.fe.plans

/-- A PARTITION whose operands pass starts with its plans written. -/
theorem exec_partition {s : State} {r : Ring} {m : Cmd} (hstart : s.startable .admin [0x10] = some (r, m))
    (hfirst : 1 ≤ field m.desc 133 128) (hend : field m.desc 133 128 + field m.desc 139 134 ≤ 64)
    (hcount : 1 ≤ field m.desc 139 134) (halign : field m.desc 255 192 % 8 = 0)
    (hlp : s.isLpRange (field m.desc 255 192) (8 * field m.desc 139 134) = true)
    (hvalid : ∀ i, i < field m.desc 139 134 → (s.namedPlan m.desc i).valid = true ∨
      s.planBound (field m.desc 133 128 + i) = false) :
    exec (.partition .admin) s =
      .next ((s.withPlans m.desc).updCmd .admin m.count (fun m => { m with state := .started })) := by
  have hall : ((List.range (field m.desc 139 134)).map (fun i => (field m.desc 133 128 + i, s.namedPlan m.desc i))).all
      (fun p => p.2.valid || !s.planBound p.1) = true := by
    simpa [List.all_eq_true] using hvalid
  have hplans : s.partitionPlans m.desc =
      .ok ((List.range (field m.desc 139 134)).map (fun i => (field m.desc 133 128 + i, s.namedPlan m.desc i))) := by
    simp only [State.namedPlan] at hall ⊢
    simp [State.partitionPlans, Chk.need, Chk.bind, hfirst, hend, hcount, halign, hlp, hall]
  change execPartition .admin s = _
  simp only [execPartition, hstart, State.onChk, hplans]
  rfl

/-! ### SNAPSHOT (R519) -/

/-- A SNAPSHOT whose operands pass freezes the module and starts. -/
theorem exec_snapshot {s : State} {r : Ring} {m : Cmd} (hstart : s.startable .admin [0x11] = some (r, m))
    (halign : field m.desc 191 128 % 4096 = 0) (hlp : s.isLpRange (field m.desc 191 128) snapBytes = true)
    (hsize : snapBytes ≤ field m.desc 255 192) :
    exec (.snapshot .admin) s = .next (({ s with fe := { s.fe with frozen := some s.nowN } } : State).updCmd .admin
      m.count (fun m => { m with state := .started })) := by
  have hdest : (decide (field m.desc 191 128 % 4096 = 0) && s.isLpRange (field m.desc 191 128) snapBytes) = true := by
    rw [hlp, Bool.and_true, decide_eq_true halign]
  change execSnapshot .admin s = _
  simp only [execSnapshot, hstart, Chk.need, hdest, decide_eq_true hsize, if_true, Chk.bind, State.onChk]

/-- Numbers put at offsets from an address, each of its size. -/
def State.putPieces (s : State) (tag dest : Nat) (ps : List Piece) : State :=
  ps.foldl (fun st p => st.cohPut tag (dest + p.1) p.2.1 p.2.2) s

theorem State.putPieces_fe (s : State) (tag dest : Nat) (ps : List Piece) : (s.putPieces tag dest ps).fe = s.fe :=
  foldl_keeps (fun t : State => t.fe = s.fe) _
    (fun t p ht => (t.cohPut_fe tag (dest + p.1) p.2.1 p.2.2).trans ht) ps s rfl

theorem State.putPieces_coresKept (s : State) (tag dest : Nat) (ps : List Piece) :
    CoresKept s (s.putPieces tag dest ps) :=
  .foldl (f := fun st (p : Piece) => st.cohPut tag (dest + p.1) p.2.1 p.2.2)
    (fun t p => t.cohWrite_coresKept tag (dest + p.1) (natBytes p.2.1 p.2.2)) ps s

/-- The state with its count of free choices at `n`. -/
def State.withFree (s : State) (n : Nat) : State := { s with free := n }

theorem State.withFree_fe (s : State) (n : Nat) : (s.withFree n).fe = s.fe := rfl

theorem State.withFree_core (s : State) (n c : Nat) : (s.withFree n).core c = s.core c := rfl

/-- A capture is a run of writes, the header's the last. -/
theorem State.writeSnapshot_eq (s : State) (tag dest len : Nat) :
    ∃ ps n, s.writeSnapshot tag dest len = (((s.cohWrite tag dest (List.replicate snapBytes 0)).putPieces tag dest
      ps).cohPut tag dest 4096 (s.snapHeader len)).withFree n :=
  ⟨s.snapRings ++ s.snapTumblers ++ s.snapLocal ++ s.snapCredits ++ s.snapGroups ++
    (List.range 64).map (fun i => (0x1000 + 64 * i, 64, bytesNat (slotBytes (s.slot i)))), _, rfl⟩

theorem State.writeSnapshot_fe (s : State) (tag dest len : Nat) : (s.writeSnapshot tag dest len).fe = s.fe := by
  obtain ⟨ps, n, h⟩ := s.writeSnapshot_eq tag dest len
  rw [h, State.withFree_fe, State.cohPut_fe, State.putPieces_fe, State.cohWrite_fe]

/-- A capture takes reservations and nothing else from the cores. -/
theorem State.writeSnapshot_coresKept (s : State) (tag dest len : Nat) : CoresKept s (s.writeSnapshot tag dest len) := by
  obtain ⟨ps, n, h⟩ := s.writeSnapshot_eq tag dest len
  rw [h]
  intro c
  rw [State.withFree_core]
  exact CoresKept.trans (CoresKept.trans (s.cohWrite_coresKept tag dest (List.replicate snapBytes 0))
    (State.putPieces_coresKept _ tag dest ps)) (State.cohWrite_coresKept _ tag dest (natBytes 4096 (s.snapHeader len))) c

/-- The end of a freeze puts off the budgets of the tiles that are not halted by its length. -/
theorem State.tile_thaw (s : State) (len c key : Nat) :
    (s.thaw len).tile? c key =
      (s.tile? c key).map (fun t => if t.haltedAt.isSome then t else { t with paused := t.paused + len }) := by
  simp only [State.tile?, State.core, State.thaw, NMap.findD, NMap.find_mapVals]
  cases NMap.find c s.cores with
  | none => rfl
  | some k => simp

/-- What a thaw and the end of the one command of the admin ring leave: no freeze, the command ended, and every tile that
is not halted with its budget put off. -/
theorem State.thaw_endCmd {s : State} {m : Cmd} {len : Nat} (hcmds : s.fe.admin.cmds = [m]) :
    ((s.thaw len).endCmd .admin m.count 0 0 0).fe.frozen = none ∧
    ((s.thaw len).endCmd .admin m.count 0 0 0).fe.admin.cmds = [{ m with state := .ended 0 0 0 0 }] ∧
    ∀ c key t, s.tile? c key = some t → t.haltedAt = none →
      ((s.thaw len).endCmd .admin m.count 0 0 0).tile? c key = some { t with paused := t.paused + len } := by
  refine ⟨rfl, ?_, fun c key t ht hrun => (s.tile_thaw len c key).trans (by simp [ht, hrun])⟩
  have hmap : ((s.thaw len).endCmd .admin m.count 0 0 0).fe.admin.cmds =
      s.fe.admin.cmds.map (fun x => if x.count = m.count then { x with state := .ended 0 0 (BitVec.ofNat 64 0) 0 } else x) :=
    rfl
  simp [hmap, hcmds]

/-- SNAPSHOT_CAPTURE: with the issued matrix work done, the capture is written, the freeze ends and the command is over. -/
theorem exec_snapshotCapture {s : State} {t0 : Nat} {m : Cmd} (hfrozen : s.fe.frozen = some t0)
    (hcmds : s.fe.admin.cmds = [m]) (hop : m.op = 0x11) (hstarted : m.state = .started)
    (hdone : ∀ k ∈ s.cores, k.2.matrixDone = true) :
    exec .snapshotCapture s = .next (((s.writeSnapshot m.tag (field m.desc 191 128) (s.nowN - t0)).thaw
      (s.nowN - t0)).endCmd .admin m.count 0 0 0) := by
  have hfind : s.fe.admin.cmds.find? (fun m => m.op == 0x11 && m.state == .started) = some m := by
    simp [hcmds, hop, hstarted]
  have hnone : s.cores.any (fun ck => !ck.2.matrixDone) = false := by
    simpa [List.any_eq_false] using fun c k hk => hdone (c, k) hk
  change execSnapshotCapture s = _
  unfold execSnapshotCapture
  simp only [hfrozen, hfind]
  rw [if_neg (by simp [hnone])]

/-! ### The statement -/

/-- Settles O36: a PARTITION by the plans it puts, a SNAPSHOT by its freeze, and the capture by the thaw that ends it. -/
theorem partitionAndSnapshot : Obligations.PartitionAndSnapshot := by
  intro s r m d first count src plan
  refine ⟨fun hstart hfirst hend hcount halign hlp hvalid => ?partition, exec_snapshot,
    fun t0 hfrozen hcmds hop hstarted hdone => ?capture⟩
  case partition =>
    refine ⟨_, exec_partition hstart hfirst hend hcount halign hlp hvalid, fun i hi => ?_, fun p hp => ?_,
      fun b hb hsame => ?_, rfl, rfl⟩
    · refine (s.plan_withPlans d (first + i)).trans ?_
      rw [if_pos ⟨Nat.le_add_right .., Nat.add_lt_add_left hi _⟩, Nat.add_sub_cancel_left]
      rfl
    · exact (s.plan_withPlans d p).trans (if_neg (by omega))
    · obtain ⟨a, -, rfl⟩ := List.mem_map.1 hb
      split at hsame
      · next h => rw [if_pos h]
      · next h => exact absurd hsame h
  case capture =>
    obtain ⟨hend, hover, htiles⟩ := State.thaw_endCmd (len := s.nowN - t0)
      ((congrArg (·.admin.cmds) (s.writeSnapshot_fe m.tag (field m.desc 191 128) (s.nowN - t0))).trans hcmds)
    refine ⟨_, exec_snapshotCapture hfrozen hcmds hop hstarted hdone, hend, hover, fun c key t ht hrun => ?_⟩
    have hkept := (s.writeSnapshot_coresKept m.tag (field m.desc 191 128) (s.nowN - t0)).tile c key
    exact ⟨_, htiles c key t (hkept.trans ht) hrun, rfl⟩

end Sys2Proof.Machine

/-! What the front end's service keeps (O41, R358, R405, R575): whether it is enabled, where its admin ring lies, and of
every context who it is and whether it has gone off or on, but for a fault. -/

namespace Sys2Proof.Machine

/-! ### What is kept -/

/-- Where a ring lies, and how many entries it has completed. -/
def Ring.place (r : Ring) : Nat × Nat × Nat × Nat × Nat × Nat := (r.rbase, r.rlog2, r.cbase, r.clog2, r.dbell, r.ctail)

/-- A context is the one it was, in the state it was in or faulted. -/
structure CtxServed (c d : Ctx) : Prop where
  ward : d.ward = c.ward
  pasid : d.pasid = c.pasid
  prio : d.prio = c.prio
  state : d.state = c.state ∨ d.state = .faulted

theorem CtxServed.refl (c : Ctx) : CtxServed c c := ⟨rfl, rfl, rfl, .inl rfl⟩

theorem CtxServed.trans {c d e : Ctx} (h1 : CtxServed c d) (h2 : CtxServed d e) : CtxServed c e where
  ward := h2.ward.trans h1.ward
  pasid := h2.pasid.trans h1.pasid
  prio := h2.prio.trans h1.prio
  state := by
    rcases h2.state with hsame | hfault
    · rw [hsame]; exact h1.state
    · exact .inr hfault

/-- The front end is as enabled as it was, its admin ring where it was, and each context the one it was. -/
structure ServiceKept (s t : State) : Prop where
  en : t.fe.en = s.fe.en
  admin : t.fe.admin.place = s.fe.admin.place
  ctx : ∀ n, CtxServed (s.ctx n) (t.ctx n)

theorem ServiceKept.of_eq {s t : State} (hen : t.fe.en = s.fe.en) (hadmin : t.fe.admin = s.fe.admin)
    (hctxs : t.fe.ctxs = s.fe.ctxs) : ServiceKept s t where
  en := hen
  admin := congrArg Ring.place hadmin
  ctx n := by rw [State.ctx, State.ctx, hctxs]; exact .refl _

theorem ServiceKept.of_fe {s t : State} (h : t.fe = s.fe) : ServiceKept s t := .of_eq (by rw [h]) (by rw [h]) (by rw [h])

theorem ServiceKept.refl (s : State) : ServiceKept s s := .of_fe rfl

theorem ServiceKept.trans {s t u : State} (h1 : ServiceKept s t) (h2 : ServiceKept t u) : ServiceKept s u where
  en := h2.en.trans h1.en
  admin := h2.admin.trans h1.admin
  ctx n := (h1.ctx n).trans (h2.ctx n)

/-- What comes before may be of any shape, as long as the front end is left alone. -/
theorem ServiceKept.after {s t u : State} (h : ServiceKept t u) (hfe : t.fe = s.fe) : ServiceKept s u :=
  (ServiceKept.of_fe hfe).trans h

theorem ServiceKept.foldl {β : Type} {f : State → β → State} (hf : ∀ s b, ServiceKept s (f s b)) (l : List β) (s : State) :
    ServiceKept s (l.foldl f s) :=
  foldl_keeps (ServiceKept s) f (fun t b h => h.trans (hf t b)) l s (.refl s)

theorem State.updCtx_served (s : State) (n : Nat) (f : Ctx → Ctx) (hf : ∀ c, CtxServed c (f c)) :
    ServiceKept s (s.updCtx n f) where
  en := rfl
  admin := rfl
  ctx m := by
    by_cases hm : m = n
    · rw [hm, State.ctx_updCtx_same]; exact hf _
    · rw [State.ctx_updCtx_ne _ hm]; exact .refl _

/-- A ring changed in anything but its place. -/
theorem State.updRing_served (s : State) (id : RingId) (f : Ring → Ring) (hf : ∀ r, (f r).place = r.place) :
    ServiceKept s (s.updRing id f) := by
  cases id with
  | admin => exact ⟨rfl, hf _, fun n => .refl _⟩
  | ring c r => exact s.updCtx_served c (fun x => { x with rings := NMap.modify r f x.rings }) (fun _ => ⟨rfl, rfl, rfl, .inl rfl⟩)

theorem State.countCtx_served (s : State) (ctx i n : Nat) : ServiceKept s (s.countCtx ctx i n) :=
  s.updCtx_served ctx _ (fun _ => ⟨rfl, rfl, rfl, .inl rfl⟩)

/-! ### The front end's accesses (R576) -/

theorem LogOnly.fe {s t : State} (h : LogOnly s t) : t.fe = s.fe := (congrArg State.fe (Eq.trans h rfl)).trans rfl

theorem State.stampSram_fe (s : State) (die a n : Nat) (back : Option Nat) : (s.stampSram die a n back).fe = s.fe := by
  unfold State.stampSram
  split <;> rfl

theorem State.targetWrite_fe (s : State) (t : Target) (tag : Nat) (bytes : List Byte) :
    (s.targetWrite t tag bytes).fe = s.fe := by
  cases t with
  | cache pa => exact s.cohWrite_fe tag pa bytes
  | uncached pa =>
    exact foldl_keeps (fun u : State => u.fe = s.fe) _
      (fun u lm hu => (u.memAccept_memOnly lm.1 lm.2 false tag).toTrace.toLog.fe.trans hu) _ s rfl
  | share die a back =>
    have hsram : ((s.sramWrite die a bytes).stampSram die a bytes.length back).fe = s.fe :=
      State.stampSram_fe _ die a bytes.length back
    cases back with
    | none => exact hsram
    | some pa => exact (State.cohWrite_fe _ tag pa bytes).trans hsram
  | window p pa c => rfl
  | mmio pa => rfl

theorem State.feWriteBytes_fe (s : State) (ctx tag va : Nat) (bytes : List Byte) :
    (s.feWriteBytes ctx tag va bytes).fe = s.fe := by
  induction bytes generalizing s va with
  | nil => rfl
  | cons b bs ih =>
    unfold State.feWriteBytes
    split
    · exact (ih _ _).trans (s.targetWrite_fe _ tag [b])
    · rfl

theorem State.feWrite_fe {s t : State} {ctx tag va : Nat} {bytes : List Byte} (h : s.feWrite ctx tag va bytes = .ok t) :
    t.fe = s.fe := by
  unfold State.feWrite at h
  split at h
  · cases h; exact s.feWriteBytes_fe ctx tag va bytes
  · cases h

theorem State.feStore_fe (s : State) (ctx tag va : Nat) (bytes : List Byte) : (s.feStore ctx tag va bytes).fe = s.fe := by
  unfold State.feStore
  split
  · next h => exact State.feWrite_fe h
  · rfl

theorem State.pageRequest_served (s : State) (ctx va : Nat) : ServiceKept s (s.pageRequest ctx va) := by
  unfold State.pageRequest
  extract_lets p
  split
  · exact .refl s
  · exact (State.countCtx_served _ ctx 16 1).after rfl

theorem State.sawPage_fe (s : State) (ctx va : Nat) : (s.sawPage ctx va).fe = s.fe := rfl

theorem State.noteIoFault_fe (s : State) (ctx detail va : Nat) : (s.noteIoFault ctx detail va).fe = s.fe := by
  unfold State.noteIoFault
  extract_lets c
  split <;> rfl

theorem State.translated_fe (s : State) (ctx : Nat) (k : AccKind) (vas : List Nat) :
    (s.translated ctx k vas).fe = s.fe := by rw [State.translated_only]

theorem State.syncCtx_fe (s : State) (n : Nat) : (s.syncCtx n).fe = s.fe := s.cohWrite_fe _ _ _

/-! ### Tiles stopped (R106, R353) -/

theorem State.writeStatus_fe (s : State) (core key : Nat) (t : Tile) (sp : Spindle) (state cause desc addr : Nat) :
    (s.writeStatus core key t sp state cause desc addr).fe = s.fe := by
  unfold State.writeStatus
  split
  · rfl
  · split
    · unfold State.putStatus
      extract_lets s1
      have h1 : s1.fe = s.fe := s.translated_fe _ _ _
      split
      · exact h1
      · exact h1
      · exact (s1.targetWrite_fe _ _ _).trans h1
    · rfl

theorem State.stopSpindles_fe (s : State) (core key : Nat) (t : Tile) (but : List Nat) :
    (s.stopSpindles core key t but).fe = s.fe := by
  refine foldl_keeps (fun u : State => u.fe = s.fe) _ (fun u ns hu => ?_) _ s rfl
  split
  · exact (u.writeStatus_fe core key t _ _ _ _ _).trans hu
  · exact hu

theorem State.releaseHalted_fe (s : State) (core key reason : Nat) : (s.releaseHalted core key reason).fe = s.fe := by
  refine foldl_keeps (fun u : State => u.fe = s.fe) _ (fun u pg hu => ?_) _ s rfl
  split
  · exact (u.debugEvent_only _ _ _ _ _ _).fe.trans hu
  · exact hu

theorem State.excEntry_fe (s : State) (r : ExcRec) (core key entry : Nat) : (s.excEntry r core key entry).1.fe = s.fe := by
  unfold State.excEntry
  split
  · rfl
  · extract_lets r1
    split
    next s2 r2 hput =>
      have h2 : s2.fe = s.fe := by
        split at hput
        · cases hput; exact s.cohWrite_fe _ _ _
        · cases hput; rfl
      split
      · exact (s2.cohPut_fe _ _ _ _).trans h2
      · exact h2

theorem State.excursionTile_fe (s : State) (core key : Nat) (t : Tile) (mismatch : Bool) :
    (s.excursionTile core key t mismatch).fe = s.fe := by
  unfold State.excursionTile
  extract_lets l entry
  exact foldl_keeps (fun p : State × List ExcRec => p.1.fe = s.fe) _
    (fun p r hp => (p.1.excEntry_fe r core key entry).trans hp) _ _ rfl

theorem State.syncSlotOf_served (s : State) (ctx : Nat) : ServiceKept s (s.syncSlotOf ctx) := by
  obtain ⟨slots, h⟩ := s.syncSlotOf_fe ctx
  exact .of_eq (by rw [h]) (by rw [h]) (by rw [h])

/-- A tile that leaves its core: the usage of its context counts, and the rest of the front end's service goes on. -/
theorem State.tileGone_served (s : State) (core key : Nat) (why : Option StopWhy) :
    ServiceKept s (s.tileGone core key why) := by
  unfold State.tileGone
  split
  · exact .refl s
  · next t ht =>
    extract_lets mism again s1 l s2 last s3 left s4 mine posted s5 s6 s7
    have h2 : ServiceKept s s2 := .of_fe ((s1.trace_fe _ _ _ _ _ _).trans (s.excursionTile_fe core key t mism))
    have h3 : ServiceKept s2 s3 := s2.updCtx_served t.ctx _ (fun _ => ⟨rfl, rfl, rfl, .inl rfl⟩)
    have h7 : ServiceKept s3 s7 := by
      simp only [s7]
      split <;> exact .of_eq rfl rfl rfl
    exact ((h2.trans h3).trans h7).trans (s7.syncSlotOf_served t.ctx)

theorem State.stopTile_served (s : State) (core key : Nat) (why : StopWhy) (but : List Nat) :
    ServiceKept s (s.stopTile core key why but) := by
  unfold State.stopTile
  split
  · exact .refl s
  · next t ht =>
    extract_lets s1 s2
    have h2 : s2.fe = s.fe := by
      simp only [s2]
      split
      · exact s.releaseHalted_fe core key _
      · exact (s1.stopSpindles_fe core key t but).trans (s.releaseHalted_fe core key _)
    exact (ServiceKept.of_fe h2).trans (s2.tileGone_served core key (some why))

/-! ### A context faulted (R106, R576) -/

theorem State.writeFault_served (s : State) (ctx tag rcd : Nat) : ServiceKept s (s.writeFault ctx tag rcd) := by
  unfold State.writeFault
  extract_lets owe
  have howe (t : State) : ServiceKept t (owe t) := t.updCtx_served ctx _ (fun _ => ⟨rfl, rfl, rfl, .inl rfl⟩)
  split
  · exact howe s
  · split
    · next h =>
      unfold State.tryFault at h
      extract_lets a at h
      split at h
      · cases h
      · exact .of_fe (State.feWrite_fe h)
    · exact (s.pageRequest_served ctx _).trans (howe _)
    · exact .of_fe rfl

theorem State.faultContext_served (s : State) (ctx : Nat) (launch : Option Nat) (rcd : Nat) :
    ServiceKept s (s.faultContext ctx launch rcd) := by
  unfold State.faultContext
  extract_lets s1 s2 s3
  have h2 : ServiceKept s s2 := (s.writeFault_served ctx _ rcd).trans
    (.foldl (fun t (ck : Nat × Nat) => t.stopTile_served ck.1 ck.2 .other []) _ s1)
  have h3 : ServiceKept s2 s3 := s2.updCtx_served ctx _ (fun _ => ⟨rfl, rfl, rfl, .inr rfl⟩)
  have hend : ServiceKept s3 ((s3.haltLaunches ctx launch).dropRingWaits ctx) := .of_eq rfl rfl rfl
  exact ((h2.trans h3).trans hend).trans (.of_fe (State.syncCtx_fe _ ctx))

theorem State.feFault_served (s : State) (ctx detail va : Nat) : ServiceKept s (s.feFault ctx detail va) :=
  (State.faultContext_served _ ctx none _).after (s.noteIoFault_fe ctx detail va)

theorem State.movePin_served (s : State) (ctx i : Nat) (up : Bool) : ServiceKept s (s.movePin ctx i up) := by
  unfold State.movePin
  split
  · exact .of_fe (s.feStore_fe _ _ _ _)
  · exact (s.pageRequest_served ctx _).trans (State.updCtx_served _ ctx _ (fun _ => ⟨rfl, rfl, rfl, .inl rfl⟩))
  · split
    · exact .of_fe (s.sawPage_fe ctx _)
    · exact (State.feFault_served _ ctx _ _).after (s.sawPage_fe ctx _)
  · exact .refl s

/-! ### Rings read and fetched (R376 to R382) -/

theorem State.syncRing_fe (s : State) (id : RingId) : (s.syncRing id).fe = s.fe := by
  unfold State.syncRing
  split
  · rfl
  · cases id with
    | admin => exact s.cohWrite_fe _ _ _
    | ring c r => exact s.feStore_fe _ _ _ _

theorem State.ringPage_served (s : State) (id : RingId) (va : Nat) : ServiceKept s (s.ringPage id va) :=
  (s.pageRequest_served _ va).trans (State.updRing_served _ id _ (fun _ => rfl))

theorem State.ringMiss_served (s : State) (id : RingId) (k : Chk Unit) : ServiceKept s (s.ringMiss id k) := by
  cases k with
  | page va => exact s.ringPage_served id va
  | fault d va => exact (State.feFault_served _ _ d va).after (s.sawPage_fe _ va)
  | ok a => exact .refl s
  | fail st d i => exact .refl s

theorem State.fetchOne_served {s t : State} {id : RingId} {r : Ring} (h : s.fetchOne id r = .got t) : ServiceKept s t := by
  unfold State.fetchOne at h
  split at h
  · cases h
  · cases h
  · cases h
  · split at h
    · cases h
    · split at h
      · cases h
      · cases h
      · cases h
      · next m l hcheck =>
        split at h
        · cases h
        · cases h
        · cases h
        · next hpin =>
          extract_lets s1 at h
          have h1 : ServiceKept s s1 := .foldl (fun u i => u.movePin_served (ringCtx id) i true) m.pins s
          split at h
          next s2 m2 hput =>
          have h2 : ServiceKept s1 s2 := by
            cases l with
            | none => cases hput; exact .refl _
            | some x => cases hput; exact .of_eq rfl rfl rfl
          cases h
          refine (h1.trans (h2.trans ?_)).trans (.of_fe (State.trace_fe _ _ _ _ _ _ _))
          exact s2.updRing_served id _ (fun _ => rfl)

theorem State.fetchLoop_served (s : State) (id : RingId) (fuel : Nat) : ServiceKept s (s.fetchLoop id fuel) := by
  induction fuel generalizing s with
  | zero => exact .refl s
  | succ fuel ih =>
    unfold State.fetchLoop
    split
    · exact .refl s
    · split
      · exact .refl s
      · split
        · next h => exact (State.fetchOne_served h).trans (ih _)
        · exact s.ringMiss_served id _
        · refine s.updRing_served id _ (fun r => ?_)
          split <;> rfl

theorem State.fetchMore_served (s : State) (id : RingId) : ServiceKept s (s.fetchMore id) := by
  unfold State.fetchMore
  split
  · exact .refl s
  · split
    · exact s.updRing_served id _ (fun _ => rfl)
    · exact (s.fetchLoop_served id 32).trans (.of_fe (State.syncRing_fe _ id))

/-- The doorbell line read, and whatever is fetched then: the front end serves the rings and contexts it served. -/
theorem State.readDoorbell_served (s : State) (id : RingId) : ServiceKept s (s.readDoorbell id) := by
  unfold State.readDoorbell
  split
  · exact .refl s
  · extract_lets later s1 s2
    have hlater (va : Nat) : ServiceKept s (later va) :=
      (s.ringPage_served id va).trans (State.updRing_served _ id _ (fun _ => rfl))
    split
    · extract_lets tail chead bad
      split
      · have h1 : ServiceKept s s1 := s.updRing_served id _ (fun _ => rfl)
        have h2 : ServiceKept s1 s2 := by
          cases id with
          | admin => exact .refl s1
          | ring c r => exact s1.countCtx_served c 15 1
        exact (h1.trans h2).trans (.of_fe (State.syncRing_fe _ id))
      · refine ServiceKept.trans ?_ (State.fetchMore_served _ id)
        exact s.updRing_served id _ (fun _ => rfl)
    · exact hlater _
    · exact hlater _
    · exact s.ringMiss_served id _
    · exact .refl s
    · exact s.ringMiss_served id _

end Sys2Proof.Machine

/-! The registers of the front end and of the memory plan that act (O41): what they read is not in the control port's FIFO,
which every access enters; activation and deactivation of a context; and the ways of the LLCs that the pool takes. -/

namespace Sys2Proof.Machine

/-! ### The control port's FIFO holds nothing that a register's operation reads -/

theorem State.cpTake_eq (s : State) (req : Requester) (off : Nat) : ∃ p, s.cpTake req off = { s with pins := p } := by
  unfold State.cpTake
  split
  · exact ⟨_, rfl⟩
  · exact ⟨s.pins, rfl⟩

section Pins

variable (s : State) (p : Pins)

theorem State.cohRead_pins (pa n : Nat) : ({ s with pins := p } : State).cohRead pa n = s.cohRead pa n := by
  induction n generalizing pa with
  | zero => rfl
  | succ n ih =>
    rw [State.cohRead, State.cohRead, ih]
    rfl

@[simp] theorem State.cohNat_pins (pa n : Nat) : ({ s with pins := p } : State).cohNat pa n = s.cohNat pa n :=
  congrArg bytesNat (s.cohRead_pins p pa n)

@[simp] theorem State.wardEntry_pins (w : Nat) : ({ s with pins := p } : State).wardEntry w = s.wardEntry w := by
  rw [State.wardEntry, State.wardEntry, State.cohNat_pins]

theorem State.targetRead_pins (t : Target) (n : Nat) :
    ({ s with pins := p } : State).targetRead t n = s.targetRead t n := by
  cases t with
  | cache pa => rw [State.targetRead, State.targetRead, State.cohRead_pins]; rfl
  | uncached pa => rfl
  | share die a back =>
    have hread (a n : Nat) : ({ s with pins := p } : State).sramReadN die a n = s.sramReadN die a n := by
      induction n generalizing a with
      | zero => rfl
      | succ n ih => rw [State.sramReadN, State.sramReadN, ih]; rfl
    rw [State.targetRead, State.targetRead, hread]; rfl
  | window q pa c => rfl
  | mmio pa => rfl

theorem State.feReadN_pins (ctx va n : Nat) : ({ s with pins := p } : State).feReadN ctx va n = s.feReadN ctx va n := by
  induction n generalizing va with
  | zero => rfl
  | succ n ih =>
    have hresolve : ({ s with pins := p } : State).resolve ctx va .read = s.resolve ctx va .read := rfl
    have hpage : ({ s with pins := p } : State).noPage ctx va = s.noPage ctx va := rfl
    simp only [State.feReadN, hresolve, hpage, State.targetRead_pins, ih]

theorem State.chkTable_pins (ctx va n : Nat) : ({ s with pins := p } : State).chkTable ctx va n = s.chkTable ctx va n := by
  rw [State.chkTable, State.chkTable, State.feNat, State.feNat, State.feReadN_pins]

theorem State.ringTable_pins (ctx : Nat) (c : Ctx) :
    ({ s with pins := p } : State).ringTable ctx c = s.ringTable ctx c := by
  have hread : (fun a => ({ s with pins := p } : State).chkTable ctx a 64) = fun a => s.chkTable ctx a 64 :=
    funext fun a => s.chkTable_pins p ctx a 64
  rw [State.ringTable, State.ringTable, hread]

end Pins

/-! ### FE.CTL.EN (R547, R575) -/

/-- Whether FE.CTL.EN finds its bases set and the admin ring's entry in order (R547, log 36). -/
def State.adminOk (s : State) (r : Ring) : Bool :=
  [s.fe.ctxbase, s.fe.slotbase, s.fe.ringbase, s.fe.wardbase, s.fe.ctbase].all (· != 0) && r.inRange && r.aligned &&
    s.ringInMemory r

theorem State.adminOk_iff (s : State) (r : Ring) : s.adminOk r = true ↔ s.fe.ctxbase ≠ 0 ∧ s.fe.slotbase ≠ 0 ∧
    s.fe.ringbase ≠ 0 ∧ s.fe.wardbase ≠ 0 ∧ s.fe.ctbase ≠ 0 ∧ r.inRange = true ∧ r.aligned = true ∧
    s.ringInMemory r = true := by
  simp [State.adminOk, and_assoc]

section Enable

variable {s : State} {v : DWord}

theorem State.writeFeCtl_enables (hset : bitAt v 0 = true) (hoff : s.fe.en = false)
    (hok : s.adminOk (ringOf (s.cohNat s.fe.ringbase 64)) = true) :
    ∃ t : State, s.writeFeCtl v = .done ((t.syncRing .admin).readDoorbell .admin) ∧ t.fe.en = true ∧
      t.fe.admin = ringOf (s.cohNat s.fe.ringbase 64) := by
  unfold State.writeFeCtl
  extract_lets fe0 s0 r bases fe1 s1
  have hgood : (bases && r.inRange && r.aligned && s.ringInMemory r) = true := hok
  rw [if_pos hset, if_neg (by simp [hoff]), if_pos hgood]
  exact ⟨s1, rfl, rfl, rfl⟩

theorem State.writeFeCtl_refuses (hset : bitAt v 0 = true) (hoff : s.fe.en = false)
    (hbad : s.adminOk (ringOf (s.cohNat s.fe.ringbase 64)) = false) :
    s.writeFeCtl v = .done { s with fe := { s.fe with badring := true } } := by
  unfold State.writeFeCtl
  extract_lets fe0 s0 r bases fe1 s1
  have hnot : ¬ (bases && r.inRange && r.aligned && s.ringInMemory r) = true := by
    rw [show (bases && r.inRange && r.aligned && s.ringInMemory r) = false from hbad]; simp
  rw [if_pos hset, if_neg (by simp [hoff]), if_neg hnot]

end Enable

/-! ### Activation (R358) -/

/-- The context that number `n`'s descriptor and its ward's entry describe. -/
def State.described (s : State) (n : Nat) : Ctx :=
  ctxOfDesc (s.cohNat (s.ctxAddr n) 256) (s.wardEntry (nfield (s.cohNat (s.ctxAddr n) 256) 9 0))

/-- The state in which the context described is being activated. -/
def State.activating (s : State) (n : Nat) : State := s.updCtx n (fun _ => { s.described n with activating := true })

/-- The cause that an activation finds with these rings of the ring table (R358). -/
def State.causeOf (s : State) (n : Nat) (rs : List Ring) (unread : Bool) : Nat :=
  (s.activating n).activationCause (s.cohNat (s.ctxAddr n) 256)
    (s.wardEntry (nfield (s.cohNat (s.ctxAddr n) 256) 9 0)) (s.described n) rs unread

/-- An activation that passes has read the whole ring table (R358). -/
theorem State.read_of_activationCause {s : State} {d we : Nat} {c : Ctx} {rs : List Ring} {unread : Bool}
    (h : s.activationCause d we c rs unread = 0) : unread = false := by
  unfold State.activationCause at h
  cases unread with
  | false => rfl
  | true => simp only [or_true, true_or, if_true] at h; split_ifs at h

section Activate

variable {s : State} {n : Nat} {rs : List Ring} {bad : Option Nat}

/-- An activation that passes: the context is idle, or has faulted since in the service of its rings. -/
theorem State.activate_passes (hrings : (s.activating n).ringTable n (s.described n) = .ok (rs, bad))
    (hpass : s.causeOf n rs bad.isSome = 0) :
    (((s.activate n).ctx n).state = .idle ∨ ((s.activate n).ctx n).state = .faulted) ∧
      ((s.activate n).ctx n).ward = (s.described n).ward ∧ ((s.activate n).ctx n).pasid = (s.described n).pasid ∧
      ((s.activate n).ctx n).prio = (s.described n).prio := by
  obtain rfl : bad = none := Option.not_isSome_iff_eq_none.1 (by simp [State.read_of_activationCause hpass])
  let s2 := (s.activating n).updCtx n (fun _ => { s.described n with
    state := .idle, rings := (List.range rs.length).map (fun i => (i, rs.getD i {})) })
  have heq : s.activate n = (List.range rs.length).foldl (fun st i => (st.syncRing (.ring n i)).readDoorbell (.ring n i))
      ((s2.syncCtx n).writeCounters n) := by
    unfold State.activate
    extract_lets d we c s1 finish
    have hread : s1.ringTable n c = .ok (rs, none) := hrings
    have hcause : s1.activationCause d we c rs false = 0 := hpass
    simp only [hread, finish, hcause]
    rfl
  have hkept : ServiceKept s2 (s.activate n) := by
    rw [heq]
    refine ServiceKept.trans (.of_fe ?_) (.foldl (fun st i => (State.readDoorbell_served _ _).after (st.syncRing_fe _)) _ _)
    exact (State.cohWrite_fe _ _ _ _).trans (s2.syncCtx_fe n)
  have h2 : s2.ctx n = _ := State.ctx_updCtx_same _ n _
  obtain ⟨hward, hpasid, hprio, hstate⟩ := hkept.ctx n
  rw [h2] at hward hpasid hprio hstate
  exact ⟨hstate, hward, hpasid, hprio⟩

/-- An activation that fails: the context is invalid, with the cause. -/
theorem State.activate_fails (hrings : (s.activating n).ringTable n (s.described n) = .ok (rs, bad))
    (hfail : s.causeOf n rs bad.isSome ≠ 0) :
    (s.activate n).ctx n = { s.described n with state := .invalid, cause := s.causeOf n rs bad.isSome } := by
  unfold State.activate
  extract_lets d we c s1 finish
  have hread : s1.ringTable n c = .ok (rs, bad) := hrings
  have hfinish : (finish rs bad.isSome).ctx n = { c with state := .invalid, cause := s.causeOf n rs bad.isSome } := by
    have hcause : s1.activationCause d we c rs bad.isSome = s.causeOf n rs bad.isSome := rfl
    simp only [finish, hcause]
    rw [State.syncCtx_ctx, State.ctx_updCtx_same]
  rw [hread]
  cases bad with
  | none => exact hfinish
  | some va => exact hfinish

end Activate

theorem State.writeCtxon_off {s : State} {v : DWord} (hen : s.fe.en = true)
    (hoff : (s.ctx (field v 13 0)).state = .off) : s.writeCtxon v = .done (s.activate (field v 13 0)) := by
  unfold State.writeCtxon
  extract_lets n
  rw [if_neg (by simp [hen]), hoff]

theorem State.described_pins (s : State) (p : Pins) (n : Nat) : ({ s with pins := p } : State).described n = s.described n := by
  have haddr : ({ s with pins := p } : State).ctxAddr n = s.ctxAddr n := rfl
  simp only [State.described, haddr, State.cohNat_pins, State.wardEntry_pins]

theorem State.activating_pins (s : State) (p : Pins) (n : Nat) :
    ({ s with pins := p } : State).activating n = { s.activating n with pins := p } := by
  rw [State.activating, State.described_pins]
  rfl

theorem State.causeOf_pins (s : State) (p : Pins) (n : Nat) (rs : List Ring) (unread : Bool) :
    ({ s with pins := p } : State).causeOf n rs unread = s.causeOf n rs unread := by
  have haddr : ({ s with pins := p } : State).ctxAddr n = s.ctxAddr n := rfl
  simp only [State.causeOf, haddr, State.cohNat_pins, State.wardEntry_pins, State.activating_pins, State.described_pins]
  rfl

/-! ### Deactivation (R359) -/

theorem State.launch?_of_fe {s t : State} (h : t.fe.launches = s.fe.launches) (k : Nat) : t.launch? k = s.launch? k :=
  congrArg (NMap.find k) h

/-- A LAUNCH served for a peer is refused by a message and marked: the contexts and their slots stand as they did. -/
theorem State.refuseServed_fe (s : State) (ctx : Nat) :
    (s.refuseServed ctx).fe.ctxs = s.fe.ctxs ∧ (s.refuseServed ctx).fe.slots = s.fe.slots := by
  refine foldl_keeps (fun t : State => t.fe.ctxs = s.fe.ctxs ∧ t.fe.slots = s.fe.slots) _ (fun t kl ht => ?_) _ s ⟨rfl, rfl⟩
  split
  · rw [State.sendTo_fe]; exact ht
  · exact ht

theorem State.setSlot_kept (s : State) (i : Nat) (x : Slot) :
    (s.setSlot i x).fe.ctxs = s.fe.ctxs ∧ (s.setSlot i x).fe.launches = s.fe.launches := by
  have hfe : (s.setSlot i x).fe = { s.fe with slots := NMap.ins i x s.fe.slots } := State.cohWrite_fe _ _ _ _
  rw [hfe]
  exact ⟨rfl, rfl⟩

/-- A slot's change of state counts the usage of its context, and leaves whether it is leaving. -/
theorem State.slotTo_kept (s : State) (n st : Nat) :
    ((s.slotTo n st).ctx n).leaving = (s.ctx n).leaving ∧ (s.slotTo n st).fe.launches = s.fe.launches := by
  unfold State.slotTo
  extract_lets c x s1
  have h1 : (s1.ctx n).leaving = (s.ctx n).leaving ∧ s1.fe.launches = s.fe.launches := by
    simp only [s1]
    split
    · exact ⟨by rw [State.ctx_updCtx_same], rfl⟩
    · exact ⟨rfl, rfl⟩
  obtain ⟨hctxs, hlaunches⟩ := s1.setSlot_kept c.slot (if st = 0 then { since := s.nowN } else
    { x with ctx := n, state := st, ward := c.ward, since := s.nowN, want := none })
  exact ⟨(congrArg (fun m => (NMap.findD ({} : Ctx) n m).leaving) hctxs).trans h1.1, hlaunches.trans h1.2⟩

theorem State.startEviction_kept (s : State) (n : Nat) (want : Option Nat) :
    ((s.startEviction n want).ctx n).leaving = (s.ctx n).leaving ∧
      (s.startEviction n want).fe.launches = s.fe.launches := by
  unfold State.startEviction
  split
  · exact ⟨rfl, rfl⟩
  · extract_lets s0 fe0 s1
    obtain ⟨hleaving, hlaunches⟩ := s.slotTo_kept n 3
    constructor
    · rw [State.syncCtx_ctx, State.ctx_updCtx_same]
      exact hleaving
    · rw [State.syncCtx_fe]
      exact hlaunches

/-- A context that is leaving leaves on, or is off (R359 steps 3 and 4). -/
theorem State.settleOff_leaves {s : State} {n : Nat} (hleaving : (s.ctx n).leaving = true) :
    ((s.settleOff n).ctx n).leaving = true ∨ ((s.settleOff n).ctx n).state = .off := by
  unfold State.settleOff
  extract_lets c
  split
  · exact .inl hleaving
  · split
    · exact .inl ((s.startEviction_kept n none).1.trans hleaving)
    · exact .inr (by rw [State.syncCtx_ctx, State.ctx_updCtx_same])

theorem State.settleOff_launches (s : State) (n : Nat) : (s.settleOff n).fe.launches = s.fe.launches := by
  unfold State.settleOff
  extract_lets c
  split
  · rfl
  · split
    · exact (s.startEviction_kept n none).2
    · rw [State.syncCtx_fe]
      rfl

/-- A context that is leaving with no command and no slot is off. -/
theorem State.settleOff_off {s : State} {n : Nat} (hleaving : (s.ctx n).leaving = true) (hrings : (s.ctx n).rings = [])
    (hslot : (s.ctx n).holdsSlot s.fe.slots n = false) : ((s.settleOff n).ctx n).state = .off := by
  rw [State.settleOff, if_neg (by simp [hleaving, Ctx.quiet, hrings]), if_neg (by simp [hslot]), State.syncCtx_ctx,
    State.ctx_updCtx_same]

/-- A LAUNCH cancelled where it is the context's. -/
def Launch.cancelFor (l : Launch) (n : Nat) : Launch := if l.ctx = n then { l with cancelled := true } else l

theorem Launch.cancelFor_cancelled {l : Launch} {n : Nat} (h : (l.cancelFor n).ctx = n) :
    (l.cancelFor n).cancelled = true := by
  unfold Launch.cancelFor at h ⊢
  split
  · rfl
  · next hne => rw [if_neg hne] at h; exact absurd h hne

/-- A context told to leave: its commands cancelled, its waits and its peers' LAUNCHes refused. -/
def State.leave (s : State) (n : Nat) : State :=
  ((s.updCtx n (fun c => { c.cancelAll with leaving := true })).dropRingWaits n).refuseServed n

/-- A context told to leave, with its LAUNCHes cancelled: what FE.CTXOFF then settles. -/
def State.told (s : State) (n : Nat) : State :=
  { s.leave n with fe := { (s.leave n).fe with launches := NMap.mapVals (fun _ l => l.cancelFor n) (s.leave n).fe.launches } }

theorem State.told_ctx (s : State) (n : Nat) : (s.told n).ctx n = { (s.ctx n).cancelAll with leaving := true } := by
  have hctxs : (s.told n).ctx n = (s.updCtx n (fun c => { c.cancelAll with leaving := true })).ctx n :=
    congrArg (NMap.findD ({} : Ctx) n) (State.refuseServed_fe _ n).1
  rw [hctxs, State.ctx_updCtx_same]

theorem State.told_slots (s : State) (n : Nat) : (s.told n).fe.slots = s.fe.slots :=
  (State.refuseServed_fe ((s.updCtx n (fun c => { c.cancelAll with leaving := true })).dropRingWaits n) n).2

theorem State.told_cancelled {s : State} {n k : Nat} {l : Launch} (h : (s.told n).launch? k = some l) (hl : l.ctx = n) :
    l.cancelled = true := by
  have hfind : (s.told n).launch? k = ((s.leave n).launch? k).map (·.cancelFor n) := 
    NMap.find_mapVals (fun _ (x : Launch) => x.cancelFor n) k (s.leave n).fe.launches
  rw [h] at hfind
  obtain ⟨l0, -, rfl⟩ := Option.map_eq_some_iff.1 hfind.symm
  exact Launch.cancelFor_cancelled hl

theorem State.writeCtxoff_told {s : State} {v : DWord} (hen : s.fe.en = true)
    (hoff : (s.ctx (field v 13 0)).state ≠ .off) (hvalid : (s.ctx (field v 13 0)).state ≠ .invalid) :
    s.writeCtxoff v = .done ((s.told (field v 13 0)).settleOff (field v 13 0)) := by
  unfold State.writeCtxoff
  extract_lets n
  rw [if_neg (by simp [hen])]
  split
  · next h => exact absurd h hoff
  · next h => exact absurd h hvalid
  · rfl

/-! ### TM.RESET (R323, R331) -/

/-- With nobody waiting and no arm pending, an operation on a tumbler has nothing to settle. -/
theorem State.settleTum_idle {s : State} {n : Nat} (hwaiters : s.waiters = []) (harmed : (s.tum n).armed = false)
    (next : Bool) : s.settleTum n next = s := by
  unfold State.settleTum
  extract_lets t fires s1 goes s2
  have h1 : s1 = s := if_neg (by simp [fires, t, harmed])
  have h2 : s2 = s := by
    simp only [s2, h1, hwaiters, List.filter_nil]
    rw [← hwaiters]
  rw [hwaiters, List.filter_nil, List.foldl_nil, h2, State.rearm, hwaiters]
  rfl

theorem State.tumReset_idle {s : State} {n : Nat} {v : DWord} (hwaiters : s.waiters = []) (harmed : (s.tum n).armed = false) :
    s.tumReset n v = s.setTum n { s.tum n with
      count := field v 31 0, s := false, u := false, m := false, owner := field v 45 32, ward := field v 55 46 } := by
  unfold State.tumReset
  extract_lets t t1
  exact State.settleTum_idle (s := s.setTum n t1) hwaiters (by rw [State.tum_setTum_same]; exact harmed) _

/-! ### MP.SHAREWAYS (R549) -/

theorem State.setWays_shareways (s : State) (die n : Nat) :
    (s.setWays die n).ms.shareways = NMap.put 0 die n s.ms.shareways := by
  unfold State.setWays
  extract_lets stop gone s1 far
  have h1 : s1.ms.shareways = s.ms.shareways := by
    refine foldl_keeps (fun t : State => t.ms.shareways = s.ms.shareways) _ (fun t l ht => ?_) gone s rfl
    rw [((t.evictLine stop l.1).acceptSent_memWritten l.1).ms, State.evictLine_ms]
    exact ht
  exact congrArg (NMap.put 0 die n) h1

/-- After the dies below `k`, each of them has the ways that the value names. -/
theorem State.shareways_foldl (s : State) (v : DWord) (k d : Nat) :
    NMap.findD 0 d ((List.range k).foldl (fun st d => if waysOf v d = NMap.findD 0 d st.ms.shareways then st
      else st.setWays d (waysOf v d)) s).ms.shareways = if d < k then waysOf v d else NMap.findD 0 d s.ms.shareways := by
  induction k with
  | zero => rfl
  | succ k ih =>
    rw [List.range_succ, List.foldl_append, List.foldl_cons, List.foldl_nil]
    generalize (List.range k).foldl _ s = t at ih ⊢
    have hput : NMap.findD 0 d (if waysOf v k = NMap.findD 0 k t.ms.shareways then t
        else t.setWays k (waysOf v k)).ms.shareways = if d = k then waysOf v k else NMap.findD 0 d t.ms.shareways := by
      split
      · next hsame =>
        by_cases hd : d = k
        · rw [hd, if_pos rfl, hsame]
        · rw [if_neg hd]
      · rw [State.setWays_shareways, NMap.findD_put]
    rw [hput, ih]
    by_cases hd : d = k
    · rw [if_pos hd, hd, if_pos (Nat.lt_succ_self k)]
    · have hlt : d < k + 1 ↔ d < k := by omega
      simp only [if_neg hd, hlt]

/-- Ways of fewer than 15 for every die, each the die's own or of a die without a resident share, are taken over. -/
theorem State.writeShareways_done {s : State} {v : DWord} (h : ∀ d, d < 8 → waysOf v d ≠ 15 ∧
    (waysOf v d = NMap.findD 0 d s.ms.shareways ∨ s.shareOn d = false)) :
    ∃ u, s.writeShareways v = .done u ∧ ∀ d, d < 8 → NMap.findD 0 d u.ms.shareways = waysOf v d := by
  have hrange : ((List.range 8).any fun d => waysOf v d == 15) = false := by
    simpa [List.any_eq_false] using fun d hd => (h d hd).1
  have hfree : ((List.range 8).any fun d => waysOf v d != NMap.findD 0 d s.ms.shareways && s.shareOn d) = false := by
    simpa [List.any_eq_false, or_iff_not_imp_left] using fun d hd => (h d hd).2
  refine ⟨_, by rw [State.writeShareways, hrange, hfree]; rfl, fun d hd => ?_⟩
  rw [State.shareways_foldl, if_pos hd]

/-! ### The accesses -/

section Accesses

variable {s : State} {req : Requester} {v : DWord}

theorem exec_feCtlEn_enables (hreach : Reaches s req 0x10000 true) (hset : bitAt v 0 = true) (hoff : s.fe.en = false)
    (hok : s.adminOk (ringOf (s.cohNat s.fe.ringbase 64)) = true) :
    ∃ u, exec (.feCtlEn req v) s = .next u ∧ u.fe.en = true ∧
      u.fe.admin.place = (ringOf (s.cohNat s.fe.ringbase 64)).place := by
  obtain ⟨p, hp⟩ := s.cpTake_eq req 0x10000
  obtain ⟨t, hdone, hen, hadmin⟩ := State.writeFeCtl_enables (s := { s with pins := p }) hset hoff
    (by rw [State.cohNat_pins]; exact hok)
  have hkept := (t.syncRing .admin).readDoorbell_served .admin
  refine ⟨(t.syncRing .admin).readDoorbell .admin, congrArg Host.Outcome.next (hreach.winWrite_done ?_), ?_, ?_⟩
  · rw [hp]; exact hdone
  · rw [hkept.en, State.syncRing_fe, hen]
  · rw [hkept.admin, State.syncRing_fe, hadmin, State.cohNat_pins]

theorem exec_feCtlEn_refuses (hreach : Reaches s req 0x10000 true) (hset : bitAt v 0 = true) (hoff : s.fe.en = false)
    (hbad : s.adminOk (ringOf (s.cohNat s.fe.ringbase 64)) = false) :
    exec (.feCtlEn req v) s = .next { s.cpTake req 0x10000 with fe := { s.fe with badring := true } } := by
  refine congrArg Host.Outcome.next (hreach.winWrite_done ?_)
  obtain ⟨p, hp⟩ := s.cpTake_eq req 0x10000
  rw [hp]
  exact State.writeFeCtl_refuses hset hoff (by rw [State.cohNat_pins]; exact hbad)

theorem exec_feCtxon (hreach : Reaches s req 0x10020 true) (hen : s.fe.en = true)
    (hoff : (s.ctx (field v 13 0)).state = .off) :
    ∃ p, exec (.feCtxon req v) s = .next (({ s with pins := p } : State).activate (field v 13 0)) := by
  obtain ⟨p, hp⟩ := s.cpTake_eq req 0x10020
  refine ⟨p, congrArg Host.Outcome.next (hreach.winWrite_done ?_)⟩
  rw [hp]
  exact State.writeCtxon_off (s := { s with pins := p }) hen hoff

theorem exec_feCtxoff (hreach : Reaches s req 0x10028 true) (hen : s.fe.en = true)
    (hoff : (s.ctx (field v 13 0)).state ≠ .off) (hvalid : (s.ctx (field v 13 0)).state ≠ .invalid) :
    ∃ p, exec (.feCtxoff req v) s =
      .next ((({ s with pins := p } : State).told (field v 13 0)).settleOff (field v 13 0)) := by
  obtain ⟨p, hp⟩ := s.cpTake_eq req 0x10028
  refine ⟨p, congrArg Host.Outcome.next (hreach.winWrite_done ?_)⟩
  rw [hp]
  exact State.writeCtxoff_told (s := { s with pins := p }) hen hoff hvalid

theorem exec_tmReset (hreach : Reaches s req 0x40018 true) (hwaiters : s.waiters = [])
    (harmed : (s.tum s.ms.tmSel).armed = false) :
    exec (.tmReset req v) s = .next ((s.cpTake req 0x40018).setTum s.ms.tmSel { s.tum s.ms.tmSel with
      count := field v 31 0, s := false, u := false, m := false, owner := field v 45 32, ward := field v 55 46 }) := by
  refine congrArg Host.Outcome.next (hreach.winWrite_done (congrArg RegW.done ?_))
  obtain ⟨p, hp⟩ := s.cpTake_eq req 0x40018
  rw [hp]
  exact State.tumReset_idle (s := { s with pins := p }) hwaiters harmed

theorem exec_mpShareways_done (hreach : Reaches s req 0x30000 true) (h : ∀ d, d < 8 → waysOf v d ≠ 15 ∧
    (waysOf v d = NMap.findD 0 d s.ms.shareways ∨ s.shareOn d = false)) :
    ∃ u, exec (.mpShareways req v) s = .next u ∧ ∀ d, d < 8 → NMap.findD 0 d u.ms.shareways = waysOf v d := by
  obtain ⟨p, hp⟩ := s.cpTake_eq req 0x30000
  obtain ⟨u, hdone, hways⟩ := State.writeShareways_done (s := { s with pins := p }) h
  exact ⟨u, congrArg Host.Outcome.next (hreach.winWrite_done (by rw [hp]; exact hdone)), hways⟩

theorem exec_mpShareways_drop (hreach : Reaches s req 0x30000 true) (h : ∃ d, d < 8 ∧ waysOf v d = 15) :
    exec (.mpShareways req v) s = .next ((s.cpTake req 0x30000).accError req 0x30000 4 true) := by
  have hbad : ((List.range 8).any fun d => waysOf v d == 15) = true := by simpa using h
  exact congrArg Host.Outcome.next (hreach.winWrite_drop (by rw [State.writeShareways, if_pos hbad]))

theorem exec_mpHostplan (hreach : Reaches s req 0x30008 true) :
    exec (.mpHostplan req v) s = .next (if (s.plan (field v 5 0)).valid = true
      then { s.cpTake req 0x30008 with ms := { s.ms with hostplan := field v 5 0 } }
      else (s.cpTake req 0x30008).accError req 0x30008 4 true) := by
  have hplan : (s.cpTake req 0x30008).plan (field v 5 0) = s.plan (field v 5 0) := by
    rw [State.plan, State.cpTake_fe, State.plan]
  refine congrArg Host.Outcome.next ?_
  split
  · next hvalid =>
    refine hreach.winWrite_done ?_
    rw [State.writeHostplan, hplan, if_pos hvalid, State.cpTake_ms]
  · next hvalid =>
    refine hreach.winWrite_drop ?_
    rw [State.writeHostplan, hplan, if_neg hvalid]

end Accesses

/-- Settles O41, register by register. That the admin ring must lie in LPDDR5X (log 36), that an invalid process context
shows as CAUSE 5 because the ring table is then not read (log 37), and that the ring table is read whenever RINGTAB itself
is in order (log 41) are the model's choices. -/
theorem frontEndRegisters : Obligations.FrontEndRegisters := by
  intro s req v a n r
  refine ⟨fun hreach hset hoff => ⟨fun hgood => ?enable, fun hbad => ?refuse⟩, fun hreach hen hoff => ?on,
    fun hreach hen hoff hvalid => ?off, exec_tmReset, fun hreach => ⟨exec_mpShareways_drop hreach,
    exec_mpShareways_done hreach⟩, exec_mpHostplan⟩
  case enable =>
    obtain ⟨u, hu, hon, hplace⟩ := exec_feCtlEn_enables hreach hset hoff ((s.adminOk_iff r).2 hgood)
    simp only [Ring.place, Prod.mk.injEq] at hplace
    obtain ⟨hrbase, hrlog2, hcbase, hclog2, hdbell, hctail⟩ := hplace
    exact ⟨u, hu, hon, hrbase, hrlog2, hcbase, hclog2, hdbell, hctail⟩
  case refuse =>
    exact exec_feCtlEn_refuses hreach hset hoff (Bool.eq_false_iff.2 fun hok => hbad ((s.adminOk_iff r).1 hok))
  case on =>
    obtain ⟨p, hexec⟩ := exec_feCtxon hreach hen hoff
    intro d we c s1 rs bad hrings
    have hread : (({ s with pins := p } : State).activating n).ringTable n (({ s with pins := p } : State).described n) =
        .ok (rs, bad) := by
      rw [State.activating_pins, State.ringTable_pins, State.described_pins]; exact hrings
    have hcause := s.causeOf_pins p n rs bad.isSome
    refine ⟨fun hpass => ⟨_, hexec, ?_⟩, fun k hk hfail => ⟨_, hexec, ?_⟩⟩
    · have h := State.activate_passes hread (hcause.trans hpass)
      rw [State.described_pins] at h
      exact h
    · have h := State.activate_fails hread (by rw [hcause]; exact fun h0 => hk (hfail.symm.trans h0))
      rw [State.described_pins, hcause] at h
      exact h.trans (congrArg (fun k => { c with state := .invalid, cause := k }) hfail)
  case off =>
    obtain ⟨p, hexec⟩ := exec_feCtxoff hreach hen hoff hvalid
    have htold := State.told_ctx { s with pins := p } n
    have hleaving : ((({ s with pins := p } : State).told n).ctx n).leaving = true := by rw [htold]
    refine ⟨_, hexec, State.settleOff_leaves hleaving, fun k l hl hmine => ?_, fun hrings hslot => ?_⟩
    · exact State.told_cancelled ((State.launch?_of_fe (State.settleOff_launches _ n) k).symm.trans hl) hmine
    · refine State.settleOff_off hleaving ?_ ?_
      · have hnone : ((s.ctx n).cancelAll).rings = [] := by simp [Ctx.cancelAll, hrings, NMap.mapVals]
        rw [htold]; exact hnone
      · rw [htold, State.told_slots]; exact hslot

end Sys2Proof.Machine

/-! The host side (O50): inbound DMA, the harts' accesses, root-port events, and invalidations with the fence that ends the
use of what they cover. -/

namespace Sys2Proof.Machine

/-! ### Inbound DMA (R412, R414, R415) -/

section Dma

variable {s : State} {port rid va pa len : Nat} {bytes : List Byte} {ps : List (Nat × Nat)}

/-- The state in which a root port's DMA has been answered as an unsupported request. -/
def State.dmaRefused (s : State) : State := (s.draw).2.dmaGives [] false true

/-- The state in which a port has taken the bytes of an inbound write, before they go anywhere. -/
def State.dmaTaken (s : State) (port rid va : Nat) (bytes : List Byte) : State :=
  ((s.draw).2.updRport port (fun r => r.took rid va bytes.length true bytes)).dmaGives [] false false

/-- Where the bytes of an inbound write go, in pieces of one page each. -/
def State.writePieces (s : State) (port rid va : Nat) (bytes : List Byte) : Option (List (Nat × Nat)) :=
  (s.rport port).pieces s.free rid va true bytes.length (bytes.length / 4096 + 2)

/-- A DMA of at least one byte is taken from a port that carries traffic, while the host runs. -/
theorem State.dma_taken {n : Nat} (hruns : s.hostRuns = true) (hlive : s.rportLive port = true) (hn : 0 < n) :
    ¬ (s.hostRuns = false ∨ s.rportLive port = false ∨ n = 0) := by
  simp [hruns, hlive]; omega

theorem exec_dmaWrite_unmapped (hruns : s.hostRuns = true) (hlive : s.rportLive port = true) (hlen : 0 < bytes.length)
    (hmap : s.writePieces port rid va bytes = none) :
    exec (.dmaWrite port { rid := rid, va := va } bytes) s = .next s.dmaRefused := by
  change execDmaWrite port { rid := rid, va := va } bytes s = _
  have hpieces : (s.rport port).pieces s.free rid va true bytes.length (bytes.length / 4096 + 2) = none := hmap
  unfold execDmaWrite
  extract_lets n s0
  rw [if_neg (State.dma_taken hruns hlive hlen), hpieces]
  rfl

/-- An inbound write that maps: an MSI where its one piece of four bytes lies in an interrupt file, otherwise a write through
the homes, or an unsupported request. -/
theorem exec_dmaWrite_mapped (hruns : s.hostRuns = true) (hlive : s.rportLive port = true) (hlen : 0 < bytes.length)
    (hmap : s.writePieces port rid va bytes = some ps) :
    (∀ off, ps = [(pa, 4)] → hostDevice pa 4 = some (.imsic off) → off % 4096 = 0 →
      exec (.dmaWrite port { rid := rid, va := va } bytes) s =
        .next ((s.dmaTaken port rid va bytes).msi pa (bytesNat bytes))) ∧
    ((∀ q ∈ ps, ∀ off, hostDevice q.1 q.2 ≠ some (.imsic off)) →
      exec (.dmaWrite port { rid := rid, va := va } bytes) s = .next (if ps.all s.dmaReaches
        then (s.dmaTaken port rid va bytes).dmaPut s.tagNow bytes ps else s.dmaRefused)) := by
  have hpieces : (s.rport port).pieces s.free rid va true bytes.length (bytes.length / 4096 + 2) = some ps := hmap
  have hstart := State.dma_taken hruns hlive hlen
  constructor
  · intro off hone hdev hoff
    change execDmaWrite port { rid := rid, va := va } bytes s = _
    unfold execDmaWrite
    extract_lets n s0
    subst hone
    rw [if_neg hstart, hpieces]
    simp only [List.head?_cons, Option.map_some, hdev, Option.join_some, hoff, if_true]
    rfl
  · intro hdevs
    change execDmaWrite port { rid := rid, va := va } bytes s = _
    unfold execDmaWrite
    extract_lets n s0
    rw [if_neg hstart, hpieces]
    dsimp only
    split
    · next q off hdev =>
      exact absurd hdev (by simpa using hdevs (q, 4) (by simp) off)
    · rfl

theorem exec_dmaRead_refused (hruns : s.hostRuns = true) (hlive : s.rportLive port = true) (hlen : 0 < len)
    (hmap : (s.rport port).pieces s.free rid va false len (len / 4096 + 2) = some ps) (hreach : ps.all s.dmaReaches = false) :
    exec (.dmaRead port { rid := rid, va := va } len) s = .next s.dmaRefused := by
  change execDmaRead port { rid := rid, va := va } len s = _
  unfold execDmaRead
  extract_lets s0
  rw [if_neg (State.dma_taken hruns hlive hlen), hmap]
  simp only [hreach]
  rfl

/-- An inbound read that reaches memory gives what the homes give, and marks poison; memory and caches stand as they did. -/
theorem exec_dmaRead_gives (hruns : s.hostRuns = true) (hlive : s.rportLive port = true) (hlen : 0 < len)
    (hmap : (s.rport port).pieces s.free rid va false len (len / 4096 + 2) = some ps) (hreach : ps.all s.dmaReaches = true) :
    ∃ u, exec (.dmaRead port { rid := rid, va := va } len) s = .next u ∧ u.hinge.dmaUr = false ∧
      u.hinge.dmaData = (ps.map (fun q => s.cohRead q.1 q.2)).flatten ∧
      u.hinge.dmaEp = ps.any (fun q => s.rangeBad q.1 q.2) ∧ u.ms = s.ms ∧ u.coh = s.coh := by
  have hexec : exec (.dmaRead port { rid := rid, va := va } len) s =
      .next ((((s.draw).2.updRport port (fun r => r.took rid va len false [])).rportOut port
        (ps.map (fun q => s.cohRead q.1 q.2)).flatten).dmaGives (ps.map (fun q => s.cohRead q.1 q.2)).flatten
        (ps.any (fun q => s.rangeBad q.1 q.2)) false) := by
    change execDmaRead port { rid := rid, va := va } len s = _
    unfold execDmaRead
    extract_lets s0
    rw [if_neg (State.dma_taken hruns hlive hlen), hmap]
    simp only [hreach, if_true]
    rfl
  exact ⟨_, hexec, rfl, rfl, rfl, rfl, rfl⟩

end Dma

/-! ### Root-port events (R413, R414) -/

section RootPort

variable {s : State} {port : Nat}

theorem exec_rootPortLinkEvent (hruns : s.hostRuns = true) (hport : port < 2) (ev : RpEvent) :
    exec (.rootPortLinkEvent port ev) s = .next (match ev with
      | .int pin => if pin < 4 then s.raiseAplic (3 + 4 * port + pin) else s
      | .aer => s.raiseAplic (11 + port)
      | .dpc => (s.updRport port (fun r => { r with width := 0, inq := [], outq := [] })).raiseAplic (11 + port)
      | .link w => if linkWidth w then (s.updRport port (fun r => { r with
          width := w, inq := if w = 0 then [] else r.inq, outq := if w = 0 then [] else r.outq })).raiseAplic (11 + port)
        else s) := by
  change execRootPortLinkEvent port ev s = _
  unfold execRootPortLinkEvent
  rw [if_neg (by simp [hruns]; omega)]
  cases ev with
  | int pin => exact (apply_ite Host.Outcome.next _ _ _).symm
  | aer => rfl
  | dpc => rfl
  | link w => exact (apply_ite Host.Outcome.next _ _ _).symm

end RootPort

/-! ### The harts' accesses (R318, R410, R416) -/

/-- The state in which a hart's access has taken its issue beats. -/
def State.beat (s : State) (hart : Nat) : State :=
  (s.draw).2.updHart hart (fun x => { x with cycles := x.cycles + 1 + BitVec.ofNat 64 (Config.freeNat s.free) })

/-- An access that lies in one line is one piece. -/
theorem hostPieces_of_oneLine {acc : HostAcc} (h : hostPa acc % 128 + hostLen acc ≤ 128) :
    hostPieces acc = [(hostPa acc, hostLen acc)] := by
  have hmin : Nat.min (hostLen acc) (128 - hostPa acc % 128) = hostLen acc := Nat.min_eq_left (by omega)
  rw [hostPieces]
  simp only [hmin, Nat.lt_irrefl, if_false]

/-- The first piece of an access begins where the access does. -/
theorem hostPieces_head (acc : HostAcc) : ∃ n rest, hostPieces acc = (hostPa acc, n) :: rest := by
  unfold hostPieces
  extract_lets pa len n
  split
  · exact ⟨n, _, rfl⟩
  · exact ⟨n, _, rfl⟩

/-- The state in which a hart has taken an access fault. -/
def State.hartFaults (s : State) (hart : Nat) (k : HostKind) : State :=
  { s.beat hart with hinge := { (s.beat hart).hinge with hostFault := some k, hostData := [] } }

/-- The state of a step of a host access, with what of it is left waiting behind the others. -/
def hostLeft (p : State × Option HostReq) : State :=
  { p.1 with hinge := { p.1.hinge with hostq := p.1.hinge.hostq ++ p.2.toList } }

theorem hostLeft_none (s : State) : hostLeft (s, none) = s := by
  rw [hostLeft, Option.toList_none, List.append_nil]

section Step

variable {s : State} {q : HostReq} {pa n : Nat} {l : CLine}

/-- A line that the host's caches lack is waited for (R318). -/
theorem State.hostStep_lacking {rest : List (Nat × Nat)} (h : NMap.find (lineOf pa) (s.cacheOf 10) = none) :
    s.hostStep q ((pa, n) :: rest) = (s, some { q with rest := (pa, n) :: rest }) := by
  rw [State.hostStep, h]

/-- A load or fetch of one piece reads the host's line, or consumes its poison (R416). -/
theorem State.hostStep_reads (h : NMap.find (lineOf pa) (s.cacheOf 10) = some l)
    (hacc : q.acc = .load pa n ∨ q.acc = .fetch pa n) (hgot : q.got = []) :
    s.hostStep q [(pa, n)] = if l.poison then (s.hostPoison pa (hostKindOf q.acc), none)
      else (s.hostGives ((l.bytes.drop (pa % 128)).take n), none) := by
  have howns : hostOwns q.acc = false := by rcases hacc with hacc | hacc <;> rw [hacc] <;> rfl
  have hpiece : s.hostPiece q l pa n = if l.poison then none else some (s, (l.bytes.drop (pa % 128)).take n) := by
    rcases hacc with hacc | hacc <;> simp only [State.hostPiece, hacc]
  rw [State.hostStep, h]
  simp only [howns, hpiece]
  cases l.poison with
  | false => simp [State.hostStep, hgot]
  | true => simp

/-- A store of one piece to a line that the host owns writes it there (R293, R417). -/
theorem State.hostStep_stores {bytes : List Byte} (h : NMap.find (lineOf pa) (s.cacheOf 10) = some l)
    (hacc : q.acc = .store pa bytes) (hst : l.st ≠ .s) (hgot : q.got = []) :
    s.hostStep q [(pa, bytes.length)] = ((s.hostStore l pa bytes).hostGives [], none) := by
  rw [State.hostStep, h]
  simp [hst, State.hostPiece, hacc, State.hostStep, hgot]

end Step

theorem State.cacheOf_hostGives (s : State) (bytes : List Byte) (stop : Nat) :
    (s.hostGives bytes).cacheOf stop = s.cacheOf stop := rfl

theorem State.hostGives_ms (s : State) (bytes : List Byte) : (s.hostGives bytes).ms = s.ms := rfl

theorem State.hostStore_ms (s : State) (l : CLine) (pa : Nat) (bytes : List Byte) : (s.hostStore l pa bytes).ms = s.ms := rfl

theorem State.beat_ms (s : State) (hart : Nat) : (s.beat hart).ms = s.ms := rfl

theorem State.beat_tagNow (s : State) (hart : Nat) : (s.beat hart).tagNow = s.tagNow := rfl

/-- The line that a host store writes: modified, with the bytes and the epoch's tag. -/
theorem State.find_hostStore (s : State) (l : CLine) (pa : Nat) (bytes : List Byte) :
    NMap.find (lineOf pa) ((s.hostStore l pa bytes).cacheOf 10) = some { l with
      st := .m
      bytes := overlay l.bytes ((List.range bytes.length).map (fun i => (pa % 128 + i, bytes.getD i 0)))
      poison := l.poison && decide (bytes.length < 128), tag := s.tagNow } := by
  have hcache : (s.hostStore l pa bytes).cacheOf 10 = NMap.ins (lineOf pa) { l with
      st := .m
      bytes := overlay l.bytes ((List.range bytes.length).map (fun i => (pa % 128 + i, bytes.getD i 0)))
      poison := l.poison && decide (bytes.length < 128), tag := s.tagNow } (s.cacheOf 10) :=
    State.cacheOf_setCache_same s 10 _
  rw [hcache, NMap.find_ins_same]

section Hart

variable {s : State} {hart : Nat} {acc : HostAcc}
  (hready : ¬ (s.hostRuns = false ∨ s.hinge.hartOn hart = false ∨ hostLen acc = 0 ∨
    s.hinge.hostq.any (fun q => q.hart == hart) = true))

include hready

theorem exec_hostAccess_unreached (hlp : s.isLpRange (hostPa acc) (hostLen acc) = true)
    (hreach : (s.hostReaches (hostPa acc) && s.hostReaches (hostPa acc + hostLen acc - 1)) = false) (uncached : Bool) :
    exec (.hostMemoryAccess hart acc uncached) s = .next (s.hartFaults hart (hostKindOf acc)) := by
  change execHostMemoryAccess hart acc uncached s = _
  unfold execHostMemoryAccess
  extract_lets pa n s0 fault
  rw [if_neg hready, if_pos hlp, if_pos hreach]
  rfl

theorem exec_hostAccess_unmapped (hlp : s.isLpRange (hostPa acc) (hostLen acc) = false)
    (hdev : hostDevice (hostPa acc) (hostLen acc) = none) (uncached : Bool) :
    exec (.hostMemoryAccess hart acc uncached) s = .next (s.hartFaults hart (hostKindOf acc)) := by
  change execHostMemoryAccess hart acc uncached s = _
  unfold execHostMemoryAccess
  extract_lets pa n s0 fault
  rw [if_neg hready, if_neg (by simp [pa, n, hlp])]
  simp only [pa, n, hdev]
  rfl

theorem exec_hostAccess_device {d : HostDev} (hlp : s.isLpRange (hostPa acc) (hostLen acc) = false)
    (hdev : hostDevice (hostPa acc) (hostLen acc) = some d) (uncached : Bool) :
    exec (.hostMemoryAccess hart acc uncached) s = .next ((s.beat hart).hostDevAccess hart acc d) := by
  change execHostMemoryAccess hart acc uncached s = _
  unfold execHostMemoryAccess
  extract_lets pa n s0 fault
  rw [if_neg hready, if_neg (by simp [pa, n, hlp])]
  simp only [pa, n, hdev]
  rfl

/-- A cacheable access goes on line by line, and waits behind the others where the host's caches lack its next line. -/
theorem exec_hostAccess_cached (hlp : s.isLpRange (hostPa acc) (hostLen acc) = true)
    (hreach : (s.hostReaches (hostPa acc) && s.hostReaches (hostPa acc + hostLen acc - 1)) = true) :
    exec (.hostMemoryAccess hart acc false) s = .next (hostLeft ((s.beat hart).hostStep
      { hart := hart, acc := acc, rest := hostPieces acc } (hostPieces acc))) := by
  change execHostMemoryAccess hart acc false s = _
  unfold execHostMemoryAccess
  extract_lets pa n s0 fault
  rw [if_neg hready, if_pos hlp, if_neg (by simp [pa, n, hreach])]
  rfl

theorem exec_hostAccess_mtime (hlp : s.isLpRange (hostPa acc) (hostLen acc) = false)
    (hdev : hostDevice (hostPa acc) (hostLen acc) = some (.mtimer 0x7FF8)) (hacc : acc = .load (hostPa acc) 8)
    (uncached : Bool) : ∃ u, exec (.hostMemoryAccess hart acc uncached) s = .next u ∧
      u.hinge.hostData = (natBytes 8 ((s.beat hart).timeCopy 10)).take 8 ∧ u.hinge.hostFault = none := by
  refine ⟨_, exec_hostAccess_device hready hlp hdev uncached, ?_⟩
  rw [hacc]
  exact ⟨rfl, rfl⟩

section Cached

variable (hlp : s.isLpRange (hostPa acc) (hostLen acc) = true)
  (hreach : (s.hostReaches (hostPa acc) && s.hostReaches (hostPa acc + hostLen acc - 1)) = true)

include hlp hreach

theorem exec_hostAccess_waits (hlacks : NMap.find (lineOf (hostPa acc)) (s.cacheOf 10) = none) :
    ∃ u, exec (.hostMemoryAccess hart acc false) s = .next u ∧
      u.hinge.hostq = s.hinge.hostq ++ [{ hart := hart, acc := acc, rest := hostPieces acc }] ∧ u.ms = s.ms ∧
      u.coh = s.coh := by
  obtain ⟨n, rest, hpieces⟩ := hostPieces_head acc
  refine ⟨_, exec_hostAccess_cached hready hlp hreach, ?_⟩
  rw [hpieces, State.hostStep_lacking (s := s.beat hart) hlacks]
  exact ⟨rfl, rfl, rfl⟩

/-- A load or fetch from one line that the host holds: its bytes, or the fault of the poison it consumes. -/
theorem exec_hostAccess_reads {l : CLine} (hl : NMap.find (lineOf (hostPa acc)) (s.cacheOf 10) = some l)
    (hone : hostPa acc % 128 + hostLen acc ≤ 128)
    (hacc : acc = .load (hostPa acc) (hostLen acc) ∨ acc = .fetch (hostPa acc) (hostLen acc)) :
    exec (.hostMemoryAccess hart acc false) s = .next (if l.poison then
      (s.beat hart).hostPoison (hostPa acc) (hostKindOf acc)
      else (s.beat hart).hostGives ((l.bytes.drop (hostPa acc % 128)).take (hostLen acc))) := by
  have hstep := (s.beat hart).hostStep_reads (q := { hart := hart, acc := acc, rest := hostPieces acc }) hl hacc rfl
  have hexec := exec_hostAccess_cached hready hlp hreach
  rw [hostPieces_of_oneLine hone] at hstep hexec
  rw [hexec, hstep]
  split <;> rw [hostLeft_none]

theorem exec_hostAccess_stores {l : CLine} {bytes : List Byte}
    (hl : NMap.find (lineOf (hostPa acc)) (s.cacheOf 10) = some l) (hone : hostPa acc % 128 + hostLen acc ≤ 128)
    (hacc : acc = .store (hostPa acc) bytes) (hst : l.st ≠ .s) :
    ∃ (u : State) (l2 : CLine), exec (.hostMemoryAccess hart acc false) s = .next u ∧
      NMap.find (lineOf (hostPa acc)) (u.cacheOf 10) = some l2 ∧ l2.st = .m ∧ l2.tag = s.tagNow ∧
      l2.bytes = overlay l.bytes ((List.range bytes.length).map (fun i => (hostPa acc % 128 + i, bytes.getD i 0))) ∧
      u.ms = s.ms := by
  have hlen : hostLen acc = bytes.length := by rw [hacc]; rfl
  have hstep := (s.beat hart).hostStep_stores (q := { hart := hart, acc := acc, rest := hostPieces acc }) hl hacc hst rfl
  have hexec := exec_hostAccess_cached hready hlp hreach
  rw [hostPieces_of_oneLine hone, hlen] at hstep hexec
  rw [hstep, hostLeft_none] at hexec
  have hfind := (s.beat hart).find_hostStore l (hostPa acc) bytes
  rw [← State.cacheOf_hostGives _ []] at hfind
  exact ⟨_, _, hexec, hfind, rfl, s.beat_tagNow hart, rfl, by
    rw [State.hostGives_ms, State.hostStore_ms, State.beat_ms]⟩

end Cached

end Hart

/-! ### Invalidations (R265, R278) -/

theorem MemOnly.io {s t : State} (h : MemOnly s t) : t.io = s.io := (congrArg State.io (Eq.trans h rfl)).trans rfl

/-- A run that leaves residency leaves translation as it is. -/
theorem State.departRun_io (s : State) (ctx : Nat) (r : ShareRun) : (s.departRun ctx r).io = s.io := by
  unfold State.departRun
  extract_lets s1 s2 taken held s3
  have h2 : s2.io = s.io := by
    simp only [s2]
    split
    · rfl
    · exact foldl_keeps (fun t : State => t.io = s.io) _ (fun t l ht => (t.acceptSent_memOnly l).io.trans ht) _ s1 rfl
  unfold State.syncGrans
  extract_lets c
  split
  · exact (State.cohWrite_io _ _ _ _).trans h2
  · exact h2

theorem State.departCovered_io (s : State) (cov : Leaf → Bool) : (s.departCovered cov).io = s.io := by
  refine foldl_keeps (fun t : State => t.io = s.io) _ (fun t nc ht => ?_) _ s rfl
  refine foldl_keeps (fun t : State => t.io = s.io) _ (fun t r ht => ?_) _ t ht
  split
  · exact (t.departRun_io _ r).trans ht
  · exact ht

/-- What an invalidation covers of the translation caches is on its way out. -/
theorem Iommu.mem_invalidated {i : Iommu} {cov : Leaf → Bool} {l : Leaf} (hstale : l ∈ (i.invalidate cov).stale)
    (hcov : cov l = true) : l ∈ (i.invalidate cov).invalidated :=
  List.mem_eraseDups.2 (List.mem_append_right _ (List.mem_filter.2 ⟨hstale, hcov⟩))

theorem State.invalidate_here (s : State) (cov : Leaf → Bool) (upd : PtUpdate) :
    (s.invalidate none cov upd).io = (s.io.change upd).invalidate cov := State.departCovered_io _ cov

theorem State.invalidate_port (s : State) (port : Nat) (cov : Leaf → Bool) (upd : PtUpdate) :
    (s.invalidate (some port) cov upd).io = s.io ∧
      ((s.invalidate (some port) cov upd).rport port).io = ((s.rport port).io.change upd).invalidate cov :=
  ⟨rfl, congrArg RootPort.io (State.rport_updRport_same s port _)⟩

/-- An instruction that invalidates, here or at a port: the leaves are those of the changed tables, and what is covered of
the translation caches is on its way out. -/
theorem State.exec_invalidation {s : State} {cov : Leaf → Bool} {upd : PtUpdate} {c : Option Nat → Instr} (port : Nat)
    (hc : ∀ p, exec (c p) s = .next (s.invalidate p cov upd)) :
    (∃ u, exec (c none) s = .next u ∧ u.io.leaves = (s.io.change upd).leaves ∧
      ∀ l ∈ u.io.stale, cov l = true → l ∈ u.io.invalidated) ∧
    ∃ u, exec (c (some port)) s = .next u ∧ u.io = s.io ∧
      (u.rport port).io.leaves = ((s.rport port).io.change upd).leaves ∧
      ∀ l ∈ (u.rport port).io.stale, cov l = true → l ∈ (u.rport port).io.invalidated := by
  refine ⟨⟨_, hc none, ?_⟩, ⟨_, hc (some port), ?_⟩⟩
  · rw [State.invalidate_here]
    exact ⟨rfl, fun l => Iommu.mem_invalidated⟩
  · obtain ⟨hio, hport⟩ := s.invalidate_port port cov upd
    rw [hport]
    exact ⟨hio, rfl, fun l => Iommu.mem_invalidated⟩

theorem exec_iotinvalVma {s : State} (hruns : s.hostRuns = true) (pasid : Option Nat) (va : IoAddr) (size : Nat)
    (upd : PtUpdate) : exec (.iotinvalVma pasid va size upd) s = .next (s.invalidate va.port (covers pasid va.addr size) upd) := by
  change execIotinvalVma pasid va size upd s = _
  rw [execIotinvalVma, if_neg (by simp [hruns]), okay]

theorem exec_iotinvalGvma {s : State} (hruns : s.hostRuns = true) (gpa : IoAddr) (size : Nat) (upd : PtUpdate) :
    exec (.iotinvalGvma gpa size upd) s = .next (s.invalidate gpa.port (coversG gpa.addr size) upd) := by
  change execIotinvalGvma gpa size upd s = _
  rw [execIotinvalGvma, if_neg (by simp [hruns]), okay]

/-! ### IOFENCE.C (R265) -/

/-- A root port whose IOMMU has completed a fence of its own, where the draw says so (log 49). -/
def RootPort.fencedIf (r : RootPort) (fences : Bool) : RootPort := if fences then { r with io := r.io.fenced } else r

theorem State.portsFenced_rports (s : State) : s.portsFenced.hinge.rports =
    NMap.mapVals (fun p (r : RootPort) => r.fencedIf (Config.freeBool (s.free + p))) s.hinge.rports := by
  refine List.map_congr_left fun pr _ => ?_
  unfold RootPort.fencedIf
  dsimp only
  split <;> rfl

theorem State.portsFenced_rport (s : State) (p : Nat) :
    s.portsFenced.rport p = (s.rport p).fencedIf (Config.freeBool (s.free + p)) := by
  have hempty : ({} : RootPort).fencedIf (Config.freeBool (s.free + p)) = {} := by
    rw [RootPort.fencedIf]
    split <;> rfl
  have hread := NMap.findD_mapVals (fun p (r : RootPort) => r.fencedIf (Config.freeBool (s.free + p))) {} p s.hinge.rports
  rw [hempty] at hread
  rw [State.rport, State.portsFenced_rports, hread]
  rfl

/-- A root port keeps its IOMMU, or has completed a fence of its own. -/
theorem State.portsFenced_rport_or (s : State) (p : Nat) :
    s.portsFenced.rport p = s.rport p ∨ s.portsFenced.rport p = { s.rport p with io := (s.rport p).io.fenced } := by
  rw [State.portsFenced_rport, RootPort.fencedIf]
  split
  · exact .inr rfl
  · exact .inl rfl

theorem exec_iofenceC {s : State} (hruns : s.hostRuns = true)
    (hidle : ∀ pv ∈ s.underWay, ∀ l ∈ s.io.invalidated, l.pasid = pv.1 → l.va / 4096 * 4096 ≤ pv.2 → l.va + l.size ≤ pv.2) :
    exec .iofenceC s = .next ({ s with io := s.io.fenced } : State).portsFenced := by
  have hnone : ¬ s.underWay.any (fun pv => s.io.invalidated.any (fun l =>
      l.pasid == pv.1 && decide (l.va / 4096 * 4096 ≤ pv.2) && decide (pv.2 < l.va + l.size))) = true := by
    simp only [List.any_eq_true, Bool.and_eq_true, beq_iff_eq, decide_eq_true_eq, not_exists, not_and]
    intro pv hpv l hl hboth
    exact Nat.not_lt.2 (hidle pv hpv l hl hboth.1 hboth.2)
  change execIofenceC s = _
  rw [execIofenceC, if_neg (by simp [hruns]), if_neg hnone, okay]

/-! ### The statement -/

/-- Settles O50, side by side. The translation caches as decoded leaves and the ports' fences (logs 9 and 49), the fence's
wait for every access under way (log 50), a hart's accesses one at a time (log 14) with their count of cycles (log 135), and
the places of the interrupt registers (log 139) are the model's choices. -/
theorem hostAndDma : Obligations.HostAndDma := by
  intro s port rid va pa len hart bytes acc h drawn refused writes beat faults hruns
  refine ⟨fun hlive hlen => ⟨exec_dmaWrite_unmapped hruns hlive hlen, fun ps t ht => ?write⟩,
    fun hlive hlen ps hmap => ⟨exec_dmaRead_refused hruns hlive hlen hmap, exec_dmaRead_gives hruns hlive hlen hmap⟩,
    fun hport => ?events, fun hon hlen hidle hpa hn => ?hart, fun pasid size upd => ?inval, fun hidle => ?fence⟩
  case write =>
    obtain ⟨rfl, hmap⟩ := ht
    obtain ⟨hmsi, hput⟩ := exec_dmaWrite_mapped (pa := pa) hruns hlive hlen hmap
    refine ⟨hmsi, fun hreach hdevs => ?_, fun hreach hdevs => ?_⟩
    · rw [hput fun q hq off => by rw [hdevs q hq]; simp, if_pos hreach]; rfl
    · rw [hput hdevs, if_neg (by simp [hreach])]; rfl
  case events =>
    have hexec := exec_rootPortLinkEvent hruns hport
    refine ⟨fun pin hpin => ⟨_, hexec (.int pin), ?_⟩, ⟨_, hexec .aer, s.raises_raiseAplic _⟩,
      ⟨_, hexec .dpc, State.raises_raiseAplic _ _⟩, fun w hw hup => ⟨_, hexec (.link w), ?_⟩, fun w hw => ?_⟩
    · simp only [if_pos hpin]
      exact s.raises_raiseAplic _
    · simp only [if_pos hw, if_neg hup]
      exact State.raises_raiseAplic _ _
    · rw [hexec (.link w)]
      simp [hw]
  case hart =>
    subst hpa hn
    have hready : ¬ (s.hostRuns = false ∨ s.hinge.hartOn hart = false ∨ hostLen acc = 0 ∨
        s.hinge.hostq.any (fun q => q.hart == hart) = true) := by
      have hnone : s.hinge.hostq.any (fun q => q.hart == hart) = false := by simpa [List.any_eq_false] using hidle
      have hone : s.hinge.hartOn hart = true := hon
      simp [hruns, hone, hnone]; omega
    refine ⟨exec_hostAccess_unreached hready, exec_hostAccess_unmapped hready,
      fun hlp hdev hacc hlen => exec_hostAccess_mtime hready hlp (hlen ▸ hdev) (hacc.trans (by rw [hlen])),
      fun hlp hreach => ⟨exec_hostAccess_waits hready hlp hreach, fun l hl hone => ⟨fun hacc => ?reads, fun hacc hst => ?stores⟩⟩⟩
    case reads =>
      have hexec := exec_hostAccess_reads hready hlp hreach hl hone hacc
      refine ⟨fun hgood => ?_, fun hbad => ⟨_, hexec, ?_⟩⟩
      · rw [hexec, hgood]
        rfl
      · rw [if_pos hbad]
        exact State.raises_raiseAplic _ 2
    case stores =>
      exact exec_hostAccess_stores hready hlp hreach hl hone hacc hst
  case inval =>
    exact ⟨State.exec_invalidation (cov := covers pasid va size)
        (c := fun p => .iotinvalVma pasid { port := p, addr := va } size upd) port fun p => exec_iotinvalVma hruns pasid _ size upd,
      State.exec_invalidation (cov := coversG va size)
        (c := fun p => .iotinvalGvma { port := p, addr := va } size upd) port fun p => exec_iotinvalGvma hruns _ size upd⟩
  case fence =>
    exact ⟨_, exec_iofenceC hruns hidle, rfl, rfl, rfl, State.portsFenced_rport_or { s with io := s.io.fenced }⟩

end Sys2Proof.Machine

/-! Stores that become visible (O14): what an accepted entry leaves in memory, in the die's LLC and in its group. -/

namespace Sys2Proof.Machine

/-! ### An entry taken out of its group's store buffer (R307) -/

/-- The lines that a visible store adds to those its group's tile has dirtied. -/
def SbEntry.dirties (n : SbEntry) : List Nat :=
  match n.tgt with
  | .cache pa => [lineOf pa]
  | _ => []

/-- A group whose entry `idx` has become visible. -/
def Group.stored (x : Group) (idx : Nat) (n : SbEntry) : Group :=
  { x with sb := dropAt idx x.sb, dirtied := n.dirties.foldl (fun d l => addNew l d) x.dirtied }

section Visible

variable {s t : State} {g : Site} {x : Group} {idx pa : Nat} {n : SbEntry}

/-- An entry of this module's memory that may become visible does, where its endpoint accepts it. -/
theorem exec_storeVisible_accepted (hx : s.group? g = some x) (hn : x.sb[idx]? = some n) (hmay : x.mayAccept n = true)
    (hfree : granuleOf n.tgt ∉ s.coh.holds) (hlocal : isWindow n.tgt = false) (hsinks : s.sinks n.tgt = true)
    (hacc : s.acceptNow g.core n = some t) :
    exec (.storeVisible g idx) s = .next (t.updGroup g (fun y => y.stored idx n)) := by
  have hreach : s.undeliverable n = false := by
    unfold State.undeliverable
    split
    · next htgt => simp [htgt, isWindow] at hlocal
    · rfl
  have htaken : s.acceptFree g.core n = some t := by simp [State.acceptFree, hfree, State.acceptStore, hsinks, hacc]
  change okay (s.storeVisible g idx) = _
  simp only [State.storeVisible, hx, hn, hmay, hreach, hlocal, htaken, Bool.true_eq_false, Bool.false_eq_true, if_false]
  rfl

theorem State.group_updGroup (hx : s.group? g = some x) (f : Group → Group) : (s.updGroup g f).group? g = some (f x) := by
  rw [State.updGroup_of_group hx, State.group_setGroup_same]

/-- The group of the entry, where the endpoint takes nothing from the groups but reservations. -/
theorem GroupsKept.group_stored (h : GroupsKept s t) (hx : s.group? g = some x) (idx : Nat) (n : SbEntry) :
    ∃ y, (t.updGroup g (fun y => y.stored idx n)).group? g = some y ∧ y = { x.stored idx n with resv := y.resv } := by
  obtain ⟨r, hr⟩ := h.group hx
  exact ⟨_, State.group_updGroup hr _, rfl⟩

/-! ### At the controller (R294) -/

/-- The state in which the controller of an uncached address has a store's bytes. -/
def State.storedRaw (s : State) (n : SbEntry) (pa : Nat) : State :=
  ((s.memAccept (lineOf pa) n.bytes false n.tag).killResv (fun _ => true) (.raw (lineOf pa))).lpPush (lineOf pa)

theorem State.acceptNow_uncached {core : Nat} (htgt : n.tgt = .uncached pa) (hidle : s.domain (s.memDomain pa) = .idle) :
    s.acceptNow core n = some (s.storedRaw n pa) := by
  simp [State.acceptNow, htgt, State.awake, hidle, State.storedRaw, granuleOf]

theorem State.storedRaw_groupsKept : GroupsKept s (s.storedRaw n pa) :=
  ((s.memAccept_groupsKept _ _ _ _).trans (State.killResv_groupsKept _ _ _)).trans (State.lpPush_groupsKept _ _)

theorem State.storedRaw_read (hacc : s.accepts n.tag (lineOf pa) = true) (i : Nat) :
    (s.storedRaw n pa).ms.mem.read i = (s.ms.mem.writeAt (lineOf pa) n.bytes).read i :=
  State.memAccept_read n.bytes hacc i

theorem State.storedRaw_sram : (s.storedRaw n pa).ms.sram = s.ms.sram := by
  change (s.memAccept (lineOf pa) n.bytes false n.tag).ms.sram = _
  rw [(s.memAccept_memWritten (lineOf pa) n.bytes false n.tag).ms]

theorem State.storedRaw_caches : (s.storedRaw n pa).coh.caches = s.coh.caches := by
  change (s.memAccept (lineOf pa) n.bytes false n.tag).coh.caches = _
  unfold State.memAccept
  split <;> rfl

/-! ### At the die's LLC (R276, R294) -/

/-- A line with a store's bytes laid over it. -/
def CLine.stored (c : CLine) (n : SbEntry) : CLine :=
  { c with st := .m, bytes := overlay c.bytes n.bytes, poison := c.poison && !decide (n.bytes.length ≥ 128), tag := n.tag }

/-- The state in which the LLC of a core's die has a store's bytes. -/
def State.storedLlc (s : State) (core : Nat) (n : SbEntry) (pa : Nat) (c : CLine) : State :=
  ((s.setCache (stopOfDie (dieOfCore core)) (NMap.ins (lineOf pa) (c.stored n)
    (s.cacheOf (stopOfDie (dieOfCore core))))).killResv (fun _ => true) (.line (lineOf pa))).l1Store core n

theorem State.acceptNow_cached {core : Nat} {c : CLine} (htgt : n.tgt = .cache pa) (hcached : n.nocache = false)
    (hline : s.llcLine core pa = some c) (hown : c.st ≠ .s) : s.acceptNow core n = some (s.storedLlc core n pa c) := by
  have hfind : NMap.find (lineOf pa) (s.cacheOf (stopOfDie (dieOfCore core))) = some c := hline
  simp [State.acceptNow, htgt, hcached, State.awake, hfind, hown, State.storedLlc, CLine.stored, granuleOf]

/-- A store changes the L1 of its core and nothing else of the state but the count of free values (R266). -/
theorem State.l1Store_rest (s : State) (core : Nat) (e : SbEntry) :
    (s.l1Store core e).ms = s.ms ∧ (s.l1Store core e).coh = s.coh ∧ GroupsKept s (s.l1Store core e) := by
  have hl1 (t : State) (f : Core → Core) (hf : ∀ k, (f k).groups = k.groups) :
      GroupsKept t (t.updCore core f) := .of_group fun g => State.group_updCore t core (hf _) g
  unfold State.l1Store
  split
  · exact ⟨rfl, rfl, .refl s⟩
  · split
    · unfold State.l1Put
      extract_lets l1 mine
      split
      · exact ⟨rfl, rfl, hl1 s _ fun _ => rfl⟩
      · exact ⟨rfl, rfl, (GroupsKept.of_cores rfl : GroupsKept s (s.draw).2).trans (hl1 _ _ fun _ => rfl)⟩
    · exact ⟨rfl, rfl, hl1 s _ fun _ => rfl⟩
    · exact ⟨rfl, rfl, hl1 s _ fun _ => rfl⟩

section Llc

variable {core : Nat} {c : CLine}

theorem State.storedLlc_groupsKept : GroupsKept s (s.storedLlc core n pa c) :=
  ((GroupsKept.of_cores rfl).trans (State.killResv_groupsKept _ _ _)).trans (State.l1Store_rest _ core n).2.2

theorem State.storedLlc_ms : (s.storedLlc core n pa c).ms = s.ms := (State.l1Store_rest _ core n).1

theorem State.storedLlc_cacheOf (stop : Nat) : (s.storedLlc core n pa c).cacheOf stop =
    if stop = stopOfDie (dieOfCore core) then NMap.ins (lineOf pa) (c.stored n) (s.cacheOf stop) else s.cacheOf stop := by
  rw [State.storedLlc, State.cacheOf, (State.l1Store_rest _ core n).2.1]
  change (s.setCache (stopOfDie (dieOfCore core)) (NMap.ins (lineOf pa) (c.stored n)
    (s.cacheOf (stopOfDie (dieOfCore core))))).cacheOf stop = _
  split
  · next h => rw [h, State.cacheOf_setCache_same]
  · next h => exact State.cacheOf_setCache_ne s h _

end Llc

end Visible

/-! ### The statement -/

/-- Settles O14: the two endpoints by what their acceptance leaves in memory and in the caches. -/
theorem storeReachesItsEndpoint : Obligations.StoreReachesItsEndpoint := by
  intro s g x idx n pa hx hn hmay hfree
  refine ⟨fun htgt hidle hroom hacc => ?raw, fun c htgt hcached hline hown => ?llc⟩
  case raw =>
    obtain ⟨y, hy, hkept⟩ := (State.storedRaw_groupsKept (n := n) (pa := pa)).group_stored hx idx n
    refine ⟨_, y, exec_storeVisible_accepted hx hn hmay hfree (by rw [htgt]; rfl) (by rw [htgt]; exact hroom)
      (State.acceptNow_uncached htgt hidle), hy, ?_, fun i hi => ?_, fun hwf c hc => ?_, ?_, ?_⟩
    · rw [hkept]
      simp [Group.stored, SbEntry.dirties, htgt]
    · rw [State.updGroup_ms, State.storedRaw_read hacc]
      exact Mem.read_writeAt_ne n.bytes s.ms.mem _ i hi
    · rw [State.updGroup_ms, State.storedRaw_read hacc]
      exact Mem.read_writeAt hwf s.ms.mem _ c hc
    · rw [State.updGroup_ms, State.storedRaw_sram]
    · rw [State.updGroup_coh, State.storedRaw_caches]
  case llc =>
    obtain ⟨y, hy, hkept⟩ := (State.storedLlc_groupsKept (n := n) (pa := pa) (core := g.core) (c := c)).group_stored hx idx n
    have hcache (stop : Nat) : ((s.storedLlc g.core n pa c).updGroup g (fun y => y.stored idx n)).cacheOf stop =
        (s.storedLlc g.core n pa c).cacheOf stop := by rw [State.cacheOf, State.updGroup_coh, State.cacheOf]
    refine ⟨_, y, exec_storeVisible_accepted hx hn hmay hfree (by rw [htgt]; rfl) (by rw [htgt]; rfl)
      (State.acceptNow_cached htgt hcached hline hown), hy, ?_, ?_, ⟨c.stored n, ?_, rfl, rfl, rfl⟩,
      fun stop l hother => ?_⟩
    · rw [hkept]
      simp [Group.stored, SbEntry.dirties, htgt]
    · rw [State.updGroup_ms, State.storedLlc_ms]
    · rw [State.llcLine, hcache, State.storedLlc_cacheOf, if_pos rfl, NMap.find_ins_same]
    · rw [hcache, State.storedLlc_cacheOf]
      split
      · next h => exact NMap.find_ins_ne (hother.resolve_left (absurd h)) _ _
      · rfl

end Sys2Proof.Machine

/-! Sync instructions and fences as they issue (O18): an operation goes to its tumbler and the group moves on or waits. -/

namespace Sys2Proof.Machine

/-! ### Operations sent to tumblers (R327, R329, R333) -/

/-- The operations that a group posts and does not wait for. -/
def postedOp : TumOp → Bool
  | .arrive _ | .depart _ => true
  | _ => false

/-- An operation sent to a local tumbler of the group's tile. -/
def State.sentLocal (s : State) (g : Site) (x : Group) (id : Nat) (op : TumOp) : State :=
  s.updCore g.core (fun k => { k with ltq := k.ltq ++ [{ tile := x.tile, id := id, op := op, place := g.place }] })

/-- An operation of a group sent to one of this module's global tumblers. -/
def State.sentGlobal (s : State) (g : Site) (n : Nat) (op : TumOp) : State :=
  { s with tumq := s.tumq ++ [⟨.group g, n, op⟩] }

/-- An identifier names a tumbler of this module, number `n` in the group's wait: an operation on it is sent as `sent` says,
which leaves the group where it stands. -/
structure SendsTo (s : State) (g : Site) (x : Group) (loc : Bool) (id n : Nat) (sent : TumOp → State) : Prop where
  group : ∀ op, (sent op).group? g = some x
  sends : ∀ lanes op post wait, s.tumSend g x lanes loc id op post wait =
    if postedOp op then post (sent op) else wait (sent op) n

section Sync

variable {s t : State} {g : Site} {x : Group} {e : Enc} {id n : Nat} {sent : TumOp → State}

theorem SendsTo.of_local (hx : s.group? g = some x) (hid : id < 48) : SendsTo s g x true id 0 (s.sentLocal g x id) where
  group _ := (State.group_updCore s g.core rfl g).trans hx
  sends lanes op post wait := by
    simp only [State.tumSend, State.tumTarget, if_pos hid]
    cases op <;> rfl

theorem SendsTo.of_global {m : TmapEntry} (hx : s.group? g = some x) (hm : NMap.find id (s.ctx (s.ctxOf g)).map = some m)
    (hown : m.foreign = false) (hhere : m.remote = false) (hcommit : ∀ act, s.committed g x act = act s) :
    SendsTo s g x false id m.index (s.sentGlobal g m.index) where
  group _ := hx
  sends lanes op post wait := by
    simp only [State.tumSend, State.tumTarget, hm, hown, hhere, hcommit]
    cases op <;> rfl

/-! ### A group that waits where it stands -/

/-- A group that has taken its wait up stands in it. -/
theorem State.settle_wait {y : Group} (hy : t.group? g = some y) (pc : DWord) (f : Group → Group) :
    s.settle g x pc (.wait (t.updGroup g f)) =
      (t.setGroup g { f y with bpSkip := false, pcWritten := false }).turn g := by
  rw [State.settle, State.updGroup_of_group hy, State.updGroup_setGroup]

theorem State.orderReady_of_syncReady (h : s.syncReady g x = true) : s.orderReady g x = true :=
  (Bool.and_eq_true_iff.mp h).1

/-! ### TARRIVE, TWAIT and TTEST (R137, R138, R333) -/

theorem exec_tarrive (hto : SendsTo s g x (syLoc e) (x.syId e) n sent) (hready : s.syncReady g x = true)
    (h : Issues s g x e (syDecode { loc := true, dec := true, val := true } none e x)) :
    exec (.tarrive g e) s =
      .next ((sent (if syDec e then .depart (x.syVal e) else .arrive (x.syVal e))).after g x (x.pc + 8)) := by
  have hposted : postedOp (if syDec e then .depart (x.syVal e) else .arrive (x.syVal e)) = true := by split <;> rfl
  change execTarrive g e s = _
  rw [execTarrive, State.issue_eq h hready, hto.sends, if_pos hposted,
    State.settle_step (hto.group _) h.noHalt h.noStep, okay]

theorem exec_twait (hto : SendsTo s g x (syLoc e) (x.syId e) n sent) (hready : s.syncReady g x = true)
    (h : Issues s g x e (syDecode { loc := true, val := true, pdst := true, tmo := true } none e x)) :
    exec (.twait g e) s = .next (((sent (.wait (x.syVal e))).setGroup g { x with
      wait := .twait (syLoc e) (x.syId e) n (x.syVal e) (syPdst e) (twaitDeadline s.nowN (syTo e))
      bpSkip := false, pcWritten := false }).turn g) := by
  change execTwait g e s = _
  rw [execTwait, State.issue_eq h hready, hto.sends, if_neg (by simp [postedOp]), State.settle_wait (hto.group _), okay]

theorem exec_ttest (hto : SendsTo s g x (syLoc e) (x.syId e) n sent) (hready : s.syncReady g x = true)
    (h : Issues s g x e (syDecode { loc := true, val := true, pdst := true } none e x)) :
    exec (.ttest g e) s = .next (((sent (.test (x.syVal e))).setGroup g { x with
      wait := .ttest (syLoc e) (x.syId e) n (x.syVal e) (syPdst e), bpSkip := false, pcWritten := false }).turn g) := by
  change execTtest g e s = _
  rw [execTtest, State.issue_eq h hready, hto.sends, if_neg (by simp [postedOp]), State.settle_wait (hto.group _), okay]

/-! ### HASP (R345) -/

/-- A group of a tile has arrived at the current generation of a line. -/
def State.arrivedAt (s : State) (line : Nat) (p : Hasp) (who : Nat × Nat) : State :=
  { s with hasps := NMap.ins line { p with arrived := addNew who p.arrived } s.hasps }

theorem exec_hasp {t : Tile} {p : Hasp} (hready : s.syncReady g x = true) (ht : s.tile? g.core x.tile = some t)
    (hcommit : ∀ act, s.committed g x act = act s) (h : Issues s g x e (s.haspDec g e x))
    (hline : s.haspOf t.launch t.index (x.syId e) = some p) :
    exec (.hasp g e) s = .next (((((s.arrivedAt (x.syId e) p (t.index, x.index)).setGroup g
      { x with wait := .hasp (x.syId e) p.gen, bpSkip := false, pcWritten := false }).haspSettle (x.syId e) 2).updGroup g
        (fun y => { y with bpSkip := false, pcWritten := false })).turn g) := by
  have hplace : s.launchTile g x = (t.launch, t.index) := by rw [State.launchTile, ht]
  change execHasp g e s = _
  rw [execHasp, State.issue_eq h hready, hcommit]
  simp only [hplace, hline]
  change okay (s.settle g x x.pc (.wait (((s.arrivedAt (x.syId e) p (t.index, x.index)).updGroup g _).haspSettle _ 2))) = _
  rw [State.updGroup_of_group (s := s.arrivedAt _ p _) h.here, State.settle, okay]

/-! ### Fences (R310) -/

theorem exec_fenceOrd_group (hready : s.orderReady g x = true) (h : Issues s g x e (syDecode {} (some 5) e x))
    (hid : x.syId e = 0) : Moves s (.fenceOrd g e) g x (x.pc + 8) := by
  change execFenceOrd g e s = _
  rw [execFenceOrd, State.issue_eq h hready]
  simp only [if_pos hid]
  exact congrArg okay (State.settle_step h.here h.noHalt h.noStep)

theorem exec_fenceOrd_wider (hready : s.orderReady g x = true) (h : Issues s g x e (syDecode {} (some 5) e x))
    (hid : x.syId e ≠ 0) : Moves s (.fenceOrd g e) g { x with
      order := x.order + 1
      fence := some { done := false, scope := x.syId e, order := x.order, lane := lowestLane (x.guard e) } } (x.pc + 8) := by
  change execFenceOrd g e s = _
  rw [execFenceOrd, State.issue_eq h hready]
  simp only [if_neg hid]
  exact congrArg okay (State.settle_put h.noHalt h.noStep)

theorem exec_fenceDone (hready : s.orderReady g x = true) (h : Issues s g x e (syDecode {} (some 5) e x)) :
    exec (.fenceDone g e) s = .next ((s.setGroup g { x with
      order := x.order + 1, wait := .fenceDone, bpSkip := false, pcWritten := false
      fence := some { done := true, scope := x.syId e, order := x.order, lane := lowestLane (x.guard e) } }).turn g) := by
  change execFenceDone g e s = _
  rw [execFenceDone, State.issue_eq h hready, State.settle, State.updGroup_setGroup, okay]

end Sync

/-! ### The statement -/

/-- Settles O18: TARRIVE, TWAIT and TTEST over either place a tumbler of this module has, then HASP and the fences. That a
sync instruction waits for the group's own fence, loads and atomics (`syncReady`) is log 12, the model's own choice. -/
theorem syncInstructions : Obligations.SyncInstructions := by
  intro s g x e t id v loc map op sentL sentG dead hready ht hc
  have horder := State.orderReady_of_syncReady hready
  have hcommit : ∀ act, s.committed g x act = act s := State.committed_of_committed ht hc
  have hlocal {d : Dec} (h : Issues s g x e d) (hloc : syLoc e = true) (hid : id < 48) :
      SendsTo s g x (syLoc e) (x.syId e) 0 (s.sentLocal g x id) := hloc ▸ SendsTo.of_local h.here hid
  have hglobal {d : Dec} (h : Issues s g x e d) (m : TmapEntry) (hloc : syLoc e = false) (hm : NMap.find id map = some m)
      (hown : m.foreign = false) (hhere : m.remote = false) :
      SendsTo s g x (syLoc e) (x.syId e) m.index (s.sentGlobal g m.index) :=
    hloc ▸ SendsTo.of_global h.here hm hown hhere hcommit
  refine ⟨fun h => ?arrive, fun h => ?wait, fun h => ?test, fun p h hp => exec_hasp hready ht hcommit h hp,
    fun h => ⟨exec_fenceOrd_group horder h, exec_fenceOrd_wider horder h, exec_fenceDone horder h⟩⟩
  case arrive =>
    exact ⟨fun hloc hid => exec_tarrive (hlocal h hloc hid) hready h,
      fun m hloc hm hown hhere => exec_tarrive (hglobal h m hloc hm hown hhere) hready h⟩
  case wait =>
    refine ⟨fun hloc hid => ?_, fun m hloc hm hown hhere => ?_⟩
    · rw [exec_twait (hlocal h hloc hid) hready h, show syLoc e = true from hloc]
      rfl
    · rw [exec_twait (hglobal h m hloc hm hown hhere) hready h, show syLoc e = false from hloc]
      rfl
  case test =>
    refine ⟨fun hloc hid => ?_, fun m hloc hm hown hhere => ?_⟩
    · rw [exec_ttest (hlocal h hloc hid) hready h, show syLoc e = true from hloc]
      rfl
    · rw [exec_ttest (hglobal h m hloc hm hown hhere) hready h, show syLoc e = false from hloc]
      rfl

end Sys2Proof.Machine

/-! Atomics at a controller and their response (O21): the location read, combined and written once, the old value returned. -/

namespace Sys2Proof.Machine

/-! ### A write that lies in one line (R293) -/

/-- The bytes of a write that does not leave its line are gathered in one piece. -/
theorem groupLines_of_fits {pa : Nat} {bytes : List Byte} (hsome : bytes ≠ []) (hfits : pa % 128 + bytes.length ≤ 128) :
    groupLines pa bytes = [(lineOf pa, (List.range bytes.length).map fun j => (pa % 128 + j, bytes.getD j 0))] := by
  induction bytes generalizing pa with
  | nil => exact absurd rfl hsome
  | cons b bs ih =>
    cases bs with
    | nil => simp [groupLines]
    | cons c cs =>
      simp only [List.length_cons] at hfits
      have hoff : (pa + 1) % 128 = pa % 128 + 1 := by omega
      have hline : lineOf (pa + 1) = lineOf pa := by unfold lineOf; omega
      have hrest := ih (pa := pa + 1) (List.cons_ne_nil c cs) (by simp only [List.length_cons]; omega)
      rw [groupLines, hrest, hline]
      simp only [if_true]
      rw [List.length_cons (a := b), List.range_succ_eq_map, List.map_cons, List.map_map]
      simp [hoff, Function.comp_def, Nat.add_assoc, Nat.add_comm 1]

theorem State.targetWrite_uncached (s : State) {pa : Nat} (tag : Nat) {bytes : List Byte} (hsome : bytes ≠ [])
    (hfits : pa % 128 + bytes.length ≤ 128) : s.targetWrite (.uncached pa) tag bytes =
      s.memAccept (lineOf pa) ((List.range bytes.length).map fun j => (pa % 128 + j, bytes.getD j 0)) false tag := by
  rw [State.targetWrite, groupLines_of_fits hsome hfits]
  rfl

/-- An aligned datum of four or eight bytes does not leave its line. -/
theorem fits_of_aligned {pa w : Nat} (hw : w = 4 ∨ w = 8) (hal : pa % w = 0) : pa % 128 + w ≤ 128 := by
  rcases hw with rfl | rfl <;> omega

section Endpoint

variable {s : State} {pa w tag v : Nat}

/-- The state in which a controller has written a number of `w` bytes. -/
def State.wrote (s : State) (pa w tag v : Nat) : State := s.targetWrite (.uncached pa) tag (natBytes w v)

theorem State.wrote_eq (hw : w = 4 ∨ w = 8) (hal : pa % w = 0) : s.wrote pa w tag v =
    s.memAccept (lineOf pa) ((List.range w).map fun j => (pa % 128 + j, (natBytes w v).getD j 0)) false tag := by
  have hsome : natBytes w v ≠ [] := by rcases hw with rfl | rfl <;> simp [natBytes]
  rw [State.wrote, State.targetWrite_uncached s tag hsome (by rw [natBytes_length]; exact fits_of_aligned hw hal),
    natBytes_length]

theorem State.wrote_groupsKept (hw : w = 4 ∨ w = 8) (hal : pa % w = 0) : GroupsKept s (s.wrote pa w tag v) := by
  rw [State.wrote_eq hw hal]
  exact s.memAccept_groupsKept _ _ _ _

theorem State.wrote_read_at (hw : w = 4 ∨ w = 8) (hal : pa % w = 0) (h : s.accepts tag (lineOf pa) = true) {i : Nat}
    (hi : i < w) : (s.wrote pa w tag v).ms.mem.read (pa + i) = BitVec.ofNat 8 (v / 256 ^ i) := by
  have hread := Mem.read_writeAt_range s.ms.mem (lineOf pa) (pa % 128) (fun j => (natBytes w v).getD j 0) hi
  rw [lineOf_add_mod, natBytes_getD v hi] at hread
  rw [State.wrote_eq hw hal]
  exact (State.memAccept_read _ h (pa + i)).trans hread

theorem State.wrote_read_ne (hw : w = 4 ∨ w = 8) (hal : pa % w = 0) (h : s.accepts tag (lineOf pa) = true) {i : Nat}
    (hi : i < pa ∨ pa + w ≤ i) : (s.wrote pa w tag v).ms.mem.read i = s.ms.mem.read i := by
  rw [State.wrote_eq hw hal]
  refine (State.memAccept_read _ h i).trans (Mem.read_writeAt_range_ne _ _ _ _ ?_)
  rw [lineOf_add_mod]
  exact hi

end Endpoint

/-- The element at an index replaced by either of two functions that agree on it. -/
theorem modAt_congr {α : Type} {f f' : α → α} {a : α} (h : f a = f' a) :
    ∀ {i : Nat} {xs : List α}, xs[i]? = some a → modAt f i xs = modAt f' i xs
  | 0, x :: xs, hx => by
    obtain rfl : x = a := by simpa using hx
    rw [modAt, modAt, h]
  | i + 1, x :: xs, hx => by
    rw [modAt, modAt, modAt_congr h (i := i) (xs := xs) (by simpa using hx)]
  | _, [], hx => by simp at hx

/-! ### A request of one lane at its controller (R275, R303) -/

section Request

variable {s : State} {g : Site} {x : Group} {r : AtomReq} {l pa idx : Nat} {b c : DWord} {op : AtomOp}

/-- What a location holds before a request. -/
def State.atomOld (s : State) (r : AtomReq) (pa : Nat) : Nat := bytesNat (s.ms.mem.readN pa r.width)

/-- A request executed for its lane, which is to receive the old value. -/
def AtomReq.answered (l old : Nat) (q : AtomReq) : AtomReq :=
  { q with result := some [(l, BitVec.ofNat 64 old)], poison := false }

theorem State.runAtom_uncached {nonce : Nat} (hlanes : r.lanes = [(l, b, c)]) (hpoison : lineOf pa ∉ s.ms.mem.poison) :
    s.runAtom nonce op r.width r.signed r.tag (.uncached pa) r.lanes false =
      (s.wrote pa r.width r.tag (atomNew op r.width r.signed (s.atomOld r pa) b.toNat c.toNat),
        [(l, BitVec.ofNat 64 (s.atomOld r pa))], false) := by
  simp [State.runAtom, hlanes, hpoison, atomRun, State.wrote, State.atomOld]

/-- A request whose data are not poisoned, as far as this module can see, is not marked, and nor is its line. -/
theorem State.clean_of_atomBad (h : s.atomBad r = false) :
    r.poison = false ∧ (r.result = none → r.tgt = .uncached pa → lineOf pa ∉ s.ms.mem.poison) := by
  unfold State.atomBad at h
  rw [Bool.or_eq_false_iff] at h
  refine ⟨h.1, fun hnone htgt => ?_⟩
  simpa [hnone, htgt, State.targetRead] using h.2

/-- The marks of the requests of an atomic change none where no data are poisoned. -/
theorem State.map_atomBad {rs : List AtomReq} (h : ∀ q ∈ rs, s.atomBad q = false) :
    rs.map (fun q => { q with poison := s.atomBad q }) = rs := by
  refine (List.map_congr_left fun q hq => ?_).trans (List.map_id rs)
  have hclean : q.poison = false := (s.clean_of_atomBad (pa := 0) (h q hq)).1
  rw [h q hq, ← hclean]
  rfl

theorem exec_homeAtomic_uncached (hx : s.group? g = some x) (hlanes : r.lanes = [(l, b, c)]) (hr : x.atoms[idx]? = some r)
    (hop : r.op = some op) (hnone : r.result = none) (htgt : r.tgt = .uncached pa)
    (hidle : s.domain (s.memDomain pa) = .idle) (hfree : granuleOf r.tgt ∉ s.coh.holds)
    (hclean : ∀ q ∈ x.atoms, s.atomBad q = false) :
    exec (.homeAtomic g idx) s = .next
      ((s.wrote pa r.width r.tag (atomNew op r.width r.signed (s.atomOld r pa) b.toNat c.toNat)).updGroup g
        (fun y => { y with atoms := modAt (AtomReq.answered l (s.atomOld r pa)) idx x.atoms })) := by
  have hbad := s.clean_of_atomBad (pa := pa) (hclean r (List.mem_of_getElem? hr))
  have hdry : x.atoms.any (·.poison) = false :=
    List.any_eq_false.mpr fun q hq => by simp [(s.clean_of_atomBad (pa := pa) (hclean q hq)).1]
  have hheld : s.heldBack (.uncached pa) = false := by
    rw [htgt] at hfree
    simp [State.heldBack, hfree]
  have hturn (stop nonce : Nat) : s.atomTurn stop nonce op r false = (s, 0, some
      (s.wrote pa r.width r.tag (atomNew op r.width r.signed (s.atomOld r pa) b.toNat c.toNat),
        [(l, BitVec.ofNat 64 (s.atomOld r pa))], false)) := by
    simp [State.atomTurn, htgt, State.awake, hidle, hheld, State.runAtom_uncached hlanes (hbad.2 hnone htgt)]
  change execHomeAtomic g idx s = _
  unfold execHomeAtomic
  simp only [hx, hr, hop, hnone, State.map_atomBad hclean, hdry, hturn]
  have hat : modAt (fun q => { q with result := some [(l, BitVec.ofNat 64 (s.atomOld r pa))], poison := q.poison || false })
      idx x.atoms = modAt (AtomReq.answered l (s.atomOld r pa)) idx x.atoms :=
    modAt_congr (by simp [AtomReq.answered, hbad.1]) hr
  rw [hat, okay]

/-! ### The response (R304) -/

theorem Group.writeAtom_one {v : DWord} (hop : r.op = some op) (hresult : r.result = some [(l, v)]) :
    x.writeAtom r = if r.width = 8 then x.wt2 l r.dst v else x.wt l r.dst (v.setWidth 32) := by
  simp [Group.writeAtom, hop, hresult]

/-- The register, or the pair, that a response of one lane writes. -/
theorem Group.rt_writeAtom {v : DWord} (hop : r.op = some op) (hresult : r.result = some [(l, v)])
    (hw : r.width = 4 ∨ r.width = 8) (hdst : r.dst + r.width / 4 ≤ 256) (i : Nat) {n : Nat} (hn : n < 256) :
    (x.writeAtom r).rt i n = if i = l ∧ n = r.dst then v.extractLsb' 0 32
      else if i = l ∧ r.width = 8 ∧ n = r.dst + 1 then v.extractLsb' 32 32 else x.rt i n := by
  rw [Group.writeAtom_one hop hresult]
  rcases hw with hw | hw
  · rw [hw] at hdst
    have hlow : v.setWidth 32 = v.extractLsb' 0 32 := by ext j hj; simp
    simp only [hw, Nat.reduceEqDiff, if_false, false_and, and_false]
    rw [Group.rt_wt _ _ _ _ _ _ (by omega) hn, hlow]
  · rw [hw] at hdst
    simp only [hw, if_true, true_and]
    exact Group.rt_wt2 _ _ _ _ _ _ (by omega) hn

theorem Group.writeAtom_only (x : Group) (hop : r.op = some op) {v : DWord} (hresult : r.result = some [(l, v)]) :
    x.writeAtom r = { x with t := (x.writeAtom r).t } := by
  rw [Group.writeAtom_one hop hresult]
  split <;> rfl

theorem exec_atomicResponse_one (hx : s.group? g = some x) (hone : x.atoms = [r]) (hresult : r.result ≠ none)
    (hclean : r.poison = false) :
    exec (.atomicResponse g) s = .next (s.setGroup g { x.writeAtom r with atoms := [], snaps := [] }) := by
  have hsome : r.result.isNone = false := by simpa [Option.isNone_eq_false_iff, Option.isSome_iff_ne_none] using hresult
  change execAtomicResponse g s = _
  unfold execAtomicResponse
  simp [hx, hone, hsome, hclean, okay]

end Request

/-! ### The statement -/

/-- Settles O21: the endpoint by the write it makes and the answer it leaves, the response by the registers it writes. -/
theorem atomicCompletes : Obligations.AtomicCompletes := by
  intro s g x r l b c hx hlanes hw
  refine ⟨fun idx pa op hr hop hnone htgt hal hidle hfree hclean hacc => ?_, fun op v hone hop hresult hpoison hdst => ?_⟩
  · let new := atomNew op r.width r.signed (s.atomOld r pa) b.toNat c.toNat
    obtain ⟨resv, hgroup⟩ := (State.wrote_groupsKept (tag := r.tag) (v := new) hw hal).group hx
    refine ⟨_, _, exec_homeAtomic_uncached hx hlanes hr hop hnone htgt hidle hfree hclean,
      State.group_updGroup hgroup _, rfl, rfl, rfl, rfl, fun i hi => ?_, fun i hi => ?_⟩
    · rw [State.updGroup_ms]
      exact State.wrote_read_at hw hal hacc hi
    · rw [State.updGroup_ms]
      exact State.wrote_read_ne hw hal hacc hi
  · refine ⟨_, exec_atomicResponse_one hx hone (by simp [hresult]) hpoison, ?_, fun i n hi hn => ?_⟩
    · rw [x.writeAtom_only hop hresult]
    · exact Group.rt_writeAtom hop hresult hw hdst i hn

end Sys2Proof.Machine

/-! Requests of a line at its home, snoops and their answers, and memory's data (O29). -/

namespace Sys2Proof.Machine

/-! ### A request of the host (R300 events 1 to 3, R302) -/

section Request

variable {s : State} {line way : Nat} {kind : CohKind}

/-- The host may ask the home of a line for it: nothing of R300, R301 or R419 holds its request back. -/
structure HostAsks (s : State) (line : Nat) : Prop where
  memory   : s.isLp line = true
  unasked  : s.asked 10 line = false
  room     : s.outstanding 10 < 256
  awake    : s.domain (s.memDomain line) = .idle
  kept     : ∀ b ∈ s.coh.backInv, b.region ≠ s.regionOfLine line
  runs     : s.hostRuns = true
  reaches  : s.hostReaches line = true

/-- A request of a host that holds no line goes to the home as it is. -/
theorem exec_coherentRequest_host (h : HostAsks s line) (hempty : s.cacheOf 10 = []) (hkind : kind = .read ∨ kind = .own) :
    exec (.coherentRequest 10 line kind way) s = .next (s.homeRequest 10 line kind 0) := by
  obtain ⟨hlp, hunasked, hroom, hawake, hkept, hruns, hreaches⟩ := h
  have hback : s.coh.backInv.any (fun b => b.region == s.regionOfLine line) = false := by simpa [List.any_eq_false] using hkept
  have hlive : s.agentLive 10 = true := by simp [State.agentLive, hruns]
  have hsweep : s.sweepTransient 10 = s := by rw [State.sweepTransient, hempty]; rfl
  change execCoherentRequest 10 line kind way s = _
  unfold execCoherentRequest
  rw [if_neg (by simp [hlp, hlive, hunasked, hawake, hback, coherentStop]; omega), if_neg (by simp [hreaches]),
    if_neg (by rcases hkind with rfl | rfl <;> simp), hsweep]
  simp only [hempty]
  rcases hkind with rfl | rfl <;> rfl

theorem State.homeRequest_refused {stop ticket : Nat} (hopen : NMap.has line s.coh.txns = true) :
    s.homeRequest stop line kind way ticket = { s with coh := { s.coh with
      retries := s.coh.retries ++ [{ stop := stop, line := line, kind := kind, way := way, ticket := ticket }] } } := by
  simp [State.homeRequest, hopen]

/-- Making room in a presence filter touches neither the caches nor memory. -/
theorem State.makeEntry_rest (s : State) (region : Nat) :
    (s.makeEntry region).coh.caches = s.coh.caches ∧ (s.makeEntry region).ms = s.ms := by
  unfold State.makeEntry
  extract_lets mine
  split
  · exact ⟨rfl, rfl⟩
  · split
    · exact ⟨rfl, rfl⟩
    · split
      · exact ⟨rfl, rfl⟩
      · split
        · exact ⟨rfl, rfl⟩
        · split <;> exact ⟨rfl, rfl⟩

/-- The transaction of an agent's request, with the stops that the filter marks to be snooped. -/
theorem State.openTxn_agent {stop : Nat} (hkind : kind ≠ .upgrade) :
    NMap.find line (s.openTxn stop line kind way).coh.txns = some
        { stop := stop, kind := kind, way := way, toSnoop := stopsOf (s.presence (s.regionOfLine line)) stop
          seq := s.coh.seq + 1 } ∧
      (s.openTxn stop line kind way).coh.caches = s.coh.caches ∧ (s.openTxn stop line kind way).ms = s.ms := by
  unfold State.openTxn
  extract_lets k region t coh s1
  have hk : k = kind := by simp [k, hkind]
  obtain ⟨htxns, -, -⟩ := s1.makeEntry_queues region
  obtain ⟨hcaches, hms⟩ := s1.makeEntry_rest region
  have htxn : NMap.find line s1.coh.txns = some t := NMap.find_ins_same ..
  rw [if_pos rfl, htxns, hcaches, hms, htxn]
  simp [t, hk, region, s1, coh]

end Request

/-! ### A snoop and its answer (R298, R300 event 5, R314) -/

section Snoop

variable {s : State} {stop line : Nat} {t : Txn} {l : CLine} {kind : CohKind}

/-- A transaction whose snoop a stop has received. -/
def Txn.snooped (stop : Nat) (t : Txn) : Txn :=
  { t with toSnoop := t.toSnoop.filter (· != stop), toAnswer := t.toAnswer ++ [stop] }

theorem exec_snoop_marked (htxn : NMap.find line s.coh.txns = some t) (hmarked : stop ∈ t.toSnoop) (hstop : stop ≠ 10)
    (hfirst : s.firstSnoop stop (s.regionOfLine line) t.seq = true) (hl : NMap.find line (s.cacheOf stop) = some l) :
    exec (.snoop stop line) s = okay (if l.hold = true then s.updTxn line (Txn.snooped stop)
      else (s.updTxn line (Txn.snooped stop)).answer stop line t.kind) := by
  have hanswers : s.stopAnswers stop = true := by simp [State.stopAnswers, hstop]
  change execSnoop stop line s = _
  unfold execSnoop
  simp only [htxn]
  rw [if_neg (by simp [hmarked, hanswers, hfirst])]
  simp only [hl]
  split <;> rfl

/-- What a stop gives up of a line that is asked for to own. -/
def CLine.dirtyData (l : CLine) : Option LineData :=
  if l.st = .m then some { bytes := l.bytes, poison := l.poison, tag := l.tag } else none

/-- The answer of a stop to a request that wants its line owned: its copy is gone. -/
theorem State.answer_owned (htxn : NMap.find line s.coh.txns = some t) (hl : NMap.find line (s.cacheOf stop) = some l)
    (hkind : kind ≠ .read) :
    ∃ a : SnoopAnswer, NMap.find line ((s.answer stop line kind).cacheOf stop) = none ∧
      NMap.find line (s.answer stop line kind).coh.txns = some { t with answers := t.answers ++ [a] } ∧
      a.stop = stop ∧ a.kept = false ∧ a.dirty = l.dirtyData ∧ (s.answer stop line kind).ms = s.ms := by
  have hgone : NMap.find line ((s.draw.2.dropLine stop line).cacheOf stop) = none := by
    rw [State.cacheOf_dropLine, NMap.find_del_same]
  unfold State.answer
  simp only [hl, hkind, false_and, if_false]
  refine ⟨{ stop := stop, dirty := l.dirtyData, seq := s.coh.seq + 1,
            empty := !(s.draw.2.dropLine stop line).holdsRegion stop (s.regionOfLine line) }, hgone,
    (NMap.find_modify_same ..).trans ?_, rfl, rfl, rfl, rfl⟩
  change (NMap.find line s.coh.txns).map _ = _
  rw [htxn]
  rfl

/-- SNOOP_ANSWER_DELAY_EXPIRY where no answer of the line waits for it: the LLC's mark is gone. -/
theorem exec_snoopAnswerDelayExpiry_marked (htxn : NMap.find line s.coh.txns = some t)
    (hl : NMap.find line (s.cacheOf stop) = some l) (hheld : l.hold = true) (hnone : stop ∉ t.toAnswer)
    (hholds : s.coh.holds = []) : exec (.snoopAnswerDelayExpiry stop line) s =
      .next (s.setCache stop (NMap.ins line { l with hold := false } (s.cacheOf stop))) := by
  have hsame : ({ s with coh := { s.coh with holds := [] } } : State) = s := by rw [← hholds]
  change execSnoopAnswerDelayExpiry stop line s = _
  unfold execSnoopAnswerDelayExpiry
  simp only [hholds, List.filter_nil, hsame, hl, htxn, hheld]
  simp [hnone, okay]

/-- The same at a B-die's stop for an uncached granule. -/
theorem exec_snoopAnswerDelayExpiry_raw {pa : Nat} (hstop : stop = 0 ∨ stop = 5) (hl : NMap.find pa (s.cacheOf stop) = none) :
    ∃ holds, exec (.snoopAnswerDelayExpiry stop pa) s = .next { s with coh := { s.coh with holds := holds } } ∧
      ∀ g, g ∈ holds ↔ g ∈ s.coh.holds ∧ g ≠ .raw pa := by
  change ∃ holds, execSnoopAnswerDelayExpiry stop pa s = _ ∧ _
  unfold execSnoopAnswerDelayExpiry
  extract_lets mine coh s1
  have hl1 : NMap.find pa (s1.cacheOf stop) = none := hl
  have hdie : coherentStop stop = false := by rcases hstop with rfl | rfl <;> rfl
  have hmine (g : Granule) : mine g = decide (g = .raw pa) := by
    cases g <;> simp [mine, hdie, hstop, beq_eq_decide]
  simp only [hl1]
  exact ⟨s.coh.holds.filter (fun g => !mine g), rfl, fun g => by simp [hmine]⟩

/-- A transaction whose only answer on its way has reached the home. -/
def Txn.tookAnswer (a : SnoopAnswer) (t : Txn) : Txn :=
  { t with
    toAnswer := t.toAnswer.filter (· != a.stop), answers := t.answers.filter (fun b => b.stop != a.stop)
    dirty := if a.dirty.isSome then a.dirty else t.dirty, shared := t.shared || a.kept }

/-- SNOOP_RESPONSE of the only answer on its way. -/
theorem exec_snoopResponse_one {a : SnoopAnswer} (htxn : NMap.find line s.coh.txns = some t) (hone : t.answers = [a])
    (hstop : a.stop = stop) (hfirst : s.firstAnswer stop (s.homeOf line) a.seq = true) :
    let u := s.updTxn line (Txn.tookAnswer a)
    exec (.snoopResponse stop line) s = .next (if a.empty then u.setPresence (s.regionOfLine line) stop false else u) := by
  subst hstop
  have hfind : t.answers.find? (fun b => b.stop == a.stop) = some a := by simp [hone]
  change execSnoopResponse a.stop line s = _
  unfold execSnoopResponse
  simp only [htxn, hfind, hfirst, Bool.true_eq_false, if_false]
  rfl

/-- A presence bit cleared is clear. -/
theorem State.presence_setPresence_false (s : State) (region stop : Nat) :
    ((s.setPresence region stop false).presence region).getLsbD stop = false := by
  have hfind : ((s.setPresence region stop false).coh.filter.find? (fun f => f.1 == region)) =
      (s.coh.filter.find? (fun f => f.1 == region)).map (fun f =>
        if f.1 = region then (f.1, f.2 &&& ~~~(BitVec.ofNat 11 (1 <<< stop))) else f) := by
    rw [State.setPresence, List.find?_map]
    congr 2
    funext f
    by_cases hf : f.1 = region <;> simp [hf]
  rw [State.presence, hfind]
  cases hold : s.coh.filter.find? (fun f => f.1 == region) with
  | none => simp
  | some f =>
    have hf : f.1 = region := by simpa using List.find?_some hold
    have hbit : (BitVec.ofNat 11 (1 <<< stop)).getLsbD stop = decide (stop < 11) := by
      rw [BitVec.getLsbD_ofNat, Nat.one_shiftLeft, Nat.testBit_two_pow_self, Bool.and_true]
    simp [hf, hbit]

end Snoop

/-! ### Memory's data (R282, R300) -/

section Memory

variable {s : State} {line : Nat} {t : Txn}

/-- The state in which the controller has dealt with the error of a line that it read, if any. -/
def State.eccMet (s : State) (line : Nat) : EccError → State
  | .none => s
  | .corrected => s.memCorrected line
  | .uncorrectable => s.memError line

/-- The state `u` in which the controller has passed the line on as `s` found it. -/
def State.lpTaken (s u : State) (line : Nat) : State :=
  let q := fifoPush 32 (NMap.findD [] (s.homeOf line) s.ms.lpIn) (halfLines (s.ms.mem.readN line 128))
  { u with ms := { u.ms with lpIn := NMap.ins (s.homeOf line) q u.ms.lpIn } }

theorem exec_memoryReadReturn (htxn : NMap.find line s.coh.txns = some t) (hnone : t.memData = none)
    (hroom : (NMap.findD [] (s.homeOf line) s.ms.lpIn).length + 2 ≤ 32) (ecc : EccError) :
    exec (.memoryReadReturn line ecc) s = .next ((s.lpTaken (s.eccMet line ecc) line).updTxn line
      (fun t => { t with memData := some ((s.eccMet line ecc).memLine line) })) := by
  change execMemoryReadReturn line ecc s = _
  unfold execMemoryReadReturn
  simp only [htxn]
  rw [if_neg (by simp [hnone]; omega)]
  cases ecc <;> rfl

theorem State.raiseAplic_coh (s : State) (n : Nat) : (s.raiseAplic n).coh = s.coh := by
  unfold State.raiseAplic State.aplicDeliver State.msi
  extract_lets dom target
  split
  · split <;> rfl
  · rfl

/-- An uncorrectable error that is logged nowhere but by its controller leaves the transactions and the writes under way. -/
theorem State.memError_coh (hlog : s.dbg.elbase = 0) (htr : s.dbg.tren = false) : (s.memError line).coh = s.coh := by
  unfold State.memError
  extract_lets ms s1
  rw [State.keeperEvent_of_bare (s := s1.countModule 5 1) hlog htr, State.raiseAplic_coh]
  rfl

/-- A poisoned line gives its home poisoned data, where no write to it is under way. -/
theorem State.memLine_poison (hsent : s.coh.sent = []) (hpoison : line ∈ s.ms.mem.poison) : (s.memLine line).poison = true := by
  rw [State.memLine, hsent]
  simp [hpoison]

end Memory

/-! ### The statement -/

/-- Settles O29: requests by what their home does with them, snoops and answers by the transaction, memory's data by its
error. -/
theorem lineRequests : Obligations.LineRequests := by
  intro s stop line way ready
  refine ⟨fun kind hkind hready hstop hruns hreaches hempty hwait hbuf => ?request,
    fun t htxn hmarked hstop hfirst => ⟨fun l hl hheld => ?held, fun l hl hfree hkind => ?answered⟩,
    fun t l htxn hl hheld hnone hholds => exec_snoopAnswerDelayExpiry_marked htxn hl hheld hnone hholds,
    fun pa hstop hl => ?granule, fun t a htxn hone hastop hfirst => ?response, fun t htxn hnone hroom => ?memory⟩
  case request =>
    obtain ⟨hlp, hunasked, hout, hawake, hback⟩ := hready
    have hasks : HostAsks s line := ⟨hlp, hstop ▸ hunasked, hstop ▸ hout, hawake, hback, hruns, hreaches⟩
    refine ⟨fun hopen => ?_, fun hfree => ?_⟩
    · rw [exec_coherentRequest_host hasks hempty hkind, State.homeRequest_refused hopen]
    · refine ⟨_, exec_coherentRequest_host hasks hempty hkind, ?_⟩
      rw [State.homeRequest_opens hfree hwait hbuf]
      exact State.openTxn_agent (by rcases hkind with rfl | rfl <;> decide)
  case held =>
    rw [exec_snoop_marked htxn hmarked hstop hfirst hl, if_pos hheld]
    rfl
  case answered =>
    have htxn1 : NMap.find line (s.updTxn line (Txn.snooped stop)).coh.txns = some (t.snooped stop) :=
      (NMap.find_modify_same ..).trans (by rw [htxn]; rfl)
    obtain ⟨a, hgone, hanswer, hastop, hkept, hdirty, hms⟩ :=
      State.answer_owned (s := s.updTxn line (Txn.snooped stop)) (stop := stop) htxn1 hl hkind
    refine ⟨_, a, ?_, hgone, hanswer, hastop, hkept, hms, fun hm => ?_, fun hm => ?_⟩
    · rw [exec_snoop_marked htxn hmarked hstop hfirst hl, if_neg (by simp [hfree])]
    · rw [hdirty, CLine.dirtyData, if_pos hm]
    · rw [hdirty, CLine.dirtyData, if_neg hm]
  case granule =>
    obtain ⟨holds, hexec, hmem⟩ := exec_snoopAnswerDelayExpiry_raw (s := s) hstop hl
    exact ⟨_, hexec, rfl, by simp [hmem], fun g hg => by simp [hmem, hg]⟩
  case response =>
    refine ⟨_, exec_snoopResponse_one htxn hone hastop hfirst, ?_, fun hempty => ?_, ?_, ?_⟩
    · have htxns : NMap.find line (s.updTxn line (Txn.tookAnswer a)).coh.txns = some (t.tookAnswer a) :=
        (NMap.find_modify_same ..).trans (by rw [htxn]; rfl)
      have hleft : t.tookAnswer a = { t.tookAnswer a with answers := [] } := by simp [Txn.tookAnswer, hone]
      subst hastop
      rw [hleft] at htxns
      split <;> exact htxns
    · rw [if_pos hempty]
      exact State.presence_setPresence_false _ (s.regionOfLine line) stop
    · split <;> rfl
    · split <;> rfl
  case memory =>
    refine ⟨⟨_, exec_memoryReadReturn htxn hnone hroom .none, rfl, rfl⟩, fun hsent hlog htr => ?_⟩
    have hcoh := State.memError_coh (line := line) hlog htr
    refine ⟨_, { t with memData := some ((s.memError line).memLine line) }, _,
      exec_memoryReadReturn htxn hnone hroom .uncorrectable, (NMap.find_modify_same ..).trans ?_, rfl,
      State.memLine_poison (by rw [hcoh, hsent]) (State.memError_poison hlog htr line).1, (s.memError_logged line).1⟩
    change (NMap.find line (s.memError line).coh.txns).map _ = _
    rw [hcoh, htxn]
    rfl

end Sys2Proof.Machine

/-! Windows (O55): requests of peers checked, performed and answered, and the answers to this module's own requests. -/

namespace Sys2Proof.Machine

/-! ### A request of a peer (R452, R453) -/

section Serve

variable {s : State} {hdr : MsgHdr} {b : MsgBody} {pa n : Nat} {f : State → Option State} {c : Instr} {g : State → State}

/-- A request that arrives is denied, waits for its memory's domain, or is performed as `g` says. -/
theorem exec_request (hc : exec c s = okay (s.serveWindow hdr b pa n f))
    (hf : f (s.tookFlits hdr b) = some (g (s.tookFlits hdr b))) (h : Arrives s hdr b) :
    let t := s.tookFlits hdr b
    (t.windowAllowed hdr pa n = false → exec c s = .next ((t.countModule 9 1).sendTo hdr.src .deny hdr.txid hdr.ward)) ∧
    (t.windowAllowed hdr pa n = true → t.domain (t.memDomain pa) ≠ .idle → exec c s = .next s) ∧
    (t.windowAllowed hdr pa n = true → t.domain (t.memDomain pa) = .idle → exec c s = .next (g t)) := by
  intro t
  have hserve : s.serveWindow hdr b pa n f =
      (if t.windowAllowed hdr pa n = false then some ((t.countModule 9 1).sendTo hdr.src .deny hdr.txid hdr.ward)
        else if t.domain (t.memDomain pa) ≠ .idle then none else f t).getD s := by
    rw [State.serveWindow, h.receive_eq, h.fromMember_eq, if_neg (by decide)]
  rw [hc, hserve]
  refine ⟨fun hdenied => ?_, fun hallowed hasleep => ?_, fun hallowed hidle => ?_⟩
  · rw [if_pos hdenied]; rfl
  · rw [if_neg (by simp [hallowed]), if_pos hasleep]; rfl
  · rw [if_neg (by simp [hallowed]), if_neg (by simp [hidle]), hf]; rfl

end Serve

/-! ### An answer to a request of this module (R317, R439, R453) -/

section Answer

variable {s : State} {hdr : MsgHdr} {b : MsgBody} {c : Instr} {g : State → State}

theorem exec_answer (hc : exec c s = okay (s.answered hdr b (fun t => (g t).afterAnswer))) (h : Arrives s hdr b) :
    (s.hasTx hdr.txid hdr.src = false → exec c s = .next (s.tookFlits hdr b)) ∧
      (s.hasTx hdr.txid hdr.src = true → exec c s = .next (g (s.tookFlits hdr b)).afterAnswer) := by
  rw [hc, h.answered_eq]
  refine ⟨fun hnone => ?_, fun hasked => ?_⟩
  · rw [if_neg (by simp [hnone]), okay]
  · rw [if_pos hasked, okay]

/-- Data reach the loads and atomics of a group that wait for them. -/
theorem State.group_takeData {p : Site} {x : Group} (hx : s.group? p = some x) (tx : Nat) (bytes : List Byte) (poison : Bool) :
    (s.takeData tx bytes poison).group? p = some { x with
      loads := x.loads.map (fun l => x.loadReply l tx bytes poison)
      atoms := x.atoms.map (fun r => r.reply tx bytes poison) } := by
  simp only [State.group?, State.core, State.takeData, NMap.findD, NMap.find_mapVals] at hx ⊢
  cases hk : NMap.find p.core s.cores with
  | none => simp [hk] at hx
  | some k =>
    have hk' : NMap.find p.place k.groups = some x := by simpa [hk] using hx
    simp [NMap.find_mapVals, hk']

end Answer

/-! ### The statement -/

/-- Settles O55: each request by its effect where it is performed, each answer by its effect where its request is outstanding.
One reservation for each lane of a peer (log 61), DATA or BULKDATA (log 113), VISACK and DONEACK in one step (log 114) and
the request that waits while the domain sleeps (log 115) are the model's choices. -/
theorem windowMessages : Obligations.WindowMessages := by
  intro s hdr pa len bytes cached done poison op signed operands who tgt got serves reply written takes
  have hserves {b : MsgBody} {c : Instr} {n : Nat} {f : State → Option State} {g : State → State}
      (hc : exec c s = okay (s.serveWindow hdr b pa n f)) (hf : f (s.tookFlits hdr b) = some (g (s.tookFlits hdr b))) :
      serves b c n g := exec_request hc hf
  have htakes {b : MsgBody} {c : Instr} {g : State → State}
      (hc : exec c s = okay (s.answered hdr b (fun t => (g t).afterAnswer))) : takes b c g := exec_answer hc
  clear_value serves takes
  refine ⟨fun hlen => ?read, ⟨Config.freeBool s.free, ?whole⟩, ?write, ?bulkwrite, ?lr, ?sc, fun u old bad hu => ?atomic,
    htakes rfl, htakes rfl, htakes rfl, htakes rfl, htakes rfl,
    fun g x hx => ⟨_, State.group_takeData hx hdr.txid bytes poison, rfl⟩⟩
  case read => exact hserves rfl (if_neg hlen)
  case whole => exact hserves rfl rfl
  case write => exact hserves rfl rfl
  case bulkwrite => exact hserves rfl rfl
  case lr => exact hserves rfl rfl
  case sc => exact hserves rfl (apply_ite some ..).symm
  case atomic => exact hserves rfl (congrArg (Option.map _) hu)

end Sys2Proof.Machine

/-! Operations that reach a tumbler (O22): what one leaves of its count, what it answers, and the waits it releases. -/

namespace Sys2Proof.Machine

/-! ### The operation at the head of a unit's queue (R328, R332) -/

section Take

variable {s : State}

/-- No other operation is on its way before the first. -/
theorem exec_tumblerOperation_global {n : Nat} {src : TumSrc} {op : TumOp} {rest : List TumReq}
    (h : s.tumq = ⟨src, n, op⟩ :: rest) :
    exec (.tumblerOperation .global 0) s = .next (({ s with tumq := rest } : State).tumOperate src n op) := by
  change execTumblerOperation .global 0 s = _
  simp [execTumblerOperation, h, dropAt]

theorem exec_tumblerOperation_core {c : Nat} {o : LocalOp} {rest : List LocalOp} (h : (s.core c).ltq = o :: rest) :
    exec (.tumblerOperation (.core c) 0) s = .next ((s.updCore c (fun k => { k with ltq := rest })).localOperate c o) := by
  change execTumblerOperation (.core c) 0 s = _
  simp [execTumblerOperation, State.updCore, h, dropAt]

end Take

/-! ### Counts (R330) -/

theorem Tumbler.apply_arrive (t : Tumbler) (k : Nat) : t.apply (.arrive k) =
    if t.s = true then t
    else if 2 ^ 32 - 1 < t.count + k then { t with count := 2 ^ 32 - 1, s := true }
    else { t with count := t.count + k } := by
  obtain ⟨count, sat, _⟩ := t
  cases sat with
  | true => rfl
  | false =>
    change Tumbler.mk .. = ite (tumTop < count + k) _ _
    by_cases h : tumTop < count + k
    · simp only [countAdd, if_pos h, Bool.false_eq_true, if_false]
    · simp only [countAdd, if_neg h, Bool.false_eq_true, if_false]

theorem Tumbler.apply_depart (t : Tumbler) (k : Nat) : t.apply (.depart k) =
    if t.s = true then t
    else if t.count < k then { t with count := 0, u := true }
    else { t with count := t.count - k } := by
  obtain ⟨count, sat, _⟩ := t
  cases sat with
  | true => simp [Tumbler.apply, countSub]
  | false =>
    by_cases h : count < k
    · simp [Tumbler.apply, countSub, h]
    · simp [Tumbler.apply, countSub, h]

/-- No operation touches the arm. -/
theorem Tumbler.apply_armed (t : Tumbler) (op : TumOp) : (t.apply op).armed = t.armed := by cases op <;> rfl

/-! ### An operation on a global tumbler (R329, R331, R334) -/

section Operate

variable {s : State} {n : Nat} {src : TumSrc}

/-- Where nothing waits and no arm is set, an operation that moves the count leaves its result and no more. -/
theorem State.tumOperate_idle {op : TumOp} (hwaiters : s.waiters = []) (harmed : (s.tum n).armed = false)
    (hmoves : (∃ k, op = .arrive k) ∨ ∃ k, op = .depart k) :
    s.tumOperate src n op = s.setTum n ((s.tum n).apply op) := by
  have hsettled : (s.setTum n ((s.tum n).apply op)).settleTum n true = s.setTum n ((s.tum n).apply op) :=
    State.settleTum_idle (s := s.setTum n _) hwaiters (by rw [State.tum_setTum_same, Tumbler.apply_armed, harmed]) true
  obtain ⟨k, rfl⟩ | ⟨k, rfl⟩ := hmoves <;> exact hsettled

/-- The arm is set for the front end's waits alone (R334). -/
theorem State.rearm_of_noRing (h : ∀ w ∈ s.waiters, w.src.isRing = false) : s.rearm n = s := by
  have hnone : s.waiters.filter (fun w => w.tumbler == n && w.src.isRing) = [] := by simpa using fun w hw _ => h w hw
  rw [State.rearm, hnone]
  rfl

end Operate

/-! ### A group's wait that an operation ends (R138, R331) -/

section Wait

variable {s : State} {g : Site} {x : Group} {n k v id pdst : Nat} {loc : Bool}

theorem Group.Quiet.wp (hq : x.Quiet) (n : Nat) (lanes val : LaneMask) : (x.wp n lanes val).Quiet := by
  rw [Group.wp_only]
  exact ⟨hq.notHalted, hq.ownPc, hq.noHalt, hq.noStep⟩

/-- A TTEST that is answered writes its outcome in the active lanes, and the group moves on (R99, R138). -/
theorem State.endTumWait_ttest (hx : s.group? g = some x) (hq : x.Quiet) (hwait : x.wait = .ttest loc id n v pdst)
    (outcome : Bool) : s.endTumWait g outcome =
      s.moved g { x.wp pdst x.active (if outcome then BitVec.allOnes 32 else 0) with wait := .none } (x.pc + 8) := by
  have hqy := hq.wp pdst x.active (if outcome then BitVec.allOnes 32 else 0)
  unfold State.endTumWait
  simp only [hx, Option.map_some, hwait]
  rw [State.updGroup_of_group hx, State.endWait_eq (State.group_setGroup_same s g _) hqy, State.moved_setGroup,
    Group.wp_pc]

/-- An arrival that brings a tumbler without an arm to the value of the only wait there, a group's TWAIT, ends it. -/
theorem State.tumOperate_releases {src : TumSrc} {dead : Option Nat} (hwaiters : s.waiters = [⟨.group g, n, v⟩])
    (harmed : (s.tum n).armed = false) (hv : v ≤ ((s.tum n).apply (.arrive k)).count) (hx : s.group? g = some x)
    (hq : x.Quiet) (hwait : x.wait = .twait loc id n v pdst dead) : s.tumOperate src n (.arrive k) =
      ({ s.setTum n ((s.tum n).apply (.arrive k)) with waiters := [] } : State).moved g
        { x.wp pdst x.active (BitVec.allOnes 32) with wait := .none } (x.pc + 8) := by
  set t := (s.tum n).apply (.arrive k)
  have hnoArm : t.armed = false := (Tumbler.apply_armed _ _).trans harmed
  have hend := State.endTumWait_eq (s := { s.setTum n t with waiters := [] }) hx hq hwait true
  change (s.setTum n t).settleTum n true = _
  unfold State.settleTum
  extract_lets t1 fires s1 goes s2
  have ht1 : t1 = t := State.tum_setTum_same s n t
  have hs1 : s1 = s.setTum n t := if_neg (by simp [fires, ht1, hnoArm])
  have hgoes : goes ⟨.group g, n, v⟩ = true := by simp [goes, ht1, hv]
  have hs2 : s2 = { s.setTum n t with waiters := [] } := by simp [s2, hs1, hwaiters, hgoes]
  have hfilter : (s.setTum n t).waiters.filter goes = [⟨.group g, n, v⟩] := by simp [hwaiters, hgoes]
  rw [hfilter, List.foldl_cons, List.foldl_nil, hs2, State.release, hend]
  exact State.rearm_of_noRing (by simp [State.moved])

end Wait

/-! ### The statement -/

/-- Settles O22: each operation by what it leaves of the count, with nobody waiting, and by the wait that it ends. -/
theorem tumblerOperations : Obligations.TumblerOperations := by
  refine ⟨?operation, ?release⟩
  case operation =>
    intro s n k src rest t taken hwaiters harmed
    refine ⟨fun h => ?arrive, fun h => ?depart, fun o id h => exec_tumblerOperation_global h, fun h hbelow => ?wait,
      fun c p v pdst x tile id hltq hx htile hwait hhalted hpc hhalt hstep => ?localTest⟩
    case arrive =>
      rw [exec_tumblerOperation_global h, State.tumOperate_idle (s := taken) hwaiters harmed (.inl ⟨k, rfl⟩)]
      exact congrArg (fun t => okay (taken.setTum n t)) (Tumbler.apply_arrive ..)
    case depart =>
      rw [exec_tumblerOperation_global h, State.tumOperate_idle (s := taken) hwaiters harmed (.inr ⟨k, rfl⟩)]
      exact congrArg (fun t => okay (taken.setTum n t)) (Tumbler.apply_depart ..)
    case wait =>
      have hnot : ¬ k ≤ (taken.tum n).count := Nat.not_le.mpr hbelow
      rw [exec_tumblerOperation_global h, State.tumOperate, if_neg hnot, hwaiters]
      rfl
    case localTest =>
      set s1 := s.updCore c (fun k => { k with ltq := [] })
      have hx1 : s1.group? ⟨c, p⟩ = some x := (State.group_updCore s c rfl _).trans hx
      have htile1 : s1.tile? c x.tile = some tile := (State.tile_updCore_same ..).trans htile
      have hcount : s1.ltCount c x.tile id = (NMap.findD {} id tile.lt).count := by rw [State.ltCount, htile1]
      have hend := State.endTumWait_ttest hx1 ⟨hhalted, hpc, hhalt, hstep⟩ hwait (decide (v ≤ s1.ltCount c x.tile id))
      refine ⟨_, (exec_tumblerOperation_core hltq).trans (congrArg _ hend), ?_, ?_, rfl⟩
      · rw [State.group_moved_same, hcount]
        simp
      · rw [State.core_moved]
        simp [Core.endReads, s1]
  case release =>
    intro s n k v pdst src rest g x dead id h hwaiters harmed hs htop hv hx hwait hhalted hpc hhalt hstep
    have happly : (s.tum n).apply (.arrive k) = { s.tum n with count := (s.tum n).count + k } := by
      rw [Tumbler.apply_arrive, if_neg (by simp [hs]), if_neg (by omega)]
    have hmoved := State.tumOperate_releases (s := { s with tumq := rest }) (src := src) (k := k) hwaiters harmed
      (hv.trans_eq (congrArg Tumbler.count happly).symm) hx ⟨hhalted, hpc, hhalt, hstep⟩ hwait
    have htum := State.tum_setTum_same ({ s with tumq := rest } : State) n ((s.tum n).apply (.arrive k))
    exact ⟨_, (exec_tumblerOperation_global h).trans (congrArg _ hmoved), rfl,
      (congrArg Tumbler.count htum).trans (congrArg Tumbler.count happly), State.group_moved_same ..⟩

end Sys2Proof.Machine

/-! Commands that start (O33): NOP, and those that place tiles, over this module alone. -/

namespace Sys2Proof.Machine

section Start

variable {s : State} {id : RingId} {r : Ring} {m : Cmd} {k : Nat} {l : Launch}

/-! ### Hasp lines bound (R343) -/

/-- The keys of a map in canonical form are distinct. -/
theorem NMap.nodup_keys {α : Type} {m : NMap α} (h : NMap.wf m = true) : (m.map (·.1)).Nodup := by
  suffices hlo : ∀ lo, NMap.risesFrom lo m = true → (m.map (·.1)).Nodup from hlo 0 h
  clear h
  induction m with
  | nil => simp
  | cons d m ih =>
    intro lo hrises
    simp only [NMap.risesFrom, Bool.and_eq_true, decide_eq_true_eq] at hrises
    have habsent : d.1 ∉ m.map (·.1) := fun hmem => by
      obtain ⟨c, hc, he⟩ := List.mem_map.1 hmem
      have hle := NMap.le_of_risesFrom hrises.2 c hc
      omega
    exact List.nodup_cons.2 ⟨habsent, ih _ hrises.2⟩

/-- Every line of a launch is bound to it, at generation zero. -/
theorem find_bindHasps {hs : NMap (List (Nat × Nat))} (hwf : NMap.wf hs = true) (bound : NMap Hasp) :
    ∀ h ∈ hs, NMap.find h.1 (bindHasps k hs bound) = some { launch := k, cores := h.2 } := by
  intro h hmem
  have hfold : bindHasps k hs bound =
      NMap.insAll (hs.map fun h => (h.1, ({ launch := k, cores := h.2 } : Hasp))) bound := by
    rw [NMap.insAll, List.foldl_map]
    rfl
  have hkeys : ((hs.map fun h => (h.1, ({ launch := k, cores := h.2 } : Hasp))).map (·.1)).Nodup := by
    rw [List.map_map]
    exact NMap.nodup_keys hwf
  rw [hfold]
  exact NMap.find_insAll _ hkeys (List.mem_map_of_mem hmem) _

/-! ### A launch over this module alone (R343, R344, R384) -/

/-- A launch as it starts: its tiles may be placed, those that its hasp lines tie to a core by their own core. -/
def Launch.started (here : Nat) (l : Launch) : Launch :=
  { l with
    go := true, fenced := l.homeless.length, ended := l.homeless.length, out := []
    pool := if l.hasps.isEmpty then [] else l.tilesAt here, next := if l.hasps.isEmpty then 0 else l.total }

theorem State.startLaunch_here (hm : m.launch = some k) (hl : s.launch? k = some l)
    (hres : (s.ctx l.ctx).state = .resident) (hfree : s.haspsFree l = true) (halone : s.peersOf l = []) :
    s.startLaunch id m = (({ s with hasps := bindHasps k l.hasps s.hasps } : State).updLaunch k
      (Launch.started s.here)).updCmd id m.count (fun m => { m with state := .started }) := by
  have hfar : s.farFree l = true := by simp [State.farFree, halone]
  unfold State.startLaunch
  simp only [hm, hl]
  rw [if_neg (by simp [hres]), if_neg (by simp [hfree]), if_neg (by simp [hfar])]
  simp only [halone, List.isEmpty_nil, Bool.or_true, if_true]
  rfl

/-- What a launch becomes depends on the launch alone that is there. -/
theorem State.updLaunch_congr {f g : Launch → Launch} (hl : s.launch? k = some l) (h : f l = g l) :
    s.updLaunch k f = s.updLaunch k g := by
  have hl' : NMap.find k s.fe.launches = some l := hl
  simp only [State.updLaunch, NMap.modify, hl', h]

theorem State.launch_updCmd (s : State) (id : RingId) (count : Nat) (f : Cmd → Cmd) (k : Nat) :
    (s.updCmd id count f).launch? k = s.launch? k := by
  cases id <;> rfl

/-- A command whose opcode places tiles starts its launch. -/
theorem State.startMoves_startable {op : Nat} (h : s.startable id [op] = some (r, m)) :
    s.startMoves id op = s.startLaunch id m := by
  simp only [State.startMoves, h]

end Start

/-! ### The statement -/

/-- Settles O33: a launch that starts here as what its command becomes; without hasp lines nothing else changes, with them
each line is bound. -/
theorem commandsStart : Obligations.CommandsStart := by
  intro s id r m may starts
  have hstarts {op : Nat} {c : Instr} (hc : exec c s = okay (s.startMoves id op)) (h : may op) : starts c := by
    intro k l hm hl hres halone
    have hexec (hfree : s.haspsFree l = true) := (hc.trans (congrArg okay (State.startMoves_startable h))).trans
      (congrArg okay (State.startLaunch_here hm hl hres hfree halone))
    refine ⟨fun hnone => ?plain, fun hsome hwf hfree => ?bound⟩
    case plain =>
      have hsame : ({ s with hasps := bindHasps k l.hasps s.hasps } : State) = s := by rw [hnone]; rfl
      rw [hexec (by simp [State.haspsFree, hnone]), hsame]
      refine congrArg (fun u : State => okay (u.updCmd id m.count _)) (State.updLaunch_congr hl ?_)
      simp [Launch.started, Launch.homeless, hnone]
    case bound =>
      refine ⟨_, hexec hfree, ?_, ⟨l.started s.here, ?_, rfl, ?_, ?_⟩, ?_⟩
      · simpa [State.updCmd] using find_bindHasps hwf s.hasps
      · rw [State.launch_updCmd, State.launch_updLaunch_same]
        exact congrArg (Option.map _) hl
      · simp [Launch.started, hsome]
      · simp [Launch.started, hsome]
      · simp [State.updCmd]
  refine ⟨fun h => ?nop, hstarts rfl, hstarts rfl, hstarts rfl, hstarts rfl⟩
  change execNopCommand id s = _
  simp only [execNopCommand, show s.startable id [0] = some (r, m) from h]

end Sys2Proof.Machine

/-! SIGNAL and WAIT at the tumbler unit (O34): what each command comes to where its operands stand, and how its ring's
commands end or wait. -/

namespace Sys2Proof.Machine

/-! ### The tumbler that a command names (R325, R401) -/

section Named

variable {s : State} {c rn n i : Nat} {m : Cmd}

/-- A resident context's identifier of a tumbler here comes to that tumbler. -/
theorem State.onTum_global (hres : (s.ctx c).state = .resident) (htum : s.tumTarget c false i = .global n) (det info : Nat)
    (go : Option Nat → Nat → State) : s.onTum (.ring c rn) m i det info go = go none n := by
  have hring : s.ringTum c m i = .ok (.global n) := by rw [State.ringTum, if_pos hres, htum]
  simp only [State.onTum, ringCtx, hring, State.onChk]

end Named

/-! ### SIGNAL (R339, R401) -/

section Signal

variable {s t : State} {c rn n rcd : Nat} {r : Ring} {m : Cmd}

theorem exec_signal_tumbler (hstart : s.startable (.ring c rn) [5] = some (r, m)) (htgt : m.tgt = true)
    (hres : (s.ctx c).state = .resident) (htum : s.tumTarget c false m.tid = .global n) :
    exec (.signal (.ring c rn)) s =
      .next ((s.tumOperate (.ring (.ring c rn)) n (.arrive m.val)).endCmd (.ring c rn) m.count 0 0 0) := by
  change execSignal (.ring c rn) s = _
  simp only [execSignal, hstart, if_pos htgt, State.onTum_global hres htum]
  rfl

/-- A SIGNAL of a fence record that can be read and written, bound to a tumbler here. -/
theorem exec_signal_fence (hstart : s.startable (.ring c rn) [5] = some (r, m)) (htgt : m.tgt = false)
    (hres : (s.ctx c).state = .resident) (hrcd : s.fenceRecord c m.fence = .ok rcd)
    (hwrite : s.chkWrite c m.fence 16 192 = .ok ()) (htum : s.tumTarget c false (nfield rcd 75 64) = .global n) :
    exec (.signal (.ring c rn)) s =
      .next ((s.signalFence (.ring c rn) m rcd m.val none n).endCmd (.ring c rn) m.count 0 0 0) := by
  change execSignal (.ring c rn) s = _
  simp only [execSignal, hstart, ringCtx, hrcd, hwrite, Chk.bind, State.onChk, State.onTum_global hres htum]
  rw [if_neg (by simp [htgt])]

theorem State.feStore_of_feWrite {ctx tag va : Nat} {bytes : List Byte} (h : s.feWrite ctx tag va bytes = .ok t) :
    s.feStore ctx tag va bytes = t := by
  rw [State.feStore, h]

/-- A value above the record's is written, and the tumbler counts one arrival. -/
theorem State.signalFence_raises {v : Nat} (hv : nfield rcd 63 0 < v) (htop : v ≠ 2 ^ 64 - 1)
    (hstore : s.feWrite c m.tag m.fence (natBytes 16 (rcd / 2 ^ 64 * 2 ^ 64 + v)) = .ok t) :
    s.signalFence (.ring c rn) m rcd v none n = t.tumOperate (.ring (.ring c rn)) n (.arrive 1) := by
  have hvalue : rcd - nfield rcd 63 0 = rcd / 2 ^ 64 * 2 ^ 64 := by simp only [nfield]; omega
  unfold State.signalFence
  extract_lets ctx value new
  rw [if_neg (Nat.not_le.mpr hv), if_neg htop, show new = _ from congrArg (· + v) hvalue]
  exact congrArg (fun u : State => u.tumOperate (.ring (.ring c rn)) n (.arrive 1)) (State.feStore_of_feWrite hstore)

/-- A value that the record has reached marks record and tumbler (R339). -/
theorem State.signalFence_marks {v : Nat} (hv : v ≤ nfield rcd 63 0)
    (hstore : s.feWrite c m.tag m.fence (natBytes 16 (rcd ||| 2 ^ 81)) = .ok t) :
    s.signalFence (.ring c rn) m rcd v none n = t.tumOperate (.ring (.ring c rn)) n .mark := by
  unfold State.signalFence
  extract_lets ctx value new
  rw [if_pos hv]
  exact congrArg (fun u : State => u.tumOperate (.ring (.ring c rn)) n .mark) (State.feStore_of_feWrite hstore)

end Signal

/-! ### A ring's commands -/

/-- What an update of a ring makes of it. -/
theorem State.ring_updRing_same (s : State) (id : RingId) (f : Ring → Ring) :
    (s.updRing id f).ring? id = (s.ring? id).map f := by
  cases id with
  | admin =>
    change (if s.fe.en = true then some (f s.fe.admin) else none) = Option.map f (if s.fe.en = true then _ else none)
    split <;> rfl
  | ring c rn => simp [State.ring?, State.updRing]

/-- The command of a ring with a count, once `f` has been applied to it. -/
def Ring.updCmd (count : Nat) (f : Cmd → Cmd) (r : Ring) : Ring :=
  { r with cmds := r.cmds.map (fun m => if m.count = count then f m else m) }

theorem State.ring_updCmd (s : State) (id : RingId) (count : Nat) (f : Cmd → Cmd) :
    (s.updCmd id count f).ring? id = (s.ring? id).map (Ring.updCmd count f) :=
  s.ring_updRing_same id _

/-- What an update of one command's count leaves under that count. -/
theorem Ring.mem_updCmd {count : Nat} {f : Cmd → Cmd} {r : Ring} {b : Cmd}
    (hb : b ∈ (r.updCmd count f).cmds) (hcount : b.count = count) : ∃ a ∈ r.cmds, a.count = count ∧ b = f a := by
  obtain ⟨a, ha, rfl⟩ := List.mem_map.1 hb
  split at hcount
  · next h => exact ⟨a, ha, h, if_pos h⟩
  · next h => exact absurd hcount h

/-- A command that may start stands in a ring that is served. -/
theorem State.ring_of_startable {s : State} {id : RingId} {ops : List Nat} {r : Ring} {m : Cmd}
    (h : s.startable id ops = some (r, m)) : s.ring? id = some r := by
  unfold State.startable at h
  split at h
  · cases h
  · split at h
    · cases h
    · next r' hr =>
      obtain ⟨_, _, he⟩ := Option.map_eq_some_iff.mp h
      cases he
      exact hr

/-! ### WAIT on a tumbler (R331, R334, R401) -/

section Wait

variable {s : State} {c rn n : Nat} {r : Ring} {m : Cmd}

/-- The ring held by its WAIT on a tumbler here. -/
def State.held (s : State) (id : RingId) (m : Cmd) (n : Nat) : State :=
  (s.updCmd id m.count (fun m => { m with start := s.nowN })).updCmd id m.count
    (fun m => { m with state := .waiting, bound := some (none, n), ask := none })

theorem exec_wait_tumbler (hstart : s.startable (.ring c rn) [6] = some (r, m)) (htgt : m.tgt = true)
    (hres : (s.ctx c).state = .resident) (htum : s.tumTarget c false m.tid = .global n) :
    exec (.wait (.ring c rn)) s =
      .next (((s.held (.ring c rn) m n).tumOperate (.ring (.ring c rn)) n (.wait m.val)).rearm n) := by
  change execWait (.ring c rn) s = _
  simp only [execWait, hstart, if_pos htgt, State.onTum_global hres htum]
  rfl

/-- The command that holds its ring waits, with the value it had last read. -/
theorem State.held_cmds {id : RingId} (hr : s.ring? id = some r) (hone : ∀ b ∈ r.cmds, b.count = m.count → b = m) :
    ∃ r2, (s.held id m n).ring? id = some r2 ∧ ∀ b ∈ r2.cmds, b.count = m.count → b.state = .waiting ∧ b.seen = m.seen := by
  refine ⟨_, by rw [State.held, State.ring_updCmd, State.ring_updCmd, hr]; rfl, fun b hb hcount => ?_⟩
  obtain ⟨b1, hb1, hcount1, rfl⟩ := Ring.mem_updCmd hb hcount
  obtain ⟨b0, hb0, hcount0, rfl⟩ := Ring.mem_updCmd hb1 hcount1
  have hseen : b0.seen = m.seen := congrArg Cmd.seen (hone b0 hb0 hcount0)
  exact ⟨rfl, hseen⟩

/-- The WAIT that holds a ring ends. -/
theorem State.endRingWait_cmds {id : RingId} {r2 : Ring} (hr : s.ring? id = some r2)
    (hheld : ∀ b ∈ r2.cmds, b.count = m.count → b.state = .waiting ∧ b.seen = m.seen) (status : Nat) :
    ∃ r3, (s.endRingWait id status).ring? id = some r3 ∧
      ∀ b ∈ r3.cmds, b.count = m.count → b.state = .ended status 0 m.seen 0 := by
  refine ⟨_, by rw [State.endRingWait, State.ring_updRing_same, hr]; rfl, fun b hb hcount => ?_⟩
  obtain ⟨a, ha, rfl⟩ := List.mem_map.1 hb
  have hsame : a.count = m.count := by
    split at hcount
    · exact hcount
    · exact hcount
  obtain ⟨hwaiting, hseen⟩ := hheld a ha hsame
  rw [if_pos hwaiting, ← hseen]

theorem Cmd.val_le_tumTop (htgt : m.tgt = true) : m.val ≤ tumTop := by
  rw [Cmd.val, if_pos htgt]
  exact Nat.le_pred_of_lt (Nat.mod_lt _ (by decide))

/-- The first wait of the front end at a tumbler sets its arm (R334). -/
theorem State.rearm_first {src : TumSrc} {v : Nat} (hsrc : src.isRing = true)
    (hothers : ∀ w ∈ s.waiters, w.src.isRing = false) (hv : v ≤ tumTop) :
    ({ s with waiters := s.waiters ++ [⟨src, n, v⟩] } : State).rearm n =
      ({ s with waiters := s.waiters ++ [⟨src, n, v⟩] } : State).setTum n
        { s.tum n with armed := true, armNext := false, armV := v } := by
  have hmine : (s.waiters ++ [(⟨src, n, v⟩ : TumWaiter)]).filter (fun w => w.tumbler == n && w.src.isRing) =
      [⟨src, n, v⟩] := by
    rw [List.filter_append, List.filter_eq_nil_iff.mpr fun w hw => by simp [hothers w hw]]
    simp [hsrc]
  rw [State.rearm, hmine]
  have hnext : decide (v > tumTop) = false := by simpa using hv
  change State.setTum _ n { s.tum n with armed := true, armNext := decide (v > tumTop), armV := min v tumTop } = _
  rw [hnext, min_eq_left hv]

/-- A WAIT on a tumbler that has reached its value is over at once. -/
theorem exec_wait_met (hstart : s.startable (.ring c rn) [6] = some (r, m)) (htgt : m.tgt = true)
    (hres : (s.ctx c).state = .resident) (htum : s.tumTarget c false m.tid = .global n)
    (hothers : ∀ w ∈ s.waiters, w.src.isRing = false) (hmet : m.val ≤ (s.tum n).count) :
    exec (.wait (.ring c rn)) s = .next ((s.held (.ring c rn) m n).endRingWait (.ring c rn) 0) := by
  have hrelease : (s.held (.ring c rn) m n).tumOperate (.ring (.ring c rn)) n (.wait m.val) =
      (s.held (.ring c rn) m n).endRingWait (.ring c rn) 0 := if_pos hmet
  rw [exec_wait_tumbler hstart htgt hres htum, hrelease]
  exact congrArg okay (State.rearm_of_noRing hothers)

/-- One that has not joins those that wait there, and the tumbler's arm is set to its value. -/
theorem exec_wait_arms (hstart : s.startable (.ring c rn) [6] = some (r, m)) (htgt : m.tgt = true)
    (hres : (s.ctx c).state = .resident) (htum : s.tumTarget c false m.tid = .global n)
    (hothers : ∀ w ∈ s.waiters, w.src.isRing = false) (hbelow : (s.tum n).count < m.val) :
    exec (.wait (.ring c rn)) s = .next (
      ({ s.held (.ring c rn) m n with waiters := s.waiters ++ [⟨.ring (.ring c rn), n, m.val⟩] } : State).setTum n
        { s.tum n with armed := true, armNext := false, armV := m.val }) := by
  have hjoins : (s.held (.ring c rn) m n).tumOperate (.ring (.ring c rn)) n (.wait m.val) =
      { s.held (.ring c rn) m n with waiters := s.waiters ++ [⟨.ring (.ring c rn), n, m.val⟩] } :=
    if_neg (Nat.not_le.mpr hbelow)
  rw [exec_wait_tumbler hstart htgt hres htum, hjoins]
  exact congrArg okay (State.rearm_first (s := s.held (.ring c rn) m n) rfl hothers (Cmd.val_le_tumTop htgt))

end Wait

/-! ### WAIT on a fence record (R340, R401) -/

section Fence

variable {s : State} {c rn n rcd : Nat} {r : Ring} {m : Cmd}

/-- A fence WAIT that finds its value in the record is over. -/
theorem State.waitFence_met {id : RingId} {peer : Option Nat} (h : m.val ≤ nfield rcd 63 0) :
    s.waitFence id m rcd peer n = s.endCmd id m.count 0 0 (nfield rcd 63 0) := if_pos h

theorem exec_wait_fence (hstart : s.startable (.ring c rn) [6] = some (r, m)) (htgt : m.tgt = false)
    (hres : (s.ctx c).state = .resident) (hrcd : s.fenceRecord c m.fence = .ok rcd)
    (htum : s.tumTarget c false (nfield rcd 75 64) = .global n) :
    exec (.wait (.ring c rn)) s = .next ((s.updCmd (.ring c rn) m.count (fun m => { m with start := s.nowN })).waitFence
      (.ring c rn) m rcd none n) := by
  change execWait (.ring c rn) s = _
  simp only [execWait, hstart, ringCtx, hrcd, State.onChk, State.onTum_global hres htum]
  rw [if_neg (by simp [htgt])]

theorem exec_fenceWaitReread (hserves : s.feServes = true) (hr : s.ring? (.ring c rn) = some r) (hm : r.waiting = some m)
    (hbound : m.bound = some (none, n)) (htgt : m.tgt = false) (hfired : s.ringWaits (.ring c rn) = false)
    (hrcd : s.fenceRecord c m.fence = .ok rcd) :
    exec (.fenceWaitReread (.ring c rn)) s = .next (s.waitFence (.ring c rn) m rcd none n) := by
  change execFenceWaitReread (.ring c rn) s = _
  simp only [execFenceWaitReread, if_pos hserves, hr, hm, hbound, ringCtx, hrcd, State.onChk]
  rw [if_neg (by simp [htgt, hfired])]

end Fence

/-! ### WAIT's timeout (R401) -/

/-- A WAIT past its timeout leaves the tumbler unit and ends with TIMEOUT; ARMED of the tumbler stays as it is (log 64). -/
theorem exec_waitTimeout {s : State} {id : RingId} {r : Ring} {m : Cmd} {n v : Nat} (hr : s.ring? id = some r)
    (hm : r.waiting = some m) (htimeout : m.timeout ≠ 0) (hfrozen : s.fe.frozen = none)
    (hdue : m.start + 2 ^ (m.timeout + 19) ≤ s.nowN) (hwaiters : s.waiters = [⟨.ring id, n, v⟩]) :
    exec (.waitTimeout id) s = .next (({ s with waiters := [] } : State).endCmd id m.count 12 0 m.seen.toNat) := by
  have hwaits : s.ringWaits id = true := by simp [State.ringWaits, hwaiters]
  have hdrop : s.dropWait id = { s with waiters := [] } := by
    unfold State.dropWait
    extract_lets mine
    have hmine : mine ⟨.ring id, n, v⟩ = true := by simp [mine]
    simp only [hwaiters, List.filter_cons, List.filter_nil, hmine, if_true, Bool.not_true, Bool.false_eq_true, if_false,
      List.map_cons, List.map_nil, List.foldl_cons, List.foldl_nil]
    exact State.rearm_of_noRing (by simp)
  change execWaitTimeout id s = _
  simp only [execWaitTimeout, hr, hm]
  rw [if_neg (by simp [htimeout, hfrozen]; omega), if_neg (by simp [hwaits]), hdrop]

/-! ### The statement -/

/-- Settles O34: each command by the tumbler or record that it names. That ARMED of a tumbler stays set after a WAIT has
timed out is the model's choice (log 64). -/
theorem signalAndWait : Obligations.SignalAndWait := by
  intro s c rn n r m id begun hres
  refine ⟨fun hstart htgt htum => exec_signal_tumbler hstart htgt hres htum,
    fun rcd t hstart htgt hrcd hwrite htum => ⟨fun hbelow htop hstore => ?raises, fun hreached hstore => ?marks⟩,
    fun hstart htgt htum hothers hone => ?wait, fun rcd hstart htgt hrcd htum hmet => ?fence,
    fun rcd hserves hr hm hbound htgt hfired hrcd hmet => ?reread,
    fun hr hm htimeout hfrozen hdue hwaiters => exec_waitTimeout hr hm htimeout hfrozen hdue hwaiters⟩
  case raises =>
    rw [exec_signal_fence hstart htgt hres hrcd hwrite htum, State.signalFence_raises hbelow htop hstore]
  case marks =>
    rw [exec_signal_fence hstart htgt hres hrcd hwrite htum, State.signalFence_marks hreached hstore]
  case wait =>
    obtain ⟨r2, hr2, hheld⟩ := State.held_cmds (n := n) (State.ring_of_startable hstart) hone
    by_cases hmet : m.val ≤ (s.tum n).count
    · refine ⟨_, exec_wait_met hstart htgt hres htum hothers hmet, rfl,
        fun _ => ⟨rfl, State.endRingWait_cmds hr2 hheld 0⟩, fun hbelow => absurd hmet (Nat.not_le.mpr hbelow)⟩
    · have hbelow := Nat.not_le.mp hmet
      refine ⟨_, exec_wait_arms hstart htgt hres htum hothers hbelow, rfl, fun h => absurd h hmet,
        fun _ => ⟨rfl, ?_, ?_, ?_, r2, hr2, fun b hb hcount => (hheld b hb hcount).1⟩⟩
      all_goals rw [State.tum_setTum_same]
  case fence => rw [exec_wait_fence hstart htgt hres hrcd htum, State.waitFence_met hmet]
  case reread => rw [exec_fenceWaitReread hserves hr hm hbound htgt hfired hrcd, State.waitFence_met hmet]

end Sys2Proof.Machine

/-! Members of a span (O53): what a member's place in its span is after the operations of epochs, commits and losses, and
then each command by them. -/

namespace Sys2Proof.Machine

/-! ### A member's place in its span -/

/-- What says of a span who belongs to it and who leads it, as this module sees it. -/
structure Seat where
  state     : SpanState
  en        : Bool
  ord       : Nat
  master    : Bool
  masterOrd : Nat
  roster    : List RosterEntry

def Span.seat (x : Span) : Seat :=
  { state := x.state, en := x.en, ord := x.ord, master := x.master, masterOrd := x.masterOrd, roster := x.roster }

/-! Each part of a place, read off it: the span itself is not looked into. -/

theorem Span.state_of_seat {x : Span} {y : Seat} (h : x.seat = y) : x.state = y.state := congrArg Seat.state h
theorem Span.en_of_seat {x : Span} {y : Seat} (h : x.seat = y) : x.en = y.en := congrArg Seat.en h
theorem Span.master_of_seat {x : Span} {y : Seat} (h : x.seat = y) : x.master = y.master := congrArg Seat.master h
theorem Span.masterOrd_of_seat {x : Span} {y : Seat} (h : x.seat = y) : x.masterOrd = y.masterOrd :=
  congrArg Seat.masterOrd h
theorem Span.roster_of_seat {x : Span} {y : Seat} (h : x.seat = y) : x.roster = y.roster := congrArg Seat.roster h

theorem State.foldl_seat {β : Type} {f : State → β → State} (hf : ∀ t b, (f t b).span.seat = t.span.seat) (l : List β)
    (s : State) : (l.foldl f s).span.seat = s.span.seat :=
  foldl_keeps (fun t : State => t.span.seat = s.span.seat) f (fun t b ht => (hf t b).trans ht) l s rfl

/-! ### Epochs (R445) -/

@[simp] theorem State.toEpoch_span (s : State) (e : BitVec 32) : (s.toEpoch e).span = { s.span with epoch := e } := by
  unfold State.toEpoch
  split
  · next h => rw [h]
  · simp

/-- An arrival at the master changes of the span what it knows of hasp lines that it has no tile of. -/
theorem State.haspArrive_span (s : State) (line gen src : Nat) :
    ∃ far, (s.haspArrive line gen src).span = { s.span with haspAll := far } := by
  have hrel (t : State) (f : FarHasp) : (if t.farAllIn f then
      f.members.foldl (fun st m => st.sendTo m (.hasprel line gen)) t else t).span = t.span := by
    split
    · exact State.foldl_span (fun t m => by simp) _ t
    · rfl
  unfold State.haspArrive
  split
  · refine ⟨s.span.haspAll, ?_⟩
    split
    · split <;> simp
    · rfl
  · split
    next i s1 hdraw =>
      cases hdraw
      exact ⟨_, hrel _ _⟩

theorem State.haspHeld_span (s : State) (m : HeldHasp) :
    ∃ far, (s.haspHeld m).span = { s.span with haspAll := far } := by
  unfold State.haspHeld
  split
  · refine ⟨s.span.haspAll, ?_⟩
    split <;> simp
  · split
    · exact s.haspArrive_span m.line m.gen m.src
    · exact ⟨s.span.haspAll, rfl⟩

theorem State.foldl_haspHeld_span (ms : List HeldHasp) (s : State) :
    ∃ far, (ms.foldl (fun st m => st.haspHeld m) s).span = { s.span with haspAll := far } := by
  refine foldl_keeps (fun t : State => ∃ far, t.span = { s.span with haspAll := far }) _ (fun t m ht => ?_) ms s
    ⟨s.span.haspAll, rfl⟩
  obtain ⟨far0, ht⟩ := ht
  obtain ⟨far, hm⟩ := t.haspHeld_span m
  exact ⟨far, by rw [hm, ht]⟩

/-- What follows the adoption of an epoch changes of the span the hasp messages held and known alone. -/
theorem State.afterEpoch_span (s : State) :
    ∃ held far, s.afterEpoch.span = { s.span with held := held, haspAll := far } := by
  unfold State.afterEpoch
  extract_lets s1 now later
  have h1 : s1.span = s.span := by
    refine State.foldl_span (fun t nh => ?_) _ s
    extract_lets h
    split
    · rfl
    · split
      · split
        · rfl
        · exact State.foldl_span (fun t m => by simp) _ t
      · split <;> simp
  obtain ⟨far, hfar⟩ := State.foldl_haspHeld_span now { s1 with span := { s1.span with held := later } }
  exact ⟨later, far, by rw [State.haspSettleAll_span, hfar, h1]⟩

@[simp] theorem State.afterEpoch_seat (s : State) : s.afterEpoch.span.seat = s.span.seat := by
  obtain ⟨held, far, h⟩ := s.afterEpoch_span
  rw [h]
  rfl

/-! ### Level commits (R462) -/

theorem mem_addNew {α : Type} [DecidableEq α] {a b : α} {l : List α} : a ∈ addNew b l ↔ a = b ∨ a ∈ l := by
  unfold addNew
  split
  · next h => exact ⟨.inr, fun ha => ha.elim (fun e => e ▸ h) id⟩
  · simp [or_comm]

@[simp] theorem State.startCommit_span (s : State) (lv : Levels) :
    (s.startCommit lv).span = { s.span with prep := some (lv, []), stalled := true, replyOwed := true } := by
  simp [State.startCommit]

theorem State.commitLevels_of_noPrep {s : State} (h : s.span.prep = none) : s.commitLevels = s := by
  unfold State.commitLevels
  rw [h]

/-- A commit waits for every member's reply. -/
theorem State.commitLevels_waits {s : State} {lv : Levels} {replied : List Nat} (hprep : s.span.prep = some (lv, replied))
    (h : ∃ r ∈ s.span.roster, r.ord ∉ replied) : s.commitLevels = s := by
  unfold State.commitLevels
  rw [hprep]
  exact if_pos (by simpa using h)

@[simp] theorem State.commitLevels_seat (s : State) : s.commitLevels.span.seat = s.span.seat := by
  unfold State.commitLevels
  split
  · rfl
  · split
    · rfl
    · extract_lets _ s1 s2
      have h2 : s2.span.seat = s.span.seat := by
        rw [State.afterEpoch_seat, State.toAll_span, State.toEpoch_span]
        rfl
      clear_value s2
      split
      · exact h2
      · extract_lets s3
        have h3 : s3.span.seat = s2.span.seat := rfl
        split
        · rw [State.startCommit_span]
          exact h3.trans h2
        · exact h3.trans h2

/-- The state in which every member has replied: the levels and the next epoch hold. -/
def State.levelsTaken (s : State) (lv : Levels) : State :=
  ((({ s with span := { s.span with levels := lv, prep := none, stalled := false, replyOwed := false } } : State).toEpoch
    (s.span.epoch + 1)).toAll (.levelcommit lv)).afterEpoch

theorem State.levelsTaken_span (s : State) (lv : Levels) : ∃ held far, (s.levelsTaken lv).span = { s.span with
    levels := lv, prep := none, stalled := false, replyOwed := false, epoch := s.span.epoch + 1, held := held
    haspAll := far } := by
  obtain ⟨held, far, h⟩ := State.afterEpoch_span ((({ s with span := { s.span with
    levels := lv, prep := none, stalled := false, replyOwed := false } } : State).toEpoch (s.span.epoch + 1)).toAll
    (.levelcommit lv))
  refine ⟨held, far, ?_⟩
  rw [State.levelsTaken, h, State.toAll_span, State.toEpoch_span]

/-- With the last reply the master commits; with no lowering that waits, nothing follows. -/
theorem State.commitLevels_done {s : State} {lv : Levels} {replied : List Nat} (hprep : s.span.prep = some (lv, replied))
    (hall : ∀ r ∈ s.span.roster, r.ord ∈ replied) (hlowers : s.span.lowers = []) : s.commitLevels = s.levelsTaken lv := by
  have hnone : (s.levelsTaken lv).span.lowers = [] := by
    obtain ⟨held, far, h⟩ := s.levelsTaken_span lv
    exact (congrArg Span.lowers h).trans hlowers
  unfold State.commitLevels
  split
  · next h => rw [hprep] at h; cases h
  · next lv' replied' h =>
    rw [hprep] at h
    cases h
    rw [if_neg (by simpa using hall)]
    extract_lets _ s1 s2
    have h2 : s2 = s.levelsTaken lv := rfl
    clear_value s2
    rw [h2, hnone]

@[simp] theorem State.drained_seat (s : State) : s.drained.span.seat = s.span.seat := by
  unfold State.drained
  split
  · rfl
  · extract_lets s1
    split
    · rw [State.commitLevels_seat]
      rfl
    · rw [State.sendTo_span]
      rfl

/-- A reply that is owed waits for the answers to window requests. -/
theorem State.drained_busy {s : State} (h : s.windowBusy = true) : s.drained = s := if_pos (.inr h)

/-- A member that waits for none replies. -/
theorem State.drained_member {s : State} (howed : s.span.replyOwed = true) (hidle : s.windowBusy = false)
    (hmember : s.span.master = false) : s.drained =
      ({ s with span := { s.span with replyOwed := false } } : State).sendTo s.span.masterOrd .levelprepReply := by
  unfold State.drained
  extract_lets _ s1
  rw [if_neg (by simp [howed, hidle]), if_neg (ne_true_of_eq_false hmember)]

/-- The master's own reply counted. -/
def State.countedSelf (s : State) : State :=
  { s with span := { s.span with
    replyOwed := false, prep := s.span.prep.map (fun p => (p.1, addNew s.span.ord p.2)) } }

/-- A master that waits for none counts itself; the commit goes on while another member has to reply. -/
theorem State.drained_master {s : State} {lv : Levels} {replied : List Nat} (howed : s.span.replyOwed = true)
    (hidle : s.windowBusy = false) (hmaster : s.span.master = true) (hprep : s.span.prep = some (lv, replied))
    (hother : ∃ r ∈ s.span.roster, r.ord ∉ addNew s.span.ord replied) : s.drained = s.countedSelf := by
  have hdrained : s.drained = s.countedSelf.commitLevels := by
    unfold State.drained
    rw [if_neg (by simp [howed, hidle])]
    exact if_pos hmaster
  have hprep1 : s.countedSelf.span.prep = some (lv, addNew s.span.ord replied) := congrArg (Option.map _) hprep
  rw [hdrained, State.commitLevels_waits hprep1 hother]

@[simp] theorem State.settleInv_seat (s : State) : s.settleInv.span.seat = s.span.seat := by
  unfold State.settleInv; split <;> rfl

@[simp] theorem State.afterAnswer_seat (s : State) : s.afterAnswer.span.seat = s.span.seat := by
  simp [State.afterAnswer]

/-! ### Losses (R447, R449) -/

@[simp] theorem State.coreLosePeer_span (s : State) (c p : Nat) (txs : List Nat) :
    (s.coreLosePeer c p txs).span = s.span :=
  (State.foldl_span (fun t x => by simp) _ _).trans rfl

@[simp] theorem State.launchLosePeer_span (s : State) (k p : Nat) : (s.launchLosePeer k p).span = s.span := by
  unfold State.launchLosePeer
  split
  · rfl
  · split
    · rfl
    · extract_lets ts s1
      have h1 : s1.span = s.span := State.foldl_span (fun t x => by simp) ts s
      split
      · rw [State.dropLaunch_span, h1]
      · exact h1

@[simp] theorem State.peerGone_seat (s : State) (p : Nat) : (s.peerGone p).span.seat = s.span.seat := by
  unfold State.peerGone
  extract_lets txs s1 _ _ _ s2
  have h1 : s1.span = s.span := State.foldl_span (fun t c => by simp) _ s
  have h2 : s2.span.seat = s1.span.seat := rfl
  rw [State.foldl_span (fun t k => by simp), h2, h1]

/-- A lost member is on the roster no more. -/
@[simp] theorem State.loseMember_seat (s : State) (p : Nat) : (s.loseMember p).span.seat =
    { s.span.seat with roster := s.span.roster.filter (fun r => r.ord != p) } := by
  have hgone := s.peerGone_seat p
  unfold State.loseMember
  extract_lets s1 s2
  rw [State.afterAnswer_seat, State.haspSettleAll_span]
  change { s1.span.seat with roster := s1.span.seat.roster.filter (fun r => r.ord != p) } = _
  rw [hgone]
  rfl

theorem State.loseMember_roster (s : State) (p : Nat) :
    (s.loseMember p).span.roster = s.span.roster.filter (fun r => r.ord != p) := Span.roster_of_seat (s.loseMember_seat p)

theorem State.foldl_loseMember_seat (ps : List Nat) (s : State) :
    (ps.foldl (fun st p => st.loseMember p) s).span.seat =
      { s.span.seat with roster := s.span.roster.filter (fun r => !ps.contains r.ord) } := by
  induction ps generalizing s with
  | nil => simp [Span.seat]
  | cons p ps ih =>
    rw [List.foldl_cons, ih, State.loseMember_seat, State.loseMember_roster, List.filter_filter]
    simp [bne, beq_eq_decide, Bool.and_comm]

/-! ### Out of the span (R448, R527) -/

theorem State.outOfSpan_state (s : State) (st : SpanState) : (s.outOfSpan st).span.state = st := rfl

theorem State.outOfSpan_en (s : State) (st : SpanState) : (s.outOfSpan st).span.en = s.span.en :=
  Span.en_of_seat (State.foldl_seat (fun t m => by simp) s.others s)

theorem State.isolate_state (s : State) : s.isolate.span.state = .isolated := by
  rw [State.isolate, State.reportAll_span, State.haspSettleAll_span, State.outOfSpan_state]

theorem State.leftSpan_state {s : State} (hen : s.span.en = false) : s.leftSpan.span.state = .left := by
  have hspan : ((s.outOfSpan .left).haspSettleAll.reportAll).span = (s.outOfSpan .left).span := by simp
  unfold State.leftSpan
  extract_lets s1
  have hstays : ¬ s1.span.en = true := by simp [s1, State.outOfSpan_en, hen]
  rw [if_neg hstays, hspan, State.outOfSpan_state]

/-! ### A roster published (R441, R445, R446) -/

/-- Routes give the members of a roster new neighbours and hops, and no new ordinals. -/
theorem mem_rosterFor {l : List RosterEntry} {root me : Nat} {r : RosterEntry} (h : r ∈ rosterFor l root me) :
    ∃ e ∈ l, e.ord = r.ord := by
  obtain ⟨e, he, hr⟩ := List.mem_map.1 h
  refine ⟨e, he, ?_⟩
  rw [← hr]
  split
  · rfl
  · split <;> rfl

@[simp] theorem State.publish_seat (s : State) (r : List RosterEntry) :
    (s.publish r).span.seat = { s.span.seat with roster := rosterFor r s.span.ord s.span.ord } := by
  unfold State.publish
  extract_lets me _ s1 s2
  have h2 : s2.span = s1.span := State.foldl_span (fun t m => by simp) _ s1
  rw [State.commitLevels_seat, State.afterEpoch_seat, h2, State.toEpoch_span]
  rfl

theorem State.publish_roster (s : State) (r : List RosterEntry) :
    (s.publish r).span.roster = rosterFor r s.span.ord s.span.ord := Span.roster_of_seat (s.publish_seat r)

/-- Without a commit under way the epoch rises by one. -/
theorem State.publish_epoch {s : State} (hprep : s.span.prep = none) (r : List RosterEntry) :
    (s.publish r).span.epoch = s.span.epoch + 1 := by
  unfold State.publish
  extract_lets me _ s1 s2
  have h2 : s2.span = s1.span := State.foldl_span (fun t m => by simp) _ s1
  have h1 : s1.span = _ := State.toEpoch_span _ _
  obtain ⟨held, far, h3⟩ := s2.afterEpoch_span
  rw [h2, h1] at h3
  rw [State.commitLevels_of_noPrep (by rw [h3]; exact hprep), h3]

/-- The part of the span that goes on after a loss has none of the lost on its roster; nothing else of its place changes. -/
theorem State.declareLost_seat {s : State} {ps : List Nat}
    (hmaj : majority s.span.roster ((s.span.roster.map (·.ord)).filter (fun m => !ps.contains m)) = true) :
    ∃ left, (∀ r ∈ left, r.ord ∉ ps) ∧ (s.declareLost ps).span.seat = { s.span.seat with roster := left } := by
  unfold State.declareLost
  extract_lets part s1 s2 s3 me r _ s4
  have h1 := State.foldl_loseMember_seat ps s
  have h3 : s3.span.seat = s1.span.seat := by
    have hsent : s3.span = s2.span := State.foldl_span (fun t p => by simp) ps s2
    rw [hsent, State.toEpoch_span]
    rfl
  refine ⟨rosterFor r me me, fun e he => ?_, ?_⟩
  · obtain ⟨e1, he1, hord⟩ := mem_rosterFor he
    obtain ⟨e2, he2, rfl⟩ := List.mem_map.1 he1
    have hroster : s3.span.roster = s.span.roster.filter (fun r => !ps.contains r.ord) :=
      Span.roster_of_seat (h3.trans h1)
    rw [hroster] at he2
    simpa [← hord] using (List.mem_filter.1 he2).2
  · have h4 : s4.span.seat = { s3.span.seat with roster := rosterFor r me me } := rfl
    rw [if_neg (ne_false_of_eq_true hmaj), State.commitLevels_seat, State.afterEpoch_seat,
      State.foldl_span (fun t m => by simp), h4, h3, h1]

theorem State.declareLost_isolates {s : State} {ps : List Nat}
    (hminor : majority s.span.roster ((s.span.roster.map (·.ord)).filter (fun m => !ps.contains m)) = false) :
    s.declareLost ps = s.isolate := if_pos hminor

/-- A member that leaves is on the roster no more. -/
theorem State.removeLeaver_roster (s : State) (p : Nat) : ∀ r ∈ (s.removeLeaver p).span.roster, r.ord ≠ p := by
  intro e he
  simp only [State.removeLeaver, State.send_span, State.publish_roster, State.loseMember_roster] at he
  obtain ⟨e1, he1, hord⟩ := mem_rosterFor he
  obtain ⟨e2, he2, rfl⟩ := List.mem_map.1 he1
  simpa [← hord] using (List.mem_filter.1 he2).2

/-- The state of a master that has taken a link out of its roster. -/
def State.unlinked (s : State) (a b : Nat) : State :=
  { s with span := { s.span with roster := dropLink s.span.roster a b } }

/-- A link reported down that leaves its far end another neighbour: the roster without it, with its routes, goes out. -/
theorem State.linkLost_publishes {s : State} {a b : Nat} (h : ∃ r ∈ dropLink s.span.roster a b, r.ord ≠ b ∧ b ∈ r.links) :
    s.linkLost a b = (s.unlinked a b).publish (dropLink s.span.roster a b) := by
  obtain ⟨r, hr, hord, hlink⟩ := h
  unfold State.linkLost
  extract_lets l s1
  refine if_neg fun hlost => ?_
  simpa [hord, hlink] using List.all_eq_true.1 hlost.2.2 r hr

/-! ### A roster adopted (R445, R446) -/

theorem State.adoptRoster_span (s : State) (hdr : MsgHdr) (members : List RosterEntry) (lv : Levels) :
    let u := (s.adoptRoster hdr members lv).span
    u.roster = members ∧ u.levels = lv ∧ u.epoch = hdr.epoch ∧ u.masterOrd = hdr.src ∧ u.master = false ∧
      u.state = s.span.state := by
  have hgone (gone : List Nat) : (gone.foldl (fun st m => st.loseMember m) s).span.state = s.span.state :=
    Span.state_of_seat (State.foldl_loseMember_seat gone s)
  unfold State.adoptRoster
  extract_lets gone s1 other _ s2 u
  obtain ⟨held, far, h⟩ := (s2.toEpoch hdr.epoch).afterEpoch_span
  have hu : u = { s2.span with epoch := hdr.epoch, held := held, haspAll := far } := by
    simp only [u, State.reportAll_span, h, State.toEpoch_span]
  rw [hu]
  exact ⟨rfl, rfl, rfl, rfl, rfl, hgone gone⟩

/-! ### The commands of a member's own clock (R447, R448, R462, R527) -/

section Timed

variable {s : State}

theorem exec_heartbeatSend (hruns : s.portsRun = true) (hin : s.inSpan = true) (hdue : s.span.lastBeat + 250000 ≤ s.nowN) :
    exec .heartbeatSend s = .next (
      let t : State := { s with span := { s.span with lastBeat := s.nowN } }
      if s.span.master then t.toAll (.heartbeat ownLevels) else t.sendTo s.span.masterOrd (.heartbeat ownLevels)) := by
  change execHeartbeatSend s = _
  unfold execHeartbeatSend
  exact if_neg (by simp [hruns, hin]; omega)

/-- The members that the master has not heard of for 1.5 ms. -/
def State.silent (s : State) : List Nat :=
  s.others.filter (fun k => decide (NMap.findD 0 k s.span.heard + 1500000 ≤ s.nowN))

theorem exec_memberLossTimeout {m : Nat} (hruns : s.portsRun = true) (hin : s.inSpan = true) (hmaster : s.span.master = true)
    (hreach : s.reachable m = true) (hdue : NMap.findD 0 m s.span.heard + 1500000 ≤ s.nowN) :
    exec (.memberLossTimeout m) s = .next (s.declareLost s.silent) := by
  change execMemberLossTimeout m s = _
  unfold execMemberLossTimeout
  extract_lets silent
  rw [if_neg (by simp [hruns, hin, hmaster, hreach, silent, hdue])]
  rfl

theorem State.mem_silent {m : Nat} (hreach : s.reachable m = true) (hdue : NMap.findD 0 m s.span.heard + 1500000 ≤ s.nowN) :
    m ∈ s.silent := by
  simp only [State.reachable, Bool.and_eq_true, List.any_eq_true, beq_iff_eq] at hreach
  obtain ⟨⟨_, hother⟩, r, hr, hord⟩ := hreach
  have hmem : m ∈ s.span.roster.map (·.ord) := List.mem_map.2 ⟨r, hr, hord⟩
  exact List.mem_filter.2 ⟨List.mem_filter.2 ⟨hmem, hother⟩, decide_eq_true hdue⟩

/-- The ordinals that a member may go on with once it has declared its master lost. -/
def State.withoutMaster (s : State) : List Nat := (s.span.roster.map (·.ord)).filter (· != s.span.masterOrd)

/-- The member that is master once the present one is gone. -/
def State.heir (s : State) : Nat := masterOf (s.span.roster.filter (fun r => r.ord != s.span.masterOrd))

/-- A master declared lost: its heir takes the role, the others wait for it. -/
def State.masterGone (s : State) : State :=
  if s.heir = s.span.ord then s.becomeMaster.declareLost [s.span.masterOrd]
  else
    let s1 := s.loseMember s.span.masterOrd
    { s1 with span := { s1.span with masterOrd := s.heir, masterHeard := s.nowN, stalled := false, replyOwed := false } }

theorem exec_masterLossTimeout (hruns : s.portsRun = true) (hin : s.inSpan = true) (hmember : s.span.master = false)
    (hdue : s.span.masterHeard + 2000000 ≤ s.nowN) : exec .masterLossTimeout s =
      .next (if majority s.span.roster s.withoutMaster = false then s.isolate else s.masterGone) := by
  change execMasterLossTimeout s = _
  unfold execMasterLossTimeout
  rw [if_neg (by simp [hruns, hin, hmember]; omega)]
  exact (apply_ite okay ..).symm

/-- It is on the roster no more, the heir leads, and where this module is the heir it takes the role. -/
theorem State.masterGone_leads (hmaj : majority s.span.roster s.withoutMaster = true) :
    (∀ r ∈ s.masterGone.span.roster, r.ord ≠ s.span.masterOrd) ∧ s.masterGone.span.masterOrd = s.heir ∧
      (s.heir = s.span.ord → s.masterGone.span.master = true) := by
  unfold State.masterGone
  by_cases hheir : s.heir = s.span.ord
  · have hpart : (s.span.roster.map (·.ord)).filter (fun m => !List.contains [s.span.masterOrd] m) = s.withoutMaster := by
      simp [State.withoutMaster, bne, beq_eq_decide]
    obtain ⟨left, hleft, hseat⟩ := State.declareLost_seat (s := s.becomeMaster) (ps := [s.span.masterOrd])
      ((congrArg (majority s.span.roster) hpart).trans hmaj)
    rw [if_pos hheir, Span.roster_of_seat hseat, Span.masterOrd_of_seat hseat, Span.master_of_seat hseat]
    exact ⟨fun r hr => by simpa using hleft r hr, hheir.symm, fun _ => rfl⟩
  · rw [if_neg hheir]
    refine ⟨fun r hr => ?_, rfl, fun h => absurd h hheir⟩
    simp only [State.loseMember_roster] at hr
    simpa using (List.mem_filter.1 hr).2

/-- A module that leaves and whose shared work is over, as its last part in the span. -/
structure Leaves (s : State) : Prop where
  runs    : s.portsRun = true
  leaving : s.span.state = .leaving
  unsent  : s.span.leaveSent = false
  alone   : s.sharedLaunch = false
  stored  : s.windowStores = false

theorem exec_leaveDrained_last (h : Leaves s) (hlast : s.others = []) : exec .leaveDrained s = .next s.leftSpan := by
  change execLeaveDrained s = _
  unfold execLeaveDrained
  rw [if_neg (by simp [h.runs, h.leaving, h.unsent, h.alone, h.stored]), if_pos (by simp [hlast])]

/-- The member that a leaving module sends its LEAVE to. -/
def State.leaveHeir (s : State) : Nat :=
  if s.span.master then masterOf (s.span.roster.filter (fun r => r.ord != s.span.ord)) else s.span.masterOrd

theorem exec_leaveDrained_leave (h : Leaves s) (hothers : s.others ≠ []) : exec .leaveDrained s =
    .next { s.sendTo s.leaveHeir .leave with span := { s.span with
      leaveSent := true, master := false, masterOrd := s.leaveHeir, masterHeard := s.nowN } } := by
  change execLeaveDrained s = _
  unfold execLeaveDrained
  rw [if_neg (by simp [h.runs, h.leaving, h.unsent, h.alone, h.stored]), if_neg (by simp [hothers])]
  simp only [State.sendTo_span]
  rfl

theorem exec_levelCommitStart (hruns : s.portsRun = true) (hin : s.inSpan = true) (hmaster : s.span.master = true)
    (hprep : s.span.prep = none) (hraised : s.raisedLevels ≠ s.span.levels) :
    exec .levelCommitStart s = .next (s.startCommit s.raisedLevels).drained := by
  change execLevelCommitStart s = _
  unfold execLevelCommitStart
  rw [if_neg (by simp [hruns, hin, hmaster, hprep, hraised])]

/-- A commit that another member still has to answer stays under way, whether or not the master itself has. -/
theorem State.drained_startCommit_span (hmaster : s.span.master = true) (hother : ∃ r ∈ s.span.roster, r.ord ≠ s.span.ord)
    (lv : Levels) : ∃ replied owed, (s.startCommit lv).drained.span = { s.span with
      prep := some (lv, replied), stalled := true, replyOwed := owed } := by
  have hspan := s.startCommit_span lv
  by_cases hbusy : (s.startCommit lv).windowBusy = true
  · exact ⟨[], true, by rw [State.drained_busy hbusy, hspan]⟩
  · refine ⟨addNew s.span.ord [], false, ?_⟩
    rw [State.drained_master (lv := lv) (replied := []) (by rw [hspan]) (by simpa using hbusy) (by rw [hspan, hmaster])
      (by rw [hspan]) (by rw [hspan]; simpa [addNew] using hother), State.countedSelf, hspan]
    rfl

end Timed

/-! ### Messages of members (R349, R445, R446) -/

section Messages

variable {s : State} {hdr : MsgHdr} {members : List RosterEntry} {lv : Levels}

theorem State.inSpan_cases (h : s.inSpan = true) : s.span.state = .member ∨ s.span.state = .leaving := by
  simpa [State.inSpan] using h

/-- A roster that names this module is adopted, by a member and by one that leaves. -/
theorem exec_roster_adopts (h : Arrives s hdr (.roster members lv))
    (hme : members.find? (fun r => r.moduleId == s.sec.ident.moduleId) ≠ none) : exec (.roster hdr members lv) s =
      .next ((s.tookFlits hdr (.roster members lv)).adoptRoster hdr members lv) := by
  obtain ⟨e, he⟩ := Option.ne_none_iff_exists'.mp hme
  have hcurrent := h.stale_eq
  have hstate : (s.tookFlits hdr (.roster members lv)).span.state = s.span.state := rfl
  have hfind : members.find? (fun r => r.moduleId == (s.tookFlits hdr (.roster members lv)).sec.ident.moduleId) = some e :=
    he
  change execRoster hdr members lv s = _
  rw [execRoster, h.receive_eq]
  rcases State.inSpan_cases h.inSpan with hin | hin <;>
    simp only [hstate, hin, hfind, hcurrent, Bool.false_eq_true, if_false, Option.getD_some]

/-- A member that the roster leaves out serves the span no longer. -/
theorem exec_roster_isolates (h : Arrives s hdr (.roster members lv))
    (hme : members.find? (fun r => r.moduleId == s.sec.ident.moduleId) = none) (hmember : s.span.state = .member) :
    exec (.roster hdr members lv) s = .next (s.tookFlits hdr (.roster members lv)).isolate := by
  have hcurrent := h.stale_eq
  have hstate : (s.tookFlits hdr (.roster members lv)).span.state = .member := hmember
  have hfind : members.find? (fun r => r.moduleId == (s.tookFlits hdr (.roster members lv)).sec.ident.moduleId) = none := hme
  change execRoster hdr members lv s = _
  rw [execRoster, h.receive_eq]
  simp only [hstate, hfind, hcurrent, Bool.false_eq_true, if_false, Option.getD_some]

/-- The state in which the master has heard of a member. -/
def State.heardFrom (s : State) (src : Nat) (lv : Levels) : State :=
  { s with span := { s.span with
    heard := NMap.ins src s.nowN s.span.heard, memLevels := NMap.ins src lv s.span.memLevels } }

/-- The master hears of a member. -/
theorem exec_heartbeat_master (h : Arrives s hdr (.heartbeat lv)) (hmaster : s.span.master = true)
    (hnow : newer hdr.epoch s.span.epoch = false) :
    exec (.heartbeat hdr lv) s = .next ((s.tookFlits hdr (.heartbeat lv)).heardFrom hdr.src lv) :=
  congrArg okay ((h.control_eq _).trans ((if_pos hmaster).trans (if_neg (ne_true_of_eq_false hnow))))

/-- The state of a master that takes a survivor's epoch for its own. -/
def State.atEpoch (s : State) (e : BitVec 32) : State := { s with span := { s.span with epoch := e } }

/-- A master that a survivor's epoch has overtaken publishes its roster under the next one. -/
theorem exec_heartbeat_overtaken (h : Arrives s hdr (.heartbeat lv)) (hmaster : s.span.master = true)
    (hnewer : newer hdr.epoch s.span.epoch = true) : exec (.heartbeat hdr lv) s =
      .next ((((s.tookFlits hdr (.heartbeat lv)).heardFrom hdr.src lv).atEpoch hdr.epoch).publish s.span.roster) :=
  congrArg okay ((h.control_eq _).trans ((if_pos hmaster).trans (if_pos hnewer)))

/-- A member hears of its master. -/
theorem exec_heartbeat_member (h : Arrives s hdr (.heartbeat lv)) (hmember : s.span.master = false)
    (hsrc : hdr.src = s.span.masterOrd) : exec (.heartbeat hdr lv) s =
      .next { s.tookFlits hdr (.heartbeat lv) with span := { s.span with masterHeard := s.nowN } } :=
  congrArg okay ((h.control_eq _).trans ((if_neg (ne_true_of_eq_false hmember)).trans (if_pos hsrc)))

theorem exec_lost_other {m : Nat} (h : Arrives s hdr (.lost m)) (hreach : s.reachable m = true) :
    exec (.lost hdr m) s = .next ((s.tookFlits hdr (.lost m)).loseMember m) := by
  have hother : m ≠ s.span.ord := by
    simp only [State.reachable, Bool.and_eq_true, bne_iff_ne] at hreach
    exact hreach.1.2
  exact congrArg okay ((h.control_eq _).trans ((if_neg hother).trans (if_pos hreach)))

/-- A member declared lost serves the span no longer. -/
theorem exec_lost_self {m : Nat} (h : Arrives s hdr (.lost m)) (hself : m = s.span.ord) (hmember : s.span.state = .member) :
    exec (.lost hdr m) s = .next (s.tookFlits hdr (.lost m)).isolate := by
  have hstays : (s.tookFlits hdr (.lost m)).span.state ≠ .leaving := by
    change s.span.state ≠ .leaving
    simp [hmember]
  exact congrArg okay ((h.control_eq _).trans ((if_pos hself).trans (if_neg hstays)))

theorem exec_linkdown_member {a b : Nat} (h : Arrives s hdr (.linkdown a b)) (hmember : s.span.master = false) :
    exec (.linkdown hdr a b) s = .next (s.tookFlits hdr (.linkdown a b)) :=
  congrArg okay ((h.control_eq _).trans (if_neg (ne_true_of_eq_false hmember)))

theorem exec_linkdown_master {a b : Nat} (h : Arrives s hdr (.linkdown a b)) (hmaster : s.span.master = true) :
    exec (.linkdown hdr a b) s = .next ((s.tookFlits hdr (.linkdown a b)).linkLost hdr.src b) :=
  congrArg okay ((h.control_eq _).trans (if_pos hmaster))

theorem exec_leave_master (h : Arrives s hdr .leave) (hmaster : s.span.master = true) :
    exec (.leave hdr) s = .next ((s.tookFlits hdr .leave).removeLeaver hdr.src) :=
  congrArg okay ((h.control_eq _).trans (if_pos hmaster))

/-- The master itself leaves: a member that is not its heir follows the heir. -/
theorem exec_leave_member (h : Arrives s hdr .leave) (hmember : s.span.master = false) (hsrc : hdr.src = s.span.masterOrd)
    (hheir : s.heir ≠ s.span.ord) : exec (.leave hdr) s =
      .next { s.tookFlits hdr .leave with span := { s.span with masterOrd := s.heir, masterHeard := s.nowN } } := by
  have hnew : masterOf (s.span.roster.filter (fun r => r.ord != hdr.src)) = s.heir := by rw [hsrc, State.heir]
  refine congrArg okay ((h.control_eq _).trans ((if_neg (ne_true_of_eq_false hmember)).trans ((if_pos hsrc).trans ?_)))
  rw [← hnew] at hheir ⊢
  exact if_neg hheir

/-- The state of a member that a LEVELPREP has stopped from injecting. -/
def State.prepared (s : State) : State := { s with span := { s.span with stalled := true, replyOwed := true } }

theorem exec_levelprep (h : Arrives s hdr (.levelprep lv)) (hsrc : hdr.src = s.span.masterOrd) :
    exec (.levelprep hdr lv) s = .next (s.tookFlits hdr (.levelprep lv)).prepared.drained :=
  congrArg okay ((h.control_eq _).trans (if_pos hsrc))

/-- The state of a master that has counted a member's reply. -/
def State.counted (s : State) (src : Nat) : State :=
  { s with span := { s.span with prep := s.span.prep.map (fun p => (p.1, addNew src p.2)) } }

theorem exec_levelprepReply (h : Arrives s hdr .levelprepReply) :
    exec (.levelprepReply hdr) s = .next ((s.tookFlits hdr .levelprepReply).counted hdr.src).commitLevels :=
  congrArg okay (h.control_eq _)

theorem exec_levelcommit (h : Arrives s hdr (.levelcommit lv)) (hsrc : hdr.src = s.span.masterOrd) :
    exec (.levelcommit hdr lv) s = .next ((({ s.tookFlits hdr (.levelcommit lv) with span := { s.span with
      levels := lv, stalled := false, replyOwed := false } } : State).toEpoch hdr.epoch).afterEpoch) :=
  congrArg okay ((h.control_eq _).trans (if_pos hsrc))

end Messages

/-! ### Hasp messages (R349, R445) -/

section HaspMessages

variable {s : State} {hdr : MsgHdr} {rel : Bool} {line gen : Nat}

/-- A message of a newer epoch is held, where none of its line and kind is. -/
theorem State.haspMessage_newer (hfrom : s.fromMember hdr = true) (hcurrent : s.stale hdr = false)
    (hnewer : newer hdr.epoch s.span.epoch = true)
    (hnone : s.span.held.find? (fun h => h.line == line && h.rel == rel) = none) : s.haspMessage hdr rel line gen =
      { s with span := { s.span with held := s.span.held ++
        [{ line := line, rel := rel, src := hdr.src, gen := gen, epoch := hdr.epoch }] } } := by
  simp [State.haspMessage, hfrom, hcurrent, hnewer, hnone]

/-- One of this epoch is acted on. -/
theorem State.haspMessage_now (hfrom : s.fromMember hdr = true) (hcurrent : s.stale hdr = false)
    (hnow : newer hdr.epoch s.span.epoch = false) : s.haspMessage hdr rel line gen =
      s.haspHeld { line := line, rel := rel, src := hdr.src, gen := gen, epoch := hdr.epoch } := by
  simp [State.haspMessage, hfrom, hcurrent, hnow]

/-- HASPARR and HASPREL that arrive. -/
theorem exec_haspMessage {c : Instr} {b : MsgBody} (hc : exec c s = okay (s.receive hdr b (fun t =>
    some (t.haspMessage hdr rel line gen)))) (h : Arrives s hdr b) :
    exec c s = .next ((s.tookFlits hdr b).haspMessage hdr rel line gen) := by
  rw [hc, h.receive_eq]
  rfl

variable {p : Hasp} {src : Nat}

/-- The master notes an arrival at the generation that the line is at. -/
theorem State.haspArrive_now (hp : NMap.find line s.hasps = some p) (hpart : src ∈ p.modules) :
    s.haspArrive line p.gen src =
      ({ s with hasps := NMap.ins line { p with members := addNew src p.members } s.hasps } : State).haspSettle line 2 := by
  simp [State.haspArrive, hp, hpart]

/-- An arrival at another generation is of no account. -/
theorem State.haspArrive_other (hp : NMap.find line s.hasps = some p) (hgen : gen ≠ p.gen) :
    s.haspArrive line gen src = s := by
  simp [State.haspArrive, hp, hgen]

/-- A member that has reported its arrival takes the release of that generation. -/
theorem State.haspReleased_now (hp : NMap.find line s.hasps = some p) (hsent : p.sent = true) :
    s.haspReleased line p.gen = (s.haspRelease line p).haspSettle line 2 := by
  simp [State.haspReleased, hp, hsent]

theorem State.haspReleased_other (hp : NMap.find line s.hasps = some p) (hgen : gen ≠ p.gen) :
    s.haspReleased line gen = s := by
  simp [State.haspReleased, hp, hgen]

end HaspMessages

/-! ### The statement -/

/-- Settles O53: each command by what it leaves of a member's place in its span, of the epoch and of a commit. Routes (log
96), isolation by a ROSTER or LOST (log 99), all silent members judged at once (log 100) and the hasp messages kept for later
(log 103) are the model's choices. -/
theorem spanMembers : Obligations.SpanMembers := by
  intro s hdr members lv m line gen x beats part heir without
  refine ⟨fun hruns hin => ⟨fun hdue => ?beat,
      fun hmaster hreach hdue => ⟨fun hmaj => ?memberLost, fun hminor => ?memberMinor⟩,
      fun hmember hdue => ⟨fun hminor => ?masterMinor, fun hmaj => ?masterLost⟩,
      fun hleaving hunsent halone hstored => ?leaves, fun hmaster hprep hraised hother => ?starts⟩,
    fun h => ⟨fun hmaster hnow => ?heard, fun hmaster hnewer hprep => ?overtaken, fun hmember hsrc => ?masterHeard⟩,
    fun h => ⟨fun hme => ?adopts, fun hme hmember => ?leftOut⟩,
    fun h => ⟨fun hreach => ?lost, fun hself hmember => ?lostSelf⟩,
    fun h => ⟨fun hmember => ?linkOfMember, fun hmaster hprep hother => ?link⟩,
    fun h => ⟨fun hmaster => ?removes, fun hmember hsrc hheir => ?masterLeaves⟩,
    fun h hsrc hmember => ⟨fun hbusy => ?prepBusy, fun hidle => ?prepIdle⟩,
    fun h replied hprep => ⟨fun hother => ?replyWaits, fun hall hlowers => ?replyLast⟩,
    fun h hsrc => ?commit, fun rel => ?hasp⟩
  case beat => exact exec_heartbeatSend hruns hin hdue
  case memberLost =>
    obtain ⟨left, hleft, hseat⟩ := State.declareLost_seat (ps := s.silent) hmaj
    refine ⟨_, exec_memberLossTimeout hruns hin hmaster hreach hdue, fun r hr hord => ?_⟩
    rw [Span.roster_of_seat hseat] at hr
    exact hleft r hr (hord ▸ State.mem_silent hreach hdue)
  case memberMinor =>
    refine ⟨_, exec_memberLossTimeout hruns hin hmaster hreach hdue, ?_⟩
    rw [State.declareLost_isolates (ps := s.silent) hminor, State.isolate_state]
  case masterMinor =>
    exact ⟨_, (exec_masterLossTimeout hruns hin hmember hdue).trans (congrArg okay (if_pos hminor)), s.isolate_state⟩
  case masterLost =>
    have hexec := (exec_masterLossTimeout hruns hin hmember hdue).trans (congrArg okay (if_neg (ne_false_of_eq_true hmaj)))
    obtain ⟨hgone, hleads, hself⟩ := State.masterGone_leads hmaj
    exact ⟨⟨_, hexec, hgone⟩, _, hexec, hleads, hself⟩
  case leaves =>
    have hl : Leaves s := ⟨hruns, hleaving, hunsent, halone, hstored⟩
    exact ⟨fun hlast hen => ⟨_, exec_leaveDrained_last hl hlast, State.leftSpan_state hen⟩,
      fun hothers => ⟨_, exec_leaveDrained_leave hl hothers, rfl, State.send_outbox .., rfl⟩⟩
  case starts =>
    obtain ⟨replied, owed, hspan⟩ := State.drained_startCommit_span hmaster hother s.raisedLevels
    refine ⟨_, exec_levelCommitStart hruns hin hmaster hprep hraised, ?_⟩
    rw [hspan]
    exact ⟨rfl, rfl, rfl⟩
  case heard => exact exec_heartbeat_master h hmaster hnow
  case overtaken =>
    refine ⟨_, exec_heartbeat_overtaken h hmaster hnewer, ?_⟩
    rw [State.publish_epoch (s := ((s.tookFlits hdr (.heartbeat lv)).heardFrom hdr.src lv).atEpoch hdr.epoch) hprep]
    rfl
  case masterHeard => exact exec_heartbeat_member h hmember hsrc
  case adopts => exact ⟨_, exec_roster_adopts h hme, State.adoptRoster_span ..⟩
  case leftOut => exact ⟨_, exec_roster_isolates h hme hmember, State.isolate_state _⟩
  case lost =>
    refine ⟨_, exec_lost_other h hreach, fun r hr => ?_⟩
    rw [State.loseMember_roster] at hr
    simpa using (List.mem_filter.1 hr).2
  case lostSelf => exact ⟨_, exec_lost_self h hself hmember, State.isolate_state _⟩
  case linkOfMember => exact exec_linkdown_member h hmember
  case link =>
    have hpub := State.linkLost_publishes (s := s.tookFlits hdr (.linkdown m gen)) hother
    refine ⟨_, (exec_linkdown_master h hmaster).trans (congrArg okay hpub), ?_, ?_⟩
    · rw [State.publish_epoch (s := (s.tookFlits hdr (.linkdown m gen)).unlinked hdr.src gen) hprep]
      rfl
    · rw [State.publish_roster]
      rfl
  case removes => exact ⟨_, exec_leave_master h hmaster, State.removeLeaver_roster _ _⟩
  case masterLeaves => exact exec_leave_member h hmember hsrc hheir
  case prepBusy => exact (exec_levelprep h hsrc).trans (congrArg okay (State.drained_busy hbusy))
  case prepIdle => exact (exec_levelprep h hsrc).trans (congrArg okay (State.drained_member rfl hidle hmember))
  case replyWaits =>
    have hcounted : ((s.tookFlits hdr .levelprepReply).counted hdr.src).span.prep = some (lv, addNew hdr.src replied) :=
      congrArg (Option.map _) hprep
    have hwaits : ∃ r ∈ s.span.roster, r.ord ∉ addNew hdr.src replied := by
      obtain ⟨r, hr, hnew, hne⟩ := hother
      exact ⟨r, hr, by simp [mem_addNew, hnew, hne]⟩
    refine (exec_levelprepReply h).trans (congrArg okay ((State.commitLevels_waits hcounted hwaits).trans ?_))
    exact congrArg (fun p => ({ s.tookFlits hdr .levelprepReply with span := { s.span with prep := p } } : State)) hcounted
  case replyLast =>
    have hcounted : ((s.tookFlits hdr .levelprepReply).counted hdr.src).span.prep = some (lv, addNew hdr.src replied) :=
      congrArg (Option.map _) hprep
    have hdone : ∀ r ∈ s.span.roster, r.ord ∈ addNew hdr.src replied := fun r hr => mem_addNew.2 (hall r hr).symm
    obtain ⟨held, far, hspan⟩ := ((s.tookFlits hdr .levelprepReply).counted hdr.src).levelsTaken_span lv
    refine ⟨_, (exec_levelprepReply h).trans (congrArg okay (State.commitLevels_done hcounted hdone hlowers)), ?_⟩
    rw [hspan]
    exact ⟨rfl, rfl, rfl, rfl⟩
  case commit =>
    set t := ({ s.tookFlits hdr (.levelcommit lv) with span := { s.span with
      levels := lv, stalled := false, replyOwed := false } } : State) with ht
    obtain ⟨held, far, hspan⟩ := (t.toEpoch hdr.epoch).afterEpoch_span
    refine ⟨_, exec_levelcommit h hsrc, ?_⟩
    rw [← ht, hspan, State.toEpoch_span]
    exact ⟨rfl, rfl, rfl⟩
  case hasp =>
    intro b c t h
    have hc : exec c s = okay (s.receive hdr b (fun t => some (t.haspMessage hdr rel line gen))) := by cases rel <;> rfl
    have hexec := exec_haspMessage hc h
    refine ⟨fun hnewer hnone => ?later, fun hnow p hp => ?_⟩
    case later => exact hexec.trans (congrArg okay (State.haspMessage_newer h.fromMember_eq h.stale_eq hnewer hnone))
    have hheld := hexec.trans (congrArg okay (State.haspMessage_now h.fromMember_eq h.stale_eq hnow))
    have hpt : NMap.find line t.hasps = some p := hp
    refine ⟨fun hrel hmaster hpart hgen => ?arrives, fun hrel hmaster hgen => ?arrivesLate,
      fun hrel hsrc hsent hgen => ?released, fun hrel hsrc hgen => ?releasedLate⟩
    case arrives =>
      subst hrel hgen
      exact hheld.trans (congrArg okay ((if_pos hmaster).trans (State.haspArrive_now hpt hpart)))
    case arrivesLate =>
      subst hrel
      exact hheld.trans (congrArg okay ((if_pos hmaster).trans (State.haspArrive_other hpt hgen)))
    case released =>
      subst hrel hgen
      exact hheld.trans (congrArg okay ((if_pos hsrc).trans (State.haspReleased_now hpt hsent)))
    case releasedLate =>
      subst hrel
      exact hheld.trans (congrArg okay ((if_pos hsrc).trans (State.haspReleased_other hpt hgen)))

end Sys2Proof.Machine

/-! ### Every step keeps memory canonical

Memory changes in few ways: bytes are written (`Mem.writeN`), a line is poisoned, the regions take force and a new
generation starts empty, the boot region is loaded, or a reset clears all. Every other function of the model leaves
`ms` as it is or hands a canonical memory on. So there is one lemma for each function that yields a state, in the order
of the model: `f_ms` where `ms` stays, `f_wf` where memory stays canonical; each cites the lemmas of the functions it
calls, and `exec_wf` has one case for each command. -/

namespace Sys2Proof.Machine

section MemoryCanonical
set_option Elab.async false

/-! #### Folds, and results that carry a state -/

theorem foldl_wf {β : Type} {f : State → β → State} (hf : ∀ s b, s.ms.mem.wf = true → (f s b).ms.mem.wf = true)
    (l : List β) {s : State} (h : s.ms.mem.wf = true) : (l.foldl f s).ms.mem.wf = true :=
  foldl_keeps (fun st : State => st.ms.mem.wf = true) f hf l s h

theorem foldl_ms {β : Type} {f : State → β → State} (hf : ∀ s b, (f s b).ms = s.ms) (l : List β) (s : State) :
    (l.foldl f s).ms = s.ms :=
  foldl_keeps (fun st : State => st.ms = s.ms) f (fun st b h => (hf st b).trans h) l s rfl

theorem wf_of_ms {s t : State} (h : s.ms.mem.wf = true) (hms : t.ms = s.ms) : t.ms.mem.wf = true := by
  rw [hms]
  exact h

/-- The same for a fold that carries something beside the state. -/
theorem foldl_fst_wf {α β : Type} {f : State × α → β → State × α}
    (hf : ∀ p b, p.1.ms.mem.wf = true → (f p b).1.ms.mem.wf = true) (l : List β) {p : State × α}
    (h : p.1.ms.mem.wf = true) : (l.foldl f p).1.ms.mem.wf = true :=
  foldl_keeps (fun q : State × α => q.1.ms.mem.wf = true) f hf l p h

theorem foldl_fst_ms {α β : Type} {f : State × α → β → State × α} (hf : ∀ p b, (f p b).1.ms = p.1.ms)
    (l : List β) (p : State × α) : (l.foldl f p).1.ms = p.1.ms :=
  foldl_keeps (fun q : State × α => q.1.ms = p.1.ms) f (fun q b h => (hf q b).trans h) l p rfl

/-- The state that a write of a register comes to, done or dropped. -/
def RegW.state : RegW → State
  | .done t => t
  | .drop _ t => t

/-- Every state that the effect of an instruction carries has canonical memory. -/
def Done.Wf : Done → Prop
  | .step t => t.ms.mem.wf = true
  | .jump t _ => t.ms.mem.wf = true
  | .watch t _ => t.ms.mem.wf = true
  | .faulted t _ _ _ _ => t.ms.mem.wf = true
  | .wait t => t.ms.mem.wf = true
  | .fin t => t.ms.mem.wf = true
  | .fault _ _ _ _ => True
  | .page _ _ => True
  | .stall => True

/-- The same for what receiving a relay message comes to. -/
def Recv.Wf : Recv → Prop
  | .waiting t => t.ms.mem.wf = true
  | .nothing t => t.ms.mem.wf = true
  | .got _ t => t.ms.mem.wf = true
  | .stopped t => t.ms.mem.wf = true

/-! #### Ops -/

theorem State.lpPush_wf {s : State} (line : Nat) (h : s.ms.mem.wf = true) : (s.lpPush line).ms.mem.wf = true := by
  grind [State.lpPush]

@[simp] theorem State.callNext_ms (s : State) (line : Nat) : (s.callNext line).ms = s.ms := by
  grind [State.callNext]

@[simp] theorem State.closeTxn_ms (s : State) (line : Nat) : (s.closeTxn line).ms = s.ms := by
  grind [State.closeTxn, State.callNext_ms]

/-! #### Events -/

@[simp] theorem State.msi_ms (s : State) (addr data : Nat) : (s.msi addr data).ms = s.ms := by
  grind [State.msi]

@[simp] theorem State.setAplic_ms (s : State) (dom off v : Nat) : (s.setAplic dom off v).ms = s.ms := rfl

@[simp] theorem State.aplicDeliver_ms (s : State) (n : Nat) : (s.aplicDeliver n).ms = s.ms := by
  grind [State.aplicDeliver, State.msi_ms]

@[simp] theorem State.raiseAplic_ms (s : State) (n : Nat) : (s.raiseAplic n).ms = s.ms := by
  grind [State.raiseAplic, State.aplicDeliver_ms]

theorem State.traceOpen_wf {s : State} (h : s.ms.mem.wf = true) : s.traceOpen.ms.mem.wf = true := by
  grind [State.traceOpen, State.cohWrite_wf]

theorem State.trace_wf {s : State} (type ward ctx core place high : Nat) (h : s.ms.mem.wf = true) :
    (s.trace type ward ctx core place high).ms.mem.wf = true := by
  grind [State.trace, State.traceOpen_wf, State.cohWrite_wf]

theorem State.logEvent_wf {s : State} (type ward ctx core place high : Nat) (h : s.ms.mem.wf = true) :
    (s.logEvent type ward ctx core place high).ms.mem.wf = true := by
  grind [State.logEvent, State.cohWrite_wf, State.trace_wf, State.raiseAplic_ms]

theorem State.keeperEvent_wf {s : State} (code info : Nat) (h : s.ms.mem.wf = true) :
    (s.keeperEvent code info).ms.mem.wf = true := by
  grind [State.keeperEvent, State.logEvent_wf]

theorem State.debugEvent_wf {s : State} (g : Site) (causes n lane brk addr : Nat) (h : s.ms.mem.wf = true) :
    (s.debugEvent g causes n lane brk addr).ms.mem.wf = true := by
  grind [State.debugEvent, State.logEvent_wf]

@[simp] theorem State.driveAlert_ms (s : State) (old : Nat) : (s.driveAlert old).ms = s.ms := rfl

/-! #### Access -/

@[simp] theorem State.tileView_ms (s : State) (core key : Nat) : (s.tileView core key).ms = s.ms := by
  grind [State.tileView]

@[simp] theorem State.groupView_ms (s : State) (g : Site) : (s.groupView g).ms = s.ms := by
  grind [State.groupView, State.tileView_ms]

@[simp] theorem State.drawStale_ms (s : State) : s.drawStale.ms = s.ms := by
  grind [State.drawStale, State.draw_ms]

@[simp] theorem State.noteIoFault_ms (s : State) (ctx detail va : Nat) : (s.noteIoFault ctx detail va).ms = s.ms := by
  grind [State.noteIoFault]

theorem State.sramWrite_wf {s : State} (die addr : Nat) (bytes : List Byte) (h : s.ms.mem.wf = true) :
    (s.sramWrite die addr bytes).ms.mem.wf = true := by
  grind [State.sramWrite]

theorem State.stampSram_wf {s : State} (die addr n : Nat) (backing : Option Nat) (h : s.ms.mem.wf = true) :
    (s.stampSram die addr n backing).ms.mem.wf = true := by
  grind [State.stampSram, foldl_wf]

theorem State.targetWrite_wf {s : State} (t : Target) (tag : Nat) (bytes : List Byte) (h : s.ms.mem.wf = true) :
    (s.targetWrite t tag bytes).ms.mem.wf = true := by
  cases t with
  | cache pa => exact State.cohWrite_wf _ _ _ _ h
  | uncached pa => exact foldl_wf (fun st lm hst => State.memAccept_wf _ _ _ _ _ hst) _ h
  | share die a back =>
    have h1 := State.stampSram_wf die a bytes.length back (State.sramWrite_wf die a bytes h)
    cases back with
    | none => exact h1
    | some pa => exact State.cohWrite_wf _ _ _ _ h1
  | window p pa c => exact h
  | mmio pa => exact h

@[simp] theorem State.sawPage_ms (s : State) (ctx va : Nat) : (s.sawPage ctx va).ms = s.ms := rfl

theorem State.feWriteBytes_wf {s : State} (ctx tag va : Nat) (bytes : List Byte) (h : s.ms.mem.wf = true) :
    (s.feWriteBytes ctx tag va bytes).ms.mem.wf = true := by
  induction bytes generalizing s va with
  | nil => exact h
  | cons b bs ih => grind [State.feWriteBytes, State.targetWrite_wf]

theorem State.feWrite_wf {s t : State} (ctx tag va : Nat) (bytes : List Byte) (h : s.ms.mem.wf = true)
    (ht : s.feWrite ctx tag va bytes = .ok t) : t.ms.mem.wf = true := by
  grind [State.feWrite, State.feWriteBytes_wf]

@[simp] theorem State.pageRequest_ms (s : State) (ctx va : Nat) : (s.pageRequest ctx va).ms = s.ms := by
  grind [State.pageRequest, State.countCtx_ms]

/-! #### Faults -/

theorem State.syncCtx_wf {s : State} (n : Nat) (h : s.ms.mem.wf = true) : (s.syncCtx n).ms.mem.wf = true := by
  grind [State.syncCtx, State.cohWrite_wf]

theorem State.setSlot_wf {s : State} (i : Nat) (x : Slot) (h : s.ms.mem.wf = true) :
    (s.setSlot i x).ms.mem.wf = true := by
  grind [State.setSlot, State.cohWrite_wf]

theorem State.syncSlotOf_wf {s : State} (ctx : Nat) (h : s.ms.mem.wf = true) : (s.syncSlotOf ctx).ms.mem.wf = true := by
  grind [State.syncSlotOf, State.setSlot_wf]

theorem State.tryFault_wf {s t : State} (ctx tag rcd : Nat) (h : s.ms.mem.wf = true)
    (ht : s.tryFault ctx tag rcd = .ok t) : t.ms.mem.wf = true := by
  grind [State.tryFault, State.feWrite_wf]

theorem State.writeFault_wf {s : State} (ctx tag rcd : Nat) (h : s.ms.mem.wf = true) :
    (s.writeFault ctx tag rcd).ms.mem.wf = true := by
  grind [State.writeFault, State.updCtx_ms, State.tryFault_wf, State.pageRequest_ms, State.sawPage_ms]

theorem State.settleFaults_wf {s : State} (ctx : Nat) (h : s.ms.mem.wf = true) :
    (s.settleFaults ctx).ms.mem.wf = true := by
  grind [State.settleFaults, State.writeFault_wf, State.updCtx_ms, foldl_wf]

@[simp] theorem State.orphanStore_ms (s : State) (core : Nat) (t : Tile) (va : Nat) (tg : Target) (bs : List Byte) :
    (s.orphanStore core t va tg bs).ms = s.ms := rfl

theorem State.putStatus_wf {s : State} (core : Nat) (t : Tile) (va : Nat) (tg : Target) (bs : List Byte)
    (h : s.ms.mem.wf = true) : (s.putStatus core t va tg bs).ms.mem.wf = true := by
  cases tg <;> grind [State.putStatus, State.translated_ms, State.orphanStore_ms, State.targetWrite_wf]

theorem State.writeStatus_wf {s : State} (core key : Nat) (t : Tile) (sp : Spindle) (state cause desc addr : Nat)
    (h : s.ms.mem.wf = true) : (s.writeStatus core key t sp state cause desc addr).ms.mem.wf = true := by
  grind [State.writeStatus, State.putStatus_wf]

theorem State.stopSpindles_wf {s : State} (core key : Nat) (t : Tile) (but : List Nat) (h : s.ms.mem.wf = true) :
    (s.stopSpindles core key t but).ms.mem.wf = true := by
  grind [State.stopSpindles, State.writeStatus_wf, foldl_wf]

theorem State.excEntry_wf {s : State} (r : ExcRec) (core key entry : Nat) (h : s.ms.mem.wf = true) :
    (s.excEntry r core key entry).1.ms.mem.wf = true := by
  grind [State.excEntry, State.cohWrite_wf, State.cohPut_wf]

theorem State.excursionTile_wf {s : State} (core key : Nat) (t : Tile) (mismatch : Bool) (h : s.ms.mem.wf = true) :
    (s.excursionTile core key t mismatch).ms.mem.wf = true := by
  unfold State.excursionTile
  extract_lets l entry
  exact foldl_fst_wf (f := fun (p : State × List ExcRec) r =>
    ((p.1.excEntry r core key entry).1, p.2 ++ [(p.1.excEntry r core key entry).2]))
    (fun p r hp => State.excEntry_wf r core key entry hp) s.power.recs (p := (s, [])) h

theorem State.tileGone_wf {s : State} (core key : Nat) (why : Option StopWhy) (h : s.ms.mem.wf = true) :
    (s.tileGone core key why).ms.mem.wf = true := by
  grind [State.tileGone, State.excursionTile_wf, State.trace_wf, State.updCtx_ms, State.updLaunch_ms,
    State.updCore_ms, State.syncSlotOf_wf, foldl_wf]

theorem State.releaseHalted_wf {s : State} (core key reason : Nat) (h : s.ms.mem.wf = true) :
    (s.releaseHalted core key reason).ms.mem.wf = true := by
  grind [State.releaseHalted, State.debugEvent_wf, foldl_wf]

theorem State.stopTile_wf {s : State} (core key : Nat) (why : StopWhy) (butSpindle : List Nat)
    (h : s.ms.mem.wf = true) : (s.stopTile core key why butSpindle).ms.mem.wf = true := by
  grind [State.stopTile, State.releaseHalted_wf, State.stopSpindles_wf, State.tileGone_wf]

theorem State.stopCtxTiles_wf {s : State} (ctx : Nat) (h : s.ms.mem.wf = true) :
    (s.stopCtxTiles ctx).ms.mem.wf = true := by
  grind [State.stopCtxTiles, State.stopTile_wf, foldl_wf]

@[simp] theorem State.haltLaunches_ms (s : State) (ctx : Nat) (named : Option Nat) :
    (s.haltLaunches ctx named).ms = s.ms := rfl

@[simp] theorem State.dropRingWaits_ms (s : State) (ctx : Nat) : (s.dropRingWaits ctx).ms = s.ms := rfl

theorem State.faultContext_wf {s : State} (ctx : Nat) (launch : Option Nat) (rcd : Nat) (h : s.ms.mem.wf = true) :
    (s.faultContext ctx launch rcd).ms.mem.wf = true := by
  grind [State.faultContext, State.writeFault_wf, State.stopCtxTiles_wf, State.updCtx_ms, State.syncCtx_wf,
    State.dropRingWaits_ms, State.haltLaunches_ms]

theorem State.feFault_wf {s : State} (ctx detail va : Nat) (h : s.ms.mem.wf = true) :
    (s.feFault ctx detail va).ms.mem.wf = true := by
  grind [State.feFault, State.faultContext_wf, State.noteIoFault_ms]

theorem State.faultTile_wf {s : State} (core key : Nat) (f : FaultInfo) (group : Nat) (butSpindle : List Nat)
    (h : s.ms.mem.wf = true) : (s.faultTile core key f group butSpindle).ms.mem.wf = true := by
  grind [State.faultTile, State.trace_wf, State.updCore_ms, State.faultContext_wf, State.stopTile_wf]

theorem State.moreFault_wf {s : State} (core : Nat) (t : Tile) (tag : Nat) (f : FaultInfo) (group : Nat)
    (h : s.ms.mem.wf = true) : (s.moreFault core t tag f group).ms.mem.wf = true := by
  grind [State.moreFault, State.writeFault_wf]

theorem State.haltNow_wf {s : State} (g : Site) (causes n lane brk addr : Nat) (h : s.ms.mem.wf = true) :
    (s.haltNow g causes n lane brk addr).ms.mem.wf = true := by
  grind [State.haltNow, State.setGroup_ms, State.updTile_ms, State.debugEvent_wf]

theorem State.halt_wf {s : State} (g : Site) (causes n lane brk addr : Nat) (h : s.ms.mem.wf = true) :
    (s.halt g causes n lane brk addr).ms.mem.wf = true := by
  grind [State.halt, State.updGroup_ms, State.haltNow_wf]

theorem State.takeFault_wf {s : State} (core key : Nat) (f : FaultInfo) (group : Nat) (butSpindle : Option Nat)
    (h : s.ms.mem.wf = true) : (s.takeFault core key f group butSpindle).ms.mem.wf = true := by
  grind [State.takeFault, State.updTile_ms, State.faultTile_wf]

theorem State.raise_wf {s : State} (g : Site) (f : FaultInfo) (h : s.ms.mem.wf = true) :
    (s.raise g f).ms.mem.wf = true := by
  grind [State.raise, State.noteIoFault_ms, State.updGroup_ms, State.halt_wf, State.setGroup_ms, State.faultTile_wf]

/-! #### Issue -/

theorem State.complete_wf {s : State} (g : Site) (next : Option DWord) (watch : (Option (Nat × Nat × Nat)))
    (h : s.ms.mem.wf = true) : (s.complete g next watch).ms.mem.wf = true := by
  grind [State.complete, State.updCore_ms, State.setGroup_ms, State.halt_wf]

theorem State.endWait_wf {s : State} (g : Site) (h : s.ms.mem.wf = true) : (s.endWait g).ms.mem.wf = true := by
  grind [State.endWait, State.setGroup_ms, State.complete_wf]

theorem State.raiseAt_wf {s : State} (g : Site) (x : Group) (f : FaultInfo) (h : s.ms.mem.wf = true) :
    (s.raiseAt g x f).ms.mem.wf = true := by
  grind [State.raiseAt, State.raise_wf]

@[simp] theorem State.waitPage_ms (s : State) (g : Site) (va lane : Nat) (fetch : Bool) :
    (s.waitPage g va lane fetch).ms = s.ms := by
  grind [State.waitPage, State.updGroup_ms, State.pageRequest_ms]

@[simp] theorem State.turn_ms (s : State) (g : Site) : (s.turn g).ms = s.ms := rfl

theorem State.settle_wf {s : State} (g : Site) (x : Group) (pc : DWord) (d : Done) (h : s.ms.mem.wf = true)
    (hd : d.Wf) : (s.settle g x pc d).ms.mem.wf = true := by
  cases d <;> grind [State.settle, Done.Wf, State.complete_wf, State.turn_ms, State.raiseAt_wf, State.raise_wf,
    State.waitPage_ms, State.updGroup_ms]

/-- An instruction keeps memory canonical where its effect does. -/
theorem State.issue_wf {s : State} (g : Site) (e : Enc) (dec : Group → LaneMask → Dec) (ready : Group → Bool)
    {eff : Group → LaneMask → Done} (h : s.ms.mem.wf = true) (heff : ∀ x lanes, (eff x lanes).Wf) :
    (s.issue g e dec ready eff).ms.mem.wf = true := by
  unfold State.issue
  split
  · exact h
  next x hx =>
    have hfault (c d l a : Nat) : (s.settle g x x.pc (.fault c d l a)).ms.mem.wf = true :=
      State.settle_wf g x x.pc _ h trivial
    have heffect := State.settle_wf g x x.pc (eff x (x.guard e)) h (heff x _)
    have hskip : ((s.complete g none).turn g).ms.mem.wf = true := by
      rw [State.turn_ms]; exact State.complete_wf g none none h
    split
    · exact h
    split
    · exact h
    · grind [State.raiseAt_wf, State.waitPage_ms]
    · exact State.raiseAt_wf g x _ h
    split
    · exact State.halt_wf g _ _ _ _ _ h
    extract_lets lanes d
    split
    · split
      · exact hskip
      · exact h
    split
    · split
      · exact hfault _ _ _ _
      · exact h
    · split
      · exact heffect
      · exact h

theorem State.put_wf {s : State} (g : Site) (y : Group) (h : s.ms.mem.wf = true) : (s.put g y).Wf := by
  grind [State.put, Done.Wf, State.setGroup_ms]

theorem State.issueReg_wf {s : State} (g : Site) (e : Enc) (dec : Group → LaneMask → Dec)
    (f : Group → LaneMask → Group) (h : s.ms.mem.wf = true) : (s.issueReg g e dec f).ms.mem.wf = true := by
  grind [Done.Wf, State.issueReg, State.issue_wf, State.put_wf]

/-! #### Integer -/

theorem State.alu2_wf {s : State} (g : Site) (e : Enc) (types subs : List Nat) (f : Word → Word → Word)
    (h : s.ms.mem.wf = true) : (s.alu2 g e types subs f).ms.mem.wf = true := by
  grind [State.alu2, State.issueReg_wf]

theorem State.alu1_wf {s : State} (g : Site) (e : Enc) (f : Word → Word) (h : s.ms.mem.wf = true) :
    (s.alu1 g e f).ms.mem.wf = true := by
  grind [State.alu1, State.issueReg_wf]

theorem State.aluWide_wf {s : State} (g : Site) (e : Enc) (f : Word → Word → Word) (f2 : DWord → DWord → DWord)
    (h : s.ms.mem.wf = true) : (s.aluWide g e f f2).ms.mem.wf = true := by
  grind [State.aluWide, State.issueReg_wf]

theorem execAdd_wf {s t : State} (site : Site) (e : Enc) (h : s.ms.mem.wf = true) (ht : execAdd site e s = .next t) :
    t.ms.mem.wf = true := by
  grind [execAdd, State.aluWide_wf]

theorem execSub_wf {s t : State} (site : Site) (e : Enc) (h : s.ms.mem.wf = true) (ht : execSub site e s = .next t) :
    t.ms.mem.wf = true := by
  grind [execSub, State.aluWide_wf]

theorem execMul_wf {s t : State} (site : Site) (e : Enc) (h : s.ms.mem.wf = true) (ht : execMul site e s = .next t) :
    t.ms.mem.wf = true := by
  grind [execMul, State.alu2_wf]

theorem execMuladd_wf {s t : State} (site : Site) (e : Enc) (h : s.ms.mem.wf = true)
    (ht : execMuladd site e s = .next t) : t.ms.mem.wf = true := by
  grind [execMuladd, State.issueReg_wf]

theorem execAnd_wf {s t : State} (site : Site) (e : Enc) (h : s.ms.mem.wf = true) (ht : execAnd site e s = .next t) :
    t.ms.mem.wf = true := by
  grind [execAnd, State.alu2_wf]

theorem execOr_wf {s t : State} (site : Site) (e : Enc) (h : s.ms.mem.wf = true) (ht : execOr site e s = .next t) :
    t.ms.mem.wf = true := by
  grind [execOr, State.alu2_wf]

theorem execXor_wf {s t : State} (site : Site) (e : Enc) (h : s.ms.mem.wf = true) (ht : execXor site e s = .next t) :
    t.ms.mem.wf = true := by
  grind [execXor, State.alu2_wf]

theorem execNot_wf {s t : State} (site : Site) (e : Enc) (h : s.ms.mem.wf = true) (ht : execNot site e s = .next t) :
    t.ms.mem.wf = true := by
  grind [execNot, State.alu1_wf]

theorem execShiftl_wf {s t : State} (site : Site) (e : Enc) (h : s.ms.mem.wf = true)
    (ht : execShiftl site e s = .next t) : t.ms.mem.wf = true := by
  grind [execShiftl, State.alu2_wf]

theorem execShiftr_wf {s t : State} (site : Site) (e : Enc) (h : s.ms.mem.wf = true)
    (ht : execShiftr site e s = .next t) : t.ms.mem.wf = true := by
  grind [execShiftr, State.alu2_wf]

theorem execMin_wf {s t : State} (site : Site) (e : Enc) (h : s.ms.mem.wf = true) (ht : execMin site e s = .next t) :
    t.ms.mem.wf = true := by
  grind [execMin, State.alu2_wf]

theorem execMax_wf {s t : State} (site : Site) (e : Enc) (h : s.ms.mem.wf = true) (ht : execMax site e s = .next t) :
    t.ms.mem.wf = true := by
  grind [execMax, State.alu2_wf]

theorem execCmp_wf {s t : State} (site : Site) (e : Enc) (h : s.ms.mem.wf = true) (ht : execCmp site e s = .next t) :
    t.ms.mem.wf = true := by
  grind [execCmp, State.issueReg_wf]

theorem execBitcnt_wf {s t : State} (site : Site) (e : Enc) (h : s.ms.mem.wf = true)
    (ht : execBitcnt site e s = .next t) : t.ms.mem.wf = true := by
  grind [execBitcnt, State.alu1_wf]

theorem execLeadz_wf {s t : State} (site : Site) (e : Enc) (h : s.ms.mem.wf = true)
    (ht : execLeadz site e s = .next t) : t.ms.mem.wf = true := by
  grind [execLeadz, State.alu1_wf]

theorem execBitrev_wf {s t : State} (site : Site) (e : Enc) (h : s.ms.mem.wf = true)
    (ht : execBitrev site e s = .next t) : t.ms.mem.wf = true := by
  grind [execBitrev, State.alu1_wf]

theorem execBytesel_wf {s t : State} (site : Site) (e : Enc) (h : s.ms.mem.wf = true)
    (ht : execBytesel site e s = .next t) : t.ms.mem.wf = true := by
  grind [execBytesel, State.issueReg_wf]

theorem execMov_wf {s t : State} (site : Site) (e : Enc) (h : s.ms.mem.wf = true) (ht : execMov site e s = .next t) :
    t.ms.mem.wf = true := by
  grind [execMov, State.issueReg_wf]

theorem execPick_wf {s t : State} (site : Site) (e : Enc) (h : s.ms.mem.wf = true)
    (ht : execPick site e s = .next t) : t.ms.mem.wf = true := by
  grind [execPick, State.issueReg_wf]

theorem State.aluI_wf {s : State} (g : Site) (e : Enc) (types : List Nat) (immBits : Nat) (f : Word → Word)
    (h : s.ms.mem.wf = true) : (s.aluI g e types immBits f).ms.mem.wf = true := by
  grind [State.aluI, State.issueReg_wf]

theorem execAddI_wf {s t : State} (site : Site) (e : Enc) (h : s.ms.mem.wf = true)
    (ht : execAddI site e s = .next t) : t.ms.mem.wf = true := by
  grind [execAddI, State.issueReg_wf]

theorem execAndI_wf {s t : State} (site : Site) (e : Enc) (h : s.ms.mem.wf = true)
    (ht : execAndI site e s = .next t) : t.ms.mem.wf = true := by
  grind [execAndI, State.aluI_wf]

theorem execOrI_wf {s t : State} (site : Site) (e : Enc) (h : s.ms.mem.wf = true) (ht : execOrI site e s = .next t) :
    t.ms.mem.wf = true := by
  grind [execOrI, State.aluI_wf]

theorem execXorI_wf {s t : State} (site : Site) (e : Enc) (h : s.ms.mem.wf = true)
    (ht : execXorI site e s = .next t) : t.ms.mem.wf = true := by
  grind [execXorI, State.aluI_wf]

theorem execShiftlI_wf {s t : State} (site : Site) (e : Enc) (h : s.ms.mem.wf = true)
    (ht : execShiftlI site e s = .next t) : t.ms.mem.wf = true := by
  grind [execShiftlI, State.aluI_wf]

theorem execShiftrI_wf {s t : State} (site : Site) (e : Enc) (h : s.ms.mem.wf = true)
    (ht : execShiftrI site e s = .next t) : t.ms.mem.wf = true := by
  grind [execShiftrI, State.aluI_wf]

theorem execCmpI_wf {s t : State} (site : Site) (e : Enc) (h : s.ms.mem.wf = true)
    (ht : execCmpI site e s = .next t) : t.ms.mem.wf = true := by
  grind [execCmpI, State.issueReg_wf]

theorem execMovI_wf {s t : State} (site : Site) (e : Enc) (h : s.ms.mem.wf = true)
    (ht : execMovI site e s = .next t) : t.ms.mem.wf = true := by
  grind [execMovI, State.issueReg_wf]

theorem execLxch_wf {s t : State} (site : Site) (e : Enc) (h : s.ms.mem.wf = true)
    (ht : execLxch site e s = .next t) : t.ms.mem.wf = true := by
  grind [execLxch, State.issueReg_wf]

theorem execLquery_wf {s t : State} (site : Site) (e : Enc) (h : s.ms.mem.wf = true)
    (ht : execLquery site e s = .next t) : t.ms.mem.wf = true := by
  grind [execLquery, State.issueReg_wf]

/-! #### Memory -/

theorem State.checkLanes_wf {s : State} (ctx width : Nat) (k : AccKind) (lanes : List (Nat × Nat)) {d : Done}
    (hd : s.checkLanes ctx width k lanes = .error d) : d.Wf := by
  grind [State.checkLanes, Done.Wf]

@[simp] theorem State.backTo_ms (s : State) (g : Site) (x : Group) (order : Nat) : (s.backTo g x order).ms = s.ms := rfl

@[simp] theorem State.l1Put_ms (s : State) (core key : Nat) (bytes : List Byte) :
    (s.l1Put core key bytes).ms = s.ms := by
  grind [State.l1Put, State.updCore_ms, State.draw_ms]

@[simp] theorem State.l1Fill_ms (s : State) (core : Nat) (l : PendLoad) : (s.l1Fill core l).ms = s.ms := by
  grind [State.l1Fill, State.l1Put_ms, foldl_ms]

@[simp] theorem State.sendReads_ms (s : State) (g : Site) (l : PendLoad) : (s.sendReads g l).1.ms = s.ms := by
  unfold State.sendReads
  refine foldl_fst_ms (fun p a => ?_) _ _
  grind [State.newTx_ms, State.sendTo_ms]

@[simp] theorem State.holdLines_ms (s : State) (core : Nat) (lanes : List LaneAcc) :
    (s.holdLines core lanes).ms = s.ms := by
  grind [State.holdLines, State.setCache_ms, foldl_ms]

theorem State.loadPerform_wf {s : State} (g : Site) (h : s.ms.mem.wf = true) : (s.loadPerform g).ms.mem.wf = true := by
  grind [State.loadPerform, State.sendReads_ms, State.updGroup_ms, State.raise_wf, State.backTo_ms,
    State.setGroup_ms, State.l1Fill_ms, State.holdLines_ms, State.draw_ms, foldl_wf]

theorem execLoadPerform_wf {s t : State} (site : Site) (h : s.ms.mem.wf = true)
    (ht : execLoadPerform site s = .next t) : t.ms.mem.wf = true := by
  grind [execLoadPerform, State.loadPerform_wf]

theorem execLd_wf {s t : State} (site : Site) (mode : AddrMode) (e : Enc) (h : s.ms.mem.wf = true)
    (ht : execLd site mode e s = .next t) : t.ms.mem.wf = true := by
  grind [Done.Wf, execLd, State.issue_wf, State.checkLanes_wf, State.groupView_ms, State.setGroup_ms,
    State.translated_ms]

theorem State.putStores_wf {s : State} (g : Site) (x : Group) (vas : List Nat) (es : List SbEntry)
    (w : Option (Nat × Nat × Nat)) (h : s.ms.mem.wf = true) : (s.putStores g x vas es w).Wf := by
  grind [State.putStores, Done.Wf, State.setGroup_ms, State.translated_ms]

theorem execSt_wf {s t : State} (site : Site) (mode : AddrMode) (e : Enc) (h : s.ms.mem.wf = true)
    (ht : execSt site mode e s = .next t) : t.ms.mem.wf = true := by
  grind [Done.Wf, execSt, State.issue_wf, State.checkLanes_wf, State.groupView_ms, State.putStores_wf]

theorem execZline_wf {s t : State} (site : Site) (mode : AddrMode) (e : Enc) (h : s.ms.mem.wf = true)
    (ht : execZline site mode e s = .next t) : t.ms.mem.wf = true := by
  grind [Done.Wf, execZline, State.issue_wf, State.checkLanes_wf, State.groupView_ms, State.putStores_wf]

@[simp] theorem State.l1Store_ms (s : State) (core : Nat) (e : SbEntry) : (s.l1Store core e).ms = s.ms := by
  grind [State.l1Store, State.l1Put_ms, State.updCore_ms]

@[simp] theorem State.mmioWrite_ms (s : State) (pa : Nat) (bytes : List Byte) : (s.mmioWrite pa bytes).ms = s.ms := by
  grind [State.mmioWrite, State.msi_ms]

theorem State.shareStore_wf {s : State} (die a : Nat) (back : Option Nat) (bytes : NMap Byte)
    (h : s.ms.mem.wf = true) : (s.shareStore die a back bytes).ms.mem.wf = true := by
  grind [State.shareStore, State.stampSram_wf, State.sramWrite_wf, foldl_wf]

theorem State.acceptNow_wf {s t : State} (core : Nat) (e : SbEntry) (h : s.ms.mem.wf = true)
    (ht : s.acceptNow core e = some t) : t.ms.mem.wf = true := by
  grind [State.acceptNow, State.cohWriteLine_wf, State.l1Store_ms, State.killResv_ms, State.setCache_ms,
    State.lpPush_wf, State.memAccept_wf, State.shareStore_wf, State.mmioWrite_ms, foldl_wf]

theorem State.acceptStore_wf {s t : State} (core : Nat) (e : SbEntry) (h : s.ms.mem.wf = true)
    (ht : s.acceptStore core e = some t) : t.ms.mem.wf = true := by
  grind [State.acceptStore, State.acceptNow_wf]

theorem State.acceptFree_wf {s t : State} (core : Nat) (e : SbEntry) (h : s.ms.mem.wf = true)
    (ht : s.acceptFree core e = some t) : t.ms.mem.wf = true := by
  grind [State.acceptFree, State.acceptStore_wf]

@[simp] theorem State.sendStore_ms (s : State) (ward : Nat) (e : SbEntry) : (s.sendStore ward e).1.ms = s.ms := by
  unfold State.sendStore
  split
  · refine foldl_fst_ms (fun p r => ?_) _ _
    grind [State.newTx_ms, State.sendTo_ms]
  · rfl

@[simp] theorem State.dropUndelivered_ms (s : State) (g : Site) (idx : Nat) (e : SbEntry) :
    (s.dropUndelivered g idx e).ms = s.ms := by
  grind [State.dropUndelivered, State.countCtx_ms, State.setGroup_ms, State.updCore_ms]

theorem State.storeVisible_wf {s : State} (g : Site) (idx : Nat) (h : s.ms.mem.wf = true) :
    (s.storeVisible g idx).ms.mem.wf = true := by
  have hsend (ward : Nat) (e : SbEntry) : (s.sendStore ward e).1.ms.mem.wf = true := by simpa using h
  have haccept (e : SbEntry) (t : State) (ht : s.acceptFree g.core e = some t) := State.acceptFree_wf g.core e h ht
  unfold State.storeVisible
  cases s.group? g with
  | some x => grind [State.dropUndelivered_ms, State.updGroup_ms]
  | none => grind [State.dropUndelivered_ms, State.updCore_ms, State.updLaunch_ms]

theorem execStoreVisible_wf {s t : State} (site : Site) (idx : Nat) (h : s.ms.mem.wf = true)
    (ht : execStoreVisible site idx s = .next t) : t.ms.mem.wf = true := by
  grind [execStoreVisible, State.storeVisible_wf]

/-! #### Reads -/

@[simp] theorem State.askLine_ms (s : State) (core owner line : Nat) : (s.askLine core owner line).ms = s.ms := rfl

@[simp] theorem State.bulkAsk_ms (s : State) (core owner : Nat) (ts : List Target) :
    (s.bulkAsk core owner ts).ms = s.ms := by
  grind [State.bulkAsk, State.askLine_ms, State.updCore_ms, State.newTx_ms, State.sendTo_ms, foldl_ms]

@[simp] theorem State.icachePut_ms (s : State) (core key : Nat) : (s.icachePut core key).ms = s.ms := by
  grind [State.icachePut, State.updCore_ms, State.draw_ms]

theorem execInstructionFetchFill_wf {s t : State} (site : Site) (h : s.ms.mem.wf = true)
    (ht : execInstructionFetchFill site s = .next t) : t.ms.mem.wf = true := by
  grind [execInstructionFetchFill, State.groupView_ms, State.bulkAsk_ms, State.raise_wf, State.updCore_ms,
    State.icachePut_ms, State.translated_ms]

/-! #### Hasp -/

theorem State.haspRelease_wf {s : State} (line : Nat) (x : Hasp) (h : s.ms.mem.wf = true) :
    (s.haspRelease line x).ms.mem.wf = true := by
  grind [State.haspRelease, State.endWait_wf, foldl_wf]

theorem State.haspSettle_wf {s : State} (line fuel : Nat) (h : s.ms.mem.wf = true) :
    (s.haspSettle line fuel).ms.mem.wf = true := by
  induction fuel generalizing s with
  | zero => exact h
  | succ fuel ih => grind [State.haspSettle, State.haspRelease_wf, State.sendTo_ms, foldl_wf]

theorem State.haspSettleAll_wf {s : State} (h : s.ms.mem.wf = true) : s.haspSettleAll.ms.mem.wf = true := by
  grind [State.haspSettleAll, State.haspSettle_wf, foldl_wf]

/-! #### Recovery -/

@[simp] theorem State.countCoreMismatch_ms (s : State) (core : Nat) (again : Bool) :
    (s.countCoreMismatch core again).ms = s.ms := rfl

theorem State.mismatch_wf {s : State} (core key : Nat) (h : s.ms.mem.wf = true) :
    (s.mismatch core key).ms.mem.wf = true := by
  grind [State.mismatch, State.trace_wf, State.countModule_ms, State.countCtx_ms, State.countCoreMismatch_ms,
    State.stopTile_wf, State.updLaunch_ms, State.updCore_ms, State.haspSettleAll_wf]

theorem State.commit_wf {s : State} (core key : Nat) (h : s.ms.mem.wf = true) :
    (s.commit core key).2.ms.mem.wf = true := by
  grind [State.commit, State.mismatch_wf, State.updTile_ms]

/-! #### Array -/

theorem State.relaySend_ms {s t : State} (core key : Nat) (dir : Bool) (a : AccSet) (reg : Region)
    (ht : s.relaySend core key dir a reg = some t) : t.ms = s.ms := by
  unfold State.relaySend at ht
  grind [Option.map_eq_some_iff, State.updTile_ms, State.setCore_ms, State.sendTo_ms]

theorem State.relayCommit_wf {s : State} (core key : Nat) (dir : Bool) (h : s.ms.mem.wf = true) :
    (s.relayCommit core key dir).2.ms.mem.wf = true := by
  grind [State.relayCommit, State.commit_wf, State.updTile_ms, State.updCore_ms]

theorem State.relayRecv_wf {s : State} (core key : Nat) (dir : Bool) (h : s.ms.mem.wf = true) :
    (s.relayRecv core key dir).Wf := by
  grind [State.relayRecv, Recv.Wf, State.relayCommit_wf, State.updTile_ms, State.updCore_ms]

@[simp] theorem State.countTile_ms (s : State) (core key i n : Nat) : (s.countTile core key i n).ms = s.ms := by
  grind [State.countTile, State.countCtx_ms]

@[simp] theorem State.countBeats_ms (s : State) (core key n : Nat) : (s.countBeats core key n).ms = s.ms := by
  grind [State.countBeats, State.updCtx_ms]

theorem State.startDrain_wf {s : State} (core key : Nat) (reg : Region) (m : MEntry) (fmt acc rm va coff pitch : Nat)
    (toChuck : Bool) (h : s.ms.mem.wf = true) :
    (s.startDrain core key reg m fmt acc rm va coff pitch toChuck).ms.mem.wf = true := by
  grind [State.startDrain, State.mismatch_wf, State.countTile_ms, State.updTile_ms, State.updCore_ms, foldl_wf]

theorem State.workRelay_wf {s : State} (core key : Nat) (reg : Region) (m : MEntry) (acc : Nat) (role : BitVec 2)
    (dir : Bool) (h : s.ms.mem.wf = true) : (s.workRelay core key reg m acc role dir).ms.mem.wf = true := by
  grind [Recv.Wf, State.workRelay, State.updCore_ms, State.mismatch_wf, State.relaySend_ms, State.relayRecv_wf]

theorem State.arrayStart_wf {s : State} (core : Nat) (h : s.ms.mem.wf = true) :
    (s.arrayStart core).ms.mem.wf = true := by
  grind [State.arrayStart, State.setCore_ms, State.updCore_ms, State.countBeats_ms, State.countTile_ms,
    State.startDrain_wf, State.mismatch_wf, State.workRelay_wf, State.bulkAsk_ms]

theorem execArrayStart_wf {s t : State} (core : Nat) (h : s.ms.mem.wf = true) (ht : execArrayStart core s = .next t) :
    t.ms.mem.wf = true := by
  grind [execArrayStart, State.arrayStart_wf]

theorem State.settleHalt_wf {s : State} (g : Site) (h : s.ms.mem.wf = true) : (s.settleHalt g).ms.mem.wf = true := by
  grind [State.settleHalt, State.haltNow_wf]

@[simp] theorem State.dropRunning_ms (s : State) (core i : Nat) : (s.dropRunning core i).ms = s.ms := rfl

theorem State.matrixFinish_wf {s : State} (core : Nat) (h : s.ms.mem.wf = true) :
    (s.matrixFinish core).ms.mem.wf = true := by
  grind [State.matrixFinish, State.settleHalt_wf, State.updCore_ms, State.dropRunning_ms, State.updGroup_ms,
    State.setGroup_ms]

theorem execMatrixInstructionFinish_wf {s t : State} (core : Nat) (h : s.ms.mem.wf = true)
    (ht : execMatrixInstructionFinish core s = .next t) : t.ms.mem.wf = true := by
  grind [execMatrixInstructionFinish, State.matrixFinish_wf]

theorem execRelaySendResume_wf {s t : State} (core : Nat) (h : s.ms.mem.wf = true)
    (ht : execRelaySendResume core s = .next t) : t.ms.mem.wf = true := by
  grind [execRelaySendResume, State.workRelay_wf, State.dropRunning_ms]

theorem execMloadPoison_wf {s t : State} (core : Nat) (h : s.ms.mem.wf = true)
    (ht : execMloadPoison core s = .next t) : t.ms.mem.wf = true := by
  grind [execMloadPoison, State.takeFault_wf]

/-! #### Atomic -/

@[simp] theorem State.sendAtoms_ms (s : State) (g : Site) (ward : Nat) (rs : List AtomReq) :
    (s.sendAtoms g ward rs).1.ms = s.ms := by
  induction rs generalizing s with
  | nil => rfl
  | cons r rs ih => grind [State.sendAtoms, State.newTx_ms, State.sendTo_ms]

theorem State.committed_wf {s : State} (g : Site) (x : Group) {act : State → Done} (h : s.ms.mem.wf = true)
    (hact : ∀ t, t.ms.mem.wf = true → (act t).Wf) : (s.committed g x act).Wf := by
  grind [State.committed, Done.Wf, State.commit_wf]

theorem execAtom_wf {s t : State} (site : Site) (e : Enc) (h : s.ms.mem.wf = true)
    (ht : execAtom site e s = .next t) : t.ms.mem.wf = true := by
  grind [Done.Wf, execAtom, State.issue_wf, State.checkLanes_wf, State.groupView_ms, State.committed_wf,
    State.sendAtoms_ms, State.translated_ms, State.setGroup_ms]

theorem execLr_wf {s t : State} (site : Site) (e : Enc) (h : s.ms.mem.wf = true) (ht : execLr site e s = .next t) :
    t.ms.mem.wf = true := by
  grind [Done.Wf, execLr, State.issue_wf, State.checkLanes_wf, State.groupView_ms, State.setGroup_ms,
    State.translated_ms]

theorem State.scLane_wf {s : State} (g : Site) (base : AtomReq) (a : LaneAcc) (data : DWord) (h : s.ms.mem.wf = true) :
    (s.scLane g base a data).ms.mem.wf = true := by
  have take (x : Group) (en : SbEntry) (u : State) (hu : (s.setGroup g x).acceptNow g.core en = some u) :
      u.ms.mem.wf = true := State.acceptNow_wf _ _ (by simpa using h) hu
  unfold State.scLane
  split
  · exact h
  · dsimp only
    split
    · simpa using h
    · split
      · simpa using h
      · split
        · simpa using h
        · split <;> simpa using take _ _ _ ‹_›

theorem execSc_wf {s t : State} (site : Site) (e : Enc) (h : s.ms.mem.wf = true) (ht : execSc site e s = .next t) :
    t.ms.mem.wf = true := by
  grind [Done.Wf, execSc, State.issue_wf, State.checkLanes_wf, State.groupView_ms, State.committed_wf,
    State.setGroup_ms, State.translated_ms, State.scLane_wf, foldl_wf]

/-! #### HostCache -/

@[simp] theorem State.hostPoison_ms (s : State) (pa : Nat) (kind : HostKind) : (s.hostPoison pa kind).ms = s.ms := by
  grind [State.hostPoison, State.raiseAplic_ms]

theorem State.hostPiece_ms {s t : State} (q : HostReq) (l : CLine) (pa n : Nat) {bs : List Byte}
    (hp : s.hostPiece q l pa n = some (t, bs)) : t.ms = s.ms := by
  grind [State.hostPiece, State.hostStore_ms, State.updHart_ms]

@[simp] theorem State.hostStep_ms (s : State) (q : HostReq) (ps : List (Nat × Nat)) :
    (s.hostStep q ps).1.ms = s.ms := by
  induction ps generalizing s q with
  | nil => rfl
  | cons p ps ih =>
    obtain ⟨pa, n⟩ := p
    grind [State.hostStep, State.hostGives_ms, State.hostPiece_ms, State.hostPoison_ms]

@[simp] theorem State.hostPerform_ms (s : State) (line : Nat) : (s.hostPerform line).ms = s.ms := by
  grind [State.hostPerform, State.hostStep_ms, foldl_ms]

/-! #### Coherence -/

@[simp] theorem State.dropLine_ms (s : State) (stop line : Nat) : (s.dropLine stop line).ms = s.ms := rfl

@[simp] theorem State.sweepTransient_ms (s : State) (stop : Nat) : (s.sweepTransient stop).ms = s.ms := by
  grind [State.sweepTransient, State.evictLine_ms, foldl_ms]

@[simp] theorem State.makeEntry_ms (s : State) (region : Nat) : (s.makeEntry region).ms = s.ms := by
  grind [State.makeEntry, State.countModule_ms]

@[simp] theorem State.setPresence_ms (s : State) (region stop : Nat) (v : Bool) :
    (s.setPresence region stop v).ms = s.ms := rfl

theorem execBackInvalidation_ms {s t : State} (stop region : Nat)
    (ht : execBackInvalidation stop region s = .next t) : t.ms = s.ms := by
  grind [execBackInvalidation, State.evictLine_ms, foldl_ms]

@[simp] theorem State.openTxn_ms (s : State) (stop line : Nat) (kind : CohKind) (way : Nat) (ticket : Nat) :
    (s.openTxn stop line kind way ticket).ms = s.ms := by
  grind [State.openTxn, State.makeEntry_ms]

@[simp] theorem State.homeRequest_ms (s : State) (stop line : Nat) (kind : CohKind) (way : Nat) (ticket : Nat) :
    (s.homeRequest stop line kind way ticket).ms = s.ms := by
  grind [State.homeRequest, State.openTxn_ms, State.callNext_ms]

@[simp] theorem State.llcMiss_ms (s : State) (stop line : Nat) (kind : CohKind) (way : Nat) :
    (s.llcMiss stop line kind way).ms = s.ms := by
  grind [State.llcMiss, State.homeRequest_ms, State.evictLine_ms]

theorem execCoherentRequest_ms {s t : State} (stop line : Nat) (kind : CohKind) (way : Nat)
    (ht : execCoherentRequest stop line kind way s = .next t) : t.ms = s.ms := by
  grind [execCoherentRequest, State.sweepTransient_ms, State.homeRequest_ms, State.dropLine_ms, State.llcMiss_ms]

theorem execVictimAccept_ms {s t : State} (die line : Nat) (ht : execVictimAccept die line s = .next t) :
    t.ms = s.ms := by
  grind [execVictimAccept, State.homeRequest_ms]

theorem execProceed_ms {s t : State} (line : Nat) (ht : execProceed line s = .next t) : t.ms = s.ms := by
  grind [execProceed, State.openTxn_ms]

@[simp] theorem State.answer_ms (s : State) (stop line : Nat) (kind : CohKind) :
    (s.answer stop line kind).ms = s.ms := by
  grind [State.answer, State.draw_ms, State.setCache_ms, State.dropLine_ms, State.updTxn_ms]

theorem execSnoop_ms {s t : State} (stop line : Nat) (ht : execSnoop stop line s = .next t) : t.ms = s.ms := by
  grind [execSnoop, State.updTxn_ms, State.answer_ms]

theorem execSnoopAnswerDelayExpiry_ms {s t : State} (stop line : Nat)
    (ht : execSnoopAnswerDelayExpiry stop line s = .next t) : t.ms = s.ms := by
  grind [execSnoopAnswerDelayExpiry, State.setCache_ms, State.answer_ms]

theorem execSnoopResponse_ms {s t : State} (stop line : Nat) (ht : execSnoopResponse stop line s = .next t) :
    t.ms = s.ms := by
  grind [execSnoopResponse, State.updTxn_ms, State.setPresence_ms]

theorem State.memError_wf {s : State} (line : Nat) (h : s.ms.mem.wf = true) : (s.memError line).ms.mem.wf = true := by
  grind [State.memError, State.countModule_ms, State.keeperEvent_wf, Mem.wf_setPoison]

theorem State.memCorrected_wf {s : State} (line : Nat) (h : s.ms.mem.wf = true) :
    (s.memCorrected line).ms.mem.wf = true := by
  grind [State.memCorrected, State.countModule_ms]

theorem execMemoryReadReturn_wf {s t : State} (line : Nat) (ecc : EccError) (h : s.ms.mem.wf = true)
    (ht : execMemoryReadReturn line ecc s = .next t) : t.ms.mem.wf = true := by
  cases ecc <;> grind [execMemoryReadReturn, State.memCorrected_wf, State.memError_wf, State.updTxn_ms]

theorem State.bindLoads_wf {s : State} (g : Site) (line : Nat) (h : s.ms.mem.wf = true) :
    (s.bindLoads g line).ms.mem.wf = true := by
  grind [State.bindLoads, State.loadPerform_wf, State.setGroup_ms]

theorem State.storeLine_wf {s : State} (g : Site) (line : Nat) (zline : Bool) (h : s.ms.mem.wf = true) :
    (s.storeLine g line zline).ms.mem.wf = true := by
  grind [State.storeLine, State.storeVisible_wf]

theorem State.performLine_wf {s : State} (stop line : Nat) (zline : Bool) (h : s.ms.mem.wf = true) :
    (s.performLine stop line zline).ms.mem.wf = true := by
  grind [State.performLine, State.storeLine_wf, State.storeVisible_wf, State.bindLoads_wf, State.askLine_ms, foldl_wf]

theorem execLineGrant_wf {s t : State} (stop line : Nat) (h : s.ms.mem.wf = true)
    (ht : execLineGrant stop line s = .next t) : t.ms.mem.wf = true := by
  grind [execLineGrant, State.makeEntry_ms, State.setCache_ms, State.hostPerform_ms, State.performLine_wf,
    State.updTxn_ms]

theorem execDone_ms {s t : State} (line : Nat) (ht : execDone line s = .next t) : t.ms = s.ms := by
  grind [execDone, State.closeTxn_ms, State.setPresence_ms]

theorem execWriteAccept_wf {s t : State} (sel : WriteSel) (h : s.ms.mem.wf = true)
    (ht : execWriteAccept sel s = .next t) : t.ms.mem.wf = true := by
  cases sel <;> grind [execWriteAccept, State.memAccept_wf, State.lpPush_wf, State.victimDone_ms, State.acceptSent_wf,
    State.evictLine_ms]

theorem execPatrolScrub_wf {s t : State} (device : Nat) (corrected bad : List Nat) (h : s.ms.mem.wf = true)
    (ht : execPatrolScrub device corrected bad s = .next t) : t.ms.mem.wf = true := by
  grind [execPatrolScrub, State.memCorrected_wf, State.memError_wf, foldl_wf]

theorem State.sramError_wf {s : State} (die a : Nat) (h : s.ms.mem.wf = true) :
    (s.sramError die a).ms.mem.wf = true := by
  grind [State.sramError, State.keeperEvent_wf, State.countModule_ms, State.evictLine_ms, State.setCache_ms,
    State.dropLine_ms, State.sramWrite_wf]

theorem execSramScrub_wf {s t : State} (die corrected : Nat) (bad : List Nat) (h : s.ms.mem.wf = true)
    (ht : execSramScrub die corrected bad s = .next t) : t.ms.mem.wf = true := by
  grind [execSramScrub, State.countModule_ms, State.sramError_wf, foldl_wf]

/-! #### Timebase -/

theorem State.drainFifos_wf {s : State} (h : s.ms.mem.wf = true) : s.drainFifos.ms.mem.wf = true := by
  grind [State.drainFifos]

theorem State.tick_wf {s : State} (h : s.ms.mem.wf = true) : s.tick.ms.mem.wf = true := by
  grind [State.tick, State.drainFifos_wf]

@[simp] theorem State.seeTime_ms (s : State) (place : Nat) : (s.seeTime place).ms = s.ms := rfl

theorem execTbPpsEdge_ms {s t : State} (ht : execTbPpsEdge s = .next t) : t.ms = s.ms := by
  grind [execTbPpsEdge]

theorem execTbRefLost_wf {s t : State} (h : s.ms.mem.wf = true) (ht : execTbRefLost s = .next t) :
    t.ms.mem.wf = true := by
  grind [execTbRefLost, State.keeperEvent_wf]

theorem execTbRefReturn_ms {s t : State} (ht : execTbRefReturn s = .next t) : t.ms = s.ms := by
  grind [execTbRefReturn]

/-! #### Rings -/

theorem State.feStore_wf {s : State} (ctx tag va : Nat) (bytes : List Byte) (h : s.ms.mem.wf = true) :
    (s.feStore ctx tag va bytes).ms.mem.wf = true := by
  grind [State.feStore, State.feWrite_wf]

theorem State.ringStore_wf {s : State} (id : RingId) (tag a : Nat) (bytes : List Byte) (h : s.ms.mem.wf = true) :
    (s.ringStore id tag a bytes).ms.mem.wf = true := by
  cases id with
  | admin => exact State.cohWrite_wf s tag a bytes h
  | ring c r => exact State.feStore_wf c tag a bytes h

theorem State.syncRing_wf {s : State} (id : RingId) (h : s.ms.mem.wf = true) : (s.syncRing id).ms.mem.wf = true := by
  grind [State.syncRing, State.ringStore_wf]

@[simp] theorem State.ringPage_ms (s : State) (id : RingId) (va : Nat) : (s.ringPage id va).ms = s.ms := by
  grind [State.ringPage, State.updRing_ms, State.pageRequest_ms]

theorem State.ringMiss_wf {s : State} (id : RingId) (k : Chk Unit) (h : s.ms.mem.wf = true) :
    (s.ringMiss id k).ms.mem.wf = true := by
  cases k <;> grind [State.ringMiss, State.ringPage_ms, State.sawPage_ms, State.feFault_wf]

theorem State.putHandle_wf {s : State} (ctx i e : Nat) (h : s.ms.mem.wf = true) :
    (s.putHandle ctx i e).ms.mem.wf = true := by
  grind [State.putHandle, State.feStore_wf]

theorem State.movePin_wf {s : State} (ctx i : Nat) (up : Bool) (h : s.ms.mem.wf = true) :
    (s.movePin ctx i up).ms.mem.wf = true := by
  grind [State.movePin, State.putHandle_wf, State.updCtx_ms, State.pageRequest_ms, State.sawPage_ms, State.feFault_wf]

theorem State.pin_wf {s : State} (ctx i : Nat) (h : s.ms.mem.wf = true) : (s.pin ctx i).ms.mem.wf = true := by
  grind [State.pin, State.movePin_wf]

theorem State.unpin_wf {s : State} (ctx i : Nat) (h : s.ms.mem.wf = true) : (s.unpin ctx i).ms.mem.wf = true := by
  grind [State.unpin, State.movePin_wf]

theorem State.settlePins_wf {s : State} (ctx : Nat) (h : s.ms.mem.wf = true) : (s.settlePins ctx).ms.mem.wf = true := by
  grind [State.settlePins, State.movePin_wf, State.updCtx_ms, foldl_wf]

theorem State.writeCounters_wf {s : State} (ctx : Nat) (h : s.ms.mem.wf = true) :
    (s.writeCounters ctx).ms.mem.wf = true := by
  grind [State.writeCounters, State.cohWrite_wf]

@[simp] theorem State.ringMsi_ms (s : State) (id : RingId) (r : Ring) : (s.ringMsi id r).ms = s.ms := by
  cases id <;> grind [State.ringMsi, State.msi_ms]

theorem State.postEntry_wf {s : State} (id : RingId) (m : Cmd) (kind status detail : Nat) (flags : BitVec 5) (info : Nat)
    (msi : Bool) (h : s.ms.mem.wf = true) :
    (s.postEntry id m kind status detail flags info msi).ms.mem.wf = true := by
  cases id <;> grind [State.postEntry, State.writeCounters_wf, State.ringStore_wf, State.updRing_ms, State.ringMsi_ms,
    State.syncRing_wf]

theorem State.postOverrun_wf {s : State} (id : RingId) (m : Cmd) (index : Nat) (h : s.ms.mem.wf = true) :
    (s.postOverrun id m index).ms.mem.wf = true := by
  unfold State.postOverrun
  split
  · exact h
  · dsimp only
    split
    · simpa using h
    · split
      · simpa using h
      · split
        · exact State.postEntry_wf _ _ _ _ _ _ _ _ h
        · simpa using h
        · exact State.ringMiss_wf _ _ h

theorem State.settleOverruns_wf {s : State} (id : RingId) (h : s.ms.mem.wf = true) :
    (s.settleOverruns id).ms.mem.wf = true := by
  grind [State.settleOverruns, State.postOverrun_wf, State.updRing_ms, foldl_wf]

/-! #### Control -/

theorem State.diverge_wf {s : State} (g : Site) (x : Group) (lanes : LaneMask) (rpc : DWord)
    (paths : List (DWord × LaneMask)) (h : s.ms.mem.wf = true) : (s.diverge g x lanes rpc paths).Wf := by
  cases paths <;> grind [State.diverge, Done.Wf, State.setGroup_ms]

theorem execBra_wf {s t : State} (site : Site) (e : Enc) (h : s.ms.mem.wf = true) (ht : execBra site e s = .next t) :
    t.ms.mem.wf = true := by
  grind [Done.Wf, execBra, State.issue_wf, State.diverge_wf]

theorem execBrx_wf {s t : State} (site : Site) (e : Enc) (h : s.ms.mem.wf = true) (ht : execBrx site e s = .next t) :
    t.ms.mem.wf = true := by
  grind [Done.Wf, execBrx, State.issue_wf, State.diverge_wf, foldl_wf]

theorem execCall_wf {s t : State} (site : Site) (e : Enc) (h : s.ms.mem.wf = true)
    (ht : execCall site e s = .next t) : t.ms.mem.wf = true := by
  grind [Done.Wf, execCall, State.issue_wf, State.setGroup_ms]

theorem execRet_wf {s t : State} (site : Site) (e : Enc) (h : s.ms.mem.wf = true) (ht : execRet site e s = .next t) :
    t.ms.mem.wf = true := by
  grind [Done.Wf, execRet, State.issue_wf]

theorem execNop_wf {s t : State} (site : Site) (e : Enc) (h : s.ms.mem.wf = true) (ht : execNop site e s = .next t) :
    t.ms.mem.wf = true := by
  grind [Done.Wf, execNop, State.issue_wf]

theorem execUop_wf {s t : State} (site : Site) (e : Enc) (h : s.ms.mem.wf = true) (ht : execUop site e s = .next t) :
    t.ms.mem.wf = true := by
  grind [execUop, State.issueReg_wf]

theorem execUopI_wf {s t : State} (site : Site) (e : Enc) (h : s.ms.mem.wf = true)
    (ht : execUopI site e s = .next t) : t.ms.mem.wf = true := by
  grind [execUopI, State.issueReg_wf]

theorem execUcmp_wf {s t : State} (site : Site) (e : Enc) (h : s.ms.mem.wf = true)
    (ht : execUcmp site e s = .next t) : t.ms.mem.wf = true := by
  grind [execUcmp, State.issueReg_wf]

theorem execUcmpI_wf {s t : State} (site : Site) (e : Enc) (h : s.ms.mem.wf = true)
    (ht : execUcmpI site e s = .next t) : t.ms.mem.wf = true := by
  grind [execUcmpI, State.issueReg_wf]

@[simp] theorem State.srRead_ms (s : State) (g : Site) (x : Group) (name : Nat) : (s.srRead g x name).ms = s.ms := by
  grind [State.srRead, State.seeTime_ms, State.updTile_ms]

theorem execSread_wf {s t : State} (site : Site) (e : Enc) (h : s.ms.mem.wf = true)
    (ht : execSread site e s = .next t) : t.ms.mem.wf = true := by
  grind [Done.Wf, execSread, State.issue_wf, State.put_wf, State.srRead_ms]

theorem execSwrite_wf {s t : State} (site : Site) (e : Enc) (h : s.ms.mem.wf = true)
    (ht : execSwrite site e s = .next t) : t.ms.mem.wf = true := by
  grind [execSwrite, State.issueReg_wf]

theorem execBrk_wf {s t : State} (site : Site) (e : Enc) (h : s.ms.mem.wf = true) (ht : execBrk site e s = .next t) :
    t.ms.mem.wf = true := by
  grind [Done.Wf, execBrk, State.issue_wf, State.halt_wf, State.setGroup_ms]

/-! #### Matrix -/

theorem State.issueMatrix_wf {s : State} (g : Site) (e : Enc) (dec : Group → LaneMask → Dec) (ready : Group → Bool)
    {eff : Group → LaneMask → Done} (h : s.ms.mem.wf = true) (heff : ∀ x lanes, (eff x lanes).Wf) :
    (s.issueMatrix g e dec ready eff).ms.mem.wf = true := by
  grind [State.issueMatrix, Done.Wf, State.issue_wf]

@[simp] theorem State.enqueue_ms (s : State) (g : Site) (x : Group) (lanes : LaneMask) (i : MInstr) :
    (s.enqueue g x lanes i).ms = s.ms := rfl

theorem State.extent_wf {s : State} (g : Site) (k : AccKind) (lane : Nat) (rows : List (Nat × Nat)) {d : Done}
    (hd : s.extent g k lane rows = .error d) : d.Wf := by
  grind [State.extent, State.checkLanes_wf]

theorem execMshape_wf {s t : State} (site : Site) (e : Enc) (h : s.ms.mem.wf = true)
    (ht : execMshape site e s = .next t) : t.ms.mem.wf = true := by
  grind [Done.Wf, execMshape, State.issueMatrix_wf, State.put_wf]

theorem execMopen_wf {s t : State} (site : Site) (e : Enc) (h : s.ms.mem.wf = true)
    (ht : execMopen site e s = .next t) : t.ms.mem.wf = true := by
  grind [Done.Wf, execMopen, State.issueMatrix_wf, State.updCore_ms]

theorem execMclose_wf {s t : State} (site : Site) (e : Enc) (h : s.ms.mem.wf = true)
    (ht : execMclose site e s = .next t) : t.ms.mem.wf = true := by
  grind [Done.Wf, execMclose, State.issueMatrix_wf, State.updCore_ms, State.enqueue_ms]

theorem execMload_wf {s t : State} (site : Site) (e : Enc) (h : s.ms.mem.wf = true)
    (ht : execMload site e s = .next t) : t.ms.mem.wf = true := by
  grind [Done.Wf, execMload, State.issueMatrix_wf, State.extent_wf, State.enqueue_ms, State.translated_ms]

theorem execMstat_wf {s t : State} (site : Site) (e : Enc) (h : s.ms.mem.wf = true)
    (ht : execMstat site e s = .next t) : t.ms.mem.wf = true := by
  grind [Done.Wf, execMstat, State.issueMatrix_wf, State.enqueue_ms]

theorem execMma_wf {s t : State} (site : Site) (e : Enc) (h : s.ms.mem.wf = true) (ht : execMma site e s = .next t) :
    t.ms.mem.wf = true := by
  grind [Done.Wf, execMma, State.issueMatrix_wf, State.enqueue_ms]

theorem execMdrain_wf {s t : State} (site : Site) (e : Enc) (h : s.ms.mem.wf = true)
    (ht : execMdrain site e s = .next t) : t.ms.mem.wf = true := by
  grind [Done.Wf, execMdrain, State.issueMatrix_wf, State.enqueue_ms, State.extent_wf, State.translated_ms]

theorem execMrelay_wf {s t : State} (site : Site) (e : Enc) (h : s.ms.mem.wf = true)
    (ht : execMrelay site e s = .next t) : t.ms.mem.wf = true := by
  grind [Done.Wf, execMrelay, State.issueMatrix_wf, State.relayCommit_wf, State.updTile_ms, State.enqueue_ms]

theorem execMchk_wf {s t : State} (site : Site) (e : Enc) (h : s.ms.mem.wf = true)
    (ht : execMchk site e s = .next t) : t.ms.mem.wf = true := by
  grind [Done.Wf, execMchk, State.issueMatrix_wf, State.enqueue_ms]

/-! #### Tumbler -/

theorem State.endTumWait_wf {s : State} (g : Site) (outcome : Bool) (h : s.ms.mem.wf = true) :
    (s.endTumWait g outcome).ms.mem.wf = true := by
  grind [State.endTumWait, State.endWait_wf, State.updGroup_ms]

@[simp] theorem State.endRingWait_ms (s : State) (r : RingId) (status : Nat) : (s.endRingWait r status).ms = s.ms := by
  grind [State.endRingWait, State.updRing_ms]

theorem State.release_wf {s : State} (src : TumSrc) (h : s.ms.mem.wf = true) : (s.release src).ms.mem.wf = true := by
  cases src <;> grind [State.release, State.endTumWait_wf, State.endRingWait_ms, State.send_ms]

@[simp] theorem State.rearm_ms (s : State) (n : Nat) : (s.rearm n).ms = s.ms := by
  grind [State.rearm, State.setTum_ms]

theorem State.settleTum_wf {s : State} (n : Nat) (next : Bool) (h : s.ms.mem.wf = true) :
    (s.settleTum n next).ms.mem.wf = true := by
  grind [State.settleTum, State.setTum_ms, State.rearm_ms, State.release_wf, foldl_wf]

theorem State.tumOperate_wf {s : State} (src : TumSrc) (n : Nat) (op : TumOp) (h : s.ms.mem.wf = true) :
    (s.tumOperate src n op).ms.mem.wf = true := by
  cases op <;> cases src <;> grind [State.tumOperate, State.release_wf, State.endTumWait_wf, State.send_ms,
    State.setTum_ms, State.settleTum_wf]

theorem State.wakeLocal_wf {s : State} (core tile id : Nat) (h : s.ms.mem.wf = true) :
    (s.wakeLocal core tile id).ms.mem.wf = true := by
  grind [State.wakeLocal, State.endTumWait_wf, State.updCore_ms, foldl_wf]

theorem State.localApply_wf {s : State} (core tile id : Nat) (op : TumOp) (h : s.ms.mem.wf = true) :
    (s.localApply core tile id op).ms.mem.wf = true := by
  grind [State.localApply, State.updTile_ms, State.countCtx_ms, State.wakeLocal_wf]

theorem State.localOperate_wf {s : State} (core : Nat) (o : LocalOp) (h : s.ms.mem.wf = true) :
    (s.localOperate core o).ms.mem.wf = true := by
  grind [State.localOperate, State.endTumWait_wf, State.localApply_wf]

theorem execTumblerOperation_wf {s t : State} (unit : TumUnit) (idx : Nat) (h : s.ms.mem.wf = true)
    (ht : execTumblerOperation unit idx s = .next t) : t.ms.mem.wf = true := by
  cases unit <;> grind [execTumblerOperation, State.tumOperate_wf, State.localOperate_wf, State.updCore_ms]

/-! #### Spindle -/

@[simp] theorem State.spView_ms (s : State) (core : Nat) : (s.spView core).ms = s.ms := by
  grind [State.spView, State.tileView_ms]

@[simp] theorem State.launchFlags_ms (s : State) (t : Tile) (f : FFlags) : (s.launchFlags t f).ms = s.ms := by
  grind [State.launchFlags, State.updLaunch_ms]

theorem State.undefine_wf {s : State} (ctx tag va n : Nat) (h : s.ms.mem.wf = true) :
    (s.undefine ctx tag va n).ms.mem.wf = true := by
  induction n generalizing s va with
  | zero => exact h
  | succ n ih => grind [State.undefine, State.targetWrite_wf]

theorem State.undefineMove_wf {s : State} (ctx key : Nat) (h : s.ms.mem.wf = true) :
    (s.undefineMove ctx key).ms.mem.wf = true := by
  grind [State.undefineMove, State.draw_ms, State.undefine_wf]

theorem State.spFault_wf {s : State} (core n cause addr : Nat) (status : Bool) (h : s.ms.mem.wf = true) :
    (s.spFault core n cause addr status).ms.mem.wf = true := by
  grind [State.spFault, State.setSpindle_ms, State.sawPage_ms, State.updLaunch_ms, State.undefineMove_wf,
    State.stopTile_wf, State.writeStatus_wf, State.takeFault_wf, foldl_wf]

theorem State.spNotYet_wf {s : State} (core n : Nat) (g : SpGot) (h : s.ms.mem.wf = true) :
    (s.spNotYet core n g).ms.mem.wf = true := by
  grind [State.spNotYet, State.updCore_ms, State.pageRequest_ms, State.bulkAsk_ms, State.spFault_wf]

@[simp] theorem State.spFillL1_ms (s : State) (core n ctx va : Nat) : (s.spFillL1 core n ctx va).ms = s.ms := by
  grind [State.spFillL1, State.spView_ms, State.l1Put_ms]

theorem State.spRun_wf {s : State} (core n key : Nat) (t : Tile) (sp : Spindle) (h : s.ms.mem.wf = true) :
    (s.spRun core n key t sp).ms.mem.wf = true := by
  grind [State.spRun, State.spNotYet_wf, State.usedReads_ms, State.setSpindle_ms, State.setCore_ms,
    State.wakeLocal_wf, State.launchFlags_ms, State.countCtx_ms, State.spFault_wf, State.spFillL1_ms, foldl_wf]

theorem State.spStart_wf {s : State} (core n addr : Nat) (t : Tile) (sp : Spindle) (h : s.ms.mem.wf = true) :
    (s.spStart core n addr t sp).ms.mem.wf = true := by
  grind [State.spStart, State.spFault_wf, State.setSpindle_ms, State.usedReads_ms, State.spView_ms, State.spNotYet_wf]

@[simp] theorem State.spStore_ms (s : State) (core : Nat) (t : Tile) (va : Nat) (tg : Target) (bs : List Byte) :
    (s.spStore core t va tg bs).ms = s.ms := by
  grind [State.spStore, State.orphanStore_ms, State.translated_ms]

theorem State.spTileDone_wf {s : State} (core key : Nat) (t : Tile) (h : s.ms.mem.wf = true) :
    (s.spTileDone core key t).ms.mem.wf = true := by
  grind [State.spTileDone, State.updLaunch_ms, State.tileGone_wf]

theorem State.spMove_wf {s : State} (core n key : Nat) (t : Tile) (sp : Spindle) (h : s.ms.mem.wf = true) :
    (s.spMove core n key t sp).ms.mem.wf = true := by
  grind [State.spMove, State.usedReads_ms, State.setSpindle_ms, State.spTileDone_wf, State.spNotYet_wf,
    State.spStore_ms, State.launchFlags_ms, foldl_wf]

theorem State.spTake_wf {s : State} (core n key : Nat) (t : Tile) (sp : Spindle) (h : s.ms.mem.wf = true) :
    (s.spTake core n key t sp).ms.mem.wf = true := by
  grind [State.spTake, State.spStart_wf, State.spRun_wf, State.setSpindle_ms, State.spMove_wf]

theorem State.spLate_wf {s : State} (core n : Nat) (h : s.ms.mem.wf = true) : (s.spLate core n).ms.mem.wf = true := by
  grind [State.spLate, State.updCore_ms, State.spTake_wf, State.moreFault_wf]

theorem execSpindleReadData_wf {s t : State} (core n : Nat) (h : s.ms.mem.wf = true)
    (ht : execSpindleReadData core n s = .next t) : t.ms.mem.wf = true := by
  grind [execSpindleReadData, State.spTake_wf, State.spLate_wf]

theorem execSpindleBufferTake_wf {s t : State} (core n : Nat) (h : s.ms.mem.wf = true)
    (ht : execSpindleBufferTake core n s = .next t) : t.ms.mem.wf = true := by
  grind [execSpindleBufferTake, State.setSpindle_ms, State.localApply_wf]

theorem execSpindleFulltRaise_wf {s t : State} (core n : Nat) (h : s.ms.mem.wf = true)
    (ht : execSpindleFulltRaise core n s = .next t) : t.ms.mem.wf = true := by
  grind [execSpindleFulltRaise, State.setSpindle_ms, State.wakeLocal_wf, State.localApply_wf]

theorem State.spFinish_wf {s : State} (core n : Nat) (h : s.ms.mem.wf = true) :
    (s.spFinish core n).ms.mem.wf = true := by
  grind [State.spFinish, State.localApply_wf, State.setSpindle_ms, State.putStatus_wf, State.pageRequest_ms,
    State.spFault_wf]

theorem execSpindleFinish_wf {s t : State} (core n : Nat) (h : s.ms.mem.wf = true)
    (ht : execSpindleFinish core n s = .next t) : t.ms.mem.wf = true := by
  grind [execSpindleFinish, State.spFinish_wf]

/-! #### Threads -/

theorem State.finishSpindles_wf {s : State} (core : Nat) (h : s.ms.mem.wf = true) :
    (s.finishSpindles core).ms.mem.wf = true := by
  grind [State.finishSpindles, State.spFinish_wf, foldl_wf]

theorem State.tileEnd_wf {s : State} (core key index : Nat) (pc : DWord) (h : s.ms.mem.wf = true) :
    (s.tileEnd core key index pc).ms.mem.wf = true := by
  have spindles (c : Bool) : (if c then s.finishSpindles core else s).ms.mem.wf = true := by
    cases c
    · exact h
    · exact State.finishSpindles_wf _ h
  have lateSpindles {s1 : State} (h1 : s1.ms.mem.wf = true) (t : Tile) (late more : List (Nat × Spindle)) (tag : Nat) :
      (more.foldl (fun st _ => st.moreFault core t tag (spRecord 0) 0)
        ((late.foldl (fun st ns => st.writeStatus core key t ns.2 2 7 ns.2.di 0) s1).faultTile core key (spRecord 0) 0
          (NMap.keys late))).ms.mem.wf = true :=
    foldl_wf (fun _ _ hst => State.moreFault_wf _ _ _ _ _ hst) _ (State.faultTile_wf _ _ _ _ _
      (foldl_wf (fun _ _ hst => State.writeStatus_wf _ _ _ _ _ _ _ _ hst) _ h1))
  unfold State.tileEnd
  split
  · exact h
  · rename_i t0 _
    dsimp only
    have h1 := spindles t0.matrix
    revert h1
    generalize (if t0.matrix then s.finishSpindles core else s) = s1
    intro h1
    split
    · split
      · exact State.moreFault_wf _ _ _ _ _ h1
      · exact h1
    · split
      · split
        · exact State.moreFault_wf _ _ _ _ _ (lateSpindles h1 _ _ _ _)
        · exact lateSpindles h1 _ _ _ _
      · exact State.faultTile_wf _ _ _ _ _ h1
      · exact State.haspSettleAll_wf (by simpa using State.tileGone_wf _ _ _ h1)

theorem State.groupEnd_wf {s : State} (g : Site) (pc : DWord) (h : s.ms.mem.wf = true) :
    (s.groupEnd g pc).ms.mem.wf = true := by
  grind [State.groupEnd, State.updCore_ms, State.updTile_ms, State.updLaunch_ms, State.tileEnd_wf,
    State.haspSettleAll_wf]

theorem execExit_wf {s t : State} (site : Site) (e : Enc) (h : s.ms.mem.wf = true)
    (ht : execExit site e s = .next t) : t.ms.mem.wf = true := by
  grind [Done.Wf, execExit, State.issue_wf, State.groupEnd_wf, State.setGroup_ms, State.put_wf]

@[simp] theorem State.startMerge_ms (s : State) (g h : Site) (x y : Group) : (s.startMerge g h x y).ms = s.ms := rfl

theorem execRepack_wf {s t : State} (site : Site) (e : Enc) (h : s.ms.mem.wf = true)
    (ht : execRepack site e s = .next t) : t.ms.mem.wf = true := by
  grind [Done.Wf, execRepack, State.issue_wf, State.countCtx_ms, State.startMerge_ms, State.setGroup_ms, foldl_wf]

theorem execRepackWaitExpiry_wf {s t : State} (site : Site) (h : s.ms.mem.wf = true)
    (ht : execRepackWaitExpiry site s = .next t) : t.ms.mem.wf = true := by
  grind [execRepackWaitExpiry, State.endWait_wf]

theorem State.takeLate_wf {s : State} (core key : Nat) (h : s.ms.mem.wf = true) :
    (s.takeLate core key).ms.mem.wf = true := by
  grind [State.takeLate, State.moreFault_wf, State.faultTile_wf, foldl_wf]

theorem execMergeComplete_wf {s t : State} (site : Site) (h : s.ms.mem.wf = true)
    (ht : execMergeComplete site s = .next t) : t.ms.mem.wf = true := by
  grind [execMergeComplete, State.endWait_wf, State.groupEnd_wf, State.takeLate_wf]

/-! #### FrontEnd -/

theorem State.fetchOne_wf {s t : State} (id : RingId) (r : Ring) (h : s.ms.mem.wf = true)
    (ht : s.fetchOne id r = .got t) : t.ms.mem.wf = true := by
  have pinned (l : List Nat) : (l.foldl (fun st i => st.pin (ringCtx id) i) s).ms.mem.wf = true :=
    foldl_wf (fun _ _ hst => State.pin_wf _ _ hst) l h
  unfold State.fetchOne at ht
  repeat' split at ht
  any_goals contradiction
  all_goals
    obtain rfl := Fetched.got.inj ht
    exact State.trace_wf _ _ _ _ _ _ (by simpa using pinned _)

theorem State.fetchLoop_wf {s : State} (id : RingId) (fuel : Nat) (h : s.ms.mem.wf = true) :
    (s.fetchLoop id fuel).ms.mem.wf = true := by
  induction fuel generalizing s with
  | zero => exact h
  | succ fuel ih => grind [State.fetchLoop, State.fetchOne_wf, State.ringMiss_wf, State.updRing_ms]

theorem State.fetchMore_wf {s : State} (id : RingId) (h : s.ms.mem.wf = true) : (s.fetchMore id).ms.mem.wf = true := by
  grind [State.fetchMore, State.updRing_ms, State.syncRing_wf, State.fetchLoop_wf]

theorem State.readDoorbell_wf {s : State} (id : RingId) (h : s.ms.mem.wf = true) :
    (s.readDoorbell id).ms.mem.wf = true := by
  unfold State.readDoorbell
  dsimp only
  split
  · exact h
  · split
    · split
      · split <;> exact State.syncRing_wf _ (by simpa using h)
      · exact State.fetchMore_wf _ (by simpa using h)
    · simpa using h
    · simpa using h
    · exact State.ringMiss_wf _ _ h
    · exact h
    · exact State.ringMiss_wf _ _ h

theorem State.resumeRing_wf {s : State} (id : RingId) (h : s.ms.mem.wf = true) :
    (s.resumeRing id).ms.mem.wf = true := by
  grind [State.resumeRing, State.readDoorbell_wf, State.fetchMore_wf]

theorem State.serveOwed_wf {s : State} (h : s.ms.mem.wf = true) : s.serveOwed.ms.mem.wf = true := by
  grind [State.serveOwed, State.resumeRing_wf, foldl_wf]

theorem execDoorbellChange_wf {s t : State} (ring : RingId) (h : s.ms.mem.wf = true)
    (ht : execDoorbellChange ring s = .next t) : t.ms.mem.wf = true := by
  grind [execDoorbellChange, State.updRing_ms, State.readDoorbell_wf]

theorem execDescriptorReread_wf {s t : State} (ring : RingId) (h : s.ms.mem.wf = true)
    (ht : execDescriptorReread ring s = .next t) : t.ms.mem.wf = true := by
  grind [execDescriptorReread, State.readDoorbell_wf, State.fetchMore_wf, State.ringMiss_wf]

@[simp] theorem State.updCmd_ms (s : State) (id : RingId) (count : Nat) (f : Cmd → Cmd) :
    (s.updCmd id count f).ms = s.ms := by
  grind [State.updCmd, State.updRing_ms]

@[simp] theorem State.endCmd_ms (s : State) (id : RingId) (count st det info : Nat) :
    (s.endCmd id count st det info).ms = s.ms := by
  grind [State.endCmd, State.updCmd_ms]

theorem State.onChk_wf {s : State} {α : Type} (id : RingId) (count : Nat) (k : Chk α) {go : α → State}
    (h : s.ms.mem.wf = true) (hgo : ∀ a, k = .ok a → (go a).ms.mem.wf = true) :
    (s.onChk id count k go).ms.mem.wf = true := by
  cases k <;> grind [State.onChk, State.pageRequest_ms, State.sawPage_ms, State.feFault_wf, State.endCmd_ms]

theorem execNopCommand_ms {s t : State} (ring : RingId) (ht : execNopCommand ring s = .next t) : t.ms = s.ms := by
  grind [execNopCommand, State.endCmd_ms]

@[simp] theorem State.startLaunch_ms (s : State) (id : RingId) (m : Cmd) : (s.startLaunch id m).ms = s.ms := by
  grind [State.startLaunch, State.updLaunch_ms, State.sendTo_ms, State.updCmd_ms, foldl_ms]

@[simp] theorem State.startMoves_ms (s : State) (ring : RingId) (op : Nat) : (s.startMoves ring op).ms = s.ms := by
  grind [State.startMoves, State.startLaunch_ms]

theorem execLaunch_ms {s t : State} (ring : RingId) (ht : execLaunch ring s = .next t) : t.ms = s.ms := by
  grind [execLaunch, State.startMoves_ms]

theorem execCopy_ms {s t : State} (ring : RingId) (ht : execCopy ring s = .next t) : t.ms = s.ms := by
  grind [execCopy, State.startMoves_ms]

theorem execConvert_ms {s t : State} (ring : RingId) (ht : execConvert ring s = .next t) : t.ms = s.ms := by
  grind [execConvert, State.startMoves_ms]

theorem execFill_ms {s t : State} (ring : RingId) (ht : execFill ring s = .next t) : t.ms = s.ms := by
  grind [execFill, State.startMoves_ms]

theorem State.finalAll_wf {s : State} (lines : List Nat) (h : s.ms.mem.wf = true) :
    (s.finalAll lines).ms.mem.wf = true := by
  grind [State.finalAll, State.acceptSent_wf, State.memAccept_wf, State.setCache_ms, foldl_wf]

theorem State.completion_wf {s t : State} (m : Cmd) {st det info : Nat} {flags : BitVec 5} (h : s.ms.mem.wf = true)
    (ht : s.completion m = some (st, det, info, flags, t)) : t.ms.mem.wf = true := by
  grind [State.completion, State.finalAll_wf]

theorem State.slotTo_wf {s : State} (n st : Nat) (h : s.ms.mem.wf = true) : (s.slotTo n st).ms.mem.wf = true := by
  grind [State.slotTo, State.updCtx_ms, State.setSlot_wf]

theorem State.startEviction_wf {s : State} (n : Nat) (want : Option Nat) (h : s.ms.mem.wf = true) :
    (s.startEviction n want).ms.mem.wf = true := by
  grind [State.startEviction, State.slotTo_wf, State.syncCtx_wf, State.updCtx_ms]

theorem State.settleOff_wf {s : State} (ctx : Nat) (h : s.ms.mem.wf = true) : (s.settleOff ctx).ms.mem.wf = true := by
  grind [State.settleOff, State.startEviction_wf, State.syncCtx_wf, State.updCtx_ms]

theorem State.dropLaunch_wf {s : State} (k : Nat) (h : s.ms.mem.wf = true) : (s.dropLaunch k).ms.mem.wf = true := by
  grind [State.dropLaunch, State.unpin_wf, foldl_wf]

theorem State.completeCmd_wf {s : State} (ring : RingId) (count : Nat) (force : Bool) (h : s.ms.mem.wf = true) :
    (s.completeCmd ring count force).ms.mem.wf = true := by
  have last (m : Cmd) {u : State} (hu : u.ms.mem.wf = true) :
      (match (match m.launch with | some k => u.dropLaunch k | none => u), ring with
        | a, .admin => a
        | a, .ring c _ => a.settleOff c).ms.mem.wf = true := by
    cases m.launch <;> cases ring <;> simp [State.settleOff_wf, State.dropLaunch_wf, hu]
  have unpinned (m : Cmd) {u : State} (hu : u.ms.mem.wf = true) :
      (m.pins.foldl (fun st i => st.unpin (ringCtx ring) i) u).ms.mem.wf = true :=
    foldl_wf (fun _ _ hst => State.unpin_wf _ _ hst) _ hu
  have lostOr (b : Bool) (k : Chk Unit) {u : State} (hu : u.ms.mem.wf = true) :
      (if b = true then u else u.ringMiss ring k).ms.mem.wf = true := by
    cases b
    · exact State.ringMiss_wf _ _ hu
    · exact hu
  unfold State.completeCmd
  dsimp only
  split
  · exact h
  · split
    · exact h
    · split
      · exact h
      · rename_i m _ _ st det info fl s1 hc
        have h1 : s1.ms.mem.wf = true := State.completion_wf m h hc
        split
        · cases ring <;>
            exact last m (State.trace_wf 6 _ _ _ _ _ (unpinned m (State.postEntry_wf _ m 0 st det fl info _ h1)))
        · simpa using h1
        · cases ring <;> exact last m (unpinned m (u := s1.updRing _ _) (by simpa using h1))
        · cases ring <;> exact last m (lostOr _ _ (unpinned m (u := s1.updRing _ _) (by simpa using h1)))

theorem execCommandCompletion_wf {s t : State} (ring : RingId) (count : Nat) (h : s.ms.mem.wf = true)
    (ht : execCommandCompletion ring count s = .next t) : t.ms.mem.wf = true := by
  grind [execCommandCompletion, State.completeCmd_wf, State.serveOwed_wf, State.fetchMore_wf]

theorem execFrontEndTakeover_wf {s t : State} (h : s.ms.mem.wf = true) (ht : execFrontEndTakeover s = .next t) :
    t.ms.mem.wf = true := by
  grind [execFrontEndTakeover, State.draw_ms, State.msi_ms, State.keeperEvent_wf, foldl_wf]

/-! #### Shares -/

theorem State.putShare_wf {s : State} (ctx slot e : Nat) (h : s.ms.mem.wf = true) :
    (s.putShare ctx slot e).ms.mem.wf = true := by
  grind [State.putShare, State.feStore_wf]

theorem State.copyLine_wf {s : State} (r : ShareRun) (off key : Nat) (h : s.ms.mem.wf = true) :
    (s.copyLine r off key).ms.mem.wf = true := by
  grind [State.copyLine]

theorem State.zeroGranule_wf {s : State} (key : Nat) (h : s.ms.mem.wf = true) :
    (s.zeroGranule key).ms.mem.wf = true := by
  grind [State.zeroGranule]

theorem State.fillGranule_wf {s : State} (r : ShareRun) (i g : Nat) (h : s.ms.mem.wf = true) :
    (s.fillGranule r i g).ms.mem.wf = true := by
  grind [State.fillGranule, State.zeroGranule_wf, State.copyLine_wf, foldl_wf]

theorem State.placeGranule_wf {s : State} (ctx : Nat) (r : ShareRun) (i : Nat) (h : s.ms.mem.wf = true) :
    (s.placeGranule ctx r i).ms.mem.wf = true := by
  grind [State.placeGranule, State.fillGranule_wf, State.updCtx_ms]

theorem State.syncGrans_wf {s : State} (ctx : Nat) (h : s.ms.mem.wf = true) : (s.syncGrans ctx).ms.mem.wf = true := by
  grind [State.syncGrans, State.setSlot_wf]

theorem State.placeRun_wf {s : State} (ctx : Nat) (r : ShareRun) (h : s.ms.mem.wf = true) :
    (s.placeRun ctx r).ms.mem.wf = true := by
  grind [State.placeRun, State.translated_ms, State.updCtx_ms, State.placeGranule_wf, State.syncGrans_wf, foldl_wf]

theorem State.departRun_wf {s : State} (ctx : Nat) (r : ShareRun) (h : s.ms.mem.wf = true) :
    (s.departRun ctx r).ms.mem.wf = true := by
  grind [State.departRun, State.acceptSent_wf, State.syncGrans_wf, State.updCtx_ms, foldl_wf]

theorem State.departAll_wf {s : State} (ctx : Nat) (h : s.ms.mem.wf = true) : (s.departAll ctx).ms.mem.wf = true := by
  grind [State.departAll, State.departRun_wf, foldl_wf]

theorem execShare_wf {s t : State} (ring : RingId) (h : s.ms.mem.wf = true) (ht : execShare ring s = .next t) :
    t.ms.mem.wf = true := by
  grind [execShare, State.onChk_wf, State.putShare_wf, State.placeRun_wf, State.endCmd_ms, foldl_wf]

theorem execShareRelease_wf {s t : State} (ring : RingId) (h : s.ms.mem.wf = true)
    (ht : execShareRelease ring s = .next t) : t.ms.mem.wf = true := by
  grind [execShareRelease, State.onChk_wf, State.departRun_wf, State.putShare_wf, State.endCmd_ms, foldl_wf]

/-! #### Sync -/

@[simp] theorem State.markForeign_ms (s : State) (ctx : Nat) (remote : Bool) (peer n : Nat) :
    (s.markForeign ctx remote peer n).ms = s.ms := by
  grind [State.markForeign, State.sendTo_ms, State.setTum_ms]

theorem State.tumSend_wf {s : State} (g : Site) (x : Group) (lanes : LaneMask) (loc : Bool) (id : Nat) (op : TumOp)
    {post : State → Done} {wait : State → Nat → Done} (h : s.ms.mem.wf = true)
    (hpost : ∀ t, t.ms.mem.wf = true → (post t).Wf) (hwait : ∀ t n, t.ms.mem.wf = true → (wait t n).Wf) :
    (s.tumSend g x lanes loc id op post wait).Wf := by
  cases op <;> grind [State.tumSend, Done.Wf, State.markForeign_ms, State.updCore_ms, State.committed_wf,
    State.newTx_ms, State.sendTo_ms]

theorem execTarrive_wf {s t : State} (site : Site) (e : Enc) (h : s.ms.mem.wf = true)
    (ht : execTarrive site e s = .next t) : t.ms.mem.wf = true := by
  grind [Done.Wf, execTarrive, State.issue_wf, State.tumSend_wf]

theorem execTwait_wf {s t : State} (site : Site) (e : Enc) (h : s.ms.mem.wf = true)
    (ht : execTwait site e s = .next t) : t.ms.mem.wf = true := by
  grind [Done.Wf, execTwait, State.issue_wf, State.tumSend_wf, State.updGroup_ms]

theorem execTtest_wf {s t : State} (site : Site) (e : Enc) (h : s.ms.mem.wf = true)
    (ht : execTtest site e s = .next t) : t.ms.mem.wf = true := by
  grind [Done.Wf, execTtest, State.issue_wf, State.tumSend_wf, State.updGroup_ms]

theorem execTwaitTimeout_wf {s t : State} (site : Site) (h : s.ms.mem.wf = true)
    (ht : execTwaitTimeout site s = .next t) : t.ms.mem.wf = true := by
  grind [execTwaitTimeout, State.updCore_ms, State.endTumWait_wf]

theorem execHasp_wf {s t : State} (site : Site) (e : Enc) (h : s.ms.mem.wf = true)
    (ht : execHasp site e s = .next t) : t.ms.mem.wf = true := by
  grind [Done.Wf, execHasp, State.issue_wf, State.committed_wf, State.updGroup_ms, State.haspSettle_wf]

theorem execFenceOrd_wf {s t : State} (site : Site) (e : Enc) (h : s.ms.mem.wf = true)
    (ht : execFenceOrd site e s = .next t) : t.ms.mem.wf = true := by
  grind [Done.Wf, execFenceOrd, State.issue_wf, State.put_wf]

theorem execFenceDone_wf {s t : State} (site : Site) (e : Enc) (h : s.ms.mem.wf = true)
    (ht : execFenceDone site e s = .next t) : t.ms.mem.wf = true := by
  grind [Done.Wf, execFenceDone, State.issue_wf, State.setGroup_ms]

@[simp] theorem State.dropL1_ms (s : State) (core : Nat) : (s.dropL1 core).ms = s.ms := rfl

theorem State.finalLines_wf {s t : State} (core : Nat) (lines : List Nat) (h : s.ms.mem.wf = true)
    (ht : s.finalLines core lines = some t) : t.ms.mem.wf = true := by
  grind [State.finalLines, State.acceptSent_wf, State.setCache_ms, State.memAccept_wf, foldl_wf]

theorem execFenceComplete_wf {s t : State} (site : Site) (h : s.ms.mem.wf = true) (ht : execFenceComplete site s = .next t) :
    t.ms.mem.wf = true := by
  have dropped (scope : Nat) {u : State} (hu : u.ms.mem.wf = true) :
      (if scope ≥ 2 then u.dropL1 site.core else u).ms.mem.wf = true := by
    split <;> simpa using hu
  unfold execFenceComplete at ht
  split at ht
  · grind
  · rename_i x _
    split at ht
    · grind
    · rename_i f _
      split at ht
      · grind
      · split at ht
        · obtain rfl := Host.Outcome.next.inj ht
          exact dropped _ (by simpa using h)
        · split at ht
          · grind
          · split at ht
            · grind
            · rename_i s1 hs1
              have h1 := State.finalLines_wf _ _ h hs1
              dsimp only at ht
              split at ht
              · obtain rfl := Host.Outcome.next.inj ht
                exact State.raise_wf _ _ (by simpa using dropped f.scope (u := s1.updGroup site _) (by simpa using h1))
              · obtain rfl := Host.Outcome.next.inj ht
                exact State.endWait_wf _ (dropped f.scope (u := s1.updGroup site _) (by simpa using h1))

/-! #### Commands -/

theorem State.onTum_wf {s : State} (id : RingId) (m : Cmd) (i det info : Nat) {go : Option Nat → Nat → State}
    (h : s.ms.mem.wf = true) (hgo : ∀ p n, (go p n).ms.mem.wf = true) :
    (s.onTum id m i det info go).ms.mem.wf = true := by
  grind [State.onTum, State.onChk_wf, State.endCmd_ms, State.markForeign_ms, State.newTx_ms, State.sendTo_ms, State.updCmd_ms]

theorem State.feTum_wf {s : State} (id : RingId) (peer : Option Nat) (n : Nat) (op : TumOp) (tx : Nat)
    (h : s.ms.mem.wf = true) : (s.feTum id peer n op tx).ms.mem.wf = true := by
  cases peer <;> grind [State.feTum, State.tumOperate_wf, State.sendTo_ms]

theorem State.signalFence_wf {s : State} (id : RingId) (m : Cmd) (rcd v : Nat) (peer : Option Nat) (n : Nat)
    (h : s.ms.mem.wf = true) : (s.signalFence id m rcd v peer n).ms.mem.wf = true := by
  grind [State.signalFence, State.feTum_wf, State.feStore_wf]

theorem execSignal_wf {s t : State} (ring : RingId) (h : s.ms.mem.wf = true) (ht : execSignal ring s = .next t) :
    t.ms.mem.wf = true := by
  grind [execSignal, State.onTum_wf, State.endCmd_ms, State.feTum_wf, State.onChk_wf, State.signalFence_wf]

theorem State.armFence_wf {s : State} (id : RingId) (m : Cmd) (peer : Option Nat) (n : Nat) (h : s.ms.mem.wf = true) :
    (s.armFence id m peer n).ms.mem.wf = true := by
  cases peer <;> grind [State.armFence, State.rearm_ms, State.newTx_ms, State.updCmd_ms, State.feTum_wf]

theorem State.waitFence_wf {s : State} (id : RingId) (m : Cmd) (rcd : Nat) (peer : Option Nat) (n : Nat)
    (h : s.ms.mem.wf = true) : (s.waitFence id m rcd peer n).ms.mem.wf = true := by
  grind [State.waitFence, State.endCmd_ms, State.armFence_wf, State.updCmd_ms]

theorem execWait_wf {s t : State} (ring : RingId) (h : s.ms.mem.wf = true) (ht : execWait ring s = .next t) :
    t.ms.mem.wf = true := by
  grind [execWait, State.updCmd_ms, State.onTum_wf, State.rearm_ms, State.feTum_wf, State.newTx_ms, State.onChk_wf,
    State.waitFence_wf]

theorem execFenceWaitReread_wf {s t : State} (ring : RingId) (h : s.ms.mem.wf = true)
    (ht : execFenceWaitReread ring s = .next t) : t.ms.mem.wf = true := by
  unfold execFenceWaitReread at ht
  repeat' split at ht
  all_goals obtain rfl := Host.Outcome.next.inj ht
  any_goals exact h
  exact State.onChk_wf _ _ _ h fun _ _ => State.waitFence_wf _ _ _ _ _ h

@[simp] theorem State.dropWait_ms (s : State) (id : RingId) : (s.dropWait id).ms = s.ms := by
  grind [State.dropWait, State.rearm_ms, foldl_ms]

theorem execWaitTimeout_ms {s t : State} (ring : RingId) (ht : execWaitTimeout ring s = .next t) : t.ms = s.ms := by
  grind [execWaitTimeout, State.endCmd_ms, State.dropWait_ms]

theorem execBind_wf {s t : State} (ring : RingId) (h : s.ms.mem.wf = true) (ht : execBind ring s = .next t) :
    t.ms.mem.wf = true := by
  grind [execBind, State.onChk_wf, State.endCmd_ms, State.putHandle_wf]

theorem execUnbind_wf {s t : State} (ring : RingId) (h : s.ms.mem.wf = true) (ht : execUnbind ring s = .next t) :
    t.ms.mem.wf = true := by
  grind [execUnbind, State.onChk_wf, State.endCmd_ms, State.putHandle_wf]

theorem execQuery_wf {s t : State} (ring : RingId) (h : s.ms.mem.wf = true) (ht : execQuery ring s = .next t) :
    t.ms.mem.wf = true := by
  grind [execQuery, State.onChk_wf, State.feStore_wf, State.endCmd_ms]

theorem execPartition_wf {s t : State} (ring : RingId) (h : s.ms.mem.wf = true)
    (ht : execPartition ring s = .next t) : t.ms.mem.wf = true := by
  grind [execPartition, State.onChk_wf, State.updCmd_ms, foldl_wf]

/-! #### Snapshot -/

theorem execSnapshot_wf {s t : State} (ring : RingId) (h : s.ms.mem.wf = true) (ht : execSnapshot ring s = .next t) :
    t.ms.mem.wf = true := by
  grind [execSnapshot, State.onChk_wf, State.updCmd_ms]

/-- The writes of a snapshot, at any size: comparing the states never unrolls a list of bytes. -/
theorem State.putPieces_wf {s : State} (tag dest len hdr f : Nat) (bytes : List Byte) (pieces : List (Nat × Nat × Nat))
    (h : s.ms.mem.wf = true) :
    ({ (pieces.foldl (fun st p => st.cohPut tag (dest + p.1) p.2.1 p.2.2) (s.cohWrite tag dest bytes)).cohPut
        tag dest len hdr with free := f } : State).ms.mem.wf = true :=
  State.cohPut_wf _ _ _ _ _ (foldl_wf (fun _ _ hst => State.cohPut_wf _ _ _ _ _ hst) _ (State.cohWrite_wf _ _ _ _ h))

theorem State.writeSnapshot_wf {s : State} (tag dest len : Nat) (h : s.ms.mem.wf = true) :
    (s.writeSnapshot tag dest len).ms.mem.wf = true := by
  unfold State.writeSnapshot
  generalize snapBytes = n
  generalize 4096 = m
  exact State.putPieces_wf tag dest m (s.snapHeader len) _ _ _ h

@[simp] theorem State.thaw_ms (s : State) (len : Nat) : (s.thaw len).ms = s.ms := rfl

theorem execSnapshotCapture_wf {s t : State} (h : s.ms.mem.wf = true) (ht : execSnapshotCapture s = .next t) :
    t.ms.mem.wf = true := by
  grind [execSnapshotCapture, State.thaw_ms, State.writeSnapshot_wf, State.endCmd_ms]

/-! #### Placement -/

@[simp] theorem State.wake_ms (s : State) (d : Nat) : (s.wake d).ms = s.ms := by
  grind [State.wake]

@[simp] theorem State.enterCore_ms (s : State) (core ward key : Nat) : (s.enterCore core ward key).ms = s.ms := by
  grind [State.enterCore, State.dropL1_ms, State.updCore_ms]

theorem State.placeTile_wf {s : State} (core key : Nat) (run : Replay) (h : s.ms.mem.wf = true) :
    (s.placeTile core key run).ms.mem.wf = true := by
  grind [State.placeTile, State.draw_ms, State.enterCore_ms, State.updCore_ms, State.trace_wf, State.syncSlotOf_wf,
    foldl_wf]

@[simp] theorem State.sendReports_ms (s : State) (o : Nat) (l : Launch) (done : List (Nat × List Nat)) :
    (s.sendReports o l done).ms = s.ms := by
  cases done <;> grind [State.sendReports, State.sendTo_ms, foldl_ms]

theorem State.reportServed_wf {s : State} (k : Nat) (h : s.ms.mem.wf = true) : (s.reportServed k).ms.mem.wf = true := by
  grind [State.reportServed, State.finalAll_wf, State.sendReports_ms, State.updLaunch_ms, State.dropLaunch_wf]

theorem State.reportAll_wf {s : State} (h : s.ms.mem.wf = true) : s.reportAll.ms.mem.wf = true := by
  grind [State.reportAll, State.reportServed_wf, foldl_wf]

@[simp] theorem State.askTiles_ms (s : State) (core : Nat) : (s.askTiles core).ms = s.ms := by
  grind [State.askTiles, State.sendTo_ms, State.updLaunch_ms, foldl_ms]

theorem State.placeNext_wf {s : State} (core : Nat) (h : s.ms.mem.wf = true) : (s.placeNext core).ms.mem.wf = true := by
  grind [State.placeNext, State.wake_ms, State.updLaunch_ms, State.placeTile_wf, State.updCtx_ms]

theorem execTilePlace_wf {s t : State} (core : Nat) (h : s.ms.mem.wf = true) (ht : execTilePlace core s = .next t) :
    t.ms.mem.wf = true := by
  grind [execTilePlace, State.reportAll_wf, State.placeNext_wf, State.askTiles_ms]

theorem execReplayPlace_wf {s t : State} (launch core : Nat) (h : s.ms.mem.wf = true)
    (ht : execReplayPlace launch core s = .next t) : t.ms.mem.wf = true := by
  grind [execReplayPlace, State.wake_ms, State.updLaunch_ms, State.countCtx_ms, State.placeTile_wf]

theorem execBudgetOverrun_wf {s t : State} (core tile : Nat) (h : s.ms.mem.wf = true)
    (ht : execBudgetOverrun core tile s = .next t) : t.ms.mem.wf = true := by
  grind [execBudgetOverrun, State.updCtx_ms, State.updTile_ms, State.postOverrun_wf]

theorem execBudgetStop_wf {s t : State} (core tile : Nat) (h : s.ms.mem.wf = true)
    (ht : execBudgetStop core tile s = .next t) : t.ms.mem.wf = true := by
  grind [execBudgetStop, State.takeFault_wf, State.moreFault_wf, State.updCore_ms]

/-! #### Retire -/

@[simp] theorem State.setSpareMap_ms (s : State) (die : Nat) (m : SpareMap) : (s.setSpareMap die m).ms = s.ms := rfl

theorem execRetirement_wf {s t : State} (core : Nat) (h : s.ms.mem.wf = true) (ht : execRetirement core s = .next t) :
    t.ms.mem.wf = true := by
  grind [execRetirement, State.updCore_ms, State.setSpareMap_ms, State.keeperEvent_wf, State.countModule_ms]

theorem execRetirementRecord_ms {s t : State} (die : Nat) (ht : execRetirementRecord die s = .next t) :
    t.ms = s.ms := by
  grind [execRetirementRecord]

theorem State.flushLLC_wf {s : State} (stop : Nat) (h : s.ms.mem.wf = true) : (s.flushLLC stop).ms.mem.wf = true := by
  grind [State.flushLLC, State.acceptSent_wf, State.evictLine_ms, foldl_wf]

@[simp] theorem State.dropRetries_ms (s : State) (stop : Nat) : (s.dropRetries stop).ms = s.ms := by
  grind [State.dropRetries, State.callNext_ms, foldl_ms]

theorem State.finishStore_wf {s : State} (core : Nat) (e : SbEntry) (h : s.ms.mem.wf = true) :
    (s.finishStore core e).ms.mem.wf = true := by
  have taken : ((s.acceptNow core e).getD s).ms.mem.wf = true := by
    cases hu : s.acceptNow core e with
    | none => exact h
    | some u => exact State.acceptNow_wf _ _ h hu
  unfold State.finishStore
  split
  · exact State.cohWriteLine_wf _ _ _ _ h
  · exact taken

theorem State.finishOrphans_wf {s : State} (die : Nat) (h : s.ms.mem.wf = true) :
    (s.finishOrphans die).ms.mem.wf = true := by
  grind [State.finishOrphans, State.finishStore_wf, State.updCore_ms, foldl_wf]

@[simp] theorem State.endFenced_ms (s : State) (key index : Nat) : (s.endFenced key index).ms = s.ms := rfl

theorem State.rehome_wf {s : State} (key : Nat) (t : Tile) (h : s.ms.mem.wf = true) :
    (s.rehome key t).ms.mem.wf = true := by
  grind [State.rehome, State.endFenced_ms, State.updLaunch_ms, State.countCtx_ms, State.placeTile_wf]

theorem State.rehomeReplays_wf {s : State} (die key : Nat) (h : s.ms.mem.wf = true) :
    (s.rehomeReplays die key).ms.mem.wf = true := by
  grind [State.rehomeReplays, State.updLaunch_ms, State.endFenced_ms, State.countCtx_ms, State.placeTile_wf, foldl_wf]

@[simp] theorem State.dropHomes_ms (s : State) (die key : Nat) : (s.dropHomes die key).ms = s.ms := by
  grind [State.dropHomes, State.endFenced_ms, State.updLaunch_ms, foldl_ms]

theorem State.moveGranules_wf {s : State} (ctx die : Nat) (r : ShareRun) (h : s.ms.mem.wf = true) :
    (s.moveGranules ctx die r).ms.mem.wf = true := by
  grind [State.moveGranules, State.updCtx_ms, State.placeGranule_wf, foldl_wf]

theorem State.moveShares_wf {s : State} (die : Nat) (h : s.ms.mem.wf = true) : (s.moveShares die).ms.mem.wf = true := by
  grind [State.moveShares, State.syncGrans_wf, State.moveGranules_wf, foldl_wf]

theorem execDieFence_wf {s t : State} (die : Nat) (h : s.ms.mem.wf = true) (ht : execDieFence die s = .next t) :
    t.ms.mem.wf = true := by
  grind [execDieFence, State.setSpareMap_ms, State.stopTile_wf, State.flushLLC_wf, State.dropRetries_ms,
    State.finishOrphans_wf, State.moveShares_wf, State.dropHomes_ms, State.rehomeReplays_wf, State.rehome_wf,
    State.haspSettleAll_wf, State.updCore_ms, State.keeperEvent_wf, State.countModule_ms, foldl_wf]

/-! #### Window -/

@[simp] theorem State.accError_ms (s : State) (req : Requester) (off kind : Nat) (write : Bool) :
    (s.accError req off kind write).ms = s.ms := by
  grind [State.accError, State.countModule_ms]

@[simp] theorem State.cpGive_ms (s : State) (req : Requester) (v : DWord) : (s.cpGive req v).ms = s.ms := rfl

/-- A write access keeps memory canonical where the register's own operation does. -/
theorem State.winWrite_wf {s : State} (req : Requester) (off width : Nat) {op : State → RegW} (h : s.ms.mem.wf = true)
    (hop : ∀ t, t.ms.mem.wf = true → (op t).state.ms.mem.wf = true) : (s.winWrite req off width op).ms.mem.wf = true := by
  have h1 := hop (s.cpTake req off) (by simpa using h)
  grind [State.winWrite, State.accError_ms, State.cpTake_ms, RegW.state]

theorem State.winRead_wf {s : State} (req : Requester) (off width : Nat) {op : State → DWord × State}
    (h : s.ms.mem.wf = true) (hop : ∀ t, t.ms.mem.wf = true → (op t).2.ms.mem.wf = true) :
    (s.winRead req off width op).ms.mem.wf = true := by
  have h1 := hop (s.cpTake req off) (by simpa using h)
  grind [State.winRead, State.accError_ms, State.cpTake_ms, State.cpGive_ms]

/-! #### Residency -/

theorem State.writeFeCtl_wf {s : State} (v : DWord) (h : s.ms.mem.wf = true) :
    (s.writeFeCtl v).state.ms.mem.wf = true := by
  grind [State.writeFeCtl, RegW.state, State.readDoorbell_wf, State.syncRing_wf]

theorem execFeCtlEn_wf {s t : State} (req : Requester) (v : DWord) (h : s.ms.mem.wf = true)
    (ht : execFeCtlEn req v s = .next t) : t.ms.mem.wf = true := by
  grind [RegW.state, execFeCtlEn, State.winWrite_wf, State.writeFeCtl_wf]

theorem State.activate_wf {s : State} (n : Nat) (h : s.ms.mem.wf = true) : (s.activate n).ms.mem.wf = true := by
  grind [State.activate, State.updCtx_ms, State.writeCounters_wf, State.syncCtx_wf, State.readDoorbell_wf,
    State.syncRing_wf, State.sawPage_ms, State.pageRequest_ms, foldl_wf]

theorem State.restart_wf {s : State} (n : Nat) (h : s.ms.mem.wf = true) : (s.restart n).ms.mem.wf = true := by
  grind [State.restart, State.syncCtx_wf, State.updCtx_ms, State.readDoorbell_wf, foldl_wf]

theorem State.writeCtxon_wf {s : State} (v : DWord) (h : s.ms.mem.wf = true) :
    (s.writeCtxon v).state.ms.mem.wf = true := by
  grind [State.writeCtxon, RegW.state, State.activate_wf, State.restart_wf]

theorem execFeCtxon_wf {s t : State} (req : Requester) (v : DWord) (h : s.ms.mem.wf = true)
    (ht : execFeCtxon req v s = .next t) : t.ms.mem.wf = true := by
  grind [RegW.state, execFeCtxon, State.winWrite_wf, State.writeCtxon_wf]

@[simp] theorem State.refuseServed_ms (s : State) (ctx : Nat) : (s.refuseServed ctx).ms = s.ms := by
  grind [State.refuseServed, State.sendTo_ms, State.updLaunch_ms, foldl_ms]

theorem State.writeCtxoff_wf {s : State} (v : DWord) (h : s.ms.mem.wf = true) :
    (s.writeCtxoff v).state.ms.mem.wf = true := by
  grind [State.writeCtxoff, RegW.state, State.updCtx_ms, State.syncCtx_wf, State.refuseServed_ms,
    State.dropRingWaits_ms, State.settleOff_wf]

theorem execFeCtxoff_wf {s t : State} (req : Requester) (v : DWord) (h : s.ms.mem.wf = true)
    (ht : execFeCtxoff req v s = .next t) : t.ms.mem.wf = true := by
  grind [RegW.state, execFeCtxoff, State.winWrite_wf, State.writeCtxoff_wf]

theorem execMakeResident_wf {s t : State} (ctx : Nat) (h : s.ms.mem.wf = true)
    (ht : execMakeResident ctx s = .next t) : t.ms.mem.wf = true := by
  grind [execMakeResident, State.updCtx_ms, State.syncCtx_wf, State.slotTo_wf, State.startEviction_wf]

theorem execEvictionDone_wf {s t : State} (ctx : Nat) (h : s.ms.mem.wf = true)
    (ht : execEvictionDone ctx s = .next t) : t.ms.mem.wf = true := by
  grind [execEvictionDone, State.slotTo_wf, State.departAll_wf, State.updCtx_ms, State.settleOff_wf, State.syncCtx_wf]

@[simp] theorem State.takeMap_ms (s : State) (ctx : Nat) (m : NMap TmapEntry) : (s.takeMap ctx m).ms = s.ms := by
  grind [State.takeMap, State.updCtx_ms, State.newTx_ms, State.sendTo_ms, foldl_ms]

theorem State.becomeResident_wf {s : State} (ctx : Nat) (runs : List ShareRun) (h : s.ms.mem.wf = true) :
    (s.becomeResident ctx runs).ms.mem.wf = true := by
  grind [State.becomeResident, State.placeRun_wf, State.syncCtx_wf, State.updCtx_ms, State.slotTo_wf, foldl_wf]

theorem execResidencyComplete_wf {s t : State} (ctx : Nat) (h : s.ms.mem.wf = true)
    (ht : execResidencyComplete ctx s = .next t) : t.ms.mem.wf = true := by
  grind [execResidencyComplete, State.pageRequest_ms, State.feFault_wf, State.sawPage_ms, State.takeMap_ms,
    State.updCtx_ms, State.becomeResident_wf]

theorem execCounterTableWrite_wf {s t : State} (ctx : Nat) (h : s.ms.mem.wf = true)
    (ht : execCounterTableWrite ctx s = .next t) : t.ms.mem.wf = true := by
  grind [execCounterTableWrite, State.writeCounters_wf]

theorem foldl_skip_wf {β : Type} {c : β → Prop} [DecidablePred c] {f : State → β → State}
    (hf : ∀ s b, s.ms.mem.wf = true → (f s b).ms.mem.wf = true) (l : List β) {s : State} (h : s.ms.mem.wf = true) :
    (l.foldl (fun s b => if c b then s else f s b) s).ms.mem.wf = true := by
  refine foldl_wf (fun st b hst => ?_) l h
  split
  · exact hst
  · exact hf _ _ hst

theorem execCounterSample_wf {s t : State} (h : s.ms.mem.wf = true) (ht : execCounterSample s = .next t) :
    t.ms.mem.wf = true := by
  unfold execCounterSample at ht
  split at ht
  · grind
  · obtain rfl := Host.Outcome.next.inj ht
    exact foldl_skip_wf (fun _ _ hst => foldl_skip_wf (fun _ _ hu => State.trace_wf _ _ _ _ _ _ hu) _ hst) _ h

theorem State.resumeActivations_wf {s : State} (pasid : Nat) (h : s.ms.mem.wf = true) :
    (s.resumeActivations pasid).ms.mem.wf = true := by
  grind [State.resumeActivations, State.activate_wf, foldl_wf]

theorem State.resumeFrontEnd_wf {s : State} (pasid : Nat) (h : s.ms.mem.wf = true) :
    (s.resumeFrontEnd pasid).ms.mem.wf = true := by
  grind [State.resumeFrontEnd, State.resumeActivations_wf, State.settleFaults_wf, State.settlePins_wf,
    State.settleOverruns_wf, State.resumeRing_wf, foldl_wf]

theorem State.failPages_wf {s : State} (ws : List (Site × Nat × Nat)) (h : s.ms.mem.wf = true) :
    (s.failPages ws).ms.mem.wf = true := by
  grind [State.failPages, State.updGroup_ms, State.raise_wf, State.setGroup_ms, State.moreFault_wf, foldl_wf]

theorem execPageRequestResponse_wf {s t : State} (pasid va : Nat) (answer : Option Leaf) (h : s.ms.mem.wf = true)
    (ht : execPageRequestResponse pasid va answer s = .next t) : t.ms.mem.wf = true := by
  grind [execPageRequestResponse, State.resumeFrontEnd_wf, State.updGroup_ms, State.failPages_wf, foldl_wf]

/-! #### Hinge -/

theorem State.dropHostTxn_wf {s : State} (line : Nat) (t : Txn) (h : s.ms.mem.wf = true) :
    (s.dropHostTxn line t).ms.mem.wf = true := by
  grind [State.dropHostTxn, State.memAccept_wf, State.closeTxn_ms, foldl_wf]

theorem State.dropHost_wf {s : State} (h : s.ms.mem.wf = true) : s.dropHost.ms.mem.wf = true := by
  grind [State.dropHost, State.dropHostTxn_wf, State.dropRetries_ms, foldl_wf]

@[simp] theorem State.resetCmds_ms (s : State) : s.resetCmds.ms = s.ms := by
  grind [State.resetCmds, State.thaw_ms]

theorem State.hingeTrigger_wf {s : State} (h : s.ms.mem.wf = true) : s.hingeTrigger.ms.mem.wf = true := by
  grind [State.hingeTrigger, State.resetCmds_ms, State.dropHost_wf]

theorem State.writeHostrst_wf {s : State} (v : DWord) (h : s.ms.mem.wf = true) :
    (s.writeHostrst v).state.ms.mem.wf = true := by
  grind [State.writeHostrst, RegW.state, State.hingeTrigger_wf]

theorem execHgHostrst_wf {s t : State} (req : Requester) (v : DWord) (h : s.ms.mem.wf = true)
    (ht : execHgHostrst req v s = .next t) : t.ms.mem.wf = true := by
  grind [RegW.state, execHgHostrst, State.winWrite_wf, State.writeHostrst_wf]

theorem execHingeLossReset_wf {s t : State} (cause : HingeCause) (h : s.ms.mem.wf = true)
    (ht : execHingeLossReset cause s = .next t) : t.ms.mem.wf = true := by
  cases cause <;> grind [execHingeLossReset, State.hingeTrigger_wf]

theorem execHingeAckTimeout_wf {s t : State} (h : s.ms.mem.wf = true) (ht : execHingeAckTimeout s = .next t) :
    t.ms.mem.wf = true := by
  grind [execHingeAckTimeout, State.hingeTrigger_wf]

theorem execHingeTileStop_wf {s t : State} (h : s.ms.mem.wf = true) (ht : execHingeTileStop s = .next t) :
    t.ms.mem.wf = true := by
  grind [execHingeTileStop, State.updLaunch_ms, State.stopTile_wf, foldl_wf]

theorem State.afterReset_wf {s : State} (n : Nat) (h : s.ms.mem.wf = true) : (s.afterReset n).ms.mem.wf = true := by
  grind [State.afterReset, State.updCtx_ms, State.syncCtx_wf, State.refuseServed_ms, State.settleOff_wf,
    State.dropRingWaits_ms, State.slotTo_wf, State.departAll_wf]

theorem State.settleOrphans_wf {s : State} (h : s.ms.mem.wf = true) : s.settleOrphans.ms.mem.wf = true := by
  grind [State.settleOrphans, State.finishOrphans_wf, foldl_wf]

theorem State.settleTxn_wf {s : State} (line : Nat) (t : Txn) (tag : Nat) (h : s.ms.mem.wf = true) :
    (s.settleTxn line t tag).ms.mem.wf = true := by
  grind [State.settleTxn, State.memAccept_wf, State.updTxn_ms, foldl_wf]

theorem State.settleEpoch_wf {s : State} (h : s.ms.mem.wf = true) : s.settleEpoch.ms.mem.wf = true := by
  grind [State.settleEpoch, State.acceptSent_wf, State.evictLine_ms, State.settleTxn_wf, foldl_wf]

theorem State.completeAll_wf {s : State} (id : RingId) (h : s.ms.mem.wf = true) :
    (s.completeAll id).ms.mem.wf = true := by
  grind [State.completeAll, State.completion_wf, State.completeCmd_wf, State.updLaunch_ms, foldl_wf]

/-- Memory of a new generation lists no byte. -/
theorem State.applyRegions_wf {s : State} (h : s.ms.mem.wf = true) :
    s.applyRegions.ms.mem.wf = true := by
  unfold State.applyRegions
  split
  · exact h
  · dsimp only
    split
    · rfl
    · exact h

theorem Mem.unlisted_boot (m : Mem) (n : Nat) {a : Nat} (ha : inBoot a = false) :
    ({ m with boot := n } : Mem).unlisted a = m.unlisted a := by
  simp [Mem.unlisted, ha]

/-- The boot image replaces what was listed of the boot region; every other byte reads as it did. -/
theorem Mem.wf_loadBoot (m : Mem) (n : Nat) (poison : List Nat) (h : m.wf = true) :
    ({ m with boot := n, cells := m.cells.filter (fun c => !inBoot c.1), poison := poison } : Mem).wf = true := by
  obtain ⟨rises, listed⟩ := (Mem.wf_iff m).1 h
  refine (Mem.wf_iff _).2 ⟨NMap.wf_filter _ _ rises, fun c hc => ?_⟩
  obtain ⟨hmem, hout⟩ := List.mem_filter.1 hc
  have := Mem.unlisted_boot m n (by simpa using hout)
  exact fun he => listed c hmem (he.trans this)

theorem State.loadBoot_wf {s : State} (h : s.ms.mem.wf = true) :
    s.loadBoot.ms.mem.wf = true := Mem.wf_loadBoot s.ms.mem s.bootImage _ h

@[simp] theorem State.startHart_ms (s : State) (h : Nat) : (s.startHart h).ms = s.ms := rfl

theorem State.startHost_wf {s : State} (h : s.ms.mem.wf = true) : s.startHost.ms.mem.wf = true := by
  grind [State.startHost, State.loadBoot_wf, State.startHart_ms]

theorem execHingeQuiesced_wf {s t : State} (h : s.ms.mem.wf = true) (ht : execHingeQuiesced s = .next t) :
    t.ms.mem.wf = true := by
  grind [execHingeQuiesced, State.settleEpoch_wf, State.settleOrphans_wf, State.completeAll_wf, State.afterReset_wf,
    State.startHost_wf, State.applyRegions_wf, foldl_wf]

theorem State.writeEpochopen_wf {s : State} (v : DWord) (h : s.ms.mem.wf = true) :
    (s.writeEpochopen v).state.ms.mem.wf = true := by
  grind [State.writeEpochopen, RegW.state, State.readDoorbell_wf, foldl_wf]

theorem execHgEpochopen_wf {s t : State} (req : Requester) (v : DWord) (h : s.ms.mem.wf = true)
    (ht : execHgEpochopen req v s = .next t) : t.ms.mem.wf = true := by
  grind [RegW.state, execHgEpochopen, State.winWrite_wf, State.writeEpochopen_wf]

@[simp] theorem State.writeHartrun_ms (s : State) (hi : Bool) (v : DWord) : (s.writeHartrun hi v).state.ms = s.ms := by
  grind [State.writeHartrun, RegW.state, State.startHart_ms, foldl_ms]

theorem execHgHartrun_wf {s t : State} (req : Requester) (hi : Bool) (v : DWord) (h : s.ms.mem.wf = true)
    (ht : execHgHartrun req hi v s = .next t) : t.ms.mem.wf = true := by
  grind [RegW.state, execHgHartrun, State.winWrite_wf, State.writeHartrun_ms]

theorem execHingeRetrain_ms {s t : State} (ht : execHingeRetrain s = .next t) : t.ms = s.ms := by
  grind [execHingeRetrain]

theorem execHingeRetrainDone_ms {s t : State} (ht : execHingeRetrainDone s = .next t) : t.ms = s.ms := by
  grind [execHingeRetrainDone, State.raiseAplic_ms]

theorem State.departCovered_wf {s : State} (cov : Leaf → Bool) (h : s.ms.mem.wf = true) :
    (s.departCovered cov).ms.mem.wf = true := by
  grind [State.departCovered, State.departRun_wf, foldl_wf]

theorem State.invalidate_wf {s : State} (port : Option Nat) (cov : Leaf → Bool) (u : PtUpdate) (h : s.ms.mem.wf = true) :
    (s.invalidate port cov u).ms.mem.wf = true := by
  cases port <;> grind [State.invalidate, State.departCovered_wf, State.updRport_ms]

theorem execIotinvalVma_wf {s t : State} (pasid : Option Nat) (va : IoAddr) (size : Nat) (upd : PtUpdate)
    (h : s.ms.mem.wf = true) (ht : execIotinvalVma pasid va size upd s = .next t) : t.ms.mem.wf = true := by
  grind [execIotinvalVma, State.invalidate_wf]

theorem execIotinvalGvma_wf {s t : State} (gpa : IoAddr) (size : Nat) (upd : PtUpdate) (h : s.ms.mem.wf = true)
    (ht : execIotinvalGvma gpa size upd s = .next t) : t.ms.mem.wf = true := by
  grind [execIotinvalGvma, State.invalidate_wf]

@[simp] theorem State.portsFenced_ms (s : State) : s.portsFenced.ms = s.ms := rfl

theorem execIofenceC_ms {s t : State} (ht : execIofenceC s = .next t) : t.ms = s.ms := by
  grind [execIofenceC, State.portsFenced_ms]

theorem State.setWays_wf {s : State} (die n : Nat) (h : s.ms.mem.wf = true) : (s.setWays die n).ms.mem.wf = true := by
  grind [State.setWays, State.acceptSent_wf, State.evictLine_ms, foldl_wf]

theorem State.writeShareways_wf {s : State} (v : DWord) (h : s.ms.mem.wf = true) :
    (s.writeShareways v).state.ms.mem.wf = true := by
  grind [State.writeShareways, RegW.state, State.setWays_wf, foldl_wf]

theorem execMpShareways_wf {s t : State} (req : Requester) (v : DWord) (h : s.ms.mem.wf = true)
    (ht : execMpShareways req v s = .next t) : t.ms.mem.wf = true := by
  grind [RegW.state, execMpShareways, State.winWrite_wf, State.writeShareways_wf]

theorem State.writeHostplan_wf {s : State} (v : DWord) (h : s.ms.mem.wf = true) :
    (s.writeHostplan v).state.ms.mem.wf = true := by
  grind [State.writeHostplan, RegW.state]

theorem execMpHostplan_wf {s t : State} (req : Requester) (v : DWord) (h : s.ms.mem.wf = true)
    (ht : execMpHostplan req v s = .next t) : t.ms.mem.wf = true := by
  grind [RegW.state, execMpHostplan, State.winWrite_wf, State.writeHostplan_wf]

theorem State.tumReset_wf {s : State} (n : Nat) (v : DWord) (h : s.ms.mem.wf = true) :
    (s.tumReset n v).ms.mem.wf = true := by
  grind [State.tumReset, State.settleTum_wf, State.setTum_ms]

theorem execTmReset_wf {s t : State} (req : Requester) (v : DWord) (h : s.ms.mem.wf = true)
    (ht : execTmReset req v s = .next t) : t.ms.mem.wf = true := by
  grind [RegW.state, execTmReset, State.winWrite_wf, State.tumReset_wf]

/-! #### Bringup -/

theorem State.cold_wf (s : State) : s.cold.ms.mem.wf = true := rfl

theorem State.railsDown_wf (s : State) : s.railsDown.ms.mem.wf = true := rfl

theorem State.coldReset_wf {s : State} (h : s.ms.mem.wf = true) : s.coldReset.ms.mem.wf = true := by
  unfold State.coldReset
  split
  · rfl
  · exact h

theorem State.coldStart_wf (s : State) : s.coldStart.ms.mem.wf = true := rfl

theorem execPwrEnRise_wf {s t : State} (h : s.ms.mem.wf = true) (ht : execPwrEnRise s = .next t) :
    t.ms.mem.wf = true := by
  grind [execPwrEnRise, State.coldStart_wf]

theorem State.settleRise_wf {s : State} (h : s.ms.mem.wf = true) : s.settleRise.ms.mem.wf = true := by
  grind [State.settleRise, State.coldStart_wf]

theorem execPowerDown_wf {s t : State} (ht : execPowerDown s = .next t) : t.ms.mem.wf = true := by
  grind [execPowerDown, State.railsDown_wf]

theorem State.writeColdrst_wf {s : State} (v : DWord) (h : s.ms.mem.wf = true) :
    (s.writeColdrst v).state.ms.mem.wf = true := by
  grind [State.writeColdrst, RegW.state, State.coldReset_wf]

theorem execScColdrst_wf {s t : State} (req : Requester) (v : DWord) (h : s.ms.mem.wf = true)
    (ht : execScColdrst req v s = .next t) : t.ms.mem.wf = true := by
  grind [RegW.state, execScColdrst, State.winWrite_wf, State.writeColdrst_wf]

theorem execWatchdogExpiry_wf {s t : State} (h : s.ms.mem.wf = true) (ht : execWatchdogExpiry s = .next t) :
    t.ms.mem.wf = true := by
  grind [execWatchdogExpiry, State.coldReset_wf]

theorem execKeeperStart_ms {s t : State} (ht : execKeeperStart s = .next t) : t.ms = s.ms := by
  grind [execKeeperStart, State.driveAlert_ms]

@[simp] theorem State.traceReserve_ms (s : State) : s.traceReserve.ms = s.ms := rfl

theorem execMeminitDone_wf {s t : State} (h : s.ms.mem.wf = true) (ht : execMeminitDone s = .next t) :
    t.ms.mem.wf = true := by
  grind [execMeminitDone, State.startHost_wf, State.traceReserve_ms]

@[simp] theorem State.seeStage_ms (s : State) : s.seeStage.ms = s.ms := by
  grind [State.seeStage, State.draw_ms]

theorem execControlPortReset_ms {s t : State} (cause : CpCause) (ht : execControlPortReset cause s = .next t) :
    t.ms = s.ms := by
  cases cause <;> grind [execControlPortReset]

theorem execPerstNRelease_ms {s t : State} (ht : execPerstNRelease s = .next t) : t.ms = s.ms := by
  grind [execPerstNRelease]

theorem execConfigRequest_ms {s t : State} (ht : execConfigRequest s = .next t) : t.ms = s.ms := by
  grind [execConfigRequest]

@[simp] theorem State.writeBootstat_ms (s : State) (v : DWord) : (s.writeBootstat v).state.ms = s.ms := by
  grind [State.writeBootstat, RegW.state, State.driveAlert_ms]

theorem execScBootstatGo_wf {s t : State} (req : Requester) (v : DWord) (h : s.ms.mem.wf = true)
    (ht : execScBootstatGo req v s = .next t) : t.ms.mem.wf = true := by
  grind [RegW.state, execScBootstatGo, State.winWrite_wf, State.writeBootstat_ms]

/-! #### Debugger -/

@[simp] theorem State.setDenied_ms (s : State) : s.setDenied.ms = s.ms := rfl

@[simp] theorem State.setNotHalted_ms (s : State) : s.setNotHalted.ms = s.ms := rfl

@[simp] theorem State.setBadsel_ms (s : State) : s.setBadsel.ms = s.ms := rfl

theorem State.askHalt_wf {s : State} (g : Site) (h : s.ms.mem.wf = true) : (s.askHalt g).ms.mem.wf = true := by
  grind [State.askHalt, State.updGroup_ms, State.halt_wf]

@[simp] theorem State.budgetOn_ms (s : State) (core key : Nat) : (s.budgetOn core key).ms = s.ms := by
  grind [State.budgetOn, State.updTile_ms]

theorem State.resume_wf {s : State} (g : Site) (step : Bool) (h : s.ms.mem.wf = true) :
    (s.resume g step).ms.mem.wf = true := by
  grind [State.resume, State.budgetOn_ms, State.setGroup_ms, State.takeFault_wf, State.complete_wf]

theorem State.writeGctl_wf {s : State} (v : DWord) (h : s.ms.mem.wf = true) :
    (s.writeGctl v).state.ms.mem.wf = true := by
  grind [State.writeGctl, RegW.state, State.setDenied_ms, State.askHalt_wf, State.resume_wf, foldl_wf]

theorem execDbGctlHalt_wf {s t : State} (req : Requester) (v : DWord) (h : s.ms.mem.wf = true)
    (ht : execDbGctlHalt req v s = .next t) : t.ms.mem.wf = true := by
  grind [RegW.state, execDbGctlHalt, State.winWrite_wf, State.writeGctl_wf]

theorem execDbGctlResume_wf {s t : State} (req : Requester) (v : DWord) (h : s.ms.mem.wf = true)
    (ht : execDbGctlResume req v s = .next t) : t.ms.mem.wf = true := by
  grind [RegW.state, execDbGctlResume, State.winWrite_wf, State.writeGctl_wf]

theorem execDbGctlStep_wf {s t : State} (req : Requester) (v : DWord) (h : s.ms.mem.wf = true)
    (ht : execDbGctlStep req v s = .next t) : t.ms.mem.wf = true := by
  grind [RegW.state, execDbGctlStep, State.winWrite_wf, State.writeGctl_wf]

@[simp] theorem State.writeHof_ms (s : State) (v : DWord) (on : Bool) : (s.writeHof v on).state.ms = s.ms := by
  grind [State.writeHof, RegW.state, State.setDenied_ms]

theorem execDbHofset_wf {s t : State} (req : Requester) (v : DWord) (h : s.ms.mem.wf = true)
    (ht : execDbHofset req v s = .next t) : t.ms.mem.wf = true := by
  grind [RegW.state, execDbHofset, State.winWrite_wf, State.writeHof_ms]

theorem execDbHofclr_wf {s t : State} (req : Requester) (v : DWord) (h : s.ms.mem.wf = true)
    (ht : execDbHofclr req v s = .next t) : t.ms.mem.wf = true := by
  grind [RegW.state, execDbHofclr, State.winWrite_wf, State.writeHof_ms]

theorem State.rdataGroup_ms {s t : State} (ht : s.rdataGroup = .error t) : t.ms = s.ms := by
  grind [State.rdataGroup, State.setNotHalted_ms, State.setDenied_ms]

@[simp] theorem State.readRdata_ms (s : State) : s.readRdata.2.ms = s.ms := by
  grind [State.readRdata, State.rdataGroup_ms, State.setBadsel_ms]

@[simp] theorem State.writeRdata_ms (s : State) (v : DWord) : (s.writeRdata v).state.ms = s.ms := by
  grind [State.writeRdata, RegW.state, State.rdataGroup_ms, State.setBadsel_ms, State.setGroup_ms]

theorem execDbRdata_wf {s t : State} (req : Requester) (wr : Option DWord) (h : s.ms.mem.wf = true)
    (ht : execDbRdata req wr s = .next t) : t.ms.mem.wf = true := by
  cases wr <;> grind [RegW.state, execDbRdata, State.winRead_wf, State.readRdata_ms, State.winWrite_wf,
    State.writeRdata_ms]

@[simp] theorem State.writeBp_ms (s : State) (watch ctl : Bool) (n : Nat) (v : DWord) :
    (s.writeBp watch ctl n v).state.ms = s.ms := by
  grind [State.writeBp, RegW.state, State.updCore_ms, State.setDenied_ms, foldl_ms]

@[simp] theorem State.writeTrward_ms (s : State) (v : DWord) : (s.writeTrward v).state.ms = s.ms := by
  grind [State.writeTrward, RegW.state, State.setDenied_ms]

theorem execDbTrward_wf {s t : State} (req : Requester) (v : DWord) (h : s.ms.mem.wf = true)
    (ht : execDbTrward req v s = .next t) : t.ms.mem.wf = true := by
  grind [RegW.state, execDbTrward, State.winWrite_wf, State.writeTrward_ms]

theorem State.traceClose_wf {s : State} (h : s.ms.mem.wf = true) : s.traceClose.ms.mem.wf = true := by
  grind [State.traceClose, State.cohWrite_wf]

theorem State.writeTrctl_wf {s : State} (v : DWord) (h : s.ms.mem.wf = true) :
    (s.writeTrctl v).state.ms.mem.wf = true := by
  grind [State.writeTrctl, RegW.state, State.traceClose_wf]

theorem execDbTrctl_wf {s t : State} (req : Requester) (v : DWord) (h : s.ms.mem.wf = true)
    (ht : execDbTrctl req v s = .next t) : t.ms.mem.wf = true := by
  grind [RegW.state, execDbTrctl, State.winWrite_wf, State.writeTrctl_wf]

/-! #### Floating -/

theorem State.flt2_wf {s : State} (g : Site) (e : Enc) (f : Fmt → Rm → Bool → Nat → Nat → Nat × FFlags)
    (rounds flushes : Bool) (h : s.ms.mem.wf = true) : (s.flt2 g e f rounds flushes).ms.mem.wf = true := by
  grind [State.flt2, State.issueReg_wf]

theorem State.flt1_wf {s : State} (g : Site) (e : Enc) (f : Fmt → Nat → Nat) (h : s.ms.mem.wf = true) :
    (s.flt1 g e f).ms.mem.wf = true := by
  grind [State.flt1, State.issueReg_wf]

theorem execFadd_wf {s t : State} (site : Site) (e : Enc) (h : s.ms.mem.wf = true)
    (ht : execFadd site e s = .next t) : t.ms.mem.wf = true := by
  grind [execFadd, State.flt2_wf]

theorem execFsub_wf {s t : State} (site : Site) (e : Enc) (h : s.ms.mem.wf = true)
    (ht : execFsub site e s = .next t) : t.ms.mem.wf = true := by
  grind [execFsub, State.flt2_wf]

theorem execFmul_wf {s t : State} (site : Site) (e : Enc) (h : s.ms.mem.wf = true)
    (ht : execFmul site e s = .next t) : t.ms.mem.wf = true := by
  grind [execFmul, State.flt2_wf]

theorem execFma_wf {s t : State} (site : Site) (e : Enc) (h : s.ms.mem.wf = true) (ht : execFma site e s = .next t) :
    t.ms.mem.wf = true := by
  grind [execFma, State.issueReg_wf]

theorem execFmin_wf {s t : State} (site : Site) (e : Enc) (h : s.ms.mem.wf = true)
    (ht : execFmin site e s = .next t) : t.ms.mem.wf = true := by
  grind [execFmin, State.flt2_wf]

theorem execFmax_wf {s t : State} (site : Site) (e : Enc) (h : s.ms.mem.wf = true)
    (ht : execFmax site e s = .next t) : t.ms.mem.wf = true := by
  grind [execFmax, State.flt2_wf]

theorem execFcmp_wf {s t : State} (site : Site) (e : Enc) (h : s.ms.mem.wf = true)
    (ht : execFcmp site e s = .next t) : t.ms.mem.wf = true := by
  grind [execFcmp, State.issueReg_wf]

theorem execFabs_wf {s t : State} (site : Site) (e : Enc) (h : s.ms.mem.wf = true)
    (ht : execFabs site e s = .next t) : t.ms.mem.wf = true := by
  grind [execFabs, State.flt1_wf]

theorem execFneg_wf {s t : State} (site : Site) (e : Enc) (h : s.ms.mem.wf = true)
    (ht : execFneg site e s = .next t) : t.ms.mem.wf = true := by
  grind [execFneg, State.flt1_wf]

theorem execFcpys_wf {s t : State} (site : Site) (e : Enc) (h : s.ms.mem.wf = true)
    (ht : execFcpys site e s = .next t) : t.ms.mem.wf = true := by
  grind [execFcpys, State.flt2_wf]

theorem execFsfu_wf {s t : State} (site : Site) (e : Enc) (h : s.ms.mem.wf = true)
    (ht : execFsfu site e s = .next t) : t.ms.mem.wf = true := by
  grind [execFsfu, State.issueReg_wf]

theorem execCvt_wf {s t : State} (site : Site) (e : Enc) (h : s.ms.mem.wf = true) (ht : execCvt site e s = .next t) :
    t.ms.mem.wf = true := by
  grind [execCvt, State.issueReg_wf]

/-! #### HomeAtomic -/

@[simp] theorem State.bufferLine_ms (s : State) (line : Nat) : (s.bufferLine line).ms = s.ms := rfl

@[simp] theorem State.clearEmpty_ms (s : State) (line : Nat) : (s.clearEmpty line).ms = s.ms := rfl

theorem State.atomTurn_wf {s : State} (stop nonce : Nat) (op : AtomOp) (r : AtomReq) (dry : Bool)
    (h : s.ms.mem.wf = true) : (s.atomTurn stop nonce op r dry).1.ms.mem.wf = true := by
  grind [State.atomTurn, State.homeRequest_ms, State.closeTxn_ms]

theorem State.runAtom_wf {s : State} (nonce : Nat) (op : AtomOp) (width : Nat) (signed : Bool) (tag : Nat) (t : Target)
    (lanes : List (Nat × DWord × DWord)) (dry : Bool) (h : s.ms.mem.wf = true) :
    (s.runAtom nonce op width signed tag t lanes dry).1.ms.mem.wf = true := by
  cases t <;> grind [State.runAtom, State.flushLine_wf, State.bufferLine_ms, State.cohWrite_wf, State.targetWrite_wf,
    State.killResv_ms]

theorem State.atomTurn_done_wf {s u : State} (stop nonce : Nat) (op : AtomOp) (r : AtomReq) (dry : Bool) {n : Nat}
    {d : AtomDone} (h : s.ms.mem.wf = true) (hd : s.atomTurn stop nonce op r dry = (u, n, some d)) :
    d.1.ms.mem.wf = true := by
  have ran := State.runAtom_wf nonce op r.width r.signed r.tag r.tgt r.lanes dry h
  unfold State.atomTurn at hd
  grind [State.closeTxn_ms]

theorem execHomeAtomic_wf {s t : State} (site : Site) (idx : Nat) (h : s.ms.mem.wf = true)
    (ht : execHomeAtomic site idx s = .next t) : t.ms.mem.wf = true := by
  have turn (stop nonce : Nat) (op : AtomOp) (r : AtomReq) (dry : Bool) {u : State} {n : Nat} {d : Option AtomDone}
      (hd : s.atomTurn stop nonce op r dry = (u, n, d)) : u.ms.mem.wf = true := by
    simpa [hd] using State.atomTurn_wf stop nonce op r dry h
  unfold execHomeAtomic at ht
  dsimp only at ht
  repeat' split at ht
  all_goals obtain rfl := Host.Outcome.next.inj ht
  any_goals exact h
  · simpa using State.atomTurn_done_wf _ _ _ _ _ h ‹_›
  · simpa using turn _ _ _ _ _ ‹_›
  · simpa using State.atomTurn_done_wf _ _ _ _ _ h ‹_›
  · simpa using turn _ _ _ _ _ ‹_›

theorem execAtomicResponse_wf {s t : State} (site : Site) (h : s.ms.mem.wf = true)
    (ht : execAtomicResponse site s = .next t) : t.ms.mem.wf = true := by
  grind [execAtomicResponse, State.setGroup_ms, State.raise_wf, State.backTo_ms, foldl_wf]

/-! #### Power -/

@[simp] theorem State.setDomain_ms (s : State) (d : Nat) (x : DomState) : (s.setDomain d x).ms = s.ms := rfl

theorem execDomainEntry_wf {s t : State} (domain : Nat) (h : s.ms.mem.wf = true)
    (ht : execDomainEntry domain s = .next t) : t.ms.mem.wf = true := by
  grind [execDomainEntry, State.wake_ms, State.flushLLC_wf, State.setDomain_ms]

@[simp] theorem State.wakeHalf_ms (s : State) (d : Nat) : (s.wakeHalf d).ms = s.ms := rfl

theorem State.wakeStack_wf {s : State} (die : Nat) (h : s.ms.mem.wf = true) : (s.wakeStack die).ms.mem.wf = true := by
  grind [State.wakeStack, State.fillGranule_wf, foldl_wf]

theorem execWakeComplete_wf {s t : State} (domain : Nat) (h : s.ms.mem.wf = true)
    (ht : execWakeComplete domain s = .next t) : t.ms.mem.wf = true := by
  grind [execWakeComplete, State.setDomain_ms, State.wakeHalf_ms, State.wakeStack_wf]

@[simp] theorem State.writePwCtl_ms (s : State) (v : DWord) : (s.writePwCtl v).state.ms = s.ms := by
  grind [State.writePwCtl, RegW.state]

theorem execPwCtl_wf {s t : State} (req : Requester) (v : DWord) (h : s.ms.mem.wf = true)
    (ht : execPwCtl req v s = .next t) : t.ms.mem.wf = true := by
  grind [RegW.state, execPwCtl, State.winWrite_wf, State.writePwCtl_ms]

theorem execVcompControl_ms {s t : State} (power vin : Nat) (temps : Temps)
    (ht : execVcompControl power vin temps s = .next t) : t.ms = s.ms := by
  grind [execVcompControl, State.draw_ms]

theorem execSupplyWarn_ms {s t : State} (low : Bool) (ht : execSupplyWarn low s = .next t) : t.ms = s.ms := by
  grind [execSupplyWarn]

theorem execExcursionOpen_ms {s t : State} (rail mv : Nat) (ht : execExcursionOpen rail mv s = .next t) :
    t.ms = s.ms := by
  grind [execExcursionOpen, State.driveAlert_ms]

theorem execExcursionClose_wf {s t : State} (h : s.ms.mem.wf = true) (ht : execExcursionClose s = .next t) :
    t.ms.mem.wf = true := by
  grind [execExcursionClose, State.cohWrite_wf, State.keeperEvent_wf, State.driveAlert_ms, foldl_wf]

theorem execRailResetThreshold_wf {s t : State} (rail mv : Nat) (h : s.ms.mem.wf = true)
    (ht : execRailResetThreshold rail mv s = .next t) : t.ms.mem.wf = true := by
  grind [execRailResetThreshold, State.coldReset_wf]

theorem execThermalAlert_ms {s t : State} (temps : Temps) (ht : execThermalAlert temps s = .next t) : t.ms = s.ms := by
  grind [execThermalAlert, State.driveAlert_ms]

theorem execThermalTrip_wf {s t : State} (temps : Temps) (h : s.ms.mem.wf = true)
    (ht : execThermalTrip temps s = .next t) : t.ms.mem.wf = true := by
  grind [execThermalTrip, State.railsDown_wf]

theorem execI3cRead_ms {s t : State} (index : Nat) (ht : execI3cRead index s = .next t) : t.ms = s.ms := by
  grind [execI3cRead, State.seeStage_ms]

theorem execI3cWrite_ms {s t : State} (index : Nat) (v : Byte) (ht : execI3cWrite index v s = .next t) :
    t.ms = s.ms := by
  grind [execI3cWrite, State.driveAlert_ms]

theorem execSetdasa_ms {s t : State} (static dynamic : BitVec 7) (ht : execSetdasa static dynamic s = .next t) :
    t.ms = s.ms := by
  grind [execSetdasa]

/-! #### Security -/

@[simp] theorem State.readNonce_ms (s : State) : s.readNonce.2.ms = s.ms := rfl

theorem execScNonce_wf {s t : State} (req : Requester) (h : s.ms.mem.wf = true) (ht : execScNonce req s = .next t) :
    t.ms.mem.wf = true := by
  grind [execScNonce, State.winRead_wf, State.readNonce_ms]

@[simp] theorem State.writeTokaddr_ms (s : State) (v : DWord) : (s.writeTokaddr v).state.ms = s.ms := by
  grind [State.writeTokaddr, RegW.state]

theorem execScTokaddr_wf {s t : State} (req : Requester) (v : DWord) (h : s.ms.mem.wf = true)
    (ht : execScTokaddr req v s = .next t) : t.ms.mem.wf = true := by
  grind [RegW.state, execScTokaddr, State.winWrite_wf, State.writeTokaddr_ms]

theorem execTokenCheckDone_wf {s t : State} (h : s.ms.mem.wf = true) (ht : execTokenCheckDone s = .next t) :
    t.ms.mem.wf = true := by
  grind [execTokenCheckDone, State.keeperEvent_wf]

theorem State.releaseGroup_wf {s : State} (g : Site) (h : s.ms.mem.wf = true) :
    (s.releaseGroup g).ms.mem.wf = true := by
  grind [State.releaseGroup, State.resume_wf, State.debugEvent_wf, State.setGroup_ms]

theorem State.endToken_wf {s : State} (i : Nat) (h : s.ms.mem.wf = true) : (s.endToken i).ms.mem.wf = true := by
  grind [State.endToken, State.keeperEvent_wf, State.releaseGroup_wf, foldl_wf]

theorem execScTokrevoke_wf {s t : State} (req : Requester) (v : DWord) (h : s.ms.mem.wf = true)
    (ht : execScTokrevoke req v s = .next t) : t.ms.mem.wf = true := by
  grind [RegW.state, execScTokrevoke, State.winWrite_wf, State.endToken_wf]

theorem execTokenExpiry_wf {s t : State} (idx : Nat) (h : s.ms.mem.wf = true) (ht : execTokenExpiry idx s = .next t) :
    t.ms.mem.wf = true := by
  grind [execTokenExpiry, State.endToken_wf]

@[simp] theorem State.startUpdate_ms (s : State) : s.startUpdate.ms = s.ms := by
  grind [State.startUpdate]

@[simp] theorem State.commitUpdate_ms (s : State) : s.commitUpdate.ms = s.ms := by
  grind [State.commitUpdate]

@[simp] theorem State.writeUpdctl_ms (s : State) (v : DWord) : (s.writeUpdctl v).state.ms = s.ms := by
  grind [State.writeUpdctl, RegW.state, State.startUpdate_ms, State.commitUpdate_ms]

theorem execScUpdctlStart_wf {s t : State} (req : Requester) (v : DWord) (h : s.ms.mem.wf = true)
    (ht : execScUpdctlStart req v s = .next t) : t.ms.mem.wf = true := by
  grind [RegW.state, execScUpdctlStart, State.winWrite_wf, State.writeUpdctl_ms]

theorem execScUpdctlCommit_wf {s t : State} (req : Requester) (v : DWord) (h : s.ms.mem.wf = true)
    (ht : execScUpdctlCommit req v s = .next t) : t.ms.mem.wf = true := by
  grind [RegW.state, execScUpdctlCommit, State.winWrite_wf, State.writeUpdctl_ms]

theorem execUpdateWriteDone_ms {s t : State} (ok : Bool) (ht : execUpdateWriteDone ok s = .next t) : t.ms = s.ms := by
  grind [execUpdateWriteDone]

theorem State.respond_ms {s t : State} (st : SpdmStage) (r : SpdmResp) (ht : s.respond st r = .next t) :
    t.ms = s.ms := by
  grind [State.respond]

theorem State.respondAfter_ms {s t : State} (need : Bool) (st : SpdmStage) (r : SpdmResp)
    (ht : s.respondAfter need st r = .next t) : t.ms = s.ms := by
  grind [State.respondAfter, State.respond_ms]

theorem execGetVersion_ms {s t : State} (ht : execGetVersion s = .next t) : t.ms = s.ms := by
  grind [execGetVersion, State.respond_ms]

theorem execGetCapabilities_ms {s t : State} (ht : execGetCapabilities s = .next t) : t.ms = s.ms := by
  grind [execGetCapabilities, State.respondAfter_ms]

theorem execNegotiateAlgorithms_ms {s t : State} (hash384 ed25519 : Bool)
    (ht : execNegotiateAlgorithms hash384 ed25519 s = .next t) : t.ms = s.ms := by
  grind [execNegotiateAlgorithms, State.respondAfter_ms]

theorem execGetDigests_ms {s t : State} (ht : execGetDigests s = .next t) : t.ms = s.ms := by
  grind [execGetDigests, State.respondAfter_ms]

theorem execGetCertificate_ms {s t : State} (slot offset len : Nat)
    (ht : execGetCertificate slot offset len s = .next t) : t.ms = s.ms := by
  grind [execGetCertificate, State.respondAfter_ms]

theorem execChallenge_ms {s t : State} (slot : Nat) (y : BitVec 256) (ht : execChallenge slot y s = .next t) :
    t.ms = s.ms := by
  grind [execChallenge, State.draw_ms, State.respondAfter_ms]

theorem execGetMeasurements_ms {s t : State} (index slot : Nat) (y : BitVec 256)
    (ht : execGetMeasurements index slot y s = .next t) : t.ms = s.ms := by
  grind [execGetMeasurements, State.draw_ms, State.respondAfter_ms]

/-! #### Members -/

@[simp] theorem State.toAll_ms (s : State) (b : MsgBody) : (s.toAll b).ms = s.ms := by
  grind [State.toAll, State.sendTo_ms, foldl_ms]

theorem State.haspArrive_wf {s : State} (line gen src : Nat) (h : s.ms.mem.wf = true) :
    (s.haspArrive line gen src).ms.mem.wf = true := by
  grind [State.haspArrive, State.haspSettle_wf, State.draw_ms, State.sendTo_ms, foldl_wf]

theorem State.haspReleased_wf {s : State} (line gen : Nat) (h : s.ms.mem.wf = true) :
    (s.haspReleased line gen).ms.mem.wf = true := by
  grind [State.haspReleased, State.haspSettle_wf, State.haspRelease_wf]

theorem State.haspHeld_wf {s : State} (m : HeldHasp) (h : s.ms.mem.wf = true) : (s.haspHeld m).ms.mem.wf = true := by
  grind [State.haspHeld, State.haspReleased_wf, State.haspArrive_wf]

theorem State.toEpoch_wf {s : State} (e : BitVec 32) (h : s.ms.mem.wf = true) : (s.toEpoch e).ms.mem.wf = true := by
  grind [State.toEpoch, State.keeperEvent_wf]

theorem State.afterEpoch_wf {s : State} (h : s.ms.mem.wf = true) : s.afterEpoch.ms.mem.wf = true := by
  grind [State.afterEpoch, State.sendTo_ms, State.haspSettleAll_wf, State.haspHeld_wf, foldl_wf]

@[simp] theorem State.settleInv_ms (s : State) : s.settleInv.ms = s.ms := by
  grind [State.settleInv]

@[simp] theorem State.startCommit_ms (s : State) (lv : Levels) : (s.startCommit lv).ms = s.ms := by
  grind [State.startCommit, State.toAll_ms]

theorem State.commitLevels_wf {s : State} (h : s.ms.mem.wf = true) : s.commitLevels.ms.mem.wf = true := by
  grind [State.commitLevels, State.afterEpoch_wf, State.toAll_ms, State.toEpoch_wf, State.startCommit_ms]

theorem State.drained_wf {s : State} (h : s.ms.mem.wf = true) : s.drained.ms.mem.wf = true := by
  grind [State.drained, State.commitLevels_wf, State.sendTo_ms]

theorem State.afterAnswer_wf {s : State} (h : s.ms.mem.wf = true) : s.afterAnswer.ms.mem.wf = true := by
  grind [State.afterAnswer, State.settleInv_ms, State.drained_wf, State.reportAll_wf]

theorem State.publish_wf {s : State} (r : List RosterEntry) (h : s.ms.mem.wf = true) :
    (s.publish r).ms.mem.wf = true := by
  grind [State.publish, State.toEpoch_wf, State.sendTo_ms, State.commitLevels_wf, State.afterEpoch_wf, foldl_wf]

@[simp] theorem State.renameHere_ms (s : State) (old new : Nat) : (s.renameHere old new).ms = s.ms := rfl

@[simp] theorem State.coreLosePeer_ms (s : State) (c p : Nat) (txs : List Nat) :
    (s.coreLosePeer c p txs).ms = s.ms := by
  grind [State.coreLosePeer, State.setCore_ms, State.countCtx_ms, foldl_ms]

theorem State.launchLosePeer_wf {s : State} (k p : Nat) (h : s.ms.mem.wf = true) :
    (s.launchLosePeer k p).ms.mem.wf = true := by
  grind [State.launchLosePeer, State.stopTile_wf, State.dropLaunch_wf, State.updLaunch_ms, foldl_wf]

theorem State.peerGone_wf {s : State} (p : Nat) (h : s.ms.mem.wf = true) : (s.peerGone p).ms.mem.wf = true := by
  grind [State.peerGone, State.coreLosePeer_ms, State.launchLosePeer_wf, foldl_wf]

theorem State.loseMember_wf {s : State} (p : Nat) (h : s.ms.mem.wf = true) : (s.loseMember p).ms.mem.wf = true := by
  grind [State.loseMember, State.peerGone_wf, State.afterAnswer_wf, State.haspSettleAll_wf]

theorem State.outOfSpan_wf {s : State} (st : SpanState) (h : s.ms.mem.wf = true) :
    (s.outOfSpan st).ms.mem.wf = true := by
  grind [State.outOfSpan, State.peerGone_wf, State.renameHere_ms, foldl_wf]

theorem State.isolate_wf {s : State} (h : s.ms.mem.wf = true) : s.isolate.ms.mem.wf = true := by
  grind [State.isolate, State.reportAll_wf, State.haspSettleAll_wf, State.outOfSpan_wf]

@[simp] theorem State.becomeMaster_ms (s : State) : s.becomeMaster.ms = s.ms := rfl

theorem State.declareLost_wf {s : State} (ps : List Nat) (h : s.ms.mem.wf = true) :
    (s.declareLost ps).ms.mem.wf = true := by
  grind [State.declareLost, State.isolate_wf, State.loseMember_wf, State.toEpoch_wf, State.toAll_ms,
    State.commitLevels_wf, State.afterEpoch_wf, State.sendTo_ms, foldl_wf]

theorem State.linkLost_wf {s : State} (a b : Nat) (h : s.ms.mem.wf = true) : (s.linkLost a b).ms.mem.wf = true := by
  grind [State.linkLost, State.declareLost_wf, State.publish_wf]

theorem State.reportLink_wf {s : State} (port : Nat) (id : DWord) (h : s.ms.mem.wf = true) :
    (s.reportLink port id).ms.mem.wf = true := by
  grind [State.reportLink, State.linkLost_wf, State.sendTo_ms]

/-! #### Links -/

theorem State.widthChanged_wf {s : State} (n : Nat) (h : s.ms.mem.wf = true) : (s.widthChanged n).ms.mem.wf = true := by
  grind [State.widthChanged, State.keeperEvent_wf, State.countModule_ms]

theorem State.portDown_wf {s : State} (n : Nat) (h : s.ms.mem.wf = true) : (s.portDown n).ms.mem.wf = true := by
  grind [State.portDown, State.widthChanged_wf, State.updPort_ms, State.reportLink_wf]

theorem execCablePresent_wf {s t : State} (port : Nat) (seated : Bool) (h : s.ms.mem.wf = true)
    (ht : execCablePresent port seated s = .next t) : t.ms.mem.wf = true := by
  grind [execCablePresent, State.updPort_ms, State.portDown_wf]

@[simp] theorem State.sendPort_ms (s : State) (n : Nat) (b : MsgBody) : (s.sendPort n b).ms = s.ms := by
  grind [State.sendPort, State.send_ms]

@[simp] theorem State.sendHello_ms (s : State) (n : Nat) : (s.sendHello n).ms = s.ms := by
  grind [State.sendHello, State.sendPort_ms]

theorem execHello_ms {s t : State} (port : Nat) (spanId : BitVec 32) (info : ModInfo)
    (ht : execHello port spanId info s = .next t) : t.ms = s.ms := by
  grind [execHello, State.updPort_ms, State.sendHello_ms]

theorem execPortTrained_ms {s t : State} (port : Nat) (link : LinkTraining)
    (ht : execPortTrained port link s = .next t) : t.ms = s.ms := by
  grind [execPortTrained, State.updPort_ms, State.sendPort_ms]

theorem execHelloTimeout_ms {s t : State} (port : Nat) (ht : execHelloTimeout port s = .next t) : t.ms = s.ms := by
  grind [execHelloTimeout, State.sendHello_ms, State.updPort_ms]

theorem execLaneFailure_wf {s t : State} (port lane : Nat) (h : s.ms.mem.wf = true)
    (ht : execLaneFailure port lane s = .next t) : t.ms.mem.wf = true := by
  grind [execLaneFailure, State.updPort_ms, State.portDown_wf, State.widthChanged_wf]

theorem execIdleFlit_ms {s t : State} (port : Nat) (ack : BitVec 16) (cvc ccnt : Nat)
    (ht : execIdleFlit port ack cvc ccnt s = .next t) : t.ms = s.ms := by
  grind [execIdleFlit, State.updPort_ms]

theorem execRetryRequest_wf {s t : State} (port : Nat) (ack : BitVec 16) (h : s.ms.mem.wf = true)
    (ht : execRetryRequest port ack s = .next t) : t.ms.mem.wf = true := by
  grind [execRetryRequest, State.updPort_ms, State.portDown_wf]

theorem execUncorrectableCodeword_ms {s t : State} (port : Nat) (ht : execUncorrectableCodeword port s = .next t) :
    t.ms = s.ms := by
  grind [execUncorrectableCodeword, State.updPort_ms]

theorem execPortDownTimeout_wf {s t : State} (port : Nat) (h : s.ms.mem.wf = true)
    (ht : execPortDownTimeout port s = .next t) : t.ms.mem.wf = true := by
  grind [execPortDownTimeout, State.portDown_wf]

@[simp] theorem State.forward_ms (s : State) (hdr : MsgHdr) (b : MsgBody) : (s.forward hdr b).ms = s.ms := by
  grind [State.forward, State.send_ms]

@[simp] theorem State.tookFlits_ms (s : State) (hdr : MsgHdr) (b : MsgBody) : (s.tookFlits hdr b).ms = s.ms := rfl

/-- A message that arrives keeps memory canonical where taking it does. -/
theorem State.receive_wf {s : State} (hdr : MsgHdr) (b : MsgBody) {f : State → Option State} (h : s.ms.mem.wf = true)
    (hf : ∀ t u, t.ms.mem.wf = true → f t = some u → u.ms.mem.wf = true) : (s.receive hdr b f).ms.mem.wf = true := by
  have h1 : (s.tookFlits hdr b).ms.mem.wf = true := by simpa using h
  have h2 := hf (s.tookFlits hdr b)
  cases h3 : f (s.tookFlits hdr b) <;> grind [State.receive, State.forward_ms]

theorem execReservedOpMessage_ms {s t : State} (hdr : MsgHdr) (op : Byte)
    (ht : execReservedOpMessage hdr op s = .next t) : t.ms = s.ms := by
  grind [execReservedOpMessage, State.countModule_ms, State.updPort_ms]

/-! #### Spans -/

theorem State.receiveAny_wf {s : State} (hdr : MsgHdr) (b : MsgBody) {f : State → State} (h : s.ms.mem.wf = true)
    (hf : ∀ t, t.ms.mem.wf = true → (f t).ms.mem.wf = true) : (s.receiveAny hdr b f).ms.mem.wf = true := by
  grind [State.receiveAny, State.tookFlits_ms]

theorem State.control_wf {s : State} (hdr : MsgHdr) (b : MsgBody) {f : State → State} (h : s.ms.mem.wf = true)
    (hf : ∀ t, t.ms.mem.wf = true → (f t).ms.mem.wf = true) : (s.control hdr b f).ms.mem.wf = true := by
  grind [State.control, State.receive_wf]

@[simp] theorem State.startForming_ms (s : State) : s.startForming.ms = s.ms := by
  grind [State.startForming, State.sendHello_ms, State.sendPort_ms, State.wake_ms, foldl_ms]

theorem execAnnounce_wf {s t : State} (hdr : MsgHdr) (known : List ModInfo) (h : s.ms.mem.wf = true)
    (ht : execAnnounce hdr known s = .next t) : t.ms.mem.wf = true := by
  grind [execAnnounce, State.receiveAny_wf, State.sendPort_ms, foldl_wf]

theorem State.formSpan_wf {s : State} (h : s.ms.mem.wf = true) : s.formSpan.ms.mem.wf = true := by
  grind [State.formSpan, State.renameHere_ms, State.publish_wf, State.becomeMaster_ms, foldl_wf]

theorem execMasterSelect_wf {s t : State} (h : s.ms.mem.wf = true) (ht : execMasterSelect s = .next t) :
    t.ms.mem.wf = true := by
  grind [execMasterSelect, State.formSpan_wf]

theorem State.admitMember_wf {s : State} (port : Nat) (i : ModInfo) (h : s.ms.mem.wf = true) :
    (s.admitMember port i).ms.mem.wf = true := by
  grind [State.admitMember, State.sendPort_ms, State.publish_wf]

theorem execJoin_wf {s t : State} (hdr : MsgHdr) (info : ModInfo) (h : s.ms.mem.wf = true)
    (ht : execJoin hdr info s = .next t) : t.ms.mem.wf = true := by
  grind [execJoin, State.receiveAny_wf, State.admitMember_wf, State.sendTo_ms]

theorem execJoinRefusal_wf {s t : State} (hdr : MsgHdr) (reason : JoinReason) (h : s.ms.mem.wf = true)
    (ht : execJoinRefusal hdr reason s = .next t) : t.ms.mem.wf = true := by
  cases reason <;> grind [execJoinRefusal, State.receiveAny_wf]

theorem State.leftSpan_wf {s : State} (h : s.ms.mem.wf = true) : s.leftSpan.ms.mem.wf = true := by
  grind [State.leftSpan, State.reportAll_wf, State.haspSettleAll_wf, State.outOfSpan_wf, State.startForming_ms]

theorem State.enterSpan_wf {s : State} (hdr : MsgHdr) (e : RosterEntry) (members : List RosterEntry) (lv : Levels)
    (h : s.ms.mem.wf = true) : (s.enterSpan hdr e members lv).ms.mem.wf = true := by
  grind [State.enterSpan, State.renameHere_ms, State.sendTo_ms, State.afterEpoch_wf, State.toEpoch_wf]

theorem State.adoptRoster_wf {s : State} (hdr : MsgHdr) (members : List RosterEntry) (lv : Levels)
    (h : s.ms.mem.wf = true) : (s.adoptRoster hdr members lv).ms.mem.wf = true := by
  grind [State.adoptRoster, State.loseMember_wf, State.reportAll_wf, State.afterEpoch_wf, State.toEpoch_wf, foldl_wf]

theorem execRoster_wf {s t : State} (hdr : MsgHdr) (members : List RosterEntry) (levels : Levels)
    (h : s.ms.mem.wf = true) (ht : execRoster hdr members levels s = .next t) : t.ms.mem.wf = true := by
  grind [execRoster, State.receive_wf, State.enterSpan_wf, State.adoptRoster_wf, State.isolate_wf, State.leftSpan_wf]

theorem execHeartbeat_wf {s t : State} (hdr : MsgHdr) (levels : Levels) (h : s.ms.mem.wf = true)
    (ht : execHeartbeat hdr levels s = .next t) : t.ms.mem.wf = true := by
  grind [execHeartbeat, State.control_wf, State.publish_wf]

theorem execHeartbeatSend_ms {s t : State} (ht : execHeartbeatSend s = .next t) : t.ms = s.ms := by
  grind [execHeartbeatSend, State.toAll_ms, State.sendTo_ms]

theorem execMemberLossTimeout_wf {s t : State} (member : Nat) (h : s.ms.mem.wf = true)
    (ht : execMemberLossTimeout member s = .next t) : t.ms.mem.wf = true := by
  unfold execMemberLossTimeout at ht
  dsimp only at ht
  split at ht <;> obtain rfl := Host.Outcome.next.inj ht
  · exact h
  · exact State.declareLost_wf _ h

theorem execMasterLossTimeout_wf {s t : State} (h : s.ms.mem.wf = true) (ht : execMasterLossTimeout s = .next t) :
    t.ms.mem.wf = true := by
  grind [execMasterLossTimeout, State.isolate_wf, State.declareLost_wf, State.becomeMaster_ms, State.loseMember_wf]

theorem execLost_wf {s t : State} (hdr : MsgHdr) (member : Nat) (h : s.ms.mem.wf = true)
    (ht : execLost hdr member s = .next t) : t.ms.mem.wf = true := by
  grind [execLost, State.control_wf, State.leftSpan_wf, State.isolate_wf, State.loseMember_wf]

theorem execLinkdown_wf {s t : State} (hdr : MsgHdr) (a b : Nat) (h : s.ms.mem.wf = true)
    (ht : execLinkdown hdr a b s = .next t) : t.ms.mem.wf = true := by
  grind [execLinkdown, State.control_wf, State.linkLost_wf]

theorem State.removeLeaver_wf {s : State} (p : Nat) (h : s.ms.mem.wf = true) : (s.removeLeaver p).ms.mem.wf = true := by
  grind [State.removeLeaver, State.loseMember_wf, State.publish_wf, State.send_ms]

theorem execLeave_wf {s t : State} (hdr : MsgHdr) (h : s.ms.mem.wf = true) (ht : execLeave hdr s = .next t) :
    t.ms.mem.wf = true := by
  grind [execLeave, State.control_wf, State.removeLeaver_wf, State.becomeMaster_ms]

theorem execLeaveDrained_wf {s t : State} (h : s.ms.mem.wf = true) (ht : execLeaveDrained s = .next t) :
    t.ms.mem.wf = true := by
  grind [execLeaveDrained, State.leftSpan_wf, State.sendTo_ms]

theorem execLevelCommitStart_wf {s t : State} (h : s.ms.mem.wf = true) (ht : execLevelCommitStart s = .next t) :
    t.ms.mem.wf = true := by
  grind [execLevelCommitStart, State.drained_wf, State.startCommit_ms]

theorem execLevelprep_wf {s t : State} (hdr : MsgHdr) (levels : Levels) (h : s.ms.mem.wf = true)
    (ht : execLevelprep hdr levels s = .next t) : t.ms.mem.wf = true := by
  grind [execLevelprep, State.control_wf, State.drained_wf]

theorem execLevelprepReply_wf {s t : State} (hdr : MsgHdr) (h : s.ms.mem.wf = true)
    (ht : execLevelprepReply hdr s = .next t) : t.ms.mem.wf = true := by
  grind [execLevelprepReply, State.control_wf, State.commitLevels_wf]

theorem execLevelcommit_wf {s t : State} (hdr : MsgHdr) (levels : Levels) (h : s.ms.mem.wf = true)
    (ht : execLevelcommit hdr levels s = .next t) : t.ms.mem.wf = true := by
  grind [execLevelcommit, State.control_wf, State.afterEpoch_wf, State.toEpoch_wf]

theorem State.haspMessage_wf {s : State} (hdr : MsgHdr) (rel : Bool) (line gen : Nat) (h : s.ms.mem.wf = true) :
    (s.haspMessage hdr rel line gen).ms.mem.wf = true := by
  grind [State.haspMessage, State.haspHeld_wf]

theorem execHasparr_wf {s t : State} (hdr : MsgHdr) (line gen : Nat) (h : s.ms.mem.wf = true)
    (ht : execHasparr hdr line gen s = .next t) : t.ms.mem.wf = true := by
  grind [execHasparr, State.receive_wf, State.haspMessage_wf]

theorem execHasprel_wf {s t : State} (hdr : MsgHdr) (line gen : Nat) (h : s.ms.mem.wf = true)
    (ht : execHasprel hdr line gen s = .next t) : t.ms.mem.wf = true := by
  grind [execHasprel, State.receive_wf, State.haspMessage_wf]

@[simp] theorem State.writeSpancfg_ms (s : State) (v : DWord) : (s.writeSpancfg v).state.ms = s.ms := by
  grind [State.writeSpancfg, RegW.state, State.startForming_ms]

theorem execSpancfgEnSet_wf {s t : State} (req : Requester) (v : DWord) (h : s.ms.mem.wf = true)
    (ht : execSpancfgEnSet req v s = .next t) : t.ms.mem.wf = true := by
  grind [RegW.state, execSpancfgEnSet, State.winWrite_wf, State.writeSpancfg_ms]

theorem execSpancfgEnClear_wf {s t : State} (req : Requester) (v : DWord) (h : s.ms.mem.wf = true)
    (ht : execSpancfgEnClear req v s = .next t) : t.ms.mem.wf = true := by
  grind [RegW.state, execSpancfgEnClear, State.winWrite_wf, State.writeSpancfg_ms]

theorem State.writeSpanctl_wf {s : State} (v : DWord) (h : s.ms.mem.wf = true) :
    (s.writeSpanctl v).state.ms.mem.wf = true := by
  grind [State.writeSpanctl, RegW.state, State.drained_wf, State.startCommit_ms]

theorem execSpSpanctlRelease_wf {s t : State} (req : Requester) (v : DWord) (h : s.ms.mem.wf = true)
    (ht : execSpSpanctlRelease req v s = .next t) : t.ms.mem.wf = true := by
  grind [RegW.state, execSpSpanctlRelease, State.winWrite_wf, State.writeSpanctl_wf]

theorem execSpSpanctlLower_wf {s t : State} (req : Requester) (v : DWord) (h : s.ms.mem.wf = true)
    (ht : execSpSpanctlLower req v s = .next t) : t.ms.mem.wf = true := by
  grind [RegW.state, execSpSpanctlLower, State.winWrite_wf, State.writeSpanctl_wf]

/-! #### Serve -/

theorem State.takeServed_wf {s : State} (l : Launch) (h : s.ms.mem.wf = true) : (s.takeServed l).ms.mem.wf = true := by
  grind [State.takeServed, State.pin_wf, foldl_wf]

theorem State.placeMessage_wf {s t : State} (hdr : MsgHdr) (scid : Nat) (f : LaunchFields) (h : s.ms.mem.wf = true)
    (ht : s.placeMessage hdr scid f = some t) : t.ms.mem.wf = true := by
  grind [State.placeMessage, State.sendTo_ms, State.takeServed_wf, State.feFault_wf, State.sawPage_ms]

theorem execPlace_wf {s t : State} (hdr : MsgHdr) (scid : Nat) (fields : LaunchFields) (h : s.ms.mem.wf = true)
    (ht : execPlace hdr scid fields s = .next t) : t.ms.mem.wf = true := by
  grind [execPlace, State.receive_wf, State.placeMessage_wf, State.pageRequest_ms]

theorem execPlaceRefusal_wf {s t : State} (hdr : MsgHdr) (lnum : Nat) (h : s.ms.mem.wf = true)
    (ht : execPlaceRefusal hdr lnum s = .next t) : t.ms.mem.wf = true := by
  grind [execPlaceRefusal, State.control_wf, State.updLaunch_ms]

@[simp] theorem State.answerPull_ms (s : State) (hdr : MsgHdr) (lnum : Nat) : (s.answerPull hdr lnum).ms = s.ms := by
  grind [State.answerPull, State.sendTo_ms, State.updLaunch_ms]

theorem State.takeBatch_wf {s : State} (src lnum : Nat) (ts : List Nat) (h : s.ms.mem.wf = true) :
    (s.takeBatch src lnum ts).ms.mem.wf = true := by
  grind [State.takeBatch, State.reportServed_wf, State.updLaunch_ms]

theorem execPull_wf {s t : State} (hdr : MsgHdr) (lnum : Nat) (answer : Option (List Nat)) (h : s.ms.mem.wf = true)
    (ht : execPull hdr lnum answer s = .next t) : t.ms.mem.wf = true := by
  cases answer <;> grind [execPull, State.control_wf, State.answerPull_ms, State.takeBatch_wf]

theorem execTiledone_wf {s t : State} (hdr : MsgHdr) (lnum : Nat) (report : BatchReport) (faulted : Bool)
    (h : s.ms.mem.wf = true) (ht : execTiledone hdr lnum report faulted s = .next t) : t.ms.mem.wf = true := by
  grind [execTiledone, State.control_wf, State.updLaunch_ms]

theorem State.relayIn_ms {s t : State} (m : RelayMsg) (ht : s.relayIn m = some t) :
    t.ms = s.ms := by
  grind [State.relayIn, State.setCore_ms, Option.map_eq_some_iff]

theorem execRelay_wf {s t : State} (hdr : MsgHdr) (msg : RelayMsg) (h : s.ms.mem.wf = true)
    (ht : execRelay hdr msg s = .next t) : t.ms.mem.wf = true := by
  grind [execRelay, State.receive_wf, State.relayIn_ms]

/-! #### Windows -/

theorem State.serveWindow_wf {s : State} (hdr : MsgHdr) (b : MsgBody) (pa n : Nat) {f : State → Option State}
    (h : s.ms.mem.wf = true) (hf : ∀ t u, t.ms.mem.wf = true → f t = some u → u.ms.mem.wf = true) :
    (s.serveWindow hdr b pa n f).ms.mem.wf = true := by
  grind [State.serveWindow, State.receive_wf, State.countModule_ms, State.sendTo_ms]

@[simp] theorem State.answerTo_ms (s : State) (hdr : MsgHdr) (b : MsgBody) : (s.answerTo hdr b).ms = s.ms := by
  grind [State.answerTo, State.sendTo_ms]

theorem execRead_wf {s t : State} (hdr : MsgHdr) (pa len : Nat) (cacheable : Bool) (h : s.ms.mem.wf = true)
    (ht : execRead hdr pa len cacheable s = .next t) : t.ms.mem.wf = true := by
  grind [execRead, State.serveWindow_wf, State.draw_ms, State.answerTo_ms]

theorem State.windowWrite_wf {s : State} (hdr : MsgHdr) (pa : Nat) (bytes : List Byte) (cacheable wantDone : Bool)
    (h : s.ms.mem.wf = true) : (s.windowWrite hdr pa bytes cacheable wantDone).ms.mem.wf = true := by
  grind [State.windowWrite, State.answerTo_ms, State.targetWrite_wf]

theorem execWrite_wf {s t : State} (hdr : MsgHdr) (pa : Nat) (bytes : List Byte) (cacheable wantDone : Bool)
    (h : s.ms.mem.wf = true) (ht : execWrite hdr pa bytes cacheable wantDone s = .next t) : t.ms.mem.wf = true := by
  grind [execWrite, State.serveWindow_wf, State.windowWrite_wf]

theorem execBulkwrite_wf {s t : State} (hdr : MsgHdr) (pa : Nat) (bytes : List Byte) (cacheable wantDone : Bool)
    (h : s.ms.mem.wf = true) (ht : execBulkwrite hdr pa bytes cacheable wantDone s = .next t) :
    t.ms.mem.wf = true := by
  grind [execBulkwrite, State.serveWindow_wf, State.windowWrite_wf]

theorem State.doAtom_wf {s : State} (nonce : Nat) (op : AtomOp) (width : Nat) (signed : Bool) (tag : Nat) (t : Target)
    (lanes : List (Nat × DWord × DWord)) {d : AtomDone} (h : s.ms.mem.wf = true)
    (hd : s.doAtom nonce op width signed tag t lanes = some d) : d.1.ms.mem.wf = true := by
  cases t <;> grind [State.doAtom, State.runAtom_wf, State.clearEmpty_ms]

theorem execAtomic_wf {s t : State} (hdr : MsgHdr) (pa width : Nat) (op : AtomOp) (signed : Bool)
    (operands : List (DWord × DWord)) (cacheable : Bool) (h : s.ms.mem.wf = true)
    (ht : execAtomic hdr pa width op signed operands cacheable s = .next t) : t.ms.mem.wf = true := by
  obtain rfl := Host.Outcome.next.inj ht
  refine State.serveWindow_wf _ _ _ _ h fun v u hv hu => ?_
  obtain ⟨d, hd, rfl⟩ := Option.map_eq_some_iff.1 hu
  simpa using State.doAtom_wf _ _ _ _ _ _ _ hv hd

theorem execLrMessage_wf {s t : State} (hdr : MsgHdr) (pa width : Nat) (lane : PeerLane) (h : s.ms.mem.wf = true)
    (ht : execLrMessage hdr pa width lane s = .next t) : t.ms.mem.wf = true := by
  grind [execLrMessage, State.serveWindow_wf, State.answerTo_ms]

theorem execScMessage_wf {s t : State} (hdr : MsgHdr) (pa : Nat) (bytes : List Byte) (lane : PeerLane)
    (h : s.ms.mem.wf = true) (ht : execScMessage hdr pa bytes lane s = .next t) : t.ms.mem.wf = true := by
  grind [execScMessage, State.serveWindow_wf, State.answerTo_ms, State.killResv_ms, State.targetWrite_wf]

theorem State.answered_wf {s : State} (hdr : MsgHdr) (b : MsgBody) {f : State → State} (h : s.ms.mem.wf = true)
    (hf : ∀ t, t.ms.mem.wf = true → (f t).ms.mem.wf = true) : (s.answered hdr b f).ms.mem.wf = true := by
  grind [State.answered, State.receive_wf]

@[simp] theorem State.takeData_ms (s : State) (tx : Nat) (bytes : List Byte) (poison : Bool) :
    (s.takeData tx bytes poison).ms = s.ms := rfl

theorem execData_wf {s t : State} (hdr : MsgHdr) (bytes : List Byte) (poison : Bool) (h : s.ms.mem.wf = true)
    (ht : execData hdr bytes poison s = .next t) : t.ms.mem.wf = true := by
  grind [execData, State.answered_wf, State.afterAnswer_wf, State.endTx_ms, State.takeData_ms]

theorem execBulkdata_wf {s t : State} (hdr : MsgHdr) (bytes : List Byte) (poison : Bool) (h : s.ms.mem.wf = true)
    (ht : execBulkdata hdr bytes poison s = .next t) : t.ms.mem.wf = true := by
  grind [execBulkdata, State.answered_wf, State.afterAnswer_wf, State.endTx_ms, State.takeData_ms]

@[simp] theorem State.takeVis_ms (s : State) (tx : Nat) : (s.takeVis tx).ms = s.ms := by
  grind [State.takeVis, State.updLaunch_ms, foldl_ms]

@[simp] theorem State.takeDone_ms (s : State) (tx : Nat) : (s.takeDone tx).ms = s.ms := rfl

theorem execVisack_wf {s t : State} (hdr : MsgHdr) (h : s.ms.mem.wf = true) (ht : execVisack hdr s = .next t) :
    t.ms.mem.wf = true := by
  grind [execVisack, State.answered_wf, State.afterAnswer_wf, State.takeVis_ms]

theorem execDoneack_wf {s t : State} (hdr : MsgHdr) (h : s.ms.mem.wf = true) (ht : execDoneack hdr s = .next t) :
    t.ms.mem.wf = true := by
  grind [execDoneack, State.answered_wf, State.afterAnswer_wf, State.endTx_ms, State.takeDone_ms, State.takeVis_ms]

@[simp] theorem State.takeDenial_ms (s : State) (tx : Nat) : (s.takeDenial tx).ms = s.ms := by
  grind [State.takeDenial, State.countCtx_ms, foldl_ms]

theorem execDeny_wf {s t : State} (hdr : MsgHdr) (h : s.ms.mem.wf = true) (ht : execDeny hdr s = .next t) :
    t.ms.mem.wf = true := by
  grind [execDeny, State.answered_wf, State.afterAnswer_wf, State.endTx_ms, State.takeDenial_ms]

theorem execTarriveMessage_wf {s t : State} (hdr : MsgHdr) (tumbler scid : Nat) (op : TumOp) (h : s.ms.mem.wf = true)
    (ht : execTarriveMessage hdr tumbler scid op s = .next t) : t.ms.mem.wf = true := by
  grind [execTarriveMessage, State.receive_wf, State.setTum_ms, State.draw_ms, State.sendTo_ms]

theorem execTmapchk_wf {s t : State} (hdr : MsgHdr) (tumbler scid : Nat) (shared : Bool) (h : s.ms.mem.wf = true)
    (ht : execTmapchk hdr tumbler scid shared s = .next t) : t.ms.mem.wf = true := by
  grind [execTmapchk, State.receive_wf, State.sendTo_ms]

theorem execTwake_wf {s t : State} (hdr : MsgHdr) (outcome : Bool) (h : s.ms.mem.wf = true)
    (ht : execTwake hdr outcome s = .next t) : t.ms.mem.wf = true := by
  grind [execTwake, State.answered_wf, State.endTumWait_wf, State.endTx_ms, State.afterAnswer_wf, foldl_wf]

@[simp] theorem State.writeWininv_ms (s : State) (v : DWord) : (s.writeWininv v).ms = s.ms := by
  grind [State.writeWininv, State.settleInv_ms]

theorem execSpWininv_wf {s t : State} (req : Requester) (v : DWord) (h : s.ms.mem.wf = true)
    (ht : execSpWininv req v s = .next t) : t.ms.mem.wf = true := by
  grind [RegW.state, execSpWininv, State.winWrite_wf, State.writeWininv_ms]

theorem State.idle_wf {s : State} (h : s.ms.mem.wf = true) : s.idle.ms.mem.wf = true := by
  grind [State.idle, State.settleRise_wf, State.settleInv_ms, State.tick_wf]

theorem execTbsync_wf {s t : State} (hdr : MsgHdr) (time : DWord) (before : Nat) (h : s.ms.mem.wf = true)
    (ht : execTbsync hdr time before s = .next t) : t.ms.mem.wf = true := by
  grind [execTbsync, State.receive_wf]

/-! #### Registers -/

@[simp] theorem State.readMcount_ms (s : State) (n : Nat) : (s.readMcount n).2.ms = s.ms := by
  grind [State.readMcount, State.setDenied_ms]

@[simp] theorem State.readReg_ms (s : State) (r : SetReg) :
    (s.readReg r).2.ms = s.ms := by
  cases r <;> grind [State.readReg, State.seeStage_ms, State.readNonce_ms, State.readRdata_ms, State.readMcount_ms]

theorem State.writeBase_wf {s : State} (a n : Nat) (locked : Bool) {f : State → State} (h : s.ms.mem.wf = true)
    (hf : (f s).ms.mem.wf = true) : (s.writeBase a n locked f).state.ms.mem.wf = true := by
  grind [State.writeBase, RegW.state]

theorem State.writeTrace_wf {s : State} (base size : Nat) (h : s.ms.mem.wf = true) :
    (s.writeTrace base size).state.ms.mem.wf = true := by
  grind [State.writeTrace, RegW.state, State.writeBase_wf]

theorem State.writeReg_wf {s : State} (r : SetReg) (v : DWord) (h : s.ms.mem.wf = true) :
    (s.writeReg r v).state.ms.mem.wf = true := by
  cases r with
  | feCtl => exact State.writeFeCtl_wf v h
  | feCtxon => exact State.writeCtxon_wf v h
  | feCtxoff => exact State.writeCtxoff_wf v h
  | mpShareways => exact State.writeShareways_wf v h
  | mpHostplan => exact State.writeHostplan_wf v h
  | tmReset => exact State.tumReset_wf _ v h
  | spSpancfg => exact wf_of_ms h (State.writeSpancfg_ms s v)
  | spSpanctl => exact State.writeSpanctl_wf v h
  | spWininv => exact wf_of_ms h (State.writeWininv_ms s v)
  | pwCtl => exact wf_of_ms h (State.writePwCtl_ms s v)
  | scBootstat => exact wf_of_ms h (State.writeBootstat_ms s v)
  | scTokaddr => exact wf_of_ms h (State.writeTokaddr_ms s v)
  | scTokrevoke => exact State.endToken_wf _ h
  | scColdrst => exact State.writeColdrst_wf v h
  | scUpdctl => exact wf_of_ms h (State.writeUpdctl_ms s v)
  | dbGctl => exact State.writeGctl_wf v h
  | dbHofset => exact wf_of_ms h (State.writeHof_ms s v true)
  | dbHofclr => exact wf_of_ms h (State.writeHof_ms s v false)
  | dbRdata => exact wf_of_ms h (State.writeRdata_ms s v)
  | dbTrbase | dbTrsize => exact State.writeTrace_wf _ _ h
  | dbTrctl => exact State.writeTrctl_wf v h
  | dbTrward => exact wf_of_ms h (State.writeTrward_ms s v)
  | dbBpa n => exact wf_of_ms h (State.writeBp_ms s false false n v)
  | dbBpc n => exact wf_of_ms h (State.writeBp_ms s false true n v)
  | dbWpa n => exact wf_of_ms h (State.writeBp_ms s true false n v)
  | dbWpc n => exact wf_of_ms h (State.writeBp_ms s true true n v)
  | hgHostrst => exact State.writeHostrst_wf v h
  | hgEpochopen => exact State.writeEpochopen_wf v h
  | hgHartrun => exact wf_of_ms h (State.writeHartrun_ms s false v)
  | hgHartrunhi => exact wf_of_ms h (State.writeHartrun_ms s true v)
  | feCtxbase | feSlotbase | feRingbase | wdWardbase | spWintab | spSctab | pwExcbase | dbElbase | ctCtxbase =>
    simp only [State.writeReg]
    exact State.writeBase_wf _ _ _ h h
  | _ => exact h

theorem State.regWrite_wf {s : State} (req : Requester) (off width : Nat) (v : DWord) (h : s.ms.mem.wf = true) :
    (s.regWrite req off width v).ms.mem.wf = true := by
  refine State.winWrite_wf _ _ _ h fun t ht => ?_
  split
  · exact State.writeReg_wf _ _ ht
  · exact ht

theorem State.regRead_wf {s : State} (req : Requester) (offset width : Nat) (h : s.ms.mem.wf = true) :
    (s.regRead req offset width).ms.mem.wf = true := by
  grind [State.regRead, State.winRead_wf, State.readReg_ms]

@[simp] theorem State.putRecovery_ms (s : State) (a : Nat) (bs : List Byte) : (s.putRecovery a bs).ms = s.ms := rfl

theorem execRegisterWrite_wf {s t : State} (req : Requester) (offset width : Nat) (v : DWord) (h : s.ms.mem.wf = true)
    (ht : execRegisterWrite req offset width v s = .next t) : t.ms.mem.wf = true := by
  grind [execRegisterWrite, State.putRecovery_ms, State.regWrite_wf]

theorem execRegisterRead_wf {s t : State} (req : Requester) (offset width : Nat) (h : s.ms.mem.wf = true)
    (ht : execRegisterRead req offset width s = .next t) : t.ms.mem.wf = true := by
  grind [execRegisterRead, State.regRead_wf]

/-! #### HostMap -/

@[simp] theorem State.mtimerWrite_ms (s : State) (off : Nat) (bs : List Byte) : (s.mtimerWrite off bs).ms = s.ms := by
  grind [State.mtimerWrite]

@[simp] theorem State.aplicWrite_ms (s : State) (dom off v : Nat) : (s.aplicWrite dom off v).ms = s.ms := by
  unfold State.aplicWrite
  rw [foldl_ms (fun _ _ => State.aplicDeliver_ms _ _)]
  simp [apply_ite State.ms, foldl_ms]

@[simp] theorem State.deviceBytes_ms (s : State) (pa n : Nat) : (s.deviceBytes pa n).1.ms = s.ms := rfl

theorem State.hostDevRead_wf {s : State} (hart pa n : Nat) (d : HostDev) (h : s.ms.mem.wf = true) :
    (s.hostDevRead hart pa n d).1.ms.mem.wf = true := by
  cases d <;> grind [State.hostDevRead, State.regRead_wf, State.seeTime_ms, State.deviceBytes_ms]

@[simp] theorem State.rportOut_ms (s : State) (p : Nat) (bs : List Byte) : (s.rportOut p bs).ms = s.ms := rfl

theorem State.hostDevWrite_wf {s : State} (hart pa : Nat) (bs : List Byte) (d : HostDev) (h : s.ms.mem.wf = true) :
    (s.hostDevWrite hart pa bs d).ms.mem.wf = true := by
  cases d <;> grind [State.hostDevWrite, State.regWrite_wf, State.mtimerWrite_ms, State.aplicWrite_ms, State.msi_ms,
    State.rportOut_ms, State.mmioWrite_ms]

theorem State.hostDevAccess_wf {s : State} (hart : Nat) (a : HostAcc) (d : HostDev) (h : s.ms.mem.wf = true) :
    (s.hostDevAccess hart a d).ms.mem.wf = true := by
  have read := State.hostDevRead_wf hart (hostPa a) (hostLen a) d h
  cases a <;> grind [State.hostDevAccess, State.hostGives_ms, State.hostDevWrite_wf]

theorem State.hostUncached_wf {s : State} (hart : Nat) (a : HostAcc) (h : s.ms.mem.wf = true) :
    (s.hostUncached hart a).ms.mem.wf = true := by
  cases a <;> grind [State.hostUncached, State.killResv_ms, State.targetWrite_wf, State.hostGives_ms, State.updHart_ms,
    State.hostPoison_ms]

theorem execHostMemoryAccess_wf {s t : State} (hart : Nat) (acc : HostAcc) (uncached : Bool) (h : s.ms.mem.wf = true)
    (ht : execHostMemoryAccess hart acc uncached s = .next t) : t.ms.mem.wf = true := by
  grind [execHostMemoryAccess, State.updHart_ms, State.draw_ms, State.hostUncached_wf, State.hostStep_ms,
    State.hostDevAccess_wf]

theorem State.dmaPut_wf {s : State} (tag : Nat) (bs : List Byte) (ps : List (Nat × Nat)) (h : s.ms.mem.wf = true) :
    (s.dmaPut tag bs ps).ms.mem.wf = true := by
  induction ps generalizing s bs with
  | nil => exact h
  | cons p ps ih => exact ih _ (State.cohWrite_wf _ _ _ _ h)

@[simp] theorem State.dmaGives_ms (s : State) (bs : List Byte) (ep ur : Bool) : (s.dmaGives bs ep ur).ms = s.ms := rfl

theorem execDmaWrite_wf {s t : State} (port : Nat) (dst : DmaAddr) (bytes : List Byte) (h : s.ms.mem.wf = true)
    (ht : execDmaWrite port dst bytes s = .next t) : t.ms.mem.wf = true := by
  grind [execDmaWrite, State.draw_ms, State.dmaGives_ms, State.updRport_ms, State.msi_ms, State.dmaPut_wf]

theorem execDmaRead_ms {s t : State} (port : Nat) (src : DmaAddr) (len : Nat)
    (ht : execDmaRead port src len s = .next t) : t.ms = s.ms := by
  grind [execDmaRead, State.draw_ms, State.dmaGives_ms, State.rportOut_ms, State.updRport_ms]

theorem execRootPortLinkEvent_ms {s t : State} (port : Nat) (ev : RpEvent)
    (ht : execRootPortLinkEvent port ev s = .next t) : t.ms = s.ms := by
  cases ev <;> grind [execRootPortLinkEvent, State.raiseAplic_ms, State.updRport_ms]

/-! #### Dispatch -/

/-- Every command that the model executes keeps memory canonical: one lemma a command. -/
theorem exec_wf {s t : State} (i : Instr) (h : s.ms.mem.wf = true) (ht : exec i s = .next t) :
    t.ms.mem.wf = true := by
  cases i with
  | add _ _ => exact execAdd_wf _ _ h ht
  | sub _ _ => exact execSub_wf _ _ h ht
  | mul _ _ => exact execMul_wf _ _ h ht
  | muladd _ _ => exact execMuladd_wf _ _ h ht
  | and _ _ => exact execAnd_wf _ _ h ht
  | or _ _ => exact execOr_wf _ _ h ht
  | xor _ _ => exact execXor_wf _ _ h ht
  | not _ _ => exact execNot_wf _ _ h ht
  | shiftl _ _ => exact execShiftl_wf _ _ h ht
  | shiftr _ _ => exact execShiftr_wf _ _ h ht
  | min _ _ => exact execMin_wf _ _ h ht
  | max _ _ => exact execMax_wf _ _ h ht
  | cmp _ _ => exact execCmp_wf _ _ h ht
  | bitcnt _ _ => exact execBitcnt_wf _ _ h ht
  | leadz _ _ => exact execLeadz_wf _ _ h ht
  | bitrev _ _ => exact execBitrev_wf _ _ h ht
  | bytesel _ _ => exact execBytesel_wf _ _ h ht
  | mov _ _ => exact execMov_wf _ _ h ht
  | pick _ _ => exact execPick_wf _ _ h ht
  | addI _ _ => exact execAddI_wf _ _ h ht
  | andI _ _ => exact execAndI_wf _ _ h ht
  | orI _ _ => exact execOrI_wf _ _ h ht
  | xorI _ _ => exact execXorI_wf _ _ h ht
  | shiftlI _ _ => exact execShiftlI_wf _ _ h ht
  | shiftrI _ _ => exact execShiftrI_wf _ _ h ht
  | cmpI _ _ => exact execCmpI_wf _ _ h ht
  | movI _ _ => exact execMovI_wf _ _ h ht
  | fadd _ _ => exact execFadd_wf _ _ h ht
  | fsub _ _ => exact execFsub_wf _ _ h ht
  | fmul _ _ => exact execFmul_wf _ _ h ht
  | fma _ _ => exact execFma_wf _ _ h ht
  | fmin _ _ => exact execFmin_wf _ _ h ht
  | fmax _ _ => exact execFmax_wf _ _ h ht
  | fcmp _ _ => exact execFcmp_wf _ _ h ht
  | fabs _ _ => exact execFabs_wf _ _ h ht
  | fneg _ _ => exact execFneg_wf _ _ h ht
  | fcpys _ _ => exact execFcpys_wf _ _ h ht
  | fsfu _ _ => exact execFsfu_wf _ _ h ht
  | cvt _ _ => exact execCvt_wf _ _ h ht
  | lxch _ _ => exact execLxch_wf _ _ h ht
  | lquery _ _ => exact execLquery_wf _ _ h ht
  | ld _ _ _ => exact execLd_wf _ _ _ h ht
  | st _ _ _ => exact execSt_wf _ _ _ h ht
  | zline _ _ _ => exact execZline_wf _ _ _ h ht
  | atom _ _ => exact execAtom_wf _ _ h ht
  | lr _ _ => exact execLr_wf _ _ h ht
  | sc _ _ => exact execSc_wf _ _ h ht
  | mopen _ _ => exact execMopen_wf _ _ h ht
  | mclose _ _ => exact execMclose_wf _ _ h ht
  | mshape _ _ => exact execMshape_wf _ _ h ht
  | mload _ _ => exact execMload_wf _ _ h ht
  | mstat _ _ => exact execMstat_wf _ _ h ht
  | mma _ _ => exact execMma_wf _ _ h ht
  | mdrain _ _ => exact execMdrain_wf _ _ h ht
  | mrelay _ _ => exact execMrelay_wf _ _ h ht
  | mchk _ _ => exact execMchk_wf _ _ h ht
  | tarrive _ _ => exact execTarrive_wf _ _ h ht
  | twait _ _ => exact execTwait_wf _ _ h ht
  | ttest _ _ => exact execTtest_wf _ _ h ht
  | hasp _ _ => exact execHasp_wf _ _ h ht
  | fenceOrd _ _ => exact execFenceOrd_wf _ _ h ht
  | fenceDone _ _ => exact execFenceDone_wf _ _ h ht
  | bra _ _ => exact execBra_wf _ _ h ht
  | brx _ _ => exact execBrx_wf _ _ h ht
  | call _ _ => exact execCall_wf _ _ h ht
  | ret _ _ => exact execRet_wf _ _ h ht
  | exit _ _ => exact execExit_wf _ _ h ht
  | repack _ _ => exact execRepack_wf _ _ h ht
  | nop _ _ => exact execNop_wf _ _ h ht
  | uop _ _ => exact execUop_wf _ _ h ht
  | uopI _ _ => exact execUopI_wf _ _ h ht
  | ucmp _ _ => exact execUcmp_wf _ _ h ht
  | ucmpI _ _ => exact execUcmpI_wf _ _ h ht
  | sread _ _ => exact execSread_wf _ _ h ht
  | swrite _ _ => exact execSwrite_wf _ _ h ht
  | brk _ _ => exact execBrk_wf _ _ h ht
  | repackWaitExpiry _ => exact execRepackWaitExpiry_wf _ h ht
  | mergeComplete _ => exact execMergeComplete_wf _ h ht
  | instructionFetchFill _ => exact execInstructionFetchFill_wf _ h ht
  | loadPerform _ => exact execLoadPerform_wf _ h ht
  | storeVisible _ _ => exact execStoreVisible_wf _ _ h ht
  | atomicResponse _ => exact execAtomicResponse_wf _ h ht
  | fenceComplete _ => exact execFenceComplete_wf _ h ht
  | pageRequestResponse _ _ _ => exact execPageRequestResponse_wf _ _ _ h ht
  | twaitTimeout _ => exact execTwaitTimeout_wf _ h ht
  | arrayStart _ => exact execArrayStart_wf _ h ht
  | mloadPoison _ => exact execMloadPoison_wf _ h ht
  | relaySendResume _ => exact execRelaySendResume_wf _ h ht
  | budgetOverrun _ _ => exact execBudgetOverrun_wf _ _ h ht
  | budgetStop _ _ => exact execBudgetStop_wf _ _ h ht
  | tumblerOperation _ _ => exact execTumblerOperation_wf _ _ h ht
  | fenceWaitReread _ => exact execFenceWaitReread_wf _ h ht
  | spindleBufferTake _ _ => exact execSpindleBufferTake_wf _ _ h ht
  | spindleReadData _ _ => exact execSpindleReadData_wf _ _ h ht
  | spindleFulltRaise _ _ => exact execSpindleFulltRaise_wf _ _ h ht
  | spindleFinish _ _ => exact execSpindleFinish_wf _ _ h ht
  | replayPlace _ _ => exact execReplayPlace_wf _ _ h ht
  | retirement _ => exact execRetirement_wf _ h ht
  | retirementRecord _ => exact wf_of_ms h (execRetirementRecord_ms _ ht)
  | dieFence _ => exact execDieFence_wf _ h ht
  | coherentRequest _ _ _ _ => exact wf_of_ms h (execCoherentRequest_ms _ _ _ _ ht)
  | snoop _ _ => exact wf_of_ms h (execSnoop_ms _ _ ht)
  | snoopResponse _ _ => exact wf_of_ms h (execSnoopResponse_ms _ _ ht)
  | lineGrant _ _ => exact execLineGrant_wf _ _ h ht
  | done _ => exact wf_of_ms h (execDone_ms _ ht)
  | proceed _ => exact wf_of_ms h (execProceed_ms _ ht)
  | backInvalidation _ _ => exact wf_of_ms h (execBackInvalidation_ms _ _ ht)
  | victimAccept _ _ => exact wf_of_ms h (execVictimAccept_ms _ _ ht)
  | homeAtomic _ _ => exact execHomeAtomic_wf _ _ h ht
  | writeAccept _ => exact execWriteAccept_wf _ h ht
  | patrolScrub _ _ _ => exact execPatrolScrub_wf _ _ _ h ht
  | sramScrub _ _ _ => exact execSramScrub_wf _ _ _ h ht
  | doorbellChange _ => exact execDoorbellChange_wf _ h ht
  | descriptorReread _ => exact execDescriptorReread_wf _ h ht
  | nopCommand _ => exact wf_of_ms h (execNopCommand_ms _ ht)
  | launch _ => exact wf_of_ms h (execLaunch_ms _ ht)
  | copy _ => exact wf_of_ms h (execCopy_ms _ ht)
  | convert _ => exact wf_of_ms h (execConvert_ms _ ht)
  | fill _ => exact wf_of_ms h (execFill_ms _ ht)
  | signal _ => exact execSignal_wf _ h ht
  | wait _ => exact execWait_wf _ h ht
  | waitTimeout _ => exact wf_of_ms h (execWaitTimeout_ms _ ht)
  | share _ => exact execShare_wf _ h ht
  | shareRelease _ => exact execShareRelease_wf _ h ht
  | bind _ => exact execBind_wf _ h ht
  | unbind _ => exact execUnbind_wf _ h ht
  | query _ => exact execQuery_wf _ h ht
  | partition _ => exact execPartition_wf _ h ht
  | snapshot _ => exact execSnapshot_wf _ h ht
  | snapshotCapture => exact execSnapshotCapture_wf h ht
  | commandCompletion _ _ => exact execCommandCompletion_wf _ _ h ht
  | tilePlace _ => exact execTilePlace_wf _ h ht
  | makeResident _ => exact execMakeResident_wf _ h ht
  | evictionDone _ => exact execEvictionDone_wf _ h ht
  | residencyComplete _ => exact execResidencyComplete_wf _ h ht
  | frontEndTakeover => exact execFrontEndTakeover_wf h ht
  | counterTableWrite _ => exact execCounterTableWrite_wf _ h ht
  | counterSample => exact execCounterSample_wf h ht
  | feCtlEn _ _ => exact execFeCtlEn_wf _ _ h ht
  | feCtxon _ _ => exact execFeCtxon_wf _ _ h ht
  | feCtxoff _ _ => exact execFeCtxoff_wf _ _ h ht
  | tmReset _ _ => exact execTmReset_wf _ _ h ht
  | spWininv _ _ => exact execSpWininv_wf _ _ h ht
  | spSpanctlRelease _ _ => exact execSpSpanctlRelease_wf _ _ h ht
  | spSpanctlLower _ _ => exact execSpSpanctlLower_wf _ _ h ht
  | spancfgEnSet _ _ => exact execSpancfgEnSet_wf _ _ h ht
  | spancfgEnClear _ _ => exact execSpancfgEnClear_wf _ _ h ht
  | leaveDrained => exact execLeaveDrained_wf h ht
  | scNonce _ => exact execScNonce_wf _ h ht
  | scTokaddr _ _ => exact execScTokaddr_wf _ _ h ht
  | tokenCheckDone => exact execTokenCheckDone_wf h ht
  | scTokrevoke _ _ => exact execScTokrevoke_wf _ _ h ht
  | tokenExpiry _ => exact execTokenExpiry_wf _ h ht
  | scColdrst _ _ => exact execScColdrst_wf _ _ h ht
  | scUpdctlStart _ _ => exact execScUpdctlStart_wf _ _ h ht
  | updateWriteDone _ => exact wf_of_ms h (execUpdateWriteDone_ms _ ht)
  | scUpdctlCommit _ _ => exact execScUpdctlCommit_wf _ _ h ht
  | scBootstatGo _ _ => exact execScBootstatGo_wf _ _ h ht
  | hgHostrst _ _ => exact execHgHostrst_wf _ _ h ht
  | hgEpochopen _ _ => exact execHgEpochopen_wf _ _ h ht
  | hgHartrun _ _ _ => exact execHgHartrun_wf _ _ _ h ht
  | dbGctlHalt _ _ => exact execDbGctlHalt_wf _ _ h ht
  | dbGctlResume _ _ => exact execDbGctlResume_wf _ _ h ht
  | dbGctlStep _ _ => exact execDbGctlStep_wf _ _ h ht
  | dbHofset _ _ => exact execDbHofset_wf _ _ h ht
  | dbHofclr _ _ => exact execDbHofclr_wf _ _ h ht
  | dbRdata _ _ => exact execDbRdata_wf _ _ h ht
  | dbTrward _ _ => exact execDbTrward_wf _ _ h ht
  | dbTrctl _ _ => exact execDbTrctl_wf _ _ h ht
  | mpShareways _ _ => exact execMpShareways_wf _ _ h ht
  | mpHostplan _ _ => exact execMpHostplan_wf _ _ h ht
  | pwCtl _ _ => exact execPwCtl_wf _ _ h ht
  | registerWrite _ _ _ _ => exact execRegisterWrite_wf _ _ _ _ h ht
  | pwrEnRise => exact execPwrEnRise_wf h ht
  | keeperStart => exact wf_of_ms h (execKeeperStart_ms ht)
  | meminitDone => exact execMeminitDone_wf h ht
  | powerDown => exact execPowerDown_wf ht
  | controlPortReset _ => exact wf_of_ms h (execControlPortReset_ms _ ht)
  | configRequest => exact wf_of_ms h (execConfigRequest_ms ht)
  | tbPpsEdge => exact wf_of_ms h (execTbPpsEdge_ms ht)
  | tbRefLost => exact execTbRefLost_wf h ht
  | supplyWarn _ => exact wf_of_ms h (execSupplyWarn_ms _ ht)
  | vcompControl _ _ _ => exact wf_of_ms h (execVcompControl_ms _ _ _ ht)
  | excursionOpen _ _ => exact wf_of_ms h (execExcursionOpen_ms _ _ ht)
  | excursionClose => exact execExcursionClose_wf h ht
  | railResetThreshold _ _ => exact execRailResetThreshold_wf _ _ h ht
  | watchdogExpiry => exact execWatchdogExpiry_wf h ht
  | thermalAlert _ => exact wf_of_ms h (execThermalAlert_ms _ ht)
  | thermalTrip _ => exact execThermalTrip_wf _ h ht
  | domainEntry _ => exact execDomainEntry_wf _ h ht
  | wakeComplete _ => exact execWakeComplete_wf _ h ht
  | cablePresent _ _ => exact execCablePresent_wf _ _ h ht
  | i3cRead _ => exact (execI3cRead_ms _ ht) ▸ h
  | i3cWrite _ _ => exact (execI3cWrite_ms _ _ ht) ▸ h
  | setdasa _ _ => exact wf_of_ms h (execSetdasa_ms _ _ ht)
  | getVersion => exact wf_of_ms h (execGetVersion_ms ht)
  | getCapabilities => exact wf_of_ms h (execGetCapabilities_ms ht)
  | negotiateAlgorithms _ _ => exact wf_of_ms h (execNegotiateAlgorithms_ms _ _ ht)
  | getDigests => exact wf_of_ms h (execGetDigests_ms ht)
  | getCertificate _ _ _ => exact wf_of_ms h (execGetCertificate_ms _ _ _ ht)
  | challenge slot nonce => exact wf_of_ms h (execChallenge_ms slot nonce ht)
  | getMeasurements index slot nonce => exact wf_of_ms h (execGetMeasurements_ms index slot nonce ht)
  | hingeLossReset _ => exact execHingeLossReset_wf _ h ht
  | hingeAckTimeout => exact execHingeAckTimeout_wf h ht
  | hingeTileStop => exact execHingeTileStop_wf h ht
  | hingeQuiesced => exact execHingeQuiesced_wf h ht
  | hingeRetrain => exact wf_of_ms h (execHingeRetrain_ms ht)
  | hingeRetrainDone => exact wf_of_ms h (execHingeRetrainDone_ms ht)
  | dmaWrite _ _ _ => exact execDmaWrite_wf _ _ _ h ht
  | dmaRead _ _ _ => exact wf_of_ms h (execDmaRead_ms _ _ _ ht)
  | iotinvalVma _ _ _ _ => exact execIotinvalVma_wf _ _ _ _ h ht
  | iofenceC => exact wf_of_ms h (execIofenceC_ms ht)
  | portTrained _ _ => exact wf_of_ms h (execPortTrained_ms _ _ ht)
  | helloTimeout _ => exact wf_of_ms h (execHelloTimeout_ms _ ht)
  | laneFailure _ _ => exact execLaneFailure_wf _ _ h ht
  | retryRequest _ _ => exact execRetryRequest_wf _ _ h ht
  | portDownTimeout _ => exact execPortDownTimeout_wf _ h ht
  | hello _ _ _ => exact wf_of_ms h (execHello_ms _ _ _ ht)
  | announce _ _ => exact execAnnounce_wf _ _ h ht
  | masterSelect => exact execMasterSelect_wf h ht
  | join _ _ => exact execJoin_wf _ _ h ht
  | roster _ _ _ => exact execRoster_wf _ _ _ h ht
  | leave _ => exact execLeave_wf _ h ht
  | lost _ _ => exact execLost_wf _ _ h ht
  | linkdown _ _ _ => exact execLinkdown_wf _ _ _ h ht
  | heartbeat _ _ => exact execHeartbeat_wf _ _ h ht
  | heartbeatSend => exact wf_of_ms h (execHeartbeatSend_ms ht)
  | memberLossTimeout _ => exact execMemberLossTimeout_wf _ h ht
  | masterLossTimeout => exact execMasterLossTimeout_wf h ht
  | levelCommitStart => exact execLevelCommitStart_wf h ht
  | levelprep _ _ => exact execLevelprep_wf _ _ h ht
  | levelcommit _ _ => exact execLevelcommit_wf _ _ h ht
  | place _ _ _ => exact execPlace_wf _ _ _ h ht
  | pull _ _ _ => exact execPull_wf _ _ _ h ht
  | tiledone _ _ _ _ => exact execTiledone_wf _ _ _ _ h ht
  | hasparr _ _ _ => exact execHasparr_wf _ _ _ h ht
  | hasprel _ _ _ => exact execHasprel_wf _ _ _ h ht
  | tarriveMessage _ _ _ _ => exact execTarriveMessage_wf _ _ _ _ h ht
  | twake _ _ => exact execTwake_wf _ _ h ht
  | tmapchk _ _ _ _ => exact execTmapchk_wf _ _ _ _ h ht
  | tbsync _ _ _ => exact execTbsync_wf _ _ _ h ht
  | read _ _ _ _ => exact execRead_wf _ _ _ _ h ht
  | write _ _ _ _ _ => exact execWrite_wf _ _ _ _ _ h ht
  | atomic _ _ _ _ _ _ _ => exact execAtomic_wf _ _ _ _ _ _ _ h ht
  | lrMessage _ _ _ _ => exact execLrMessage_wf _ _ _ _ h ht
  | scMessage _ _ _ _ => exact execScMessage_wf _ _ _ _ h ht
  | data _ _ _ => exact execData_wf _ _ _ h ht
  | visack _ => exact execVisack_wf _ h ht
  | doneack _ => exact execDoneack_wf _ h ht
  | deny _ => exact execDeny_wf _ h ht
  | relay _ _ => exact execRelay_wf _ _ h ht
  | bulkwrite _ _ _ _ _ => exact execBulkwrite_wf _ _ _ _ _ h ht
  | bulkdata _ _ _ => exact execBulkdata_wf _ _ _ h ht
  | tbRefReturn => exact wf_of_ms h (execTbRefReturn_ms ht)
  | matrixInstructionFinish _ => exact execMatrixInstructionFinish_wf _ h ht
  | snoopAnswerDelayExpiry _ _ => exact wf_of_ms h (execSnoopAnswerDelayExpiry_ms _ _ ht)
  | memoryReadReturn _ _ => exact execMemoryReadReturn_wf _ _ h ht
  | uncorrectableCodeword _ => exact wf_of_ms h (execUncorrectableCodeword_ms _ ht)
  | idleFlit _ _ _ _ => exact wf_of_ms h (execIdleFlit_ms _ _ _ _ ht)
  | reservedOpMessage hdr op => exact wf_of_ms h (execReservedOpMessage_ms hdr op ht)
  | levelprepReply _ => exact execLevelprepReply_wf _ h ht
  | placeRefusal _ _ => exact execPlaceRefusal_wf _ _ h ht
  | joinRefusal _ _ => exact execJoinRefusal_wf _ _ h ht
  | perstNRelease => exact wf_of_ms h (execPerstNRelease_ms ht)
  | iotinvalGvma _ _ _ => exact execIotinvalGvma_wf _ _ _ h ht
  | registerRead _ _ _ => exact execRegisterRead_wf _ _ _ h ht
  | hostMemoryAccess _ _ _ => exact execHostMemoryAccess_wf _ _ _ h ht
  | rootPortLinkEvent _ _ => exact wf_of_ms h (execRootPortLinkEvent_ms _ _ ht)

/-! #### Step -/

theorem step_wf {s t : State} (h : s.ms.mem.wf = true) (ht : step s = .next t) : t.ms.mem.wf = true := by
  unfold step at ht
  split at ht
  · obtain rfl := Host.Outcome.next.inj ht
    exact State.idle_wf h
  · exact exec_wf _ (by exact h) ht

/-- Settles O60: an empty queue idles, and a command at the front is executed. -/
theorem everyStepKeepsMemoryCanonical : Obligations.EveryStepKeepsMemoryCanonical :=
  fun _ _ h ht => step_wf h ht

end MemoryCanonical

end Sys2Proof.Machine

/-! ### The release of the harts (R559) -/

namespace Sys2Proof.Machine

theorem State.startHart_eq (s : State) (n : Nat) :
    ∃ hs, s.startHart n = { s with hinge := { s.hinge with harts := hs } } := ⟨_, rfl⟩

/-- Starting harts writes their records and nothing else. -/
theorem State.foldl_startHart_eq (l : List Nat) (s : State) :
    ∃ hs, l.foldl (fun st n => st.startHart n) s = { s with hinge := { s.hinge with harts := hs } } :=
  foldl_keeps (fun st : State => ∃ hs, st = { s with hinge := { s.hinge with harts := hs } }) _
    (fun _ n ⟨hs, hst⟩ => by subst hst; exact State.startHart_eq _ n) l s ⟨_, rfl⟩

theorem State.hart_foldl_startHart_not_mem {n : Nat} (l : List Nat) (hn : n ∉ l) (s : State) :
    (l.foldl (fun st n => st.startHart n) s).hart n = s.hart n := by
  induction l generalizing s with
  | nil => rfl
  | cons m l ih =>
    obtain ⟨hne, hl⟩ := not_or.1 (List.mem_cons.not.1 hn)
    exact (ih hl _).trans (State.hart_updHart_ne s hne _)

theorem State.running_foldl_startHart {n : Nat} (l : List Nat) (hn : n ∈ l) (s : State) :
    ((l.foldl (fun st n => st.startHart n) s).hart n).running = true := by
  induction l generalizing s with
  | nil => cases hn
  | cons m l ih =>
    by_cases hl : n ∈ l
    · exact ih hl _
    · obtain rfl : n = m := (List.mem_cons.1 hn).resolve_right hl
      refine (congrArg Hart.running (State.hart_foldl_startHart_not_mem l hl _)).trans ?_
      simp [State.startHart]

/-- The harts that the new words release and the old ones held. -/
def Hinge.released (old new : Hinge) : List Nat :=
  (List.range Config.harts).filter (fun n => new.hartOn n && !old.hartOn n)

theorem Hinge.mem_released (old new : Hinge) {n : Nat} (hn : n < 72) :
    n ∈ old.released new ↔ new.hartOn n = true ∧ old.hartOn n = false := by
  simp [Hinge.released, Config.harts, hn]

/-- Both release registers set bits of `old` to reach `new`, and the harts of the new bits start. -/
theorem State.writeHartrun_eq (s : State) (hi : Bool) (v : DWord) :
    s.writeHartrun hi v =
      let new : Hinge := if hi then { s.hinge with hartrunHi := s.hinge.hartrunHi ||| v.setWidth 8 }
        else { s.hinge with hartrun := s.hinge.hartrun ||| v }
      .done ((s.hinge.released new).foldl (fun st n => st.startHart n) { s with hinge := new }) := rfl

/-- Writing new release bits: the harts of the bits that were clear run, every other hart and the rest stand as they
were. -/
theorem State.writeHartrun_done (s : State) (hi : Bool) (v : DWord) {new : Hinge}
    (hnew : new = if hi then { s.hinge with hartrunHi := s.hinge.hartrunHi ||| v.setWidth 8 }
      else { s.hinge with hartrun := s.hinge.hartrun ||| v }) :
    ∃ u, s.writeHartrun hi v = .done u ∧ u = { s with hinge := { new with harts := u.hinge.harts } } ∧
      ∀ n, n < 72 →
        (s.hinge.hartOn n = false → new.hartOn n = true → (u.hart n).running = true) ∧
        (s.hinge.hartOn n = true ∨ new.hartOn n = false → u.hart n = s.hart n) := by
  refine ⟨_, (State.writeHartrun_eq s hi v).trans (by rw [← hnew]), ?_, fun n hn => ⟨fun hoff hon => ?_, fun hkeep => ?_⟩⟩
  · obtain ⟨hs, hu⟩ := State.foldl_startHart_eq (s.hinge.released new) { s with hinge := new }
    rw [hu]
  · exact State.running_foldl_startHart _ ((Hinge.mem_released _ _ hn).2 ⟨hon, hoff⟩) _
  · have hnot : n ∉ s.hinge.released new := by
      rw [Hinge.mem_released _ _ hn]
      rcases hkeep with h | h <;> simp [h]
    refine (State.hart_foldl_startHart_not_mem _ hnot _).trans ?_
    cases hi <;> simp [State.hart, hnew]

theorem Hinge.hartOn_low (h : Hinge) {n : Nat} (hn : n < 64) : h.hartOn n = h.hartrun.getLsbD n := if_pos hn

theorem Hinge.hartOn_high (h : Hinge) (n : Nat) : h.hartOn (64 + n) = h.hartrunHi.getLsbD n := by
  simp [Hinge.hartOn]

/-- Settles O56: the bits are or'ed in, and the harts of the bits that were clear start. -/
theorem hartsLeaveReset : Obligations.HartsLeaveReset := by
  unfold Obligations.HartsLeaveReset
  intro s req v
  refine ⟨fun hr => ?low, fun hr => ?high⟩
  case low =>
    obtain ⟨p, hp⟩ := s.cpTake_eq req 0xB0020
    obtain ⟨u, hw, hu, hharts⟩ := (s.cpTake req 0xB0020).writeHartrun_done false v rfl
    simp only [hp] at hu hharts
    refine ⟨u, congrArg okay (hr.winWrite_done hw), by rw [hu]; rfl, fun i hi => ?_⟩
    obtain ⟨hstart, hstay⟩ := hharts i (by omega)
    have hbits : u.hinge.hartrun = s.hinge.hartrun ||| v := by rw [hu]; rfl
    simp only [Hinge.hartOn_low _ hi] at hstart hstay
    refine ⟨by simp [hbits], fun hoff hon => hstart hoff (by simp [hon]), fun h => hstay ?_⟩
    rcases h with h | h <;> simp [h, ← Bool.not_eq_true, Classical.em]
  case high =>
    obtain ⟨p, hp⟩ := s.cpTake_eq req 0xB0028
    obtain ⟨u, hw, hu, hharts⟩ := (s.cpTake req 0xB0028).writeHartrun_done true v rfl
    simp only [hp] at hu hharts
    refine ⟨u, congrArg okay (hr.winWrite_done hw), by rw [hu]; rfl, fun i hi => ?_⟩
    obtain ⟨hstart, hstay⟩ := hharts (64 + i) (by omega)
    have hbits : u.hinge.hartrunHi = s.hinge.hartrunHi ||| v.setWidth 8 := by rw [hu]; rfl
    simp only [Hinge.hartOn_high] at hstart hstay
    refine ⟨by simp [hbits, hi], fun hoff hon => hstart hoff (by simp [hon, hi]), fun h => hstay ?_⟩
    rcases h with h | h <;> simp [h, ← Bool.not_eq_true, Classical.em]

/-! ### A rail below its reset threshold (R476) -/

/-- Settles O57: the threshold is passed, so the module takes the cold reset, which keeps what flash, cables and straps
hold. -/
theorem railBelowItsResetThreshold : Obligations.RailBelowItsResetThreshold := by
  unfold Obligations.RailBelowItsResetThreshold
  intro s rail mv hon hrail hmv
  refine ⟨s.cold, ?_, rfl, rfl, fun n => ?_, rfl⟩
  · rw [exec, execRailResetThreshold, if_pos ⟨hrail, hmv⟩, State.coldReset, if_pos hon]
  · exact NMap.findD_mapVals (fun _ (p : Port) => ({ seated := p.seated } : Port)) {} n s.ports

end Sys2Proof.Machine

/-! ### Accesses of the set-up window that are errors (R540 to R543) -/

namespace Sys2Proof.Machine

/-- An access in error is counted, and the first of them is latched. -/
theorem State.accError_eq (s : State) (req : Requester) {off : Nat} (kind : Nat) (write : Bool) (hoff : off < 0x100000) :
    s.accError req off kind write = { s with
      mcount := NMap.ins 12 ((NMap.findD {} 12 s.mcount).add 48 1) s.mcount
      accerr := if s.accerr.valid then s.accerr else
        { offset := off, kind := kind, write := write, host := req.port == .host, valid := true } } := by
  have hlow : off % 1048576 = off := Nat.mod_eq_of_lt hoff
  unfold State.accError State.countModule
  cases s.accerr.valid <;> simp [hlow]

theorem State.winWrite_error {s : State} {req : Requester} {off width kind : Nat} {op : State → RegW}
    (hlive : s.portLive req = true) (hgate : s.gate req off width true = some kind) :
    s.winWrite req off width op = (s.cpTake req off).accError req off kind true := by
  simp [State.winWrite, hlive, hgate]

theorem State.winRead_error {s : State} {req : Requester} {off width kind : Nat} {op : State → DWord × State}
    (hlive : s.portLive req = true) (hgate : s.gate req off width false = some kind) :
    s.winRead req off width op = ((s.cpTake req off).accError req off kind false).cpGive req 0 := by
  simp [State.winRead, hlive, hgate]

/-- The same as `exec_registerWrite_window` for an access of any width. -/
theorem exec_registerWrite_below (s : State) (req : Requester) {off : Nat} (width : Nat) (v : DWord)
    (hoff : off < 0x100000) :
    exec (.registerWrite req off width v) s = .next (s.regWrite req off width v) := by
  have hwin : ¬ 0x100000 ≤ off := by omega
  change execRegisterWrite req off width v s = _
  simp [execRegisterWrite, s.inRecovery_of_window req hoff, hwin, okay]

theorem exec_registerRead_below (s : State) (req : Requester) {off : Nat} (width : Nat) (hoff : off < 0x100000) :
    exec (.registerRead req off width) s = .next (s.regRead req off width) := by
  have hwin : ¬ 0x100000 ≤ off := by omega
  change execRegisterRead req off width s = _
  simp [execRegisterRead, s.inRecovery_of_window req hoff, hwin, okay]

theorem State.gate_misfit {s : State} {req : Requester} {off width : Nat} {write : Bool} (h : width ≠ 8 ∨ off % 8 ≠ 0) :
    s.gate req off width write = some 0 := if_pos h

theorem State.gate_reserved {s : State} {req : Requester} {off : Nat} {write : Bool} (halign : off % 8 = 0)
    (hreg : regAt off = none) : s.gate req off 8 write = some 1 := by
  simp [State.gate, halign, hreg]

theorem State.gate_unprivileged {s : State} {req : Requester} {off : Nat} {write : Bool} (halign : off % 8 = 0)
    (hreg : regAt off ≠ none) (hport : req.port = .host) (hmode : privileged req.mode = false) (hid : 0x10000 ≤ off) :
    s.gate req off 8 write = some 2 := by
  simp [State.gate, halign, hreg, hport, hmode, Nat.not_lt.2 hid]

theorem State.gate_notReady {s : State} {req : Requester} {off : Nat} {write : Bool} (halign : off % 8 = 0)
    (hreg : regAt off ≠ none) (hmay : req.port = .control ∨ privileged req.mode = true) (hready : s.blockReady off = false) :
    s.gate req off 8 write = some 3 := by
  rcases hmay with h | h <;> simp [State.gate, halign, hreg, h, hready]

/-- Settles O39: each condition decides what the gate answers (of several errors the lowest KIND, log 35), and an access
that the gate refuses is counted and latched. -/
theorem windowErrors : Obligations.WindowErrors := by
  unfold Obligations.WindowErrors
  intro s req off width v kind hlive hoff hkind
  obtain ⟨p, hp⟩ := s.cpTake_eq req off
  have hgate (write : Bool) : s.gate req off width write = some kind := by
    rcases hkind with ⟨rfl, h⟩ | ⟨rfl, halign, rfl, hreg⟩ | ⟨rfl, halign, rfl, hreg, hport, hmode, hid⟩ |
      ⟨rfl, halign, rfl, hreg, hmay, hready⟩
    · exact State.gate_misfit h
    · exact State.gate_reserved halign hreg
    · exact State.gate_unprivileged halign hreg hport hmode hid
    · exact State.gate_notReady halign hreg hmay hready
  refine ⟨?write, ?read⟩
  case write =>
    rw [exec_registerWrite_below s req width v hoff, State.regWrite, State.winWrite_error hlive (hgate true),
      State.accError_eq _ _ _ _ hoff, hp]
  case read =>
    rw [exec_registerRead_below s req width hoff, State.regRead, State.winRead_error hlive (hgate false),
      State.accError_eq _ _ _ _ hoff, hp]

end Sys2Proof.Machine

/-! ### The admin ring's doorbell and its descriptors (R375 to R381) -/

namespace Sys2Proof.Machine

/-- A field of a descriptor of 64 bytes, read as a number and as a word. -/
theorem field_ofNat_512 (d : Nat) {hi lo : Nat} (hhi : hi < 512) : field (BitVec.ofNat 512 d) hi lo = nfield d hi lo := by
  unfold field nfield
  rw [BitVec.toNat_ofNat]
  refine Nat.eq_of_testBit_eq fun i => ?_
  simp only [Nat.testBit_mod_two_pow, Nat.testBit_shiftRight]
  by_cases hi' : i < hi + 1 - lo
  · have : lo + i < 512 := by omega
    simp [this]
  · simp [hi']

/-- The state with another admin ring. -/
def State.withAdmin (s : State) (r : Ring) : State := { s with fe := { s.fe with admin := r } }

@[simp] theorem State.withAdmin_fe (s : State) (r : Ring) : (s.withAdmin r).fe = { s.fe with admin := r } := rfl
@[simp] theorem State.withAdmin_withAdmin (s : State) (r x : Ring) : (s.withAdmin r).withAdmin x = s.withAdmin x := rfl

/-- What memory holds does not depend on the front end. -/
@[simp] theorem State.cohNat_withAdmin (s : State) (r : Ring) (pa n : Nat) :
    (s.withAdmin r).cohNat pa n = s.cohNat pa n := by
  have hread : (s.withAdmin r).cohRead pa n = s.cohRead pa n := by
    induction n generalizing pa with
    | zero => rfl
    | succ n ih => exact congrArg₂ List.cons rfl (ih _)
  exact congrArg bytesNat hread

theorem State.ring?_admin {s : State} (hen : s.fe.en = true) : s.ring? .admin = some s.fe.admin := if_pos hen

theorem State.fe_en_of_feServes {s : State} (h : s.feServes = true) : s.fe.en = true := by
  simp only [State.feServes, Bool.and_eq_true] at h
  exact h.1.1.2

/-- The status of the admin ring is written in memory; the front end stays. -/
@[simp] theorem State.syncRing_admin_fe (s : State) : (s.syncRing .admin).fe = s.fe := by
  unfold State.syncRing
  split
  · rfl
  · exact State.cohWrite_fe _ _ _ _

/-- Doorbell counts that are out of range (R380). -/
def Ring.countsBad (r : Ring) (v : Nat) : Prop :=
  (v % 2 ^ 32 + 2 ^ 32 - r.head) % 2 ^ 32 > 2 ^ r.rlog2 ∨ (r.ctail + 2 ^ 32 - v / 2 ^ 32) % 2 ^ 32 > 2 ^ r.clog2

/-- The ring once doorbell `v` is refused. -/
def Ring.refused (r : Ring) : Ring :=
  { r with dberr := true, waitdb := false, tries := 0, reread := false, pageWait := none, dbOwed := false }

/-- The ring once doorbell `v` is taken. -/
def Ring.taking (r : Ring) (v : Nat) : Ring :=
  { r with tail := v % 2 ^ 32, chead := v / 2 ^ 32, dberr := false, waitdb := false, tries := 0, reread := false
           pageWait := none, dbOwed := false }

theorem State.readDoorbell_bad {s : State} {v : Nat} (hen : s.fe.en = true) (hv : s.cohNat s.fe.admin.dbell 8 = v)
    (hbad : s.fe.admin.countsBad v) :
    s.readDoorbell .admin = (s.withAdmin s.fe.admin.refused).syncRing .admin := by
  rw [State.readDoorbell, State.ring?_admin hen]
  simp only [State.ringCanWrite, State.ringNat, hv]
  exact if_pos (by simpa [Ring.countsBad] using hbad)

theorem State.readDoorbell_good {s : State} {v : Nat} (hen : s.fe.en = true) (hv : s.cohNat s.fe.admin.dbell 8 = v)
    (hgood : ¬ s.fe.admin.countsBad v) :
    s.readDoorbell .admin = (s.withAdmin (s.fe.admin.taking v)).fetchMore .admin := by
  rw [State.readDoorbell, State.ring?_admin hen]
  simp only [State.ringCanWrite, State.ringNat, hv]
  exact if_neg (by simpa [Ring.countsBad] using hgood)

theorem exec_doorbellChange_admin {s : State} (h : s.feServes = true) :
    exec (.doorbellChange .admin) s = .next (s.readDoorbell .admin) := by
  change execDoorbellChange .admin s = _
  simp [execDoorbellChange, State.fetches, h, okay]

theorem State.fetchMore_admin {s : State} (h : s.feServes = true) :
    s.fetchMore .admin = (s.fetchLoop .admin 32).syncRing .admin := by
  simp [State.fetchMore, State.fetches, h]

theorem State.fetchLoop_stop {s : State} (hen : s.fe.en = true) (n : Nat)
    (hstop : s.fe.admin.head = s.fe.admin.tail ∨ s.fe.admin.window = 0 ∨ s.fe.admin.waitdb = true ∨ s.fe.admin.dberr = true) :
    s.fetchLoop .admin n = s := by
  cases n with
  | zero => rfl
  | succ n =>
    rw [State.fetchLoop, State.ring?_admin hen]
    simp only [hstop, if_true]

/-- The descriptor at HEAD of the admin ring. -/
def State.descAt (s : State) : Nat := s.cohNat (s.fe.admin.rbase + 64 * (s.fe.admin.head % 2 ^ s.fe.admin.rlog2)) 64

/-- Nothing keeps the admin ring from fetching the descriptor at HEAD. -/
def State.mayFetch (s : State) : Prop :=
  ¬ (s.fe.admin.head = s.fe.admin.tail ∨ s.fe.admin.window = 0 ∨ s.fe.admin.waitdb = true ∨ s.fe.admin.dberr = true)

/-- The ring once a stale stamp was read (R381). -/
def Ring.stale (r : Ring) : Ring :=
  if 8 ≤ r.tries then { r with waitdb := true, reread := false, pageWait := none }
  else { r with tries := r.tries + 1, reread := true, pageWait := none }

theorem State.fetchLoop_stale {s : State} (hen : s.fe.en = true) (n : Nat) (hgo : s.mayFetch)
    (hstale : stampOk s.fe.admin s.fe.admin.head s.descAt = false) :
    s.fetchLoop .admin (n + 1) = s.withAdmin s.fe.admin.stale := by
  have hone : s.fetchOne .admin s.fe.admin = .stale := by
    unfold State.descAt at hstale
    simp only [State.fetchOne, State.ringNat, hstale, if_true]
  rw [State.fetchLoop, State.ring?_admin hen]
  simp only [hone]
  exact if_neg hgo

/-- The ring once NOP descriptor `d` is fetched. -/
def Ring.gotNop (r : Ring) (d tag now : Nat) : Ring :=
  { r with head := (r.head + 1) % 2 ^ 32, tries := 0, reread := false, pageWait := none
           cmds := r.cmds ++ [{ count := r.head, desc := BitVec.ofNat 512 d, tag := tag, start := now }] }

theorem State.checkCmd_nop (s : State) (n d : Nat) (hop : nfield d 31 24 = 0) (hver : nfield d 20 17 = 1) :
    s.checkCmd .admin n (BitVec.ofNat 512 d) =
      .ok ({ count := n, desc := BitVec.ofNat 512 d, tag := s.tagNow, start := s.nowN }, none) := by
  simp [State.checkCmd, field_ofNat_512, hop, hver]

theorem State.fetchOne_nop {s : State} (hoff : s.dbg.tren = false)
    (hstamp : stampOk s.fe.admin s.fe.admin.head s.descAt = true)
    (hop : nfield s.descAt 31 24 = 0) (hver : nfield s.descAt 20 17 = 1) :
    s.fetchOne .admin s.fe.admin =
      .got (s.withAdmin (s.fe.admin.gotNop s.descAt s.tagNow s.nowN)) := by
  have hcheck := s.checkCmd_nop s.fe.admin.head s.descAt hop hver
  unfold State.descAt at hstamp hcheck
  simp only [State.fetchOne, State.ringNat, hstamp, hcheck, Bool.true_eq_false, if_false]
  exact congrArg Fetched.got (State.trace_of_off
    (s := s.withAdmin (s.fe.admin.gotNop s.descAt s.tagNow s.nowN)) hoff _ _ _ _ _ _)

theorem State.fetchLoop_nop {s : State} (hen : s.fe.en = true) (n : Nat) (hgo : s.mayFetch) (hoff : s.dbg.tren = false)
    (hstamp : stampOk s.fe.admin s.fe.admin.head s.descAt = true)
    (hop : nfield s.descAt 31 24 = 0) (hver : nfield s.descAt 20 17 = 1) :
    s.fetchLoop .admin (n + 1) =
      (s.withAdmin (s.fe.admin.gotNop s.descAt s.tagNow s.nowN)).fetchLoop .admin n := by
  rw [State.fetchLoop, State.ring?_admin hen]
  simp only [State.fetchOne_nop hoff hstamp hop hver]
  exact if_neg hgo

/-- Settles O32. -/
theorem ringFetch : Obligations.RingFetch := by
  unfold Obligations.RingFetch
  intro s r v tail chead ahead taken d hserve htren
  have hv : s.cohNat r.dbell 8 = v := rfl
  have hd : s.cohNat (r.rbase + 64 * (r.head % 2 ^ r.rlog2)) 64 = d := rfl
  clear_value v d
  have hen := State.fe_en_of_feServes hserve
  have hdone {t : State} (ht : s.readDoorbell .admin = t) : exec (.doorbellChange .admin) s = .next t :=
    (exec_doorbellChange_admin hserve).trans (congrArg _ ht)
  have hen' (a : Ring) : (s.withAdmin a).fe.en = true := hen
  have hserve' (a : Ring) : (s.withAdmin a).feServes = true := hserve
  have htaken (hgood : ¬ ahead) : exec (.doorbellChange .admin) s =
      .next (((s.withAdmin taken).fetchLoop .admin 32).syncRing .admin) :=
    hdone ((State.readDoorbell_good hen hv hgood).trans (State.fetchMore_admin (hserve' taken)))
  have hgo (hne : tail ≠ r.head) (hw : taken.window ≠ 0) : (s.withAdmin taken).mayFetch := by
    simp [State.mayFetch, taken, hw, Ne.symm hne]
  have hdesc : (s.withAdmin taken).descAt = d := by
    rw [State.descAt, State.cohNat_withAdmin, State.withAdmin_fe]
    exact hd
  refine ⟨fun hbad => ⟨_, hdone (State.readDoorbell_bad hen hv hbad), by simp; rfl⟩, fun hgood heq => ⟨_, htaken hgood, ?empty⟩,
    fun hgood hne hw hst => ⟨_, htaken hgood, ?stale⟩, fun hgood hone hne hw hst hop hver => ⟨_, htaken hgood, ?nop⟩,
    fun hre howed herr hne hw hwait hst => ?reread⟩
  case empty => rw [State.syncRing_admin_fe, State.fetchLoop_stop (hen' taken) _ (Or.inl heq.symm)]; rfl
  case stale =>
    rw [State.syncRing_admin_fe, State.fetchLoop_stale (hen' taken) _ (hgo hne hw) (by rw [hdesc]; exact hst)]
    rfl
  case nop =>
    have hloop := State.fetchLoop_nop (hen' taken) 31 (hgo hne hw) htren (by rw [hdesc]; exact hst)
      (by rw [hdesc]; exact hop) (by rw [hdesc]; exact hver)
    rw [hdesc] at hloop
    have hstop := State.fetchLoop_stop (hen' (taken.gotNop d s.tagNow s.nowN)) 31 (Or.inl hone.symm)
    rw [State.syncRing_admin_fe, hloop]
    exact congrArg State.fe hstop
  case reread =>
    have hexec : exec (.descriptorReread .admin) s = .next ((s.fetchLoop .admin 32).syncRing .admin) := by
      change execDescriptorReread .admin s = _
      rw [execDescriptorReread, State.ring?_admin hen]
      have howed' : s.fe.admin.dbOwed = false := howed
      have hre' : s.fe.admin.reread = true := hre
      simp [State.fetches, hserve, howed', hre', State.ringCanWrite, State.fetchMore_admin hserve, okay]
    have hgo' : s.mayFetch := by
      have hw' : s.fe.admin.window ≠ 0 := hw
      have hne' : s.fe.admin.head ≠ s.fe.admin.tail := hne
      have hwait' : s.fe.admin.waitdb = false := hwait
      have herr' : s.fe.admin.dberr = false := herr
      simp [State.mayFetch, hw', hne', hwait', herr']
    exact ⟨_, hexec, by rw [State.syncRing_admin_fe, State.fetchLoop_stale hen _ hgo' (by rw [State.descAt, hd]; exact hst)]; rfl⟩

end Sys2Proof.Machine

/-! ### Bring-up (R486, R487, R523 to R534) -/

namespace Sys2Proof.Machine

/-- What every cold start and reset leaves of `s`: the mask ROM stage, each volatile part at its reset value, and flash,
counter and queue as they were (R529, R531; log 77 for the model's own fields). -/
def State.FreshFrom (s u : State) : Prop :=
  u.stage = .rom ∧ u.cores = [] ∧ u.fe.en = false ∧ u.fe.ctxs = [] ∧ u.ms.mem = {} ∧ u.time.now = 0 ∧
    u.hinge.epoch = 1 ∧ u.span.en = false ∧ u.sec.tokens = [] ∧ u.sec.bankA = s.sec.bankA ∧ u.sec.bankB = s.sec.bankB ∧
    u.sec.counter = s.sec.counter ∧ u.pending = s.pending

theorem State.cold_fresh (s : State) : s.FreshFrom s.cold :=
  ⟨rfl, rfl, rfl, rfl, rfl, rfl, rfl, rfl, rfl, rfl, rfl, rfl, rfl⟩

theorem State.coldStart_fresh (s : State) : s.FreshFrom s.coldStart := s.cold_fresh

theorem State.coldReset_of_on {s : State} (h : s.power.on = true) : s.coldReset = s.cold := if_pos h

theorem exec_pwrEnRise {s : State} (h : s.power.pwrEn = false ∨ s.power.on = false ∧ s.power.tripLatch = false) :
    exec .pwrEnRise s = if s.power.sinceFall < 100000000 then .next { s with power := { s.power with riseOwed := true } }
      else .next s.coldStart := by
  change execPwrEnRise s = _
  rw [execPwrEnRise, if_neg (by rcases h with h | ⟨hon, htrip⟩ <;> simp [*])]

theorem exec_keeperStart_boots {s : State} (hon : s.power.on = true) (hrom : s.stage = .rom)
    (hok : s.sec.firstBank.2.bankFails (s.sec.firstBank.2.bank s.sec.firstBank.1) s.free = none) :
    exec .keeperStart s = .next { s with
      free := s.free + 3, pins := { s.pins with cpReady := true }, stage := .keeper
      sec := s.sec.firstBank.2.bootFrom s.sec.firstBank.1 } := by
  change execKeeperStart s = _
  rw [execKeeperStart, if_neg (by simp [hon, hrom])]
  simp only [hok]

theorem exec_keeperStart_fails {s : State} {a b : Nat} (hon : s.power.on = true) (hrom : s.stage = .rom)
    (hfirst : s.sec.firstBank.2.bankFails (s.sec.firstBank.2.bank s.sec.firstBank.1) s.free = some a)
    (hsecond : s.sec.firstBank.2.bankFails (s.sec.firstBank.2.bank (!s.sec.firstBank.1)) (s.free + 1) = some b) :
    exec .keeperStart s = .next (({ s with
      free := s.free + 3, pins := { s.pins with cpReady := true }, stage := .failed
      sec := { s.sec.firstBank.2 with
        booted := false, bootCause := if Config.freeBool (s.free + 2) then a else b } } : State).driveAlert s.alertBits) := by
  change execKeeperStart s = _
  rw [execKeeperStart, if_neg (by simp [hon, hrom])]
  simp only [hfirst, hsecond]

/-- LEN of SC.BOOTSTAT, the upper half of the word. -/
theorem bootLen_toNat (v : DWord) : ((v >>> 32).setWidth 32 : Word).toNat = (v >>> 32).toNat := by
  rw [BitVec.toNat_setWidth, Nat.mod_eq_of_lt]
  have := v.isLt
  simp only [BitVec.toNat_ushiftRight, Nat.shiftRight_eq_div_pow]
  omega

/-- The state with LEN of a write of SC.BOOTSTAT taken. -/
def State.withBootLen (s : State) (v : DWord) : State := { s with sec := { s.sec with bootLen := (v >>> 32).setWidth 32 } }

/-- GO with anything in the buffer but a whole, valid keeper image. -/
theorem State.writeBootstat_refused {s : State} {v : DWord} (hgo : bitAt v 4 = true) (hst : s.stage = .failed)
    (hbad : objKind s.recoveryByte ≠ 1 ∨ rootValid s.recoveryByte = false) :
    s.writeBootstat v = .done { s.withBootLen v with sec := { (s.withBootLen v).sec with bootCause := 3 } } := by
  rw [State.writeBootstat, if_neg (by simp [hgo, hst])]
  refine if_pos ?_
  rcases hbad with h | h
  · exact Or.inl h
  · exact Or.inr (Or.inr h)

/-- GO with a valid keeper image that is not older than COUNTER starts it. -/
theorem State.writeBootstat_runs {s : State} {v : DWord} (hgo : bitAt v 4 = true) (hst : s.stage = .failed)
    (hkind : objKind s.recoveryByte = 1) (hvalid : rootValid s.recoveryByte = true)
    (hwhole : 8192 + objBodylen s.recoveryByte ≤ (v >>> 32).toNat) (hlen : (v >>> 32).toNat ≤ 2 ^ 28)
    (hnew : s.sec.counter.toNat ≤ objSecver s.recoveryByte) :
    ∃ u, s.writeBootstat v = .done u ∧ u.stage = .keeper ∧ u.sec.fromBuffer = true ∧ u.sec.bootCause = 0 := by
  rw [State.writeBootstat, if_neg (by simp [hgo, hst])]
  refine ⟨_, (if_neg ?_).trans (if_neg (Nat.not_lt.2 hnew)), rfl, rfl, rfl⟩
  change ¬ (objKind s.recoveryByte ≠ 1 ∨
    (decide (8192 + objBodylen s.recoveryByte ≤ ((v >>> 32).setWidth 32 : Word).toNat) &&
      decide (((v >>> 32).setWidth 32 : Word).toNat ≤ 2 ^ 28)) = false ∨ rootValid s.recoveryByte = false)
  rw [bootLen_toNat]
  simp only [hkind, hvalid, hwhole, hlen, decide_true]
  decide

/-- What the release of the host leaves standing: the stage, and the hart in reset where no boot image is usable. -/
theorem State.startHost_stage (s : State) : s.startHost.stage = s.stage := by
  unfold State.startHost
  split <;> rfl

theorem State.startHost_hostInReset (s : State) : s.startHost.hinge.hostInReset = !s.bootImageOk := by
  unfold State.startHost
  cases hb : s.bootImageOk <;> rfl

theorem exec_meminitDone {s : State} (hon : s.power.on = true)
    (hst : s.stage = .keeper ∨ s.stage = .training ∨ s.stage = .meminit) :
    exec .meminitDone s = .next ({ s.traceReserve with stage := .ready } : State).startHost := by
  change execMeminitDone s = _
  rw [execMeminitDone, if_neg (by simp [hon, hst])]

/-- Settles O45 (the host's reset at READY and the model's own fields a cold reset keeps rest on logs 43 and 77). -/
theorem bringUp : Obligations.BringUp := by
  unfold Obligations.BringUp
  intro s req v x fresh
  have hcold : fresh s.cold := s.cold_fresh
  refine ⟨fun hoff hearly => ?early, fun hoff hlate => ?rise, ⟨_, rfl, s.cold_fresh, rfl, rfl, rfl⟩,
    fun hon => ⟨?watchdog, fun rail mv hrail hmv => ?rail, fun hr hkey => ?coldrst, fun hr hkey => ?dropped⟩,
    fun hon hrom => ⟨fun hok => ?boots, fun hfirst hsecond => ?fails⟩,
    fun hr hgo hst => ⟨fun hkind => ?wrongKind, fun hkind hwhole hlen hnew => ?image⟩, fun hon hst => ?ready⟩
  case early => rw [exec_pwrEnRise hoff, if_pos hearly]
  case rise =>
    refine ⟨s.coldStart, ?_, s.coldStart_fresh, rfl, rfl, rfl⟩
    rw [exec_pwrEnRise hoff, if_neg (Nat.not_lt.2 hlate)]
  case watchdog => exact ⟨s.cold, congrArg okay (State.coldReset_of_on hon), hcold, rfl⟩
  case rail =>
    refine ⟨s.cold, ?_, hcold, rfl⟩
    rw [exec, execRailResetThreshold, if_pos ⟨hrail, hmv⟩, State.coldReset_of_on hon]
  case coldrst =>
    obtain ⟨p, hp⟩ := s.cpTake_eq req 0x70030
    have hdone : (s.cpTake req 0x70030).writeColdrst v = .done (s.cpTake req 0x70030).cold := by
      rw [State.writeColdrst, if_pos hkey, State.coldReset_of_on (by simpa using hon)]
    refine ⟨_, congrArg okay (hr.winWrite_done hdone), ?_⟩
    rw [hp]
    exact hcold
  case dropped => exact congrArg okay (hr.winWrite_drop (if_neg hkey))
  case boots => exact ⟨_, exec_keeperStart_boots hon hrom hok, rfl, rfl, rfl, rfl, rfl⟩
  case fails =>
    obtain ⟨a, ha⟩ := Option.ne_none_iff_exists'.1 hfirst
    obtain ⟨b, hb⟩ := Option.ne_none_iff_exists'.1 hsecond
    exact ⟨_, exec_keeperStart_fails hon hrom ha hb, rfl, rfl, rfl⟩
  case wrongKind =>
    obtain ⟨p, hp⟩ := s.cpTake_eq req 0x70008
    refine ⟨_, congrArg okay (hr.winWrite_done (State.writeBootstat_refused hgo ?_ (Or.inl ?_))), ?_, rfl⟩ <;> rw [hp]
    · exact hst
    · exact hkind
    · exact hst
  case image =>
    obtain ⟨p, hp⟩ := s.cpTake_eq req 0x70008
    have hrd : (s.cpTake req 0x70008).recoveryByte = s.recoveryByte := by rw [hp]; rfl
    have hst' : (s.cpTake req 0x70008).stage = .failed := by rw [hp]; exact hst
    rw [← hrd] at hkind hwhole hnew ⊢
    cases hvalid : rootValid (s.cpTake req 0x70008).recoveryByte
    · refine ⟨_, congrArg okay (hr.winWrite_done (State.writeBootstat_refused hgo hst' (Or.inr hvalid))), nofun,
        fun _ => ⟨hst', rfl⟩⟩
    · obtain ⟨u, hu, hrun⟩ := State.writeBootstat_runs hgo hst' hkind hvalid hwhole hlen (by simpa using hnew)
      exact ⟨u, congrArg okay (hr.winWrite_done hu), fun _ => hrun, nofun⟩
  case ready =>
    exact ⟨_, exec_meminitDone hon hst, State.startHost_stage _, State.startHost_hostInReset _⟩

end Sys2Proof.Machine

/-! ### The SPDM responder (R491 to R493) -/

namespace Sys2Proof.Machine

section Attestation

variable {s : State} {st : SpdmStage} {r : SpdmResp}

theorem State.respond_live (h : s.spdmLive = true) (st : SpdmStage) (r : SpdmResp) :
    s.respond st r = .next { s with sec := { s.sec with spdm := st, resp := r } } := if_pos h

/-- A request in its place gets its answer. -/
theorem State.respondAfter_come (h : s.spdmLive = true) {need : Bool} (hneed : need = true) (st : SpdmStage) (r : SpdmResp) :
    s.respondAfter need st r = .next { s with sec := { s.sec with spdm := st, resp := r } } := by
  rw [State.respondAfter, if_pos hneed, State.respond_live h]

/-- A request out of its place gets ERROR, and the connection stays where it is. -/
theorem State.respondAfter_early (h : s.spdmLive = true) {need : Bool} (hneed : need = false) (st : SpdmStage) (r : SpdmResp) :
    s.respondAfter need st r = .next { s with sec := { s.sec with resp := .error } } := by
  rw [State.respondAfter, if_neg (by simp [hneed]), State.respond_live h]

theorem State.spdmLive_intro (hon : s.power.on = true) (hperst : s.pins.perst = false) (hrom : s.stage ≠ .rom)
    (hfailed : s.stage ≠ .failed) : s.spdmLive = true := by
  simp [State.spdmLive, hon, hperst, hrom, hfailed]

theorem Security.ready_of_algs {x : Security} (h : x.spdm = .algs) : x.ready = true := by simp [Security.ready, h]

/-- One block, where the index names one. -/
theorem exec_getMeasurements_one (h : s.spdmLive = true) (hready : s.sec.ready = true) {slot i : Nat} (hslot : slot < 2)
    (hlo : 1 ≤ i) (hhi : i ≤ 7) (nonce : BitVec 256) :
    let th := Config.transcriptHash s.free
    let d := s.sec.aliasDigest
    let r := SpdmResp.measurements [(i, s.sec.measurement i)] th (Config.aliasEdSign d th) (Config.aliasMlSign d th)
    exec (.getMeasurements i slot nonce) s = .next { s with free := s.free + 1, sec := { s.sec with resp := r } } := by
  have hne : i ≠ 255 := by omega
  change execGetMeasurements i slot nonce s = _
  simp only [execGetMeasurements, if_neg hne, if_pos (And.intro hlo hhi)]
  exact State.respondAfter_come (s := s.draw.2) h (by simp [hready, hslot]) _ _

/-- Settles O44 (the order of the connection is log 73's; transcripts and signatures are log 72's). -/
theorem attestation : Obligations.Attestation := by
  unfold Obligations.Attestation
  intro s slot offset len nonce h e x answers drawn th ed ml total hon hperst hrom hfailed
  have live := State.spdmLive_intro hon hperst hrom hfailed
  have liveDrawn : drawn.spdmLive = true := live
  have ready (hst : x.spdm = .algs) : s.sec.ready = true := Security.ready_of_algs hst
  have algs (hst : x.spdm = .algs) (t : State) (r : SpdmResp) : answers t .algs r =
      .next { t with sec := { x with resp := r } } := by
    simp only [answers, ← hst]
  refine ⟨State.respond_live live _ _, fun hst => ?early, fun hst => ?caps, fun hst => ?algs, fun hst => ?digests,
    fun hst hslot => ?certificate, fun hst hslot => ?challenge, fun i hst hslot hlo hhi => ?one, fun hst hslot => ?all⟩
  case early =>
    have hst' : s.sec.spdm = .start := hst
    refine (State.respondAfter_early live (by simp [hst']) _ _).trans ?_
    simp only [answers, ← hst]
    rfl
  case caps =>
    have hst' : s.sec.spdm ≠ .start := hst
    exact State.respondAfter_come live (by simp [hst']) _ _
  case algs =>
    have hst' : s.sec.spdm = .caps ∨ s.sec.spdm = .algs := hst
    exact State.respondAfter_come live (by simpa using hst') _ _
  case digests =>
    rw [algs hst]
    exact State.respondAfter_come live (ready hst) _ _
  case certificate =>
    have hoff' : offset < Config.certLength s.sec.aliasDigest slot ↔ offset < total := Iff.rfl
    rw [algs hst]
    by_cases hoff : offset < total
    · rw [if_pos hoff]
      exact State.respondAfter_come live (by simp [ready hst, hslot, hoff'.2 hoff]) _ _
    · rw [if_neg hoff]
      exact State.respondAfter_early live (by simp [ready hst, hslot, (not_congr hoff').2 hoff]) _ _
  case challenge =>
    rw [algs hst]
    exact State.respondAfter_come liveDrawn (by simp [ready hst, hslot]) _ _
  case one =>
    rw [algs hst]
    exact exec_getMeasurements_one live (ready hst) hslot hlo hhi nonce
  case all =>
    rw [algs hst]
    exact State.respondAfter_come liveDrawn (by simp [ready hst, hslot]) _ _

end Attestation

end Sys2Proof.Machine

namespace Sys2Proof.Machine

/-! ### What work on tiles, rings and memory never touches -/

/-- The security state, the wards that debug rights arm, and where the hinge stands: only their own registers and events
move them. -/
def State.steady (s : State) : Security × List Nat × List Nat × (BitVec 32 × Bool × Bool × Bool × Bool) :=
  (s.sec, s.dbg.hof, s.dbg.wards,
    (s.hinge.epoch, s.hinge.up, s.hinge.quiescing, s.hinge.waitEpoch, s.hinge.tilesStopped))

theorem MemOnly.steady {s t : State} (h : MemOnly s t) : t.steady = s.steady := by
  rw [h]
  rfl

theorem foldl_steady {β : Type} {f : State → β → State} (hf : ∀ s b, (f s b).steady = s.steady) (l : List β) (s : State) :
    (l.foldl f s).steady = s.steady :=
  foldl_keeps (fun st : State => st.steady = s.steady) f (fun st b h => (hf st b).trans h) l s rfl

theorem foldl_fst_steady {α β : Type} {f : State × α → β → State × α} (hf : ∀ p b, (f p b).1.steady = p.1.steady)
    (l : List β) (p : State × α) : (l.foldl f p).1.steady = p.1.steady :=
  foldl_keeps (fun q : State × α => q.1.steady = p.1.steady) f (fun q b h => (hf q b).trans h) l p rfl

theorem State.memAccept_steady (s : State) (line : Nat) (bytes : NMap Byte) (poison : Bool) (tag : Nat) :
    (s.memAccept line bytes poison tag).steady = s.steady := (State.memAccept_memOnly _ _ _ _ _).steady

theorem State.acceptSent_steady (s : State) (line : Nat) : (s.acceptSent line).steady = s.steady :=
  (State.acceptSent_memOnly _ _).steady

theorem State.cohWriteLine_steady (s : State) (tag line : Nat) (bytes : NMap Byte) :
    (s.cohWriteLine tag line bytes).steady = s.steady := (State.cohWriteLine_memOnly _ _ _ _).steady

theorem State.cohWrite_steady (s : State) (tag pa : Nat) (bytes : List Byte) :
    (s.cohWrite tag pa bytes).steady = s.steady := (State.cohWrite_memOnly _ _ _ _).steady

theorem State.cohPut_steady (s : State) (tag pa n v : Nat) : (s.cohPut tag pa n v).steady = s.steady :=
  State.cohWrite_steady _ _ _ _

theorem State.killResv_steady (s : State) (p : Nat → Bool) (gr : Granule) : (s.killResv p gr).steady = s.steady := rfl
theorem State.setCache_steady (s : State) (stop : Nat) (m : NMap CLine) : (s.setCache stop m).steady = s.steady := rfl
theorem State.updTxn_steady (s : State) (line : Nat) (f : Txn → Txn) : (s.updTxn line f).steady = s.steady := rfl
theorem State.countCtx_steady (s : State) (ctx i n : Nat) : (s.countCtx ctx i n).steady = s.steady := rfl
theorem State.updCore_steady (s : State) (c : Nat) (f : Core → Core) : (s.updCore c f).steady = s.steady := rfl
theorem State.updTile_steady (s : State) (c key : Nat) (f : Tile → Tile) : (s.updTile c key f).steady = s.steady := rfl
theorem State.setGroup_steady (s : State) (g : Site) (x : Group) : (s.setGroup g x).steady = s.steady := rfl
theorem State.updCtx_steady (s : State) (n : Nat) (f : Ctx → Ctx) : (s.updCtx n f).steady = s.steady := rfl
theorem State.updLaunch_steady (s : State) (k : Nat) (f : Launch → Launch) : (s.updLaunch k f).steady = s.steady := rfl

theorem State.updGroup_steady (s : State) (g : Site) (f : Group → Group) : (s.updGroup g f).steady = s.steady := by
  unfold State.updGroup
  split <;> rfl

theorem State.updRing_steady (s : State) (id : RingId) (f : Ring → Ring) : (s.updRing id f).steady = s.steady := by
  cases id <;> rfl

theorem State.evictLine_steady (s : State) (stop line : Nat) (v : Option (Nat × Nat)) :
    (s.evictLine stop line v).steady = s.steady := by
  unfold State.evictLine
  split
  · rfl
  · dsimp only
    split <;> rfl

theorem State.translated_steady (s : State) (ctx : Nat) (k : AccKind) (vas : List Nat) :
    (s.translated ctx k vas).steady = s.steady := by
  grind [State.steady, State.translated, State.drawStale, State.draw]

theorem State.sendTo_steady (s : State) (d : Nat) (b : MsgBody) (t w : Nat) : (s.sendTo d b t w).steady = s.steady := by
  grind [State.steady, State.sendTo, State.send, State.updPort]

theorem State.l1Put_steady (s : State) (core k : Nat) (bs : List Byte) : (s.l1Put core k bs).steady = s.steady := by
  grind [State.steady, State.l1Put, State.draw, State.updCore, State.setCore]

theorem State.l1Store_steady (s : State) (core : Nat) (e : SbEntry) : (s.l1Store core e).steady = s.steady := by
  grind [State.l1Store, State.l1Put_steady, State.updCore_steady]

/-! #### Ops -/

theorem State.lpPush_steady (s : State) (line : Nat) : (s.lpPush line).steady = s.steady := by
  grind [State.steady, State.lpPush]

/-! #### Events -/

theorem State.msi_steady (s : State) (addr data : Nat) : (s.msi addr data).steady = s.steady := by
  grind [State.steady, State.msi]

theorem State.aplicDeliver_steady (s : State) (n : Nat) : (s.aplicDeliver n).steady = s.steady := by
  grind [State.steady, State.aplicDeliver, State.msi_steady]

theorem State.raiseAplic_steady (s : State) (n : Nat) : (s.raiseAplic n).steady = s.steady := by
  grind [State.steady, State.raiseAplic, State.aplicDeliver_steady]

theorem State.traceOpen_steady (s : State) : s.traceOpen.steady = s.steady := by
  grind [State.steady, State.traceOpen, State.cohWrite_steady]

theorem State.trace_steady (s : State) (type ward ctx core place high : Nat) :
    (s.trace type ward ctx core place high).steady = s.steady := by
  grind [State.steady, State.trace, State.traceOpen_steady, State.cohWrite_steady]

theorem State.logEvent_steady (s : State) (type ward ctx core place high : Nat) :
    (s.logEvent type ward ctx core place high).steady = s.steady := by
  grind [State.steady, State.logEvent, State.cohWrite_steady, State.trace_steady, State.raiseAplic_steady]

theorem State.debugEvent_steady (s : State) (g : Site) (causes n lane brk addr : Nat) :
    (s.debugEvent g causes n lane brk addr).steady = s.steady := by
  grind [State.steady, State.debugEvent, State.logEvent_steady]

/-! #### Access -/

theorem State.noteIoFault_steady (s : State) (ctx detail va : Nat) :
    (s.noteIoFault ctx detail va).steady = s.steady := by
  grind [State.steady, State.noteIoFault]

theorem State.sramWrite_steady (s : State) (die addr : Nat) (bytes : List Byte) :
    (s.sramWrite die addr bytes).steady = s.steady := by
  grind [State.steady, State.sramWrite]

theorem State.stampSram_steady (s : State) (die addr n : Nat) (backing : Option Nat) :
    (s.stampSram die addr n backing).steady = s.steady := by
  grind [State.steady, State.stampSram, foldl_steady]

theorem State.targetWrite_steady (s : State) (t : Target) (tag : Nat) (bytes : List Byte) :
    (s.targetWrite t tag bytes).steady = s.steady := by
  cases t with
  | cache pa => exact State.cohWrite_steady _ _ _ _
  | uncached pa => exact foldl_steady (fun _ _ => State.memAccept_steady _ _ _ _ _) _ _
  | share die a back =>
    have h1 := (State.stampSram_steady _ die a bytes.length back).trans (State.sramWrite_steady s die a bytes)
    cases back with
    | none => exact h1
    | some pa => exact (State.cohWrite_steady _ _ _ _).trans h1
  | window p pa c => rfl
  | mmio pa => rfl

theorem State.sawPage_steady (s : State) (ctx va : Nat) : (s.sawPage ctx va).steady = s.steady := by
  grind [State.steady, State.sawPage]

theorem State.feWriteBytes_steady (s : State) (ctx tag va : Nat) (bytes : List Byte) :
    (s.feWriteBytes ctx tag va bytes).steady = s.steady := by
  induction bytes generalizing s va with
  | nil => rfl
  | cons b bs ih => grind [State.steady, State.feWriteBytes, State.targetWrite_steady]

theorem State.feWrite_steady {s t : State} (ctx tag va : Nat) (bytes : List Byte)
    (ht : s.feWrite ctx tag va bytes = .ok t) : t.steady = s.steady := by
  grind [State.steady, State.feWrite, State.feWriteBytes_steady]

theorem State.pageRequest_steady (s : State) (ctx va : Nat) : (s.pageRequest ctx va).steady = s.steady := by
  grind [State.steady, State.pageRequest, State.countCtx_steady]

/-! #### Faults -/

theorem State.syncCtx_steady (s : State) (n : Nat) : (s.syncCtx n).steady = s.steady := by
  grind [State.steady, State.syncCtx, State.cohWrite_steady]

theorem State.setSlot_steady (s : State) (i : Nat) (x : Slot) : (s.setSlot i x).steady = s.steady := by
  grind [State.steady, State.setSlot, State.cohWrite_steady]

theorem State.syncSlotOf_steady (s : State) (ctx : Nat) : (s.syncSlotOf ctx).steady = s.steady := by
  grind [State.steady, State.syncSlotOf, State.setSlot_steady]

theorem State.tryFault_steady {s t : State} (ctx tag rcd : Nat) (ht : s.tryFault ctx tag rcd = .ok t) :
    t.steady = s.steady := by
  grind [State.steady, State.tryFault, State.feWrite_steady]

theorem State.writeFault_steady (s : State) (ctx tag rcd : Nat) : (s.writeFault ctx tag rcd).steady = s.steady := by
  grind [State.steady, State.writeFault, State.updCtx_steady, State.tryFault_steady, State.pageRequest_steady,
    State.sawPage_steady]

theorem State.orphanStore_steady (s : State) (core : Nat) (t : Tile) (va : Nat) (tg : Target) (bs : List Byte) :
    (s.orphanStore core t va tg bs).steady = s.steady := by
  grind [State.steady, State.orphanStore, State.updCore_steady]

theorem State.putStatus_steady (s : State) (core : Nat) (t : Tile) (va : Nat) (tg : Target) (bs : List Byte) :
    (s.putStatus core t va tg bs).steady = s.steady := by
  cases tg <;> grind [State.steady, State.putStatus, State.translated_steady, State.orphanStore_steady,
    State.targetWrite_steady]

theorem State.writeStatus_steady (s : State) (core key : Nat) (t : Tile) (sp : Spindle)
    (state cause desc addr : Nat) : (s.writeStatus core key t sp state cause desc addr).steady = s.steady := by
  grind [State.steady, State.writeStatus, State.putStatus_steady]

theorem State.stopSpindles_steady (s : State) (core key : Nat) (t : Tile) (but : List Nat) :
    (s.stopSpindles core key t but).steady = s.steady := by
  grind [State.steady, State.stopSpindles, State.writeStatus_steady, foldl_steady]

theorem State.excEntry_steady (s : State) (r : ExcRec) (core key entry : Nat) :
    (s.excEntry r core key entry).1.steady = s.steady := by
  grind [State.steady, State.excEntry, State.cohWrite_steady, State.cohPut_steady]

theorem State.excursionTile_steady (s : State) (core key : Nat) (t : Tile) (mismatch : Bool) :
    (s.excursionTile core key t mismatch).steady = s.steady := by
  unfold State.excursionTile
  extract_lets l entry
  exact foldl_fst_steady (f := fun (p : State × List ExcRec) r =>
    ((p.1.excEntry r core key entry).1, p.2 ++ [(p.1.excEntry r core key entry).2]))
    (fun p r => State.excEntry_steady p.1 r core key entry) s.power.recs (s, [])

theorem State.tileGone_steady (s : State) (core key : Nat) (why : Option StopWhy) :
    (s.tileGone core key why).steady = s.steady := by
  grind [State.steady, State.tileGone, State.excursionTile_steady, State.trace_steady, State.updCtx_steady,
    State.updLaunch_steady, State.updCore_steady, State.syncSlotOf_steady, foldl_steady]

theorem State.releaseHalted_steady (s : State) (core key reason : Nat) :
    (s.releaseHalted core key reason).steady = s.steady := by
  grind [State.steady, State.releaseHalted, State.debugEvent_steady, foldl_steady]

theorem State.stopTile_steady (s : State) (core key : Nat) (why : StopWhy) (butSpindle : List Nat) :
    (s.stopTile core key why butSpindle).steady = s.steady := by
  grind [State.steady, State.stopTile, State.releaseHalted_steady, State.stopSpindles_steady, State.tileGone_steady]

theorem State.stopCtxTiles_steady (s : State) (ctx : Nat) : (s.stopCtxTiles ctx).steady = s.steady := by
  grind [State.steady, State.stopCtxTiles, State.stopTile_steady, foldl_steady]

theorem State.haltLaunches_steady (s : State) (ctx : Nat) (named : Option Nat) :
    (s.haltLaunches ctx named).steady = s.steady := by
  grind [State.steady, State.haltLaunches]

theorem State.dropRingWaits_steady (s : State) (ctx : Nat) : (s.dropRingWaits ctx).steady = s.steady := by
  grind [State.steady, State.dropRingWaits]

theorem State.faultContext_steady (s : State) (ctx : Nat) (launch : Option Nat) (rcd : Nat) :
    (s.faultContext ctx launch rcd).steady = s.steady := by
  grind [State.steady, State.faultContext, State.writeFault_steady, State.stopCtxTiles_steady, State.updCtx_steady,
    State.syncCtx_steady, State.dropRingWaits_steady, State.haltLaunches_steady]

theorem State.feFault_steady (s : State) (ctx detail va : Nat) : (s.feFault ctx detail va).steady = s.steady := by
  grind [State.steady, State.feFault, State.faultContext_steady, State.noteIoFault_steady]

theorem State.faultTile_steady (s : State) (core key : Nat) (f : FaultInfo) (group : Nat) (butSpindle : List Nat) :
    (s.faultTile core key f group butSpindle).steady = s.steady := by
  grind [State.steady, State.faultTile, State.trace_steady, State.updCore_steady, State.faultContext_steady,
    State.stopTile_steady]

theorem State.haltNow_steady (s : State) (g : Site) (causes n lane brk addr : Nat) :
    (s.haltNow g causes n lane brk addr).steady = s.steady := by
  grind [State.steady, State.haltNow, State.setGroup_steady, State.updTile_steady, State.debugEvent_steady]

theorem State.halt_steady (s : State) (g : Site) (causes n lane brk addr : Nat) :
    (s.halt g causes n lane brk addr).steady = s.steady := by
  grind [State.steady, State.halt, State.updGroup_steady, State.haltNow_steady]

theorem State.takeFault_steady (s : State) (core key : Nat) (f : FaultInfo) (group : Nat) (butSpindle : Option Nat) :
    (s.takeFault core key f group butSpindle).steady = s.steady := by
  grind [State.steady, State.takeFault, State.updTile_steady, State.faultTile_steady]

/-! #### Issue -/

theorem State.complete_steady (s : State) (g : Site) (next : Option DWord) (watch : (Option (Nat × Nat × Nat))) :
    (s.complete g next watch).steady = s.steady := by
  grind [State.steady, State.complete, State.updCore_steady, State.setGroup_steady, State.halt_steady]

/-! #### Memory -/

theorem State.mmioWrite_steady (s : State) (pa : Nat) (bytes : List Byte) :
    (s.mmioWrite pa bytes).steady = s.steady := by
  grind [State.steady, State.mmioWrite, State.msi_steady]

theorem State.shareStore_steady (s : State) (die a : Nat) (back : Option Nat) (bytes : NMap Byte) :
    (s.shareStore die a back bytes).steady = s.steady := by
  grind [State.steady, State.shareStore, State.stampSram_steady, State.sramWrite_steady, foldl_steady]

theorem State.acceptNow_steady {s t : State} (core : Nat) (e : SbEntry) (ht : s.acceptNow core e = some t) :
    t.steady = s.steady := by
  grind [State.steady, State.acceptNow, State.cohWriteLine_steady, State.l1Store_steady, State.killResv_steady,
    State.setCache_steady, State.lpPush_steady, State.memAccept_steady, State.shareStore_steady,
    State.mmioWrite_steady, foldl_steady]

/-! #### Rings -/

theorem State.feStore_steady (s : State) (ctx tag va : Nat) (bytes : List Byte) :
    (s.feStore ctx tag va bytes).steady = s.steady := by
  grind [State.steady, State.feStore, State.feWrite_steady]

theorem State.ringStore_steady (s : State) (id : RingId) (tag a : Nat) (bytes : List Byte) :
    (s.ringStore id tag a bytes).steady = s.steady := by
  cases id with
  | admin => exact State.cohWrite_steady s tag a bytes
  | ring c r => exact State.feStore_steady s c tag a bytes

theorem State.syncRing_steady (s : State) (id : RingId) : (s.syncRing id).steady = s.steady := by
  grind [State.steady, State.syncRing, State.ringStore_steady]

theorem State.ringPage_steady (s : State) (id : RingId) (va : Nat) : (s.ringPage id va).steady = s.steady := by
  grind [State.steady, State.ringPage, State.updRing_steady, State.pageRequest_steady]

theorem State.ringMiss_steady (s : State) (id : RingId) (k : Chk Unit) : (s.ringMiss id k).steady = s.steady := by
  cases k <;> grind [State.steady, State.ringMiss, State.ringPage_steady, State.sawPage_steady, State.feFault_steady]

theorem State.putHandle_steady (s : State) (ctx i e : Nat) : (s.putHandle ctx i e).steady = s.steady := by
  grind [State.steady, State.putHandle, State.feStore_steady]

theorem State.movePin_steady (s : State) (ctx i : Nat) (up : Bool) : (s.movePin ctx i up).steady = s.steady := by
  grind [State.steady, State.movePin, State.putHandle_steady, State.updCtx_steady, State.pageRequest_steady,
    State.sawPage_steady, State.feFault_steady]

theorem State.pin_steady (s : State) (ctx i : Nat) : (s.pin ctx i).steady = s.steady := by
  grind [State.steady, State.pin, State.movePin_steady]

theorem State.unpin_steady (s : State) (ctx i : Nat) : (s.unpin ctx i).steady = s.steady := by
  grind [State.steady, State.unpin, State.movePin_steady]

theorem State.writeCounters_steady (s : State) (ctx : Nat) : (s.writeCounters ctx).steady = s.steady := by
  grind [State.steady, State.writeCounters, State.cohWrite_steady]

theorem State.ringMsi_steady (s : State) (id : RingId) (r : Ring) : (s.ringMsi id r).steady = s.steady := by
  cases id <;> grind [State.steady, State.ringMsi, State.msi_steady]

theorem State.postEntry_steady (s : State) (id : RingId) (m : Cmd) (kind status detail : Nat) (flags : BitVec 5) (info : Nat)
    (msi : Bool) : (s.postEntry id m kind status detail flags info msi).steady = s.steady := by
  cases id <;> grind [State.postEntry, State.writeCounters_steady, State.ringStore_steady, State.updRing_steady,
    State.ringMsi_steady, State.syncRing_steady]

/-! #### FrontEnd -/

theorem State.fetchOne_steady {s t : State} (id : RingId) (r : Ring) (ht : s.fetchOne id r = .got t) :
    t.steady = s.steady := by
  have pinned (l : List Nat) : (l.foldl (fun st i => st.pin (ringCtx id) i) s).steady = s.steady :=
    foldl_steady (fun _ _ => State.pin_steady _ _ _) l s
  unfold State.fetchOne at ht
  repeat' split at ht
  any_goals contradiction
  all_goals
    obtain rfl := Fetched.got.inj ht
    exact (State.trace_steady _ _ _ _ _ _ _).trans ((State.updRing_steady _ _ _).trans (pinned _))

theorem State.fetchLoop_steady (s : State) (id : RingId) (fuel : Nat) : (s.fetchLoop id fuel).steady = s.steady := by
  induction fuel generalizing s with
  | zero => rfl
  | succ fuel ih => grind [State.fetchLoop, State.fetchOne_steady, State.ringMiss_steady, State.updRing_steady]

theorem State.fetchMore_steady (s : State) (id : RingId) : (s.fetchMore id).steady = s.steady := by
  grind [State.steady, State.fetchMore, State.updRing_steady, State.syncRing_steady, State.fetchLoop_steady]

theorem State.readDoorbell_steady (s : State) (id : RingId) : (s.readDoorbell id).steady = s.steady := by
  unfold State.readDoorbell
  dsimp only
  split
  · rfl
  · split
    · split
      · split <;> simp only [State.syncRing_steady, State.countCtx_steady, State.updRing_steady]
      · simp only [State.fetchMore_steady, State.updRing_steady]
    · simp only [State.updRing_steady, State.ringPage_steady]
    · simp only [State.updRing_steady, State.ringPage_steady]
    · exact State.ringMiss_steady _ _ _
    · rfl
    · exact State.ringMiss_steady _ _ _

theorem State.finalAll_steady (s : State) (lines : List Nat) : (s.finalAll lines).steady = s.steady := by
  grind [State.steady, State.finalAll, State.acceptSent_steady, State.memAccept_steady, State.setCache_steady,
    foldl_steady]

theorem State.completion_steady {s t : State} (m : Cmd) {st det info : Nat} {flags : BitVec 5}
    (ht : s.completion m = some (st, det, info, flags, t)) : t.steady = s.steady := by
  grind [State.completion, State.finalAll_steady]

theorem State.slotTo_steady (s : State) (n st : Nat) : (s.slotTo n st).steady = s.steady := by
  grind [State.steady, State.slotTo, State.updCtx_steady, State.setSlot_steady]

theorem State.startEviction_steady (s : State) (n : Nat) (want : Option Nat) :
    (s.startEviction n want).steady = s.steady := by
  grind [State.steady, State.startEviction, State.slotTo_steady, State.syncCtx_steady, State.updCtx_steady]

theorem State.settleOff_steady (s : State) (ctx : Nat) : (s.settleOff ctx).steady = s.steady := by
  grind [State.steady, State.settleOff, State.startEviction_steady, State.syncCtx_steady, State.updCtx_steady]

theorem State.dropLaunch_steady (s : State) (k : Nat) : (s.dropLaunch k).steady = s.steady := by
  grind [State.steady, State.dropLaunch, State.unpin_steady, foldl_steady]

theorem State.completeCmd_steady (s : State) (ring : RingId) (count : Nat) (force : Bool) :
    (s.completeCmd ring count force).steady = s.steady := by
  have last (m : Cmd) {u : State} (hu : u.steady = s.steady) :
      (match (match m.launch with | some k => u.dropLaunch k | none => u), ring with
        | a, .admin => a
        | a, .ring c _ => a.settleOff c).steady = s.steady := by
    cases m.launch <;> cases ring <;> simp [State.settleOff_steady, State.dropLaunch_steady, hu]
  have unpinned (m : Cmd) {u : State} (hu : u.steady = s.steady) :
      (m.pins.foldl (fun st i => st.unpin (ringCtx ring) i) u).steady = s.steady :=
    (foldl_steady (fun _ _ => State.unpin_steady _ _ _) _ _).trans hu
  have lostOr (b : Bool) (k : Chk Unit) {u : State} (hu : u.steady = s.steady) :
      (if b = true then u else u.ringMiss ring k).steady = s.steady := by
    cases b
    · exact (State.ringMiss_steady _ _ _).trans hu
    · exact hu
  unfold State.completeCmd
  dsimp only
  split
  · rfl
  · split
    · rfl
    · split
      · rfl
      · rename_i m _ _ st det info fl s1 hc
        have h1 : s1.steady = s.steady := State.completion_steady m hc
        split
        · cases ring <;> exact last m ((State.trace_steady _ 6 _ _ _ _ _).trans
            (unpinned m ((State.postEntry_steady _ _ m 0 st det fl info _).trans h1)))
        · simpa [State.ringPage_steady] using h1
        · cases ring <;> exact last m (unpinned m (u := s1.updRing _ _) ((State.updRing_steady _ _ _).trans h1))
        · cases ring <;> exact last m (lostOr _ _ (unpinned m (u := s1.updRing _ _) ((State.updRing_steady _ _ _).trans h1)))

/-! #### Shares -/

theorem State.syncGrans_steady (s : State) (ctx : Nat) : (s.syncGrans ctx).steady = s.steady := by
  grind [State.steady, State.syncGrans, State.setSlot_steady]

theorem State.departRun_steady (s : State) (ctx : Nat) (r : ShareRun) : (s.departRun ctx r).steady = s.steady := by
  grind [State.steady, State.departRun, State.acceptSent_steady, State.syncGrans_steady, State.updCtx_steady,
    foldl_steady]

theorem State.departAll_steady (s : State) (ctx : Nat) : (s.departAll ctx).steady = s.steady := by
  grind [State.steady, State.departAll, State.departRun_steady, foldl_steady]

/-! #### Retire -/

theorem State.finishStore_steady (s : State) (core : Nat) (e : SbEntry) : (s.finishStore core e).steady = s.steady := by
  have taken : ((s.acceptNow core e).getD s).steady = s.steady := by
    cases hu : s.acceptNow core e with
    | none => rfl
    | some u => exact State.acceptNow_steady _ _ hu
  unfold State.finishStore
  split
  · exact State.cohWriteLine_steady _ _ _ _
  · exact taken

theorem State.finishOrphans_steady (s : State) (die : Nat) : (s.finishOrphans die).steady = s.steady := by
  grind [State.steady, State.finishOrphans, State.finishStore_steady, State.updCore_steady, foldl_steady]

/-! #### Residency -/

theorem State.refuseServed_steady (s : State) (ctx : Nat) : (s.refuseServed ctx).steady = s.steady := by
  grind [State.steady, State.refuseServed, State.sendTo_steady, State.updLaunch_steady, foldl_steady]

/-! #### Hinge -/

theorem State.afterReset_steady (s : State) (n : Nat) : (s.afterReset n).steady = s.steady := by
  grind [State.steady, State.afterReset, State.updCtx_steady, State.syncCtx_steady, State.refuseServed_steady,
    State.settleOff_steady, State.dropRingWaits_steady, State.slotTo_steady, State.departAll_steady]

theorem State.settleOrphans_steady (s : State) : s.settleOrphans.steady = s.steady := by
  grind [State.steady, State.settleOrphans, State.finishOrphans_steady, foldl_steady]

theorem State.settleTxn_steady (s : State) (line : Nat) (t : Txn) (tag : Nat) :
    (s.settleTxn line t tag).steady = s.steady := by
  grind [State.steady, State.settleTxn, State.memAccept_steady, State.updTxn_steady, foldl_steady]

theorem State.settleEpoch_steady (s : State) : s.settleEpoch.steady = s.steady := by
  grind [State.steady, State.settleEpoch, State.acceptSent_steady, State.evictLine_steady, State.settleTxn_steady,
    foldl_steady]

theorem State.completeAll_steady (s : State) (id : RingId) : (s.completeAll id).steady = s.steady := by
  grind [State.steady, State.completeAll, State.completion_steady, State.completeCmd_steady, State.updLaunch_steady,
    foldl_steady]

theorem State.applyRegions_steady (s : State) : s.applyRegions.steady = s.steady := by
  unfold State.applyRegions
  split
  · rfl
  · dsimp only
    split <;> rfl

/-! #### Debugger -/

theorem State.budgetOn_steady (s : State) (core key : Nat) : (s.budgetOn core key).steady = s.steady := by
  grind [State.steady, State.budgetOn, State.updTile_steady]

theorem State.resume_steady (s : State) (g : Site) (step : Bool) : (s.resume g step).steady = s.steady := by
  grind [State.steady, State.resume, State.budgetOn_steady, State.setGroup_steady, State.takeFault_steady,
    State.complete_steady]

/-! #### Security -/

theorem State.releaseGroup_steady (s : State) (g : Site) : (s.releaseGroup g).steady = s.steady := by
  grind [State.steady, State.releaseGroup, State.resume_steady, State.debugEvent_steady, State.setGroup_steady]

end Sys2Proof.Machine

/-! ### Nonces, debug tokens and firmware updates (R485, R495 to R497, R535 to R537) -/

namespace Sys2Proof.Machine

/-! #### Bytes of an object -/

theorem bytesNat_append (a b : List Byte) : bytesNat (a ++ b) = bytesNat a + 256 ^ a.length * bytesNat b := by
  induction a with
  | nil => simp [bytesNat]
  | cons x a ih => simp only [List.cons_append, bytesNat, ih, List.length_cons, pow_succ]; ring

theorem bytesNat_lt (a : List Byte) : bytesNat a < 256 ^ a.length := by
  induction a with
  | nil => simp [bytesNat]
  | cons x a ih =>
    have := x.isLt
    simp only [bytesNat, List.length_cons, pow_succ]
    omega

theorem objBytes_append (rd : Nat → Byte) (o m n : Nat) :
    objBytes rd o (m + n) = objBytes rd o m ++ objBytes rd (o + m) n := by
  simp [objBytes, List.range_add, List.map_map, Function.comp_def, Nat.add_assoc]

/-- The low `m` bytes of a number read from an object. -/
theorem objNat_mod (rd : Nat → Byte) (o m n : Nat) : objNat rd o (m + n) % 256 ^ m = objNat rd o m := by
  have hlen : (objBytes rd o m).length = m := by simp [objBytes]
  have hlt := bytesNat_lt (objBytes rd o m)
  rw [hlen] at hlt
  rw [objNat, objBytes_append, bytesNat_append, hlen, Nat.add_mul_mod_self_left, Nat.mod_eq_of_lt hlt, objNat]

/-- The bytes above the low `m`. -/
theorem objNat_div (rd : Nat → Byte) (o m n : Nat) : objNat rd o (m + n) / 256 ^ m = objNat rd (o + m) n := by
  have hlen : (objBytes rd o m).length = m := by simp [objBytes]
  have hlt := bytesNat_lt (objBytes rd o m)
  rw [hlen] at hlt
  rw [objNat, objBytes_append, bytesNat_append, hlen, Nat.add_mul_div_left _ _ (by positivity), Nat.div_eq_of_lt hlt,
    Nat.zero_add, objNat]

/-- The module that a token's body names, and the nonce that it holds (R495). -/
theorem tokenBody_module (rd : Nat → Byte) (o : Nat) : nfield (objNat rd o 64) 63 0 = objNat rd o 8 :=
  objNat_mod rd o 8 56

theorem tokenBody_nonce (rd : Nat → Byte) (o : Nat) : nfield (objNat rd o 64) 127 64 = objNat rd (o + 8) 8 := by
  rw [nfield, Nat.shiftRight_eq_div_pow]
  exact (congrArg (· % 256 ^ 8) (objNat_div rd o 8 56)).trans (objNat_mod rd (o + 8) 8 48)

/-! #### Tokens -/

theorem Security.freeToken_some {x : Security} {i : Nat} (h : x.freeToken = some i) :
    i < 4 ∧ NMap.find i x.tokens = none := by
  have hmem := List.mem_of_find?_eq_some h
  have hfree := List.find?_some h
  exact ⟨by simpa using hmem, by simpa [NMap.has] using hfree⟩

/-- The result of a check is one of the codes of R555, never 8, which stands for a check under way. -/
theorem State.checkToken_done (s : State) : s.checkToken.1 ≠ 8 := by
  unfold State.checkToken
  extract_lets _ _ _ _ _ _ r
  simp only [r]
  repeat' split
  all_goals decide

/-- What a token that is accepted shows (R496). -/
theorem State.checkToken_accepts {s : State} (h : s.checkToken.1 = 1) :
    s.checkToken.2.wfirst ≤ s.checkToken.2.wlast ∧ s.sec.freeToken.isSome = true ∧
      objNat (s.objByte s.sec.tokAddr) 8192 8 = s.sec.ident.moduleId.toNat ∧
      s.sec.nonce = some (BitVec.ofNat 64 (objNat (s.objByte s.sec.tokAddr) 8200 8)) := by
  unfold State.checkToken at h ⊢
  extract_lets rd _ _ _ _ _ r at h ⊢
  have hr : r = 1 := h
  simp only [r] at hr
  repeat' split at hr
  all_goals simp at hr
  rename_i hwho hid hnonce hw hfree hrights
  refine ⟨Nat.not_lt.1 hw, by simpa [Option.isSome_iff_ne_none] using hfree,
    (tokenBody_module _ _).symm.trans (not_not.1 hid), (not_not.1 hnonce).trans ?_⟩
  exact congrArg (fun n => some (BitVec.ofNat 64 n)) (tokenBody_nonce rd 8192)

/-- A check that ends refuses the token with a result and nothing else, or accepts it under the lowest free index. -/
theorem exec_tokenCheckDone {s : State} (h : s.sec.result = 8) :
    (s.checkToken.1 ≠ 1 ∧ exec .tokenCheckDone s = .next { s with sec := { s.sec with result := s.checkToken.1 } }) ∨
    ∃ i, s.checkToken.1 = 1 ∧ s.sec.freeToken = some i ∧ exec .tokenCheckDone s = .next (({ s with sec := { s.sec with
      result := 1, lastToken := i, tokens := NMap.ins i s.checkToken.2 s.sec.tokens } } : State).keeperEvent 9 i) := by
  change (_ ∧ execTokenCheckDone s = _) ∨ ∃ i, _ ∧ _ ∧ execTokenCheckDone s = _
  have hbusy : ¬ s.sec.result ≠ 8 := not_not.2 h
  by_cases hr : s.checkToken.1 = 1
  · obtain ⟨i, hi⟩ := Option.isSome_iff_exists.1 (State.checkToken_accepts hr).2.1
    refine Or.inr ⟨i, hr, hi, ?_⟩
    have hpair : s.checkToken = (1, s.checkToken.2) := Prod.ext hr rfl
    rw [execTokenCheckDone, if_neg hbusy, hpair]
    simp only [hi]
  · refine Or.inl ⟨hr, ?_⟩
    rw [execTokenCheckDone, if_neg hbusy]
    split
    · rename_i t i hct _
      exact absurd (congrArg Prod.fst hct) hr
    · rename_i r t _ _ hct _
      rw [hct]

theorem State.hasRight_congr {s t : State} (h : s.sec = t.sec) (r w : Nat) : s.hasRight r w = t.hasRight r w := by
  rw [State.hasRight, State.hasRight, h]

/-- What the end of a token takes: its entry, and every ward that debug rights armed and no other token covers. -/
theorem State.endToken_ends {s : State} {i : Nat} (h : NMap.has i s.sec.tokens = true) :
    (s.endToken i).sec.tokens = NMap.del i s.sec.tokens ∧
      (∀ w ∈ (s.endToken i).dbg.hof, (s.endToken i).hasRight 0 w = true) ∧
      (∀ w ∈ (s.endToken i).dbg.wards, (s.endToken i).hasRight 1 w = true) := by
  set s1 : State := { s with sec := { s.sec with tokens := NMap.del i s.sec.tokens } } with hs1
  have hsteady : (s.endToken i).steady = (s1.sec, s1.dbg.hof.filter (fun w => s1.hasRight 0 w),
      s1.dbg.wards.filter (fun w => s1.hasRight 1 w), s1.steady.2.2.2) := by
    rw [State.endToken, if_neg (by simp [h])]
    exact (State.logEvent_steady _ _ _ _ _ _ _).trans (foldl_steady (fun _ _ => State.releaseGroup_steady _ _) _ _)
  obtain ⟨hsec, hhof, hwards, -⟩ := by simpa only [State.steady, Prod.mk.injEq] using hsteady
  refine ⟨by rw [hsec], fun w hw => ?_, fun w hw => ?_⟩
  · rw [hhof] at hw
    rw [State.hasRight_congr hsec]
    exact (List.mem_filter.1 hw).2
  · rw [hwards] at hw
    rw [State.hasRight_congr hsec]
    exact (List.mem_filter.1 hw).2

theorem NMap.has_of_find {α : Type} {k : Nat} {m : NMap α} {a : α} (h : NMap.find k m = some a) : NMap.has k m = true := by
  simp [NMap.has, h]

/-! #### Updates -/

@[simp] theorem Security.bank_setBank_same (x : Security) (b : Bool) (v : Bank) : (x.setBank b v).bank b = v := by
  cases b <;> rfl

@[simp] theorem Security.bank_setBank_other (x : Security) (b : Bool) (v : Bank) : (x.setBank (!b) v).bank b = x.bank b := by
  cases b <;> rfl

/-- START writes nothing of the bank that booted. -/
theorem State.startUpdate_starts {s : State} (h : s.sec.updstat ≠ 1) :
    s.startUpdate.sec.updstat = 1 ∧ s.startUpdate.sec.bank s.sec.bootedB = s.sec.bank s.sec.bootedB ∧
      s.startUpdate.sec.counter = s.sec.counter := by
  rw [State.startUpdate, if_neg h]
  dsimp only
  split
  · cases hb : s.sec.bootedB <;> simp [Security.setBank, Security.bank]
  · cases hb : s.sec.bootedB <;> simp [Security.bank]

/-- COMMIT of the trial bank that runs. -/
theorem State.commitUpdate_commits {s : State} (hbuf : s.sec.fromBuffer = false) (hboot : s.sec.booted = true)
    (htrial : (s.sec.bank s.sec.bootedB).state = 1) (hready : s.stage = .ready) :
    s.commitUpdate.sec.updstat = 6 ∧ (s.commitUpdate.sec.bank s.sec.bootedB).state = 2 ∧
      (s.sec.bank s.sec.bootedB).secverOf 1 ≤ s.commitUpdate.sec.counter ∧ s.sec.counter ≤ s.commitUpdate.sec.counter := by
  rw [State.commitUpdate]
  dsimp only
  rw [if_neg (by simp [hbuf, hboot, htrial, hready])]
  refine ⟨rfl, ?_, ?_, ?_⟩
  · cases hb : s.sec.bootedB <;> simp [Security.setBank, Security.bank]
  all_goals
    dsimp only
    split <;> rename_i hlt <;> bv_omega

/-- Settles O43 (log 75 for the objects read at START, log 57 for the release of traced wards). -/
theorem tokensAndUpdates : Obligations.TokensAndUpdates := by
  unfold Obligations.TokensAndUpdates
  intro s req v x
  refine ⟨fun hr => ?nonce, fun hr => ?tokaddr, fun hres => ?check, fun i t hfind => ?ends, fun hr hstart hcommit hidle => ?start,
    fun hbusy => ⟨fun hfail ok => ?refused, fun hok => ?flashFails, fun hok => ?written⟩,
    fun hr hstart hcommit hbuf hboot htrial hready => ?commit⟩
  case nonce =>
    refine (congrArg okay (hr.winRead_eq (op := State.readNonce) rfl)).trans ?_
    rw [State.cpTake_sec]
  case tokaddr =>
    have hsec := s.cpTake_sec req 0x70018
    by_cases hb : x.result = 8
    · rw [if_pos hb]
      exact congrArg okay (hr.winWrite_drop (if_pos (by rw [hsec]; exact hb)))
    · rw [if_neg hb]
      refine (congrArg okay (hr.winWrite_done (if_neg (by rw [hsec]; exact hb)))).trans ?_
      rw [hsec]
  case check =>
    rcases exec_tokenCheckDone hres with ⟨hne, hexec⟩ | ⟨i, hone, hfree, hexec⟩
    · exact ⟨_, hexec, s.checkToken_done, fun _ => rfl, fun h => absurd h hne⟩
    · obtain ⟨hw, -, hid, hnonce⟩ := State.checkToken_accepts hone
      obtain ⟨hi, hnone⟩ := Security.freeToken_some hfree
      refine ⟨_, hexec, ?_⟩
      rw [State.keeperEvent_sec]
      exact ⟨show (1 : Nat) ≠ 8 by decide, fun h => absurd rfl h, fun _ => ⟨i, s.checkToken.2, hi, hnone, rfl, hw, rfl, hid, hnonce⟩⟩
  case ends =>
    refine ⟨fun hr hfield => ?_, fun hover => ?_⟩
    · obtain ⟨p, hp⟩ := s.cpTake_eq req 0x70028
      refine ⟨_, congrArg okay (hr.winWrite_done rfl), ?_⟩
      rw [hp, hfield]
      exact State.endToken_ends (s := { s with pins := p }) (NMap.has_of_find hfind)
    · refine ⟨s.endToken i, ?_, State.endToken_ends (NMap.has_of_find hfind)⟩
      change execTokenExpiry i s = _
      have hfind' : NMap.find i s.sec.tokens = some t := hfind
      have hover' : t.expiry ≤ s.sec.keeperNs := hover
      simp [execTokenExpiry, hfind', hover', okay]
  case start =>
    obtain ⟨p, hp⟩ := s.cpTake_eq req 0x70058
    refine ⟨_, congrArg okay (hr.winWrite_done rfl), ?_⟩
    rw [hp]
    simp only [hstart, hcommit, if_true, Bool.false_eq_true, if_false]
    exact State.startUpdate_starts (s := { s with pins := p }) hidle
  case refused =>
    change execUpdateWriteDone ok s = _
    rw [execUpdateWriteDone, if_neg (not_not.2 hbusy), if_pos hfail]
  case flashFails =>
    change execUpdateWriteDone false s = _
    rw [execUpdateWriteDone, if_neg (not_not.2 hbusy), if_neg (not_not.2 hok), if_pos rfl]
  case written =>
    refine ⟨_, (if_neg (not_not.2 hbusy)).trans ((if_neg (not_not.2 hok)).trans (if_neg (by decide))), ?_⟩
    exact ⟨rfl, s.sec.bank_setBank_other s.sec.bootedB _, s.sec.bank_setBank_same (!s.sec.bootedB) _⟩
  case commit =>
    obtain ⟨p, hp⟩ := s.cpTake_eq req 0x70058
    refine ⟨_, congrArg okay (hr.winWrite_done rfl), ?_⟩
    rw [hp]
    simp only [hstart, hcommit, if_true, Bool.false_eq_true, if_false]
    exact State.commitUpdate_commits (s := { s with pins := p }) hbuf hboot htrial hready

end Sys2Proof.Machine

namespace Sys2Proof.Machine

/-! ### O49: the hinge is lost and comes back -/

section HingeLoss

/-! #### What is dropped for the host -/

theorem NMap.key_ne_of_mem_del {α : Type} {k : Nat} {m : NMap α} {c : Nat × α} (h : c ∈ NMap.del k m) : c.1 ≠ k := by
  induction m with
  | nil => cases h
  | cons x m ih =>
    rw [NMap.del] at h
    split at h
    · exact ih h
    · rename_i hx
      rcases List.mem_cons.1 h with rfl | h
      · exact hx
      · exact ih h

theorem State.callNext_memOnly (s : State) (line : Nat) : MemOnly s (s.callNext line) := by
  rw [State.callNext_eq]
  exact MemOnly.withCoh s _

theorem State.callNext_txns (s : State) (line : Nat) : (s.callNext line).coh.txns = s.coh.txns := by
  rw [State.callNext_eq]

theorem State.memAccept_txns (s : State) (line : Nat) (bytes : NMap Byte) (poison : Bool) (tag : Nat) :
    (s.memAccept line bytes poison tag).coh.txns = s.coh.txns := by
  unfold State.memAccept
  split <;> rfl

theorem State.memAccept_noHarts {s : State} (h : s.hinge.harts = []) (line : Nat) (bytes : NMap Byte) (poison : Bool) (tag : Nat) :
    (s.memAccept line bytes poison tag).hinge.harts = [] := by
  unfold State.memAccept
  split
  · exact congrArg (NMap.mapVals fun _ x => Hart.lose x (.raw line)) h
  · exact h

/-- `t` is `s` with fewer transactions, and with memory and caches changed; with no harts to lose a reservation, nothing else. -/
structure HostDropped (s t : State) : Prop where
  memOnly : MemOnly s t
  noHarts : s.hinge.harts = [] → t.hinge.harts = []
  txns : t.coh.txns ⊆ s.coh.txns

theorem HostDropped.refl (s : State) : HostDropped s s := ⟨.refl s, id, fun _ => id⟩

theorem HostDropped.trans {s t u : State} (h : HostDropped s t) (k : HostDropped t u) : HostDropped s u :=
  ⟨h.memOnly.trans k.memOnly, k.noHarts ∘ h.noHarts, fun _ hx => h.txns (k.txns hx)⟩

theorem HostDropped.foldl {β : Type} {f : State → β → State} (hf : ∀ s b, HostDropped s (f s b)) (l : List β) (s : State) :
    HostDropped s (l.foldl f s) :=
  foldl_keeps (fun t => HostDropped s t) f (fun t b h => h.trans (hf t b)) l s (.refl s)

theorem State.memAccept_hostDropped (s : State) (line : Nat) (bytes : NMap Byte) (poison : Bool) (tag : Nat) :
    HostDropped s (s.memAccept line bytes poison tag) :=
  ⟨s.memAccept_memOnly _ _ _ _, fun h => State.memAccept_noHarts h _ _ _ _, (s.memAccept_txns line bytes poison tag) ▸ fun _ => id⟩

theorem State.callNext_hostDropped (s : State) (line : Nat) : HostDropped s (s.callNext line) :=
  ⟨s.callNext_memOnly line, by rw [State.callNext_eq]; exact id, (s.callNext_txns line) ▸ fun _ => id⟩

theorem HostDropped.withCoh (s : State) {c : Coherence} (h : c.txns ⊆ s.coh.txns) : HostDropped s { s with coh := c } :=
  ⟨MemOnly.withCoh s c, id, h⟩

theorem State.closeTxn_hostDropped (s : State) (line : Nat) : HostDropped s (s.closeTxn line) :=
  have hdel : HostDropped s { s with coh := { s.coh with txns := NMap.del line s.coh.txns } } :=
    .withCoh s fun _ => NMap.mem_del
  hdel.trans (State.callNext_hostDropped _ line)

theorem State.dropRetries_hostDropped (s : State) (stop : Nat) : HostDropped s (s.dropRetries stop) := by
  unfold State.dropRetries
  extract_lets mine gone _ s1
  have hs1 : HostDropped s s1 := .withCoh s fun _ => id
  exact hs1.trans (HostDropped.foldl (fun st (r : Retry) => st.callNext_hostDropped r.line) _ _)

/-- Dropping a transaction closes its line and drops nothing more. -/
theorem State.dropHostTxn_drops (s : State) (line : Nat) (t : Txn) :
    HostDropped s (s.dropHostTxn line t) ∧ ∀ lt ∈ (s.dropHostTxn line t).coh.txns, lt.1 ≠ line := by
  unfold State.dropHostTxn
  extract_lets put s1
  have hput : ∀ st d, HostDropped st (put st d) := by
    intro st d
    cases d with
    | none => exact .refl st
    | some d => exact st.memAccept_hostDropped _ _ _ _
  have hs1 : HostDropped s s1 := by
    simp only [s1]
    split
    · exact .refl s
    · exact (hput s _).trans (HostDropped.foldl (fun st a => hput st _) _ _)
  refine ⟨hs1.trans (s1.closeTxn_hostDropped line), fun lt hlt => ?_⟩
  rw [State.closeTxn, State.callNext_txns] at hlt
  exact NMap.key_ne_of_mem_del hlt

/-- No line of the list keeps a transaction. -/
theorem foldl_dropHostTxn_drops (l : NMap Txn) (s : State) :
    HostDropped s (l.foldl (fun st lt => st.dropHostTxn lt.1 lt.2) s) ∧
      ∀ lt ∈ (l.foldl (fun st lt => st.dropHostTxn lt.1 lt.2) s).coh.txns, ∀ m ∈ l, lt.1 ≠ m.1 := by
  induction l generalizing s with
  | nil => exact ⟨.refl s, fun _ _ _ hm => absurd hm List.not_mem_nil⟩
  | cons x l ih =>
    obtain ⟨hdrop, hgone⟩ := s.dropHostTxn_drops x.1 x.2
    obtain ⟨hrest, hne⟩ := ih (s.dropHostTxn x.1 x.2)
    refine ⟨hdrop.trans hrest, fun lt hlt m hm => ?_⟩
    rcases List.mem_cons.1 hm with rfl | hm
    · exact hgone lt (hrest.txns hlt)
    · exact hne lt hlt m hm

theorem clearHostBit (x : BitVec 11) : (x &&& ~~~(BitVec.ofNat 11 (1 <<< 10))).getLsbD 10 = false := by
  simp

/-- What goes with the host: its cache, its presence bits and its transactions (R421 event 2). -/
theorem State.dropHost_drops (s : State) :
    HostDropped s s.dropHost ∧ s.dropHost.cacheOf 10 = [] ∧ (∀ lt ∈ s.dropHost.coh.txns, lt.2.stop ≠ 10) ∧
      ∀ f ∈ s.dropHost.coh.filter, f.2.getLsbD 10 = false := by
  obtain ⟨hmine, hgone⟩ := foldl_dropHostTxn_drops (s.coh.txns.filter (fun t => t.2.stop == 10)) s
  have hretries := State.dropRetries_hostDropped ((s.coh.txns.filter (fun t => t.2.stop == 10)).foldl
    (fun st lt => st.dropHostTxn lt.1 lt.2) s) 10
  have h := hmine.trans hretries
  refine ⟨h.trans (.withCoh _ fun _ => id), ?_, fun lt hlt hstop => ?_, fun f hf => ?_⟩
  · show NMap.findD [] 10 (NMap.del 10 _) = []
    rw [NMap.findD, NMap.find_del_same]
    rfl
  · have hmem : lt ∈ s.coh.txns := h.txns hlt
    exact hgone lt (hretries.txns hlt) lt (List.mem_filter.2 ⟨hmem, by simp [hstop]⟩) rfl
  · obtain ⟨g, -, rfl⟩ := List.mem_map.1 hf
    exact clearHostBit g.2

/-! #### The commands of every ring -/

theorem Cmd.atReset_notFetched (m : Cmd) : m.atReset.state ≠ .fetched := by
  unfold Cmd.atReset
  split
  · rename_i h
    simp [h]
  · simp
  · rename_i h
    split
    · simp
    · exact h

/-- A ring's commands as a freeze that ends leaves them: none of them in another state. -/
theorem State.thaw_ring {s : State} {len : Nat} {id : RingId} {r : Ring} (h : (s.thaw len).ring? id = some r) :
    ∃ r0, s.ring? id = some r0 ∧ ∀ m ∈ r.cmds, ∃ m0 ∈ r0.cmds, m.state = m0.state := by
  cases id with
  | admin => exact ⟨r, h, fun m hm => ⟨m, hm, rfl⟩⟩
  | ring c k =>
    have hctx : NMap.find k ((s.thaw len).ctx c).rings = some r := h
    rw [State.ctx, State.thaw, NMap.findD, NMap.find_mapVals] at hctx
    show ∃ r0, NMap.find k (NMap.findD {} c s.fe.ctxs).rings = some r0 ∧ _
    rw [NMap.findD]
    cases hc : NMap.find c s.fe.ctxs with
    | none =>
      rw [hc] at hctx
      cases hctx
    | some x =>
      rw [hc] at hctx
      simp only [Option.map_some, Option.getD_some, NMap.find_mapVals] at hctx ⊢
      obtain ⟨r0, hr0, rfl⟩ := Option.map_eq_some_iff.1 hctx
      refine ⟨r0, hr0, fun m hm => ?_⟩
      obtain ⟨m0, hm0, rfl⟩ := List.mem_map.1 hm
      refine ⟨m0, hm0, ?_⟩
      split <;> rfl

/-- Event 3 moves the front end, the cores' clocks and the queue at the tumblers, and leaves no command that has not
started. -/
theorem State.resetCmds_ends (s : State) :
    s.resetCmds = { s with cores := s.resetCmds.cores, fe := s.resetCmds.fe, waiters := s.resetCmds.waiters } ∧
      (∀ id r m, s.resetCmds.ring? id = some r → m ∈ r.cmds → m.state ≠ .fetched) ∧
      ∀ w ∈ s.resetCmds.waiters, w.src.isRing = false := by
  unfold State.resetCmds
  extract_lets ring _ s1
  have hwait : ∀ w ∈ s1.waiters, w.src.isRing = false := fun w hw => by simpa using (List.mem_filter.1 hw).2
  have hcmds : ∀ id r m, s1.ring? id = some r → m ∈ r.cmds → m.state ≠ .fetched := by
    have hring : ∀ (r : Ring) m, m ∈ (ring r).cmds → m.state ≠ .fetched := by
      intro r m hm
      obtain ⟨m0, -, rfl⟩ := List.mem_map.1 hm
      exact m0.atReset_notFetched
    intro id r m hr hm
    cases id with
    | admin =>
      have hr' : (if s.fe.en then some (ring s.fe.admin) else none) = some r := hr
      split at hr'
      · cases hr'
        exact hring _ m hm
      · cases hr'
    | ring c k =>
      have hr' : NMap.find k (NMap.findD {} c s1.fe.ctxs).rings = some r := hr
      rw [NMap.findD, NMap.find_mapVals] at hr'
      cases hc : NMap.find c s.fe.ctxs with
      | none =>
        rw [hc] at hr'
        cases hr'
      | some x =>
        rw [hc] at hr'
        simp only [Option.map_some, Option.getD_some, NMap.find_mapVals] at hr'
        obtain ⟨r0, -, rfl⟩ := Option.map_eq_some_iff.1 hr'
        exact hring r0 m hm
  cases hf : s.fe.frozen with
  | none => exact ⟨rfl, hcmds, hwait⟩
  | some t0 =>
    refine ⟨rfl, fun id r m hr hm => ?_, hwait⟩
    obtain ⟨r0, hr0, hstate⟩ := State.thaw_ring hr
    obtain ⟨m0, hm0, heq⟩ := hstate m hm
    rw [heq]
    exact hcmds id r0 m0 hr0 hm0

/-! #### The trigger -/

/-- The hinge once a trigger has closed the epoch (R421 events 1 and 2). -/
def Hinge.closed (h : Hinge) (now : Nat) : Hinge :=
  { h with
    up := false, quiescing := true, waitEpoch := false, hostInReset := true, since := now, tilesStopped := false
    hartrun := 1, hartrunHi := 0, poisonAddr := 0, poisonMore := false, poisonValid := false, aplic := [], imsic := []
    aplicRegs := [], mtimecmp := [], imsicFiles := [], harts := [], hostq := []
    rports := NMap.mapVals (fun _ _ => {}) h.rports }

/-- What a trigger leaves of a state: `u` is `s` with the epoch closed and the host, its lines and the unstarted commands gone. -/
def HingeClosed (s u : State) : Prop :=
  u = { s with hinge := u.hinge, ms := u.ms, coh := u.coh, cores := u.cores, mcount := u.mcount, fe := u.fe
               waiters := u.waiters, pins := u.pins } ∧
  u.hinge = s.hinge.closed s.nowN ∧
  u.cacheOf 10 = [] ∧ (∀ lt ∈ u.coh.txns, lt.2.stop ≠ 10) ∧ (∀ f ∈ u.coh.filter, f.2.getLsbD 10 = false) ∧
  (∀ id r m, u.ring? id = some r → m ∈ r.cmds → m.state ≠ .fetched) ∧ ∀ w ∈ u.waiters, w.src.isRing = false

theorem State.hingeTrigger_closes {s : State} (hq : s.hinge.quiescing = false) (hready : s.stage = .ready)
    (hon : s.power.on = true) : HingeClosed s s.hingeTrigger := by
  have heq : s.hingeTrigger = ({ s with hinge := s.hinge.closed s.nowN } : State).dropHost.resetCmds :=
    if_neg (by simp [hq, hready, hon])
  rw [heq]
  generalize hs1 : ({ s with hinge := s.hinge.closed s.nowN } : State) = s1
  obtain ⟨⟨hmem, hharts, -⟩, hcache, htxns, hfilter⟩ := s1.dropHost_drops
  have hnone : s1.dropHost.hinge.harts = [] := hharts (by rw [← hs1]; rfl)
  obtain ⟨hreset, hcmds, hwait⟩ := s1.dropHost.resetCmds_ends
  generalize s1.dropHost = s2 at *
  generalize s2.resetCmds = u at *
  have hmem' : s2 = { s1 with ms := s2.ms, coh := s2.coh, cores := s2.cores, mcount := s2.mcount
                              hinge := { s1.hinge with harts := s2.hinge.harts } } := hmem
  rw [hnone] at hmem'
  have hcoh : u.coh = s2.coh := by rw [hreset]
  have hhinge : u.hinge = s2.hinge := by rw [hreset]
  have hclosed : s2.hinge = s.hinge.closed s.nowN := by
    rw [hmem', ← hs1]
    rfl
  refine ⟨?_, hhinge.trans hclosed, ?_, by rwa [hcoh], by rwa [hcoh], hcmds, hwait⟩
  · rw [hreset, hmem', ← hs1]
  · rw [State.cacheOf, hcoh]
    exact hcache

theorem State.hingeTrigger_quiescing {s : State} (hq : s.hinge.quiescing = true) : s.hingeTrigger = s :=
  if_pos (Or.inl hq)

/-! #### The sequence and the new epoch -/

/-- What stopping tiles leaves of the hinge. -/
theorem exec_hingeTileStop_stops {s : State} (hq : s.hinge.quiescing = true) (hstop : s.hinge.tilesStopped = false)
    (hms : s.hinge.since + 1000000 ≤ s.nowN) :
    ∃ u, exec .hingeTileStop s = .next u ∧ u.hinge.tilesStopped = true ∧ u.hinge.quiescing = true := by
  have hexec : exec .hingeTileStop s = execHingeTileStop s := rfl
  rw [hexec, execHingeTileStop, if_neg (by simp [hq, hstop, Nat.not_lt.2 hms])]
  refine ⟨_, rfl, rfl, ?_⟩
  have hsteady := foldl_steady (f := fun (st : State) (t : Nat × Nat × Nat) =>
    (st.stopTile t.1 t.2.1 .other).updLaunch t.2.2 (fun l => { l with hostReset := true }))
    (fun st t => (State.updLaunch_steady _ _ _).trans (State.stopTile_steady _ _ _ _ _))
    ((s.cores.map (fun ck => (ck.2.tiles.filter (fun kt => s.ownTile kt.2)).map (fun kt => (ck.1, kt.1, kt.2.launch)))).flatten) s
  simp only [State.steady, Prod.mk.injEq] at hsteady
  obtain ⟨-, -, -, -, -, hquiet, -⟩ := hsteady
  exact hquiet.trans hq

theorem State.startHost_hinge (s : State) :
    s.startHost.hinge.epoch = s.hinge.epoch ∧ s.startHost.hinge.up = s.hinge.up := by
  unfold State.startHost
  split <;> exact ⟨rfl, rfl⟩

theorem State.bootImageOk_congr {s t : State} (h : t.sec = s.sec) : t.bootImageOk = s.bootImageOk := by
  rw [State.bootImageOk, State.bootImageOk, h]

/-- Loading the boot image and releasing hart 0 keeps the epoch, and the host stays in reset when there is no image. -/
theorem State.startHost_of_steady {s t : State} (h : t.steady = s.steady) :
    t.startHost.hinge.epoch = s.hinge.epoch ∧ t.startHost.hinge.up = s.hinge.up ∧
      t.startHost.hinge.hostInReset = !s.bootImageOk := by
  simp only [State.steady, Prod.mk.injEq] at h
  obtain ⟨hsec, -, -, hepoch, hup, -⟩ := h
  obtain ⟨hepoch', hup'⟩ := t.startHost_hinge
  exact ⟨hepoch'.trans hepoch, hup'.trans hup, t.startHost_hostInReset.trans (congrArg (!·) (State.bootImageOk_congr hsec))⟩

theorem exec_hingeQuiesced_waits {s : State} (hq : s.hinge.quiescing = true) (hstop : s.hinge.tilesStopped = true)
    (hwait : s.resetWaits = false) :
    ∃ u, exec .hingeQuiesced s = .next u ∧ u.hinge.quiescing = false ∧ u.hinge.waitEpoch = true ∧
      u.hinge.epoch = s.hinge.epoch ∧ u.hinge.up = s.hinge.up ∧ u.hinge.hostInReset = !s.bootImageOk := by
  have hexec : exec .hingeQuiesced s = execHingeQuiesced s := rfl
  rw [hexec, execHingeQuiesced, if_neg (by simp [hq, hstop, hwait])]
  extract_lets s1 rings s2 s3 s4
  have h1 : s1.steady = s.steady := (State.settleEpoch_steady _).trans (State.settleOrphans_steady _)
  have h2 : s2.steady = s.steady := (foldl_steady (fun st id => State.completeAll_steady st id) _ _).trans h1
  have h3 : s3.steady = s.steady := (foldl_steady (fun st n => State.afterReset_steady st n) _ _).trans h2
  have h4 : s3.settleEpoch.applyRegions.steady = s.steady :=
    (State.applyRegions_steady _).trans ((State.settleEpoch_steady _).trans h3)
  obtain ⟨hepoch, hup, hboot⟩ := State.startHost_of_steady h4
  have hs4 : s4 = s3.settleEpoch.applyRegions.startHost := rfl
  clear_value s4
  rw [← hs4] at hepoch hup hboot
  exact ⟨{ s4 with hinge := { s4.hinge with quiescing := false, waitEpoch := true } }, rfl, rfl, rfl, hepoch, hup, hboot⟩

/-- A write of HG.EPOCHOPEN that opens an epoch. -/
theorem State.writeEpochopen_opens {s : State} {v : DWord} (hwait : s.hinge.waitEpoch = true) (hv : bitAt v 0 = true) :
    ∃ u, s.writeEpochopen v = .done u ∧ u.hinge.epoch = s.hinge.epoch + 1 ∧ u.hinge.waitEpoch = false ∧ u.hinge.up = true := by
  rw [State.writeEpochopen, if_pos ⟨hwait, hv⟩]
  extract_lets _ s1 rings
  refine ⟨_, rfl, ?_⟩
  have hfold : ((RingId.admin :: rings).foldl (fun st id => if st.fetches id then st.readDoorbell id else st) s1).steady
      = s1.steady := by
    refine foldl_steady (fun st id => ?_) _ _
    split
    · exact State.readDoorbell_steady _ _
    · rfl
  simp only [State.steady, Prod.mk.injEq] at hfold
  obtain ⟨-, -, -, hepoch, hup, -, hopen, -⟩ := hfold
  exact ⟨hepoch, hopen, hup⟩

theorem State.writeEpochopen_idle {s : State} {v : DWord} (h : ¬ (s.hinge.waitEpoch = true ∧ bitAt v 0 = true)) :
    s.writeEpochopen v = .done s := if_neg h

end HingeLoss

/-- Settles O49 (logs 43, 44, 45 and 51): the trigger by what each of its parts drops, the later events by what the
work in between keeps steady. -/
theorem hingeLossAndEpochs : Obligations.HingeLossAndEpochs := by
  unfold Obligations.HingeLossAndEpochs
  intro s req v h closes
  refine ⟨fun hq hready hon => ⟨?_, ?_, ?_, fun hr hv => ?hostrst⟩, fun hr hv => ?_, fun hq => ?_,
    exec_hingeTileStop_stops, exec_hingeQuiesced_waits, fun hr => ⟨fun hwait hv => ?opens, fun hwait => ?closed, fun hv => ?zero⟩,
    fun hre hon => ?_, fun hre => ?_⟩
  · exact ⟨_, rfl, State.hingeTrigger_closes hq hready hon⟩
  · exact ⟨_, rfl, State.hingeTrigger_closes hq hready hon⟩
  · exact ⟨_, rfl, State.hingeTrigger_closes hq hready hon⟩
  case hostrst =>
    obtain ⟨p, hp⟩ := s.cpTake_eq req 0xB0010
    refine ⟨_, congrArg okay (hr.winWrite_done (if_pos hv)), ?_⟩
    rw [hp]
    exact State.hingeTrigger_closes (s := { s with pins := p }) hq hready hon
  · exact congrArg okay (hr.winWrite_drop (if_neg hv))
  · exact ⟨congrArg okay (State.hingeTrigger_quiescing hq), congrArg okay (State.hingeTrigger_quiescing hq)⟩
  case opens =>
    obtain ⟨p, hp⟩ := s.cpTake_eq req 0xB0018
    obtain ⟨u, hu, hopens⟩ := State.writeEpochopen_opens (s := { s with pins := p }) hwait hv
    exact ⟨u, congrArg okay (hr.winWrite_done (by rw [hp]; exact hu)), hopens⟩
  case closed =>
    obtain ⟨p, hp⟩ := s.cpTake_eq req 0xB0018
    refine congrArg okay (hr.winWrite_done (State.writeEpochopen_idle ?_))
    rw [hp]
    exact fun hb => Bool.false_ne_true (hwait.symm.trans hb.1)
  case zero =>
    exact congrArg okay (hr.winWrite_done (State.writeEpochopen_idle fun hb => Bool.false_ne_true (hv.symm.trans hb.2)))
  · exact if_neg (by simp [h] at hre; simp [hre, hon])
  · exact ⟨_, if_neg (by simp [h] at hre; simp [hre]), State.raises_raiseAplic _ 13⟩

end Sys2Proof.Machine

namespace Sys2Proof.Machine

/-! ### O42: the debugger's registers -/

section DebuggerRegisters

variable {s : State} {g : Site} {x : Group}

/-! #### Halt, resume and step -/

/-- A group that waits for nothing and has no matrix instruction in flight halts where it stands (R313, R502). -/
theorem State.askHalt_quiet (hx : s.group? g = some x) (hrun : x.halted = false) (hwait : x.wait = .none)
    (hbusy : s.matrixBusy g = false) :
    ∃ y, (s.askHalt g).group? g = some y ∧ y.halted = true ∧ y.repackHeld = false ∧ y.pc = x.pc ∧ y.t = x.t ∧ y.u = x.u ∧
      y.p = x.p ∧ y.resv = [] := by
  have hask : s.askHalt g = s.haltNow g 1 0 0 0 x.pc.toNat := by
    simp [State.askHalt, hx, hrun, hwait, State.halt, hbusy]
  rw [hask, State.haltNow]
  split
  · rename_i hnone
    exact absurd (hx.symm.trans hnone) (by simp)
  · rename_i x' hx'
    obtain rfl := Option.some.inj (hx.symm.trans hx')
    extract_lets s1 s2
    have hs2 : s2.group? g = some _ := (s1.group_updTile g.core x.tile _ g).trans (s.group_setGroup_same g _)
    exact ⟨_, (s2.debugEvent_coresKept g 1 0 0 0 x.pc.toNat).group hs2 rfl, rfl, by simp [hwait], rfl, rfl, rfl, rfl, rfl⟩

/-- The group as it goes on from a halt: it pops its stack before the next fetch (R60). -/
def Group.goesOn (x : Group) (step : Bool) : Group :=
  ({ x with halted := false, stepping := step, pending := none, repackHeld := false, pcWritten := false } : Group).popAll 33

theorem Group.goesOn_haltReq (x : Group) (step : Bool) : (x.goesOn step).haltReq = x.haltReq := by
  rw [Group.goesOn, Group.popAll_only]

theorem Group.goesOn_stepping (x : Group) (step : Bool) : (x.goesOn step).stepping = step := by
  rw [Group.goesOn, Group.popAll_only]

theorem State.group_budgetOn (s : State) (core key : Nat) (g : Site) : (s.budgetOn core key).group? g = s.group? g := by
  unfold State.budgetOn
  split
  · rfl
  · exact s.group_updTile core key _ g

/-- A halted group that waits for nothing and has no fault pending: it goes on, and a parked one completes REPACK
(R67). -/
theorem State.resume_quiet (hx : s.group? g = some x) (hhalted : x.halted = true) (hpend : x.pending = none)
    (hwait : x.wait = .none) (step : Bool) :
    s.resume g step = if x.repackHeld && !x.pcWritten
      then ((s.setGroup g (x.goesOn step)).budgetOn g.core x.tile).complete g none
      else (s.setGroup g (x.goesOn step)).budgetOn g.core x.tile := by
  simp [State.resume, hx, hhalted, hpend, hwait, Group.goesOn]

theorem State.group_resume (hx : s.group? g = some x) (hhalted : x.halted = true) (hpend : x.pending = none)
    (hwait : x.wait = .none) (step : Bool) (hheld : x.repackHeld = false ∨ x.pcWritten = true) :
    (s.resume g step).group? g = some (x.goesOn step) := by
  rw [State.resume_quiet hx hhalted hpend hwait, if_neg (by rcases hheld with h | h <;> simp [h]), State.group_budgetOn]
  exact s.group_setGroup_same g _

theorem State.group_resume_held (hx : s.group? g = some x) (hhalted : x.halted = true) (hpend : x.pending = none)
    (hwait : x.wait = .none) (hreq : x.haltReq = none) (hheld : x.repackHeld = true) (hpc : x.pcWritten = false) :
    (s.resume g false).group? g = some ((x.goesOn false).goTo ((x.goesOn false).pc + 8)) := by
  rw [State.resume_quiet hx hhalted hpend hwait, if_pos (by simp [hheld, hpc])]
  have hgroup : ((s.setGroup g (x.goesOn false)).budgetOn g.core x.tile).group? g = some (x.goesOn false) :=
    (State.group_budgetOn _ _ _ _).trans (s.group_setGroup_same g _)
  rw [State.complete_eq _ g _ none hgroup ((x.goesOn_haltReq false).trans hreq) (x.goesOn_stepping false)]
  exact State.group_moved_same _ _ _ _

/-- An operation of DB.GCTL on the one selected group, under the right for its ward. -/
theorem State.writeGctl_one {v : DWord} (hcore : field v 9 0 = g.core) (hplace : field v 15 10 = g.place)
    (htile : bitAt v 18 = false) (hop : field v 17 16 ≠ 0) (hx : s.group? g = some x) (hright : s.hasRight 0 (s.wardOf g) = true) :
    ∃ d, s.writeGctl v = .done (if field v 17 16 = 1 then ({ s with dbg := d } : State).askHalt g
      else ({ s with dbg := d } : State).resume g (field v 17 16 == 3)) := by
  refine ⟨{ s.dbg with selCore := field v 9 0, selPlace := field v 15 10 }, ?_⟩
  unfold State.writeGctl
  extract_lets d s0 op sel gs
  have hsel : sel = g := by
    show (⟨field v 9 0, field v 15 10⟩ : Site) = g
    rw [hcore, hplace]
  have hgroup : s0.group? g = some x := hx
  have hr : s0.hasRight 0 (s0.wardOf g) = true := hright
  have hgs : gs = [g] := by
    show s0.gctlGroups sel (bitAt v 18) = [g]
    rw [hsel, htile]
    simp [State.gctlGroups, hgroup]
  rw [if_neg hop, hsel, if_neg (by simp [hgroup]), if_neg (by simp [hr]), hgs]
  rfl

theorem State.writeGctl_denied {v : DWord} (hcore : field v 9 0 = g.core) (hplace : field v 15 10 = g.place)
    (hop : field v 17 16 ≠ 0) (hx : s.group? g = some x) (hright : s.hasRight 0 (s.wardOf g) = false) :
    s.writeGctl v = .done { s with dbg := { s.dbg with selCore := g.core, selPlace := g.place, denied := true } } := by
  unfold State.writeGctl
  extract_lets d s0 op sel
  have hsel : sel = g := by
    show (⟨field v 9 0, field v 15 10⟩ : Site) = g
    rw [hcore, hplace]
  have hgroup : s0.group? g = some x := hx
  have hr : s0.hasRight 0 (s0.wardOf g) = false := hright
  rw [if_neg hop, hsel, if_neg (by simp [hgroup]), if_pos hr, ← hcore, ← hplace]
  rfl

/-! #### The items of a halted group -/

theorem State.rdataGroup_halted (hsel : s.selected = g) (hx : s.group? g = some x) (hright : s.hasRight 0 (s.wardOf g) = true)
    (hhalted : x.halted = true) : s.rdataGroup = .ok x := by
  subst hsel
  simp [State.rdataGroup, hx, hright, hhalted]

theorem State.readRdata_item (hgroup : s.rdataGroup = .ok x) {n : Nat} (hitem : s.item s.selected x s.dbg.rsel = some n) :
    s.readRdata = (BitVec.ofNat 64 n, s) := by
  simp [State.readRdata, hgroup, hitem]

/-- A write of an item that there is, and that is not a misaligned PC. -/
theorem State.writeRdata_item {v : DWord} (hgroup : s.rdataGroup = .ok x) (hitem : (s.item s.selected x s.dbg.rsel).isSome = true)
    (hpc : ¬ (selSpace s.dbg.rsel = 3 ∧ selIndex s.dbg.rsel = 0 ∧ field v 2 0 ≠ 0)) :
    s.writeRdata v = .done (s.setGroup s.selected (x.putItem s.dbg.rsel v)) := by
  have hsome : (s.item s.selected x s.dbg.rsel).isNone = false := by simpa using hitem
  simp only [State.writeRdata, hgroup, hsome, Bool.false_eq_true, if_false, if_neg hpc]

/-- DB.RSEL for a u register: SPACE 1 and the register's number. -/
theorem selects_u {i : Nat} (hi : i < 64) :
    selSpace (BitVec.ofNat 64 (1 + 16 * i)) = 1 ∧ selIndex (BitVec.ofNat 64 (1 + 16 * i)) = i := by
  simp only [selSpace, selIndex, field, BitVec.toNat_ofNat]
  omega

/-- DB.RSEL for the PC: SPACE 3 and item 0. -/
theorem State.item_pc (s : State) (g : Site) (x : Group) : s.item g x 3 = some x.pc.toNat := rfl

theorem Group.putItem_pc (x : Group) (v : DWord) : x.putItem 3 v = { x with pc := v, pcWritten := true } := rfl

/-! #### Wards and the trace -/

theorem State.writeHof_eq (s : State) (v : DWord) (on : Bool) :
    s.writeHof v on = .done (if s.hasRight 0 (field v 9 0) = true
      then { s with dbg := { s.dbg with hof := if on then addNew (field v 9 0) s.dbg.hof else s.dbg.hof.filter (· != field v 9 0) } }
      else { s with dbg := { s.dbg with denied := true } }) := by
  cases h : s.hasRight 0 (field v 9 0) <;> simp [State.writeHof, h, State.setDenied]

theorem State.writeTrctl_starts {v : DWord} (hv : bitAt v 0 = true) (hoff : s.dbg.tren = false) (hbase : s.dbg.trbase ≠ 0)
    (hsize : s.dbg.trsize ≠ 0) :
    s.writeTrctl v = .done { s with dbg := { s.dbg with
      tren := true, full := false, blockOpen := false, block := 0, nrec := 0, bseq := 0, lost := {}
      wrap := bitAt v 1, sample := bitAt v 2 } } := by
  simp [State.writeTrctl, hv, hoff, hbase, hsize]

end DebuggerRegisters

/-- Settles O42 (log 59 for the trace's first block). -/
theorem debugRegisters : Obligations.DebugRegisters := by
  unfold Obligations.DebugRegisters
  intro s req v g x w a denied on hx
  refine ⟨fun hr hcore hplace htile => ⟨fun hright hop => ?refused, fun hright => ⟨fun hop hrun hwait hbusy => ?halt,
    fun hhalted hpend hwait hreq => ⟨fun hop => ?resume, fun hop hheld => ?step⟩⟩⟩, fun hr => ?hofset, fun hr => ?hofclr,
    fun hsel hright hhalted => ⟨fun n hr hitem => ?read, fun i hr hrsel hi => ?writeU, fun hr hrsel hv => ?writePc⟩,
    fun hr hright => ?trward, fun hr hv hoff hbase hsize => ?trctl⟩
  case refused =>
    obtain ⟨p, hp⟩ := s.cpTake_eq req 0x80008
    have hdone := State.writeGctl_denied (s := { s with pins := p }) hcore hplace hop hx hright
    refine congrArg okay (hr.winWrite_done ?_)
    simp only [a, hp]
    exact hdone
  case halt =>
    obtain ⟨p, hp⟩ := s.cpTake_eq req 0x80008
    obtain ⟨d, hdone⟩ := State.writeGctl_one (s := { s with pins := p }) hcore hplace htile (by omega) hx hright
    rw [if_pos hop] at hdone
    obtain ⟨y, hy⟩ := State.askHalt_quiet (s := { s with pins := p, dbg := d }) hx hrun hwait hbusy
    exact ⟨_, y, congrArg okay (hr.winWrite_done (by rw [hp]; exact hdone)), hy⟩
  case resume =>
    obtain ⟨p, hp⟩ := s.cpTake_eq req 0x80008
    obtain ⟨d, hdone⟩ := State.writeGctl_one (s := { s with pins := p }) hcore hplace htile (by omega) hx hright
    rw [if_neg (by omega), hop] at hdone
    refine ⟨_, congrArg okay (hr.winWrite_done (by rw [hp]; exact hdone)), fun hheld => ?_, fun hheld hpc => ?_⟩
    · exact State.group_resume (s := { s with pins := p, dbg := d }) hx hhalted hpend hwait false hheld
    · exact State.group_resume_held (s := { s with pins := p, dbg := d }) hx hhalted hpend hwait hreq hheld hpc
  case step =>
    obtain ⟨p, hp⟩ := s.cpTake_eq req 0x80008
    obtain ⟨d, hdone⟩ := State.writeGctl_one (s := { s with pins := p }) hcore hplace htile (by omega) hx hright
    rw [if_neg (by omega), hop] at hdone
    refine ⟨_, congrArg okay (hr.winWrite_done (by rw [hp]; exact hdone)), ?_⟩
    exact State.group_resume (s := { s with pins := p, dbg := d }) hx hhalted hpend hwait true hheld
  case hofset =>
    refine congrArg okay (hr.winWrite_done ((State.writeHof_eq _ v true).trans ?_))
    rw [State.hasRight_congr (s.cpTake_sec req _), s.cpTake_dbg]
    rfl
  case hofclr =>
    refine congrArg okay (hr.winWrite_done ((State.writeHof_eq _ v false).trans ?_))
    rw [State.hasRight_congr (s.cpTake_sec req _), s.cpTake_dbg]
    rfl
  case read =>
    obtain ⟨p, hp⟩ := s.cpTake_eq req 0x80030
    subst hsel
    have hgroup := State.rdataGroup_halted (s := { s with pins := p }) rfl hx hright hhalted
    refine congrArg okay (hr.winRead_eq (op := State.readRdata) (v := BitVec.ofNat 64 n) (t := a 0x80030) ?_)
    simp only [a, hp]
    exact State.readRdata_item hgroup hitem
  case writeU =>
    obtain ⟨p, hp⟩ := s.cpTake_eq req 0x80030
    subst hsel
    have hgroup := State.rdataGroup_halted (s := { s with pins := p }) rfl hx hright hhalted
    obtain ⟨hspace, hindex⟩ := selects_u hi
    refine congrArg okay (hr.winWrite_done ?_)
    simp only [a, hp]
    rw [State.writeRdata_item hgroup (by simp [State.item, hrsel, hspace, hindex, hi]) (by simp [hrsel, hspace])]
    simp only [Group.putItem, hrsel, hspace, hindex]
    rfl
  case writePc =>
    obtain ⟨p, hp⟩ := s.cpTake_eq req 0x80030
    subst hsel
    have hgroup := State.rdataGroup_halted (s := { s with pins := p }) rfl hx hright hhalted
    have haligned : field v 2 0 = 0 := by simpa [field] using hv
    have hpc : ∀ t : State, t.dbg.rsel = 3 → (t.item t.selected x t.dbg.rsel).isSome = true := by
      intro t ht
      rw [ht, t.item_pc]
      rfl
    refine congrArg okay (hr.winWrite_done ?_)
    simp only [a, hp]
    rw [State.writeRdata_item hgroup (hpc _ hrsel) (by simp [haligned]), ← x.putItem_pc, ← hrsel]
    rfl
  case trward =>
    have hright' : (s.cpTake req 0x80058).hasRight 1 w = true := (State.hasRight_congr (s.cpTake_sec req _) 1 w).trans hright
    refine congrArg okay (hr.winWrite_done ((if_neg (by rw [hright']; simp)).trans ?_))
    rw [s.cpTake_dbg]
  case trctl =>
    obtain ⟨p, hp⟩ := s.cpTake_eq req 0x80050
    refine congrArg okay (hr.winWrite_done ?_)
    simp only [a, hp]
    exact State.writeTrctl_starts (s := { s with pins := p }) hv hoff hbase hsize

end Sys2Proof.Machine

namespace Sys2Proof.Machine

/-! ### O37 and O38: writes under way that reach outside their lines

Nothing in the statements says that a write under way (R297) holds bytes of its own line only. Where one does not, its
acceptance, which a later write of its line brings about (R300), changes bytes elsewhere: those of an entry written a
moment before. -/

section StrayWrites

/-- A write of the line at `line` whose one byte lies `off` bytes from it. -/
def strayWrite (line off : Nat) : MemWrite := { line := line, bytes := [(off, 0xFF)] }

/-! #### The completion entry -/

/-- A command that has ended with success, TAG and INFO zero. -/
def endedCmd : Cmd := { count := 0, desc := 0, tag := State.reset.tagNow, state := .ended 0 0 0 0 }

/-- The admin ring's entries stand at 8192 and its ring entry at 4096; a write of the line at 4096 reaches 8192. -/
def strayBesideRing : State :=
  { State.reset with
    stage := .ready
    fe := { State.reset.fe with en := true, ringbase := 4096, admin := { cbase := 8192, cmds := [endedCmd] } }
    coh := { State.reset.coh with sent := [strayWrite 4096 4096] } }

/-- The first byte at an address after a step. -/
def byteAfter (a : Nat) : Host.Outcome State Fault Refusal → Byte
  | .next u => u.ms.mem.read a
  | _ => 0

/-- The command number in the entry is zero; the write of HEAD and CTAIL lets the stray byte in its place. -/
theorem strayBesideRing_overwrites :
    byteAfter 8192 (exec (.commandCompletion .admin endedCmd.count) strayBesideRing) = 0xFF := by decide +kernel

theorem strayBesideRing_entry :
    (entryBytes strayBesideRing.fe.admin (field endedCmd.desc 15 0) 0 0 0 0 (field endedCmd.desc 127 64) (0 : DWord).toNat
      strayBesideRing.nowN).head? = some 0 := by decide +kernel

/-- Refutes O37: a write under way of the ring entry's line that holds a byte of the completion entry is accepted between the
two writes of a completion. -/
theorem not_completionEntry : ¬ Obligations.CompletionEntry := by
  intro h
  obtain ⟨u, hexec, -, hentry, -⟩ := h strayBesideRing endedCmd 0 0 0 0 rfl rfl rfl rfl rfl rfl rfl rfl (by decide)
    (fun c hc => absurd hc List.not_mem_nil)
  have hbyte := strayBesideRing_overwrites
  rw [hexec] at hbyte
  have hhead := strayBesideRing_entry
  rw [← hentry] at hhead
  have hread : u.ms.mem.read 8192 = 0 := Option.some.inj hhead
  exact absurd (hbyte.symm.trans hread) (by decide)

/-! #### The counter table -/

/-- A context whose counters are zero and stand at 1024 and in the line after it; a write of line 0 from the same agent as an
older write of that next line reaches 1024. -/
def strayBesideCounters : State :=
  { State.reset with
    stage := .ready
    fe := { State.reset.fe with en := true, ctbase := 1024, ctxs := [(0, { state := .idle })] }
    coh := { State.reset.coh with sent := [strayWrite 0 1024, strayWrite 1152 0] } }

theorem strayBesideCounters_overwrites :
    byteAfter 1024 (exec (.counterTableWrite 0) strayBesideCounters) = 0xFF := by decide +kernel

theorem strayBesideCounters_zero :
    natBytes 8 (SatCount.slot (NMap.findD {} 0 (strayBesideCounters.ctx 0).counters)) = List.replicate 8 0 := by decide +kernel

/-- Refutes O38: the counters of a context span two lines, and the write of the second lets in older writes of its agent, one
of which holds a byte of the first. -/
theorem not_residencyAndCounters : ¬ Obligations.ResidencyAndCounters := by
  intro h
  obtain ⟨-, -, -, -, htable, -⟩ := h strayBesideCounters 0
  obtain ⟨u, hexec, hslots⟩ := htable rfl rfl (by decide) (by decide) rfl rfl
  have hbyte := strayBesideCounters_overwrites
  rw [hexec] at hbyte
  have hread : u.ms.mem.readN 1024 8 = List.replicate 8 0 := (hslots 0 (by decide)).trans strayBesideCounters_zero
  have hzero : u.ms.mem.read 1024 = 0 := (List.cons.inj hread).1
  exact absurd (hbyte.symm.trans hzero) (by decide)

end StrayWrites

end Sys2Proof.Machine

namespace Sys2Proof.Machine

/-! ### O35: handles, shares and queries -/

section HandlesShares

theorem nfield_eq (w hi lo : Nat) : nfield w hi lo = w / 2 ^ lo % 2 ^ (hi + 1 - lo) := by
  rw [nfield, Nat.shiftRight_eq_div_pow]

theorem nfield_lt (w hi lo : Nat) : nfield w hi lo < 2 ^ (hi + 1 - lo) := Nat.mod_lt _ (Nat.two_pow_pos _)

theorem field_lt {n : Nat} (w : BitVec n) (hi lo : Nat) : field w hi lo < 2 ^ (hi + 1 - lo) := Nat.mod_lt _ (Nat.two_pow_pos _)

theorem Chk.need_of_true {c : Bool} (h : c = true) (st det info : Nat) : Chk.need c st det info = .ok () := if_pos h

/-! #### The entries of the handle table (R367, R368) -/

/-- The entry that a BIND writes: base and size, the entry's generation, state bound, no pins, and the access bit. -/
def boundEntry (base size gen acc : Nat) : Nat := base + size * 2 ^ 64 + gen * 2 ^ 128 + 2 ^ 140 + acc * 2 ^ 176

theorem boundEntry_fields {base size gen acc : Nat} (hbase : base < 2 ^ 64) (hsize : size < 2 ^ 64) (hgen : gen < 2 ^ 12) :
    nfield (boundEntry base size gen acc) 63 0 = base ∧ nfield (boundEntry base size gen acc) 127 64 = size ∧
      nfield (boundEntry base size gen acc) 139 128 = gen ∧ nfield (boundEntry base size gen acc) 141 140 = 1 ∧
      nfield (boundEntry base size gen acc) 175 144 = 0 := by
  simp only [nfield_eq, boundEntry]
  refine ⟨?_, ?_, ?_, ?_, ?_⟩ <;> omega

theorem boundEntry_access {base size gen : Nat} (hbase : base < 2 ^ 64) (hsize : size < 2 ^ 64) (hgen : gen < 2 ^ 12)
    (b : Bool) : (boundEntry base size gen (b2n b)).testBit 176 = b := by
  rw [Nat.testBit_eq_decide_div_mod_eq, boundEntry]
  cases b
  · simp only [b2n, Bool.false_eq_true, if_false, decide_eq_false_iff_not]
    omega
  · simp only [b2n, if_true, decide_eq_true_eq]
    omega

/-- A bound entry marked freeing: its state alone changes. -/
def freeingEntry (e : Nat) : Nat := e - nfield e 141 140 * 2 ^ 140 + 2 * 2 ^ 140

theorem freeingEntry_fields {e : Nat} (h : nfield e 141 140 = 1) :
    nfield (freeingEntry e) 127 0 = nfield e 127 0 ∧ nfield (freeingEntry e) 255 142 = nfield e 255 142 ∧
      nfield (freeingEntry e) 141 140 = 2 ∧ nfield (freeingEntry e) 139 128 = nfield e 139 128 := by
  rw [freeingEntry, h]
  simp only [nfield_eq] at h ⊢
  refine ⟨?_, ?_, ?_, ?_⟩ <;> omega

/-- A freed entry: state free, and the generation advanced. -/
theorem freeHandle_fields (e : Nat) :
    nfield (freeHandle e) 127 0 = nfield e 127 0 ∧ nfield (freeHandle e) 255 142 = nfield e 255 142 ∧
      nfield (freeHandle e) 141 140 = 0 ∧ nfield (freeHandle e) 139 128 = (nfield e 139 128 + 1) % 2 ^ 12 := by
  simp only [freeHandle, nfield_eq]
  refine ⟨?_, ?_, ?_, ?_⟩ <;> omega

/-! #### The commands of a context's ring -/

variable {s : State} {c rn : Nat} {r : Ring} {m : Cmd}

theorem State.bindEntry_free {d : BitVec 512} {e : Nat} (hi : field d 147 128 < 2 ^ (s.ctx c).hlog2) (hsize : field d 319 256 ≠ 0)
    (hbase : canonical (field d 255 192) = true) (hrange : canonicalRange (field d 255 192) (field d 319 256) = true)
    (he : s.handle c (field d 147 128) = .ok e) (hfree : nfield e 141 140 = 0)
    (hwrite : s.chkCanWrite c ((s.ctx c).handleAt (field d 147 128)) 32 = .ok ()) :
    s.bindEntry c d = .ok (boundEntry (field d 255 192) (field d 319 256) (nfield e 139 128) (b2n (bitAt d 320)),
      field d 147 128 + nfield e 139 128 * 2 ^ 20) := by
  simp only [State.bindEntry]
  rw [Chk.need_of_true (decide_eq_true hi), Chk.need_of_true (by rw [hbase, hrange, Bool.or_true]; rfl),
    Chk.need_of_true (decide_eq_true hsize), he]
  dsimp only [Chk.bind]
  rw [Chk.need_of_true (by rw [hfree]; rfl), hwrite]
  rfl

/-- BIND of an entry that may be taken. -/
theorem exec_bind {e2 h : Nat} (hm : s.startable (.ring c rn) [8] = some (r, m)) (he : s.bindEntry c m.desc = .ok (e2, h)) :
    exec (.bind (.ring c rn)) s = .next ((s.putHandle c (h % 2 ^ 20) e2).endCmd (.ring c rn) m.count 0 0 h) := by
  have hexec : exec (.bind (.ring c rn)) s = execBind (.ring c rn) s := rfl
  rw [hexec, execBind, hm]
  simp only [ringCtx, he, State.onChk]

/-- UNBIND of an entry of the context's table. -/
theorem exec_unbind {e : Nat} (hm : s.startable (.ring c rn) [9] = some (r, m))
    (he : s.handle c (field m.desc 159 128 % 2 ^ 20) = .ok e)
    (hwrite : s.chkCanWrite c ((s.ctx c).handleAt (field m.desc 159 128 % 2 ^ 20)) 32 = .ok ()) :
    exec (.unbind (.ring c rn)) s = .next ((s.putHandle c (field m.desc 159 128 % 2 ^ 20)
      (if nfield e 175 144 = 0 then freeHandle (freeingEntry e) else freeingEntry e)).endCmd (.ring c rn) m.count 0 0
        (nfield e 175 144)) := by
  have hexec : exec (.unbind (.ring c rn)) s = execUnbind (.ring c rn) s := rfl
  rw [hexec, execUnbind, hm]
  simp only [ringCtx, he, hwrite, Chk.bind, State.onChk]
  rfl

/-- QUERY whose record can be written. -/
theorem exec_query {hs : Nat × Nat} {t : State} (hm : s.startable (.ring c rn) [10] = some (r, m))
    (hal : field m.desc 191 128 % 128 = 0) (hcan : canonical (field m.desc 191 128) = true)
    (hwrite : s.chkWrite c (field m.desc 191 128) 128 128 = .ok ())
    (hhs : s.boundHandles c 0 (2 ^ (s.ctx c).hlog2) = .ok hs)
    (ht : s.feWrite c m.tag (field m.desc 191 128) (s.usageRecord c hs) = .ok t) :
    exec (.query (.ring c rn)) s = .next (({ t with free := t.free + 2 } : State).endCmd (.ring c rn) m.count 0 0 0) := by
  have hexec : exec (.query (.ring c rn)) s = execQuery (.ring c rn) s := rfl
  have hstore : s.feStore c m.tag (field m.desc 191 128) (s.usageRecord c hs) = t := by rw [State.feStore, ht]
  rw [hexec, execQuery, hm]
  simp only [ringCtx]
  rw [Chk.need_of_true (by rw [hcan, decide_eq_true hal]; rfl)]
  simp only [Chk.bind, hwrite, hhs, State.onChk, hstore]

/-- SHARE of one run while the context is not resident. -/
theorem exec_share {q : ShareRun} (hm : s.startable (.ring c rn) [7] = some (r, m)) (hop : bitAt m.desc 201 = false)
    (hq : s.shareRuns c m.desc = .ok [q]) (hres : (s.ctx c).state ≠ .resident) :
    exec (.share (.ring c rn)) s = .next ((s.putShare c q.slot q.entry).endCmd (.ring c rn) m.count 0 0 0) := by
  have hexec : exec (.share (.ring c rn)) s = execShare (.ring c rn) s := rfl
  have hq' : s.shareRuns (ringCtx (.ring c rn)) m.desc = .ok [q] := hq
  have hres' : (s.ctx (ringCtx (.ring c rn))).state ≠ .resident := hres
  rw [hexec, execShare, hm]
  simp only [hop, hq', State.onChk, Bool.false_eq_true, if_false, if_neg hres']
  rfl

/-- SHARE's release of one run that no share of the context holds a place for. -/
theorem exec_shareRelease {q : ShareRun} (hm : s.startable (.ring c rn) [7] = some (r, m)) (hop : bitAt m.desc 201 = true)
    (hq : s.releaseRuns c m.desc = .ok [q]) (hgone : ∀ x ∈ (s.ctx c).shares, x.slot ≠ q.slot) :
    exec (.shareRelease (.ring c rn)) s = .next ((s.putShare c q.slot 0).endCmd (.ring c rn) m.count 0 0 0) := by
  have hexec : exec (.shareRelease (.ring c rn)) s = execShareRelease (.ring c rn) s := rfl
  have hfind : (s.ctx c).shares.find? (fun x => x.slot == q.slot) = none := by simpa using hgone
  rw [hexec, execShareRelease, hm]
  simp only [ringCtx, hop, hq, State.onChk, Bool.true_eq_false, if_false, List.foldl_cons, List.foldl_nil, hfind]

end HandlesShares

/-- Settles O35: each command by what its checks give, and the entries by their fields. -/
theorem handlesSharesQuery : Obligations.HandlesSharesQuery := by
  unfold Obligations.HandlesSharesQuery
  intro s c rn r m id base size i j dest
  refine ⟨fun e hm hi hsize hbase hrange he hfree hwrite => ?bind, fun e hm he hbound _ hwrite => ?unbind,
    fun hs t hm hal hcan hwrite hhs ht => exec_query hm hal hcan hwrite hhs ht, fun q hm hop hq hres => exec_share hm hop hq hres,
    fun q hm hop hq hgone => exec_shareRelease hm hop hq hgone⟩
  case bind =>
    have hi20 : i < 2 ^ 20 := field_lt m.desc 147 128
    have hslot : (i + nfield e 139 128 * 2 ^ 20) % 2 ^ 20 = i := by
      rw [Nat.add_mul_mod_self_right]
      exact Nat.mod_eq_of_lt hi20
    have hgen : nfield e 139 128 < 2 ^ 12 := nfield_lt e 139 128
    have hb64 : base < 2 ^ 64 := field_lt m.desc 255 192
    have hs64 : size < 2 ^ 64 := field_lt m.desc 319 256
    obtain ⟨hfbase, hfsize, hfgen, hfstate, hfpins⟩ := boundEntry_fields hb64 hs64 hgen (acc := b2n (bitAt m.desc 320))
    refine ⟨_, (exec_bind hm (State.bindEntry_free hi hsize hbase hrange he hfree hwrite)).trans ?_, hfbase, hfsize, hfgen,
      hfstate, hfpins, boundEntry_access hb64 hs64 hgen _⟩
    exact congrArg (fun k => Host.Outcome.next ((s.putHandle c k _).endCmd id m.count 0 0 _)) hslot
  case unbind =>
    refine ⟨_, exec_unbind hm he hwrite, ?_⟩
    obtain ⟨hlow, hhigh, hstate, hgen⟩ := freeingEntry_fields hbound
    by_cases hpins : nfield e 175 144 = 0
    · obtain ⟨hlow', hhigh', hstate', hgen'⟩ := freeHandle_fields (freeingEntry e)
      rw [if_pos hpins]
      exact ⟨hlow'.trans hlow, hhigh'.trans hhigh, fun _ => ⟨hstate', hgen'.trans (by rw [hgen])⟩, fun h => absurd hpins h⟩
    · rw [if_neg hpins]
      exact ⟨hlow, hhigh, fun h => absurd h hpins, fun _ => ⟨hstate, hgen⟩⟩

end Sys2Proof.Machine

namespace Sys2Proof.Machine

/-! ### O52: how a span forms -/

section SpanForms

/-! #### What a message sent changes -/

/-- `t` is `s` with more messages on their way and its ports laden with them. -/
structure Sends (s t : State) : Prop where
  only : t = { s with ports := t.ports, outbox := t.outbox }
  more : s.outbox <+: t.outbox

theorem Sends.refl (s : State) : Sends s s := ⟨rfl, List.prefix_refl _⟩

theorem Sends.trans {s t u : State} (h : Sends s t) (k : Sends t u) : Sends s u :=
  ⟨by rw [k.only, h.only], h.more.trans k.more⟩

theorem Sends.foldl {β : Type} {f : State → β → State} (hf : ∀ s b, Sends s (f s b)) (l : List β) (s : State) :
    Sends s (l.foldl f s) :=
  foldl_keeps (fun t => Sends s t) f (fun t b h => h.trans (hf t b)) l s (.refl s)

theorem State.send_sends (s : State) (m : OutMsg) : Sends s (s.send m) := by
  refine ⟨?_, by simp⟩
  rcases State.send_cases s m with h | ⟨p, h⟩
  · rw [h]
  · rw [h]
    rfl

theorem State.sendPort_sends (s : State) (n : Nat) (b : MsgBody) : Sends s (s.sendPort n b) := s.send_sends _

theorem State.sendPort_outbox (s : State) (n : Nat) (b : MsgBody) :
    ∃ m, (s.sendPort n b).outbox = s.outbox ++ [m] ∧ m.port = some n ∧ m.body = b :=
  ⟨_, s.send_outbox _, rfl, rfl⟩

/-- A message out of every port of a list. -/
theorem foldl_sendPort_outbox (b : State → MsgBody) (l : List Nat) (s : State) :
    ∀ n ∈ l, ∃ m ∈ (l.foldl (fun st n => st.sendPort n (b st)) s).outbox, m.port = some n ∧ ∃ t, m.body = b t := by
  induction l generalizing s with
  | nil => simp
  | cons k l ih =>
    intro n hn
    rcases List.mem_cons.1 hn with rfl | hn
    · obtain ⟨m, hout, hport, hbody⟩ := s.sendPort_outbox n (b s)
      have hmore := (Sends.foldl (fun st n => State.sendPort_sends st n (b st)) l (s.sendPort n (b s))).more
      exact ⟨m, hmore.subset (by rw [hout]; simp), hport, s, hbody⟩
    · exact ih _ n hn

/-! #### Formation (R441, R442) -/

theorem State.wake_power (s : State) (d : Nat) : s.wake d = { s with power := (s.wake d).power } := by
  unfold State.wake
  split <;> rfl

/-- The span as its formation begins. -/
def Span.forming (x : Span) (now : Nat) : Span :=
  { x with state := .forming, spanId := x.cfgSpanId, master := false, reason := 0, ord := 0, epoch := 0, known := []
           lastNews := now, leaveSent := false }

theorem State.startForming_eq (s : State) :
    s.startForming = { s with span := s.span.forming s.nowN, ports := s.startForming.ports
                              outbox := s.startForming.outbox, power := s.startForming.power } := by
  unfold State.startForming
  extract_lets id _ s1 up mine s2 s3 s4
  have h2 : Sends s1 s2 := Sends.foldl (fun st n => State.sendPort_sends st n _) up s1
  have h3 : Sends s2 s3 := Sends.foldl (fun st n => State.sendPort_sends st n _) mine s2
  have h4 : Sends s3 s4 := by
    cases hmine : mine with
    | nil =>
      simp only [s4, hmine]
      exact .refl s3
    | cons n rest =>
      simp only [s4, hmine]
      exact s3.sendPort_sends _ _
  have hall := ((h2.trans h3).trans h4).only
  clear_value s4
  rw [State.wake_power, State.wake_power, hall]
  rfl

/-- A write of SP.SPANCFG takes the configuration; what it does with EN is the rest. -/
def Span.configured (x : Span) (v : DWord) : Span :=
  { x with en := bitAt v 0, cfgMaster := bitAt v 1, replace := bitAt v 2, cfgOrd := field v 15 4
           cfgSpanId := v.extractLsb' 32 32 }

theorem State.writeSpancfg_early {s : State} {v : DWord} (hv : bitAt v 0 ≠ s.span.en) (hstage : s.stage ≠ .ready) :
    s.writeSpancfg v = .drop 3 s := if_pos ⟨hv, hstage⟩

theorem State.writeSpancfg_forms {s : State} {v : DWord} (hv : bitAt v 0 = true) (hready : s.stage = .ready)
    (hst : s.span.state = .off ∨ s.span.state = .refused ∨ s.span.state = .isolated ∨ s.span.state = .left) :
    s.writeSpancfg v = .done ({ s with span := s.span.configured v } : State).startForming := by
  unfold State.writeSpancfg
  rw [if_neg (by simp [hready])]
  rcases hst with h | h | h | h <;> simp only [hv, h, if_true, Span.configured]

theorem State.writeSpancfg_keeps {s : State} {v : DWord} (hv : bitAt v 0 = true) (hready : s.stage = .ready)
    (hst : s.span.state = .forming ∨ s.span.state = .member ∨ s.span.state = .leaving) :
    s.writeSpancfg v = .done { s with span := s.span.configured v } := by
  unfold State.writeSpancfg
  rw [if_neg (by simp [hready])]
  rcases hst with h | h | h <;> simp only [hv, h, if_true, Span.configured]

/-- EN cleared: a member starts to leave, a leave goes on, and any other state ends. -/
theorem State.writeSpancfg_clears {s : State} {v : DWord} (hv : bitAt v 0 = false) (hmay : s.stage = .ready ∨ s.span.en = false) :
    (s.span.state = .member → s.writeSpancfg v = .done { s with span := { s.span.configured v with state := .leaving } }) ∧
    (s.span.state = .leaving ∨ s.span.state = .left → s.writeSpancfg v = .done { s with span := s.span.configured v }) ∧
    (s.span.state = .off ∨ s.span.state = .forming ∨ s.span.state = .refused ∨ s.span.state = .isolated →
      s.writeSpancfg v = .done { s with span := { s.span.configured v with state := .off, reason := 0, known := [] } }) := by
  unfold State.writeSpancfg
  rw [if_neg (by rcases hmay with h | h <;> simp [hv, h])]
  simp only [hv, Bool.false_eq_true, if_false]
  refine ⟨fun h => ?_, fun h => ?_, fun h => ?_⟩
  · simp only [h, Span.configured, hv]
  · rcases h with h | h <;> simp only [h, Span.configured, hv]
  · rcases h with h | h | h | h <;> simp only [h, Span.configured, hv]

/-! #### SP.SPANCTL and SP.WININV -/

theorem State.writeSpanctl_lowers {s : State} {v : DWord} (hin : s.inSpan = true) (hmaster : s.span.master = true)
    (hrelease : bitAt v 0 = false) (hlower : bitAt v 1 = true) (hi : field v 26 24 ≤ 4)
    (hlv : (v.extractLsb' 16 8).toNat < (levelOf s.span.levels (field v 26 24)).toNat) :
    s.writeSpanctl v = if s.span.prep.isSome
      then .done { s with span := { s.span with lowers := s.span.lowers ++ [(field v 26 24, v.extractLsb' 16 8)] } }
      else .done (s.startCommit (setLevel s.span.levels (field v 26 24) (v.extractLsb' 16 8))).drained := by
  have hi' : ¬ 4 < field v 26 24 := by omega
  have hlv' : ¬ (levelOf s.span.levels (field v 26 24)).toNat ≤ (v.extractLsb' 16 8).toNat := by omega
  simp only [State.writeSpanctl, hin, hmaster, hrelease, hlower, decide_eq_false hi', decide_eq_false hlv', Bool.false_and,
    Bool.and_false, Bool.or_false, Bool.true_eq_false, Bool.false_eq_true, or_self, if_false, ge_iff_le, gt_iff_lt]

theorem State.writeSpanctl_releases {s : State} {v : DWord} (hin : s.inSpan = true) (hmaster : s.span.master = true)
    (hrelease : bitAt v 0 = true) (hlower : bitAt v 1 = false) (ho : field v 15 4 ∈ s.span.reserved) :
    s.writeSpanctl v = .done { s with span := { s.span with reserved := s.span.reserved.filter (· != field v 15 4) } } := by
  simp [State.writeSpanctl, hin, hmaster, hrelease, hlower, ho]

/-- What is written to SP.SPANCTL that names no reserved ordinal, or no lower level, is dropped. -/
theorem State.writeSpanctl_drops {s : State} {v : DWord} (hin : s.inSpan = true) (hmaster : s.span.master = true)
    (h : (bitAt v 0 = true ∧ field v 15 4 ∉ s.span.reserved) ∨ (bitAt v 0 = false ∧ bitAt v 1 = true ∧
      (4 < field v 26 24 ∨ (levelOf s.span.levels (field v 26 24)).toNat ≤ (v.extractLsb' 16 8).toNat))) :
    s.writeSpanctl v = .drop 4 s := by
  unfold State.writeSpanctl
  extract_lets o lv i
  rw [if_neg (by simp [hin, hmaster])]
  rcases h with ⟨hrel, ho⟩ | ⟨hrel, hlow, hbad⟩
  · rw [if_pos (by simp [hrel, o, ho])]
  · rw [if_neg (by simp [hrel]), if_pos (by simpa [hlow, i, lv] using hbad)]

theorem addNew_ne_nil {α : Type} [DecidableEq α] (a : α) (l : List α) : addNew a l ≠ [] := by
  intro h
  have hmem : a ∈ addNew a l := mem_addNew.2 (.inl rfl)
  rw [h] at hmem
  cases hmem

theorem State.writeWininv_eq (s : State) (v : DWord) :
    s.writeWininv v = { s with span := { s.span with
      invs := if s.windowOpen then addNew (field v 9 0) s.span.invs else [] } } := by
  have hsome : (addNew (field v 9 0) s.span.invs).isEmpty = false := by
    simpa [List.isEmpty_iff] using addNew_ne_nil (field v 9 0) s.span.invs
  cases hopen : s.windowOpen
  · refine if_neg ?_
    rw [hsome, Bool.false_or]
    exact ne_true_of_eq_false hopen
  · exact if_pos (by simp only [Bool.or_eq_true]; exact Or.inr hopen)

/-! #### Messages of a formation -/

theorem State.receiveAny_carried {s : State} {hdr : MsgHdr} {b : MsgBody} (h : s.carries hdr b.vc = true) (f : State → State) :
    s.receiveAny hdr b f = f (s.tookFlits hdr b) := if_pos h

/-- The modules of an announcement that this module has not heard of. -/
def State.newModules (s : State) (known : List ModInfo) : List ModInfo :=
  known.filter (fun i => i.moduleId != s.sec.ident.moduleId && !(s.span.known.any (fun k => k.moduleId == i.moduleId)))

theorem State.tookFlits_port (s : State) (hdr : MsgHdr) (b : MsgBody) (n : Nat) :
    ((s.tookFlits hdr b).port n).up = (s.port n).up ∧ ((s.tookFlits hdr b).port n).foreign = (s.port n).foreign := by
  unfold State.tookFlits
  by_cases hn : n = hdr.port
  · subst hn
    rw [State.port_updPort_same]
    exact ⟨rfl, rfl⟩
  · rw [State.port_updPort_ne _ hn]
    exact ⟨rfl, rfl⟩

/-- An announcement with news is taken and passed on. -/
theorem exec_announce_news {s : State} {hdr : MsgHdr} {known : List ModInfo} (hc : s.carries hdr 0 = true)
    (hown : (s.port hdr.port).foreign = false) (hst : s.span.state = .forming ∨ s.inSpan = true)
    (hnews : s.newModules known ≠ []) :
    ∃ u, exec (.announce hdr known) s = .next u ∧
      u = { s with span := { s.span with known := s.span.known ++ s.newModules known, lastNews := s.nowN }
                   ports := u.ports, outbox := u.outbox } ∧
      ∀ n, n < 16 → n ≠ hdr.port → (s.port n).up = true → (s.port n).foreign = false →
        ∃ m ∈ u.outbox, m.port = some n ∧ ∃ k, m.body = .announce k := by
  refine ⟨_, congrArg okay ((State.receiveAny_carried hc _).trans ((if_neg ?_).trans (if_neg ?_))), ?_, ?_⟩
  · rw [(s.tookFlits_port hdr _ _).2]
    exact fun h => h.elim (fun h => Bool.false_ne_true (hown.symm.trans h)) (fun h => h hst)
  · exact fun h => hnews (List.isEmpty_iff.1 h)
  · refine (Sends.foldl (fun st n => State.sendPort_sends st n _) _ _).only.trans ?_
    rfl
  · intro n hn hne hup hforeign
    obtain ⟨hup', hforeign'⟩ := s.tookFlits_port hdr (.announce known) n
    obtain ⟨m, hm, hport, t, hbody⟩ := foldl_sendPort_outbox (fun st => .announce (st.span.known ++ [st.myInfo]))
      ((List.range 16).filter (fun n => n != hdr.port && ((s.tookFlits hdr (.announce known)).port n).up &&
        !((s.tookFlits hdr (.announce known)).port n).foreign))
      ({ s.tookFlits hdr (.announce known) with span := { s.span with
          known := s.span.known ++ s.newModules known, lastNews := s.nowN } } : State) n
      (List.mem_filter.2 ⟨List.mem_range.2 hn, by simp [hne, hup', hup, hforeign', hforeign]⟩)
    exact ⟨m, hm, hport, _, hbody⟩

/-- The master of a span that has just formed. -/
theorem State.formSpan_leads (s : State) :
    s.formSpan.span.state = .member ∧ s.formSpan.span.master = true ∧ s.formSpan.span.masterOrd = s.formSpan.span.ord ∧
      s.formSpan.span.epoch = s.span.epoch + 1 := by
  unfold State.formSpan
  extract_lets all ms me s1 _ s2
  have hseat := s2.becomeMaster.publish_seat (entriesOf ms)
  refine ⟨Span.state_of_seat hseat, Span.master_of_seat hseat, ?_, State.publish_epoch rfl _⟩
  exact (Span.masterOrd_of_seat hseat).trans (congrArg Seat.ord hseat).symm

/-- Routes keep every member, under its ordinal. -/
theorem rosterFor_keeps {l : List RosterEntry} {e : RosterEntry} (h : e ∈ l) (root me : Nat) :
    ∃ r ∈ rosterFor l root me, r.ord = e.ord ∧ r.moduleId = e.moduleId := by
  refine ⟨_, List.mem_map_of_mem h, ?_⟩
  split
  · exact ⟨rfl, rfl⟩
  · split <;> exact ⟨rfl, rfl⟩

theorem State.mem_withMember (s : State) (o : Nat) (i : ModInfo) :
    ∃ e ∈ s.withMember o i, e.ord = o ∧ e.moduleId = i.moduleId :=
  ⟨_, List.mem_append_right _ (List.mem_singleton.2 rfl), rfl, rfl⟩

/-- The state of a master that has taken a module under an ordinal. -/
def State.admitted (s : State) (o : Nat) (i : ModInfo) : State :=
  { s with span := { s.span with
    roster := s.withMember o i, reserved := s.span.reserved.filter (· != o), heard := NMap.ins o s.nowN s.span.heard
    memLevels := NMap.ins o i.levels s.span.memLevels } }

theorem State.admitMember_eq {s : State} {port o : Nat} {i : ModInfo} (hnew : ∀ r ∈ s.span.roster, r.moduleId ≠ i.moduleId)
    (hlevels : levelsAtLeast i.levels s.span.levels = true)
    (ho : ordinalFor (s.span.roster.map (·.ord)) s.span.reserved i = some o) :
    s.admitMember port i = (s.admitted o i).publish (s.withMember o i) := by
  unfold State.admitMember
  rw [if_neg (by simpa using hnew), if_neg (by simp [hlevels]), ho]
  rfl

/-- A module admitted has its entry in the roster of the next epoch. -/
theorem State.admitted_publish {s : State} (o : Nat) (i : ModInfo) (hprep : s.span.prep = none) :
    ((s.admitted o i).publish (s.withMember o i)).span.epoch = s.span.epoch + 1 ∧
      ∃ e ∈ ((s.admitted o i).publish (s.withMember o i)).span.roster, e.ord = o ∧ e.moduleId = i.moduleId := by
  refine ⟨State.publish_epoch (s := s.admitted o i) hprep _, ?_⟩
  obtain ⟨e, he, hord, hid⟩ := s.mem_withMember o i
  obtain ⟨e', he', hord', hid'⟩ := rosterFor_keeps he s.span.ord s.span.ord
  have hroster := (s.admitted o i).publish_roster (s.withMember o i)
  exact ⟨e', hroster ▸ he', hord'.trans hord, hid'.trans hid⟩

/-- The place of a module that enters a span. -/
theorem State.enterSpan_enters (s : State) (hdr : MsgHdr) (e : RosterEntry) (members : List RosterEntry) (lv : Levels) :
    let x := (s.enterSpan hdr e members lv).span
    x.state = .member ∧ x.ord = e.ord ∧ x.master = false ∧ x.masterOrd = hdr.src ∧ x.roster = members ∧ x.levels = lv ∧
      x.epoch = hdr.epoch := by
  unfold State.enterSpan
  extract_lets s1 _ s2 x
  obtain ⟨held, far, h⟩ := (s2.toEpoch hdr.epoch).afterEpoch_span
  have hx : x = _ := (State.sendTo_span _ _ _ _ _).trans (h.trans (by rw [State.toEpoch_span]))
  rw [hx]
  exact ⟨rfl, rfl, rfl, rfl, rfl, rfl, rfl⟩

end SpanForms

/-- Settles O52: the registers by what a write does to the span, and each message by what follows it. The port of a refusal
(log 98), a lowering that waits for a commit (log 104), a WININV that waits for every window access (log 117) and KIND 5 (log
118) are the model's choices. -/
theorem spanFormation : Obligations.SpanFormation := by
  unfold Obligations.SpanFormation
  intro s req v hdr info x a cfg
  refine ⟨fun hr => ⟨fun hv => ⟨fun hen hstage => ?early, fun hready hst => ?forms, fun hready hst => ?keeps⟩,
    fun hv hmay => ?clears⟩, fun hr => ?spanctl, fun hr => ?wininv, fun known hc hown hst => exec_announce_news hc hown hst,
    fun hruns hst hdue => ?select, fun hc hin hown => ?joins, fun reason hc hst => ?refused,
    fun members levels e hc hst hown hme => ?roster⟩
  case spanctl =>
    intro o i lv both
    refine ⟨fun hout => ?notMaster, fun hin hmaster => ⟨fun hrel ho => ?badOrd, fun hrel hlow ho => ?releases,
      fun hrel hlow => ⟨fun hbad => ?badLevel, fun hi hlv => ⟨fun hprep => ?lowerWaits, fun hprep hother => ?lowers⟩⟩⟩⟩
    case notMaster =>
      have hdrop : (a 0x50010).writeSpanctl v = .drop 5 (a 0x50010) := by
        obtain ⟨p, hp⟩ := s.cpTake_eq req 0x50010
        simp only [a, hp]
        exact if_pos hout
      exact ⟨congrArg okay (hr.winWrite_drop hdrop), congrArg okay (hr.winWrite_drop hdrop)⟩
    case badOrd =>
      have hdrop : (a 0x50010).writeSpanctl v = .drop 4 (a 0x50010) := by
        obtain ⟨p, hp⟩ := s.cpTake_eq req 0x50010
        simp only [a, hp]
        exact State.writeSpanctl_drops hin hmaster (.inl ⟨hrel, ho⟩)
      exact ⟨congrArg okay (hr.winWrite_drop hdrop), congrArg okay (hr.winWrite_drop hdrop)⟩
    case releases =>
      obtain ⟨p, hp⟩ := s.cpTake_eq req 0x50010
      refine congrArg okay (hr.winWrite_done ?_)
      simp only [a, hp]
      exact State.writeSpanctl_releases hin hmaster hrel hlow ho
    case badLevel =>
      refine congrArg okay (hr.winWrite_drop ?_)
      obtain ⟨p, hp⟩ := s.cpTake_eq req 0x50010
      simp only [a, hp]
      exact State.writeSpanctl_drops hin hmaster (.inr ⟨hrel, hlow, hbad⟩)
    case lowerWaits =>
      obtain ⟨p, hp⟩ := s.cpTake_eq req 0x50010
      refine congrArg okay (hr.winWrite_done ?_)
      simp only [a, hp]
      exact (State.writeSpanctl_lowers (s := { s with pins := p }) hin hmaster hrel hlow hi hlv).trans (if_pos hprep)
    case lowers =>
      obtain ⟨p, hp⟩ := s.cpTake_eq req 0x50010
      have hw := State.writeSpanctl_lowers (s := { s with pins := p }) hin hmaster hrel hlow hi hlv
      obtain ⟨replied, owed, hspan⟩ := State.drained_startCommit_span (s := { s with pins := p }) hmaster hother (setLevel x.levels i lv)
      have hnone : ¬ ({ s with pins := p } : State).span.prep.isSome := by
        show ¬ x.prep.isSome
        simp [hprep]
      refine ⟨_, congrArg okay (hr.winWrite_done (by rw [hp]; exact hw.trans (if_neg hnone))), ?_⟩
      rw [show (({ s with pins := p } : State).startCommit (setLevel s.span.levels (field v 26 24) (v.extractLsb' 16 8))).drained.span
        = _ from hspan]
      exact ⟨rfl, rfl, rfl⟩
  case early =>
    refine congrArg okay (hr.winWrite_drop ?_)
    obtain ⟨p, hp⟩ := s.cpTake_eq req 0x50000
    simp only [a, hp]
    exact State.writeSpancfg_early (fun h => Bool.false_ne_true (hen.symm.trans (h.symm.trans hv))) hstage
  case forms =>
    obtain ⟨p, hp⟩ := s.cpTake_eq req 0x50000
    refine ⟨_, congrArg okay (hr.winWrite_done (by rw [hp]; exact State.writeSpancfg_forms hv hready hst)), ?_⟩
    rw [State.startForming_eq]
    rfl
  case keeps =>
    obtain ⟨p, hp⟩ := s.cpTake_eq req 0x50000
    refine congrArg okay (hr.winWrite_done ?_)
    simp only [a, hp]
    exact State.writeSpancfg_keeps hv hready hst
  case clears =>
    obtain ⟨p, hp⟩ := s.cpTake_eq req 0x50000
    obtain ⟨hmember, hleaving, hoff⟩ := State.writeSpancfg_clears (s := { s with pins := p }) hv hmay
    simp only [a, hp]
    exact ⟨fun h => congrArg okay (hr.winWrite_done (by rw [hp]; exact hmember h)),
      fun h => congrArg okay (hr.winWrite_done (by rw [hp]; exact hleaving h)),
      fun h => congrArg okay (hr.winWrite_done (by rw [hp]; exact hoff h))⟩
  case wininv =>
    obtain ⟨p, hp⟩ := s.cpTake_eq req 0x50030
    have hw := State.writeWininv_eq ({ s with pins := p }) v
    have hopen : ({ s with pins := p } : State).windowOpen = s.windowOpen := rfl
    simp only [a, hp]
    refine ⟨fun h => congrArg okay (hr.winWrite_done ?_), fun h => congrArg okay (hr.winWrite_done ?_)⟩
    · rw [hp, hw, hopen, h]
      rfl
    · rw [hp, hw, hopen, h]
      rfl
  case select =>
    intro chosen
    have hexec : exec .masterSelect s = okay (if chosen = some s.sec.ident.moduleId then s.formSpan else s) :=
      if_neg (by simpa [hruns, show s.span.state = .forming from hst] using hdue)
    exact ⟨fun h => hexec.trans (congrArg okay (if_neg h)),
      fun h => ⟨_, hexec.trans (congrArg okay (if_pos h)), s.formSpan_leads⟩⟩
  case joins =>
    intro t
    have hcount : ¬ (t.inSpan = false ∨ (t.port hdr.port).foreign = true) := by
      rw [(s.tookFlits_port hdr _ _).2, hown, show t.inSpan = true from hin]
      simp
    refine ⟨fun hmaster => ?_, ?_⟩
    · exact congrArg okay ((State.receiveAny_carried hc _).trans ((if_neg hcount).trans
        (if_neg (ne_true_of_eq_false hmaster))))
    · intro hmaster hnew given
      have hexec : exec (.join hdr info) s = .next (t.admitMember hdr.port info) :=
        congrArg okay ((State.receiveAny_carried hc _).trans ((if_neg hcount).trans (if_pos hmaster)))
      have hnone : ¬ t.span.roster.any (fun r => r.moduleId == info.moduleId) = true := by
        have hnew' : ∀ r ∈ t.span.roster, r.moduleId ≠ info.moduleId := hnew
        simpa using hnew'
      refine ⟨fun hlow => ?_, fun hlevels hfull => ?_, fun o hlevels ho hprep => ?_⟩
      · exact hexec.trans (congrArg okay ((if_neg hnone).trans (if_pos hlow)))
      · have hfull' : ordinalFor (t.span.roster.map (·.ord)) t.span.reserved info = none := hfull
        have hlevels' : ¬ levelsAtLeast info.levels t.span.levels = false := by
          rw [show levelsAtLeast info.levels t.span.levels = true from hlevels]
          simp
        rw [hexec, State.admitMember, if_neg hnone, if_neg hlevels', hfull']
      · refine ⟨_, hexec.trans (congrArg okay (State.admitMember_eq (s := t) hnew hlevels ho)), ?_⟩
        exact State.admitted_publish (s := t) o info hprep
  case refused => exact congrArg okay ((State.receiveAny_carried hc _).trans (if_pos hst))
  case roster =>
    have hout : s.inSpan = false := by simp [State.inSpan, show s.span.state = .forming from hst]
    have hexec : exec (.roster hdr members levels) s =
        .next ((s.tookFlits hdr (.roster members levels)).enterSpan hdr e members levels) := by
      have hst' : (s.tookFlits hdr (.roster members levels)).span.state = .forming := hst
      have hme' : members.find? (fun r => r.moduleId == (s.tookFlits hdr (.roster members levels)).sec.ident.moduleId) = some e :=
        hme
      have hown' := (s.tookFlits_port hdr (.roster members levels) hdr.port).2.trans hown
      have hc' : ¬ s.carries hdr (MsgBody.roster members levels).vc = false := by
        rw [show s.carries hdr (MsgBody.roster members levels).vc = true from hc]
        simp
      change execRoster hdr members levels s = _
      rw [execRoster, State.receive, if_neg hc', hout]
      simp only [Bool.false_and, Bool.false_eq_true, if_false, hst', hme', hown', Option.getD_some]
    obtain ⟨hstate, hord, hmaster, hmasterOrd, hroster, hlevels, hepoch⟩ :=
      (s.tookFlits hdr (.roster members levels)).enterSpan_enters hdr e members levels
    exact ⟨_, hexec, hstate, hord, hmaster, hmasterOrd, hroster, hlevels, hepoch⟩

end Sys2Proof.Machine

namespace Sys2Proof.Machine

/-! ### O51: the ports of the fabric -/

section FabricPorts

variable {s : State} {n : Nat}

/-! #### What sending leaves of a port -/

/-- A port but for its sequence numbers, credits and flits: what its cable, its training and its retries say. -/
def Port.link (p : Port) : Port :=
  { seated := p.seated, trained := p.trained, foreign := p.foreign, lanes := p.lanes, failed := p.failed, up := p.up
    partnerSpan := p.partnerSpan, partner := p.partner, level := p.level, latency := p.latency, retryAt := p.retryAt
    retries := p.retries, resend := p.resend }

theorem Port.pumpVc_link (p : Port) (vc : Nat) : (p.pumpVc vc).link = p.link := rfl

theorem Port.pump_link (p : Port) : p.pump.link = p.link :=
  foldl_keeps (fun q : Port => q.link = p.link) Port.pumpVc (fun q vc hq => (q.pumpVc_link vc).trans hq) _ p rfl

theorem Port.pump_retries (p : Port) :
    p.pump.retryAt = p.retryAt ∧ p.pump.retries = p.retries ∧ p.pump.resend = p.resend := by
  have h := p.pump_link
  simp only [Port.link, Port.mk.injEq] at h
  tauto

theorem Port.load_link (p : Port) (b : MsgBody) : (p.load b).link = p.link := by
  rw [Port.load, Port.pump_link]
  rfl

theorem State.send_link (s : State) (m : OutMsg) (k : Nat) : ((s.send m).port k).link = (s.port k).link := by
  rcases State.send_cases s m with h | ⟨p, h⟩
  · rw [h]
    rfl
  · rw [h]
    by_cases hk : k = p
    · subst hk
      rw [State.port_updPort_same, Port.load_link]
      rfl
    · rw [State.port_updPort_ne _ hk]
      rfl

/-- With nothing waiting on a channel, none of it is sent. -/
theorem Port.pumpVc_idle {p : Port} (h : ∀ v, NMap.findD 0 v p.waiting = 0) (vc : Nat) :
    (∀ v, NMap.findD 0 v (p.pumpVc vc).waiting = 0) ∧ (p.pumpVc vc).unacked = p.unacked ∧ (p.pumpVc vc).txSeq = p.txSeq ∧
      ∀ v, NMap.findD 0 v (p.pumpVc vc).credits = NMap.findD 0 v p.credits := by
  have hn : Nat.min (Nat.min (NMap.findD 0 vc p.waiting) (NMap.findD 0 vc p.credits))
      (Nat.min (1024 - p.unacked.length) (64 - p.txFifo.length)) = 0 := by
    rw [h vc]
    simp
  unfold Port.pumpVc
  simp only [hn]
  have hsame : ∀ (m : NMap Nat) v, NMap.findD 0 v (NMap.ins vc (NMap.findD 0 vc m - 0) m) = NMap.findD 0 v m := by
    intro m v
    by_cases hv : v = vc
    · subst hv
      rw [NMap.findD_ins_same, Nat.sub_zero]
    · rw [NMap.findD_ins_ne hv]
  exact ⟨fun v => (hsame _ v).trans (h v), by simp [seqsFrom], by simp, hsame _⟩

theorem Port.pump_idle {p : Port} (h : ∀ v, NMap.findD 0 v p.waiting = 0) :
    p.pump.unacked = p.unacked ∧ p.pump.txSeq = p.txSeq ∧
      ∀ v, NMap.findD 0 v p.pump.credits = NMap.findD 0 v p.credits := by
  have hall : ∀ l : List Nat, (∀ v, NMap.findD 0 v (l.foldl Port.pumpVc p).waiting = 0) ∧
      (l.foldl Port.pumpVc p).unacked = p.unacked ∧ (l.foldl Port.pumpVc p).txSeq = p.txSeq ∧
      ∀ v, NMap.findD 0 v (l.foldl Port.pumpVc p).credits = NMap.findD 0 v p.credits := by
    intro l
    refine foldl_keeps (fun q : Port => (∀ v, NMap.findD 0 v q.waiting = 0) ∧ q.unacked = p.unacked ∧ q.txSeq = p.txSeq ∧
      ∀ v, NMap.findD 0 v q.credits = NMap.findD 0 v p.credits) Port.pumpVc (fun q vc hq => ?_) l p
      ⟨h, rfl, rfl, fun _ => rfl⟩
    obtain ⟨hwait, hunacked, hseq, hcred⟩ := hq
    obtain ⟨hwait', hunacked', hseq', hcred'⟩ := Port.pumpVc_idle hwait vc
    exact ⟨hwait', hunacked'.trans hunacked, hseq'.trans hseq, fun v => (hcred' v).trans (hcred v)⟩
  exact (hall [1, 0, 3, 2, 4, 5]).2

/-! #### Ports that go down (R432, R435, R446) -/

theorem State.port_widthChanged (s : State) (n k : Nat) : (s.widthChanged n).port k = s.port k := by
  rw [State.widthChanged, State.port, State.keeperEvent_ports]
  rfl

/-- What a port's end leaves: the port untrained outside a span, and in one the report of a member's lost link. -/
theorem State.portDown_reports (hup : (s.port n).up = true) :
    (s.inSpan = false → (s.portDown n).port n = { seated := (s.port n).seated, failed := (s.port n).failed } ∧
      ∀ k, k ≠ n → (s.portDown n).port k = s.port k) ∧
    (s.inSpan = true → s.span.master = false → ∀ i e, (s.port n).partner = some i → (s.port n).foreign = false →
      s.span.roster.find? (fun e => e.moduleId == i.moduleId && e.ord != s.span.ord) = some e →
      ∃ m, (s.portDown n).outbox = s.outbox ++ [m] ∧ m.dst = s.span.masterOrd ∧ m.body = .linkdown n e.ord) := by
  unfold State.portDown
  extract_lets p s1
  have hup' : ¬ p.up = false := ne_false_of_eq_true hup
  have hspan : s1.span = s.span := by simp [s1, State.widthChanged, State.countModule]
  have hout : s1.outbox = s.outbox := by simp [s1, State.widthChanged, State.countModule]
  have hin : s1.inSpan = s.inSpan := by rw [State.inSpan, hspan, State.inSpan]
  have hport : s1.port n = { seated := p.seated, failed := p.failed } := by
    rw [State.port_widthChanged, State.port_updPort_same]
    rfl
  have hother : ∀ k, k ≠ n → s1.port k = s.port k := fun k hk => by
    rw [State.port_widthChanged, State.port_updPort_ne _ hk]
  clear_value s1
  rw [if_neg hup']
  refine ⟨fun hno => ?_, fun hyes hmaster i e hi hown he => ?_⟩
  · have hquiet : ∀ id, s1.reportLink n id = s1 := fun id => if_pos (hin.trans hno)
    split
    · rw [hquiet]
      exact ⟨hport, hother⟩
    · exact ⟨hport, hother⟩
  · have hi' : p.partner = some i := hi
    have hown' : p.foreign = false := hown
    rw [hi', hown']
    dsimp only
    rw [State.reportLink, if_neg (by rw [hin, hyes]; simp), hspan, he]
    dsimp only
    rw [if_neg (by simp [hmaster])]
    exact ⟨_, (State.send_outbox _ _).trans (by rw [hout]), rfl, rfl⟩

/-! #### Training (R431, R461) -/

theorem State.sendPort_link (s : State) (n k : Nat) (b : MsgBody) : ((s.sendPort n b).port k).link = (s.port k).link :=
  s.send_link _ k

/-- HELLO at a seated port. -/
theorem exec_hello_seated {spanId : BitVec 32} {info : ModInfo} (hrun : s.portsRun = true) (hseat : (s.port n).seated = true) :
    exec (.hello n spanId info) s = okay (if (s.port n).trained
      then s.updPort n (fun p => { p with partnerSpan := spanId, partner := some info
                                          level := lowerLevel 0x10 info.levels.amixis, foreign := spanId != s.mySpanId })
      else (s.updPort n (fun p => { p with partnerSpan := spanId, partner := some info
                                           level := lowerLevel 0x10 info.levels.amixis, foreign := spanId != s.mySpanId })).sendHello n) := by
  have hexec : exec (.hello n spanId info) s = execHello n spanId info s := rfl
  rw [hexec, execHello, if_neg (by simp [hrun, hseat])]
  by_cases htrained : (s.port n).trained = true
  · rw [if_pos htrained]
    exact congrArg okay (if_pos htrained)
  · rw [if_neg htrained]
    exact congrArg okay (if_neg htrained)

/-- A port that training puts in service. -/
theorem exec_portTrained_up {lanes latency : Nat} (hrun : s.portsRun = true) (hseat : (s.port n).seated = true)
    (htrained : (s.port n).trained = false) (hpartner : (s.port n).partner.isSome = true)
    (hgood : 2 ≤ ((s.port n).goodLanes lanes).length) :
    exec (.portTrained n { lanes := lanes, latency := latency }) s = if s.span.state = .forming ∧ (s.port n).foreign = false
      then okay ((s.updPort n (fun p => p.train ((s.port n).goodLanes lanes) p.foreign latency)).sendPort n (.announce (s.span.known ++
        [(s.updPort n (fun p => p.train ((s.port n).goodLanes lanes) p.foreign latency)).myInfo])))
      else okay (s.updPort n (fun p => p.train ((s.port n).goodLanes lanes) p.foreign latency)) := by
  refine if_neg ?_
  have hsome : (s.port n).partner.isNone = false := Option.isNone_eq_false_iff.2 hpartner
  simp only [hrun, hseat, htrained, hsome, Bool.true_eq_false, Bool.false_eq_true, false_or]
  exact Nat.not_lt.2 hgood

end FabricPorts

/-- Settles O51: each event by what it leaves of its port. When the HELLO goes out (log 92), the lane mask and the first width
that is not counted (log 93) and the dropping until a message command (log 94) are the model's choices. -/
theorem ports : Obligations.Ports := by
  unfold Obligations.Ports
  intro s n p link down
  refine ⟨fun seated hseat => if_pos hseat, fun hseat => ?seats, fun hseat => ?unseats, fun hrun => ⟨fun hseat spanId info => ?hello,
    fun lanes latency hseat htrained hpartner hgood => ?trained, fun hseat hpartner hgood => ?timeout,
    fun hup lane hlane => ⟨fun hthree => ?laneLost, fun htwo => ?lastLanes⟩,
    fun hup hdrop ack cvc ccnt => ⟨fun hack hwait => ?idle, fun q rest hq => ?retry⟩,
    fun hup hdrop ack cvc ccnt => ?dropping, fun hup => ?uncorrectable, fun hup => ?down, fun hup => ?wasDown,
    fun hdr op hport hup => ?reserved⟩⟩
  case seats =>
    have hseat' : (s.port n).seated = false := hseat
    exact (if_neg (by simp [hseat'])).trans (if_pos rfl)
  case unseats =>
    have hseat' : (s.port n).seated = true := hseat
    exact ⟨_, (if_neg (by simp [hseat'])).trans (if_neg (by decide)), State.port_updPort_same _ _ _⟩
  case hello =>
    rw [exec_hello_seated hrun hseat]
    set t := s.updPort n (fun p => { p with partnerSpan := spanId, partner := some info
                                            level := lowerLevel 0x10 info.levels.amixis, foreign := spanId != s.mySpanId }) with ht
    have hport : t.port n = { p with partnerSpan := spanId, partner := some info
                                     level := lowerLevel 0x10 info.levels.amixis, foreign := spanId != s.mySpanId } :=
      State.port_updPort_same _ _ _
    by_cases htr : (s.port n).trained = true
    · rw [if_pos htr]
      refine ⟨_, rfl, rfl, ?_⟩
      rw [hport]
      exact ⟨rfl, rfl, rfl, rfl, fun _ => rfl, fun h => absurd htr (ne_true_of_eq_false h)⟩
    · rw [if_neg htr]
      have hlink := (t.sendPort_link n n (.hello t.mySpanId t.myInfo)).trans (congrArg Port.link hport)
      obtain ⟨m, hout, hmport, hbody⟩ := t.sendPort_outbox n (.hello t.mySpanId t.myInfo)
      refine ⟨_, rfl, (t.sendPort_sends n _).only.trans rfl, congrArg Port.partner hlink, congrArg Port.partnerSpan hlink,
        congrArg Port.foreign hlink, congrArg Port.level hlink, fun h => absurd h htr, fun _ => ⟨m, _, hout, hmport, hbody⟩⟩
  case trained =>
    rw [exec_portTrained_up hrun hseat htrained hpartner hgood]
    set t := s.updPort n (fun p => p.train ((s.port n).goodLanes lanes) p.foreign latency) with ht
    have hport : t.port n = p.train (p.goodLanes lanes) p.foreign latency := State.port_updPort_same _ _ _
    by_cases hf : s.span.state = .forming ∧ (s.port n).foreign = false
    · rw [if_pos hf]
      have hlink : ((t.sendPort n (.announce (s.span.known ++ [t.myInfo]))).port n).link =
        (p.train (p.goodLanes lanes) p.foreign latency).link := (t.sendPort_link n n _).trans (congrArg Port.link hport)
      have hforeign := congrArg Port.foreign hlink
      exact ⟨_, rfl, (t.sendPort_sends n _).only.trans rfl, congrArg Port.trained hlink, congrArg Port.up hlink,
        congrArg Port.lanes hlink, hforeign, congrArg Port.latency hlink, fun h => absurd hf.1 h⟩
    · rw [if_neg hf]
      refine ⟨_, rfl, rfl, ?_⟩
      rw [hport]
      exact ⟨rfl, rfl, rfl, rfl, rfl, fun _ => rfl⟩
  case timeout =>
    set t := s.updPort n (fun p => p.train (p.goodLanes 15) true 0) with ht
    have hport : t.port n = p.train (p.goodLanes 15) true 0 := State.port_updPort_same _ _ _
    have hlink := (t.sendPort_link n n (.hello t.mySpanId t.myInfo)).trans (congrArg Port.link hport)
    have hseat' : (s.port n).seated = true := hseat
    have hpartner' : (s.port n).partner = none := hpartner
    have hgood' : 2 ≤ ((s.port n).goodLanes 15).length := hgood
    exact ⟨t.sendHello n, if_neg (by simpa [hrun, hseat', hpartner'] using Nat.lt_of_succ_le hgood'), (t.sendPort_sends n _).only.trans rfl,
      congrArg Port.up hlink, congrArg Port.foreign hlink, congrArg Port.lanes hlink⟩
  case laneLost =>
    have hup' : (s.port n).up = true := hup
    have hlane' : lane ∈ (s.port n).lanes := hlane
    have hthree' : ¬ (s.port n).lanes.length ≤ 2 := Nat.not_le.2 hthree
    refine ⟨_, (if_neg (by simp [hrun, hup', hlane'])).trans (congrArg okay (if_neg hthree')), ?_, ?_, ?_⟩
    · rw [State.port_widthChanged, State.port_updPort_same]
    · rw [State.widthChanged, (State.keeperEvent_memWritten _ _ _).count 11 (by decide)]
      exact NMap.findD_ins_same _ _ _ _
    · rw [State.widthChanged, State.keeperEvent_elcount]
      rfl
  case lastLanes =>
    have hup' : (s.port n).up = true := hup
    have hlane' : lane ∈ (s.port n).lanes := hlane
    set t := s.updPort n (fun p => { p with lanes := p.lanes.filter (· != lane), failed := addNew lane p.failed }) with ht
    have hport : t.port n = { p with lanes := p.lanes.filter (· != lane), failed := addNew lane p.failed } :=
      State.port_updPort_same _ _ _
    obtain ⟨hout, hin⟩ := State.portDown_reports (s := t) (n := n) (by rw [hport]; exact hup)
    rw [hport] at hout hin
    refine ⟨_, (if_neg (by simp [hrun, hup', hlane'])).trans (congrArg okay (if_pos htwo)), fun h => ?_, hin⟩
    obtain ⟨hsame, hother⟩ := hout h
    exact ⟨hsame, fun k hk => (hother k hk).trans (State.port_updPort_ne _ hk _)⟩
  case idle =>
    have hup' : (s.port n).up = true := hup
    have hdrop' : (s.port n).dropping = false := hdrop
    have hacked : p.acked ack = { p with
        unacked := (p.unacked.dropWhile (· != ack)).drop 1
        resend := p.resend - (p.unacked.takeWhile (· != ack)).length - 1 } := if_pos (by simpa using hack)
    have hpump := Port.pump_idle (p := { p.acked ack with
      credits := NMap.ins cvc (Nat.min (vcBuffer cvc) (NMap.findD 0 cvc (p.acked ack).credits + ccnt)) (p.acked ack).credits })
      (by rw [hacked]; exact hwait)
    obtain ⟨hunacked, hseq, hcred⟩ := hpump
    refine ⟨_, if_neg (by simp [hrun, hup', hdrop']), ?_⟩
    rw [State.port_updPort_same]
    refine ⟨hunacked.trans (by rw [hacked]), hseq.trans (by rw [hacked]), (hcred cvc).trans ?_⟩
    rw [NMap.findD_ins_same, hacked]
  case retry =>
    have hup' : ((s.port n).acked ack).up = true := by
      unfold Port.acked
      split <;> exact hup
    have hdrop' : ((s.port n).acked ack).dropping = false := by
      unfold Port.acked
      split <;> exact hdrop
    have hq' : ((s.port n).acked ack).unacked = q :: rest := hq
    have hexec : exec (.retryRequest n ack) s = execRetryRequest n ack s := rfl
    intro tried
    have hretry : exec (.retryRequest n ack) s = (if 8 ≤ tried then okay (s.portDown n) else okay (s.updPort n (fun _ =>
        ({ (s.port n).acked ack with retryAt := some q, retries := tried + 1, resend := ((s.port n).acked ack).unacked.length } :
          Port).pump))) := by
      rw [hexec, execRetryRequest]
      extract_lets p'
      rw [if_neg (by simp [hrun, hup', hdrop']), hq']
    refine ⟨fun hfew => ?_, fun hmany => ⟨_, hretry.trans (if_pos hmany), State.portDown_reports hup⟩⟩
    refine ⟨_, hretry.trans (if_neg (Nat.not_le.2 hfew)), rfl, ?_⟩
    rw [State.port_updPort_same]
    obtain ⟨hat, hretries, hresend⟩ := Port.pump_retries ({ (s.port n).acked ack with
      retryAt := some q, retries := tried + 1, resend := ((s.port n).acked ack).unacked.length } : Port)
    exact ⟨hat, hretries, hresend.trans (congrArg List.length hq)⟩
  case dropping =>
    have hdrop' : (s.port n).dropping = true := hdrop
    have hdropAcked : ((s.port n).acked ack).dropping = true := by
      unfold Port.acked
      split <;> exact hdrop
    exact ⟨if_pos (.inr (.inr hdrop')), if_pos (.inr (.inr hdropAcked))⟩
  case uncorrectable =>
    have hup' : (s.port n).up = true := hup
    exact ⟨{ dst := 0, port := some n, body := .retryRequest p.rxSeq }, rfl, rfl, if_neg (by simp [hrun, hup'])⟩
  case down => exact ⟨_, if_neg (by simp [hrun]), State.portDown_reports hup⟩
  case wasDown => exact (if_neg (by simp [hrun])).trans (congrArg okay (if_pos hup))
  case reserved =>
    subst hport
    have hup' : (s.port hdr.port).up = true := hup
    exact if_pos (by simp [hrun, hup'])

end Sys2Proof.Machine
